-- ==== Sys2Proof/Word.lean ====
section
/-! DEFINITION. The word types of the Opepra and the plain data that instructions and events carry (R3, R75, R72, R195). -/

namespace Sys2Proof

/-- A byte of memory (R3). -/
abbrev Byte := BitVec 8
/-- A 64-bit register or address value (R126). -/
abbrev Word := BitVec 64
/-- The value of a vector register (R126). -/
abbrev Vec := BitVec 256
/-- A general or vector register number (R111). -/
abbrev Reg := BitVec 5

/-- A command message of a host: the header of R75 and its payload. -/
structure HostCmd where
  session : BitVec 32
  seqNo   : BitVec 32
  arg1    : Word
  arg0    : Word
  queue   : BitVec 8
  op      : BitVec 8
  ver     : BitVec 8
  payload : List Byte
  deriving DecidableEq, Repr, Inhabited

/-- The packets of UEC kinds that the device does not support (R72). -/
inductive PacketKind where
  /-- RUD for idempotent operations or unreliable delivery: dropped and counted. -/
  | unreliable
  /-- RMA atomics, deferrable send or rendezvous: refused with a UEC error completion. -/
  | atomicOrDeferred
  /-- Receiver credit congestion control: not supported. -/
  | receiverCredit
  /-- Transport security sublayer: not supported. -/
  | transportSecurity
  deriving DecidableEq, Repr, Inhabited

end Sys2Proof
end

