-- ==== Sys2Proof/Config.lean ====
section
/-! DEFINITION. What the spec leaves to an implementation or to chance, as constants without a body: free values.
Nothing can be proved of a value here, so a statement that mentions one holds whatever it is. Each is named in the assumption log. -/

namespace Sys2Proof.Config

/-- By how many cycles a core's copy of the GTC leads the model's GTC, taken modulo 3, for a unit at a GTC value (R21: at most 2 cycles apart, not fixed). (Log 5: DESIGN CHOICE, 6: DESIGN CHOICE) -/
opaque gtcSkew : Nat → Nat → Nat → BitVec 2
/-- Whether the device raises a race that the detector may report, for the n-th such conflict (R318, R321). (Log 5: DESIGN CHOICE) -/
opaque raceRaised : Nat → Bool
/-- Byte i of the PUF window's contents at the n-th power-up (R429). (Log 5: DESIGN CHOICE) -/
opaque pufByte : Nat → Nat → Byte
/-- The boot entropy BOOTN of the n-th power-up (R440). (Log 5: DESIGN CHOICE) -/
opaque bootEntropy : Nat → BitVec 256
/-- Which of the 16 entries of a 64 KiB page an access uses, by virtual page number (R49: any one of them). (Log 5: DESIGN CHOICE) -/
opaque c64Entry : Nat → BitVec 4
/-- SHAKE256 of the bytes, as many output bytes as asked (named by R429 and used throughout 26; the function itself is outside the spec). (Log 5: DESIGN CHOICE) -/
opaque shake256 : List Byte → Nat → List Byte
/-- The fuzzy extractor's DECODE (R429) of bytes that are no code word. (Log 5: DESIGN CHOICE) -/
opaque fuzzyCorrect : List Byte → List Byte
/-- The fuzzy extractor's code (R429, R430): the code word of a message, both as 8,192 bytes, one word for each message. (Log 5: DESIGN CHOICE) -/
opaque fuzzyCode : BitVec 65536 ≃ BitVec 65536
/-- The code's message length in bytes, which R429 and R430 do not state. (Log 5: DESIGN CHOICE) -/
opaque messageLen : BitVec 13
/-- Falcon-1024 public key of a seed (R431). -/
opaque falconPublic : List Byte → List Byte
/-- Falcon-1024 signature by the private key of a seed over a message (R431). (Log 5: DESIGN CHOICE) -/
opaque falconSign : List Byte → List Byte → List Byte
/-- Falcon-1024 verification: public key, message, signature (R435). -/
opaque falconVerify : List Byte → List Byte → List Byte → Bool
/-- Whether a Falcon-1024 public key is well formed (R91). -/
opaque falconKeyOk : List Byte → Bool
/-- ML-KEM-1024 encapsulation with the n-th randomness: ciphertext and shared secret (R435). -/
opaque mlkemEncaps : List Byte → Nat → List Byte × List Byte
/-- AES key unwrap of a wrapped key under a session key (R436); none where it does not unwrap. -/
opaque aesUnwrap : List Byte → List Byte → Option (BitVec 256)
/-- The n-th session id that H2 proposes (R74: only nonzero and not held by another open session). (Log 5: DESIGN CHOICE) -/
opaque sessionId : Nat → BitVec 32
/-- Physical address bits [49:14] of the queue table that H2 allocates for virtual device v (R79: the firmware's choice). (Log 5: DESIGN CHOICE, 11: DESIGN CHOICE) -/
opaque queueTable : Nat → BitVec 36
/-- Heap address of the certificate bundle (R434, R437). (Log 5: DESIGN CHOICE) -/
opaque certBundle : BitVec 56
/-- BASE and LEN of region 0, and the storage and capacity of owner 0's range table, as firmware lays them out (R57, R70). (Log 5: DESIGN CHOICE, 63: DESIGN CHOICE) -/
opaque stewardBase : BitVec 44
opaque stewardLen : BitVec 40
opaque stewardTable : BitVec 46
opaque stewardCap : BitVec 20
/-- Flash offset, in 4 KiB units, at which the n-th power-up's enrolment places the helper data (R430, R432). (Log 5: DESIGN CHOICE) -/
opaque enrolOffset : Nat → BitVec 20
/-- Address of the n-th dirty-page report that H0 allocates; 0 means none (R324, R325). (Log 5: DESIGN CHOICE) -/
opaque dirtyReport : Nat → BitVec 56
/-- AES-256 of a block under a key (R439). (Log 5: DESIGN CHOICE) -/
opaque aes256 : List Byte → BitVec 128 → BitVec 128
/-- AES-GCM's 128-bit tag of a ciphertext under a key with a first counter block (R439, NIST SP 800-38D). (Log 5: DESIGN CHOICE) -/
opaque gcmTag : List Byte → BitVec 128 → List Byte → BitVec 128
/-- Lanes of a UCIe link at full width (R445, which gives no number). (Log 5: DESIGN CHOICE) -/
opaque fullWidth : BitVec 8
/-- Whether a flit arrives in a cycle on a direction of a sealed link, numbered twice the link's id plus the direction (R442). (Log 5: DESIGN CHOICE) -/
opaque flitArrives : Nat → Nat → Bool
/-- What the compositor decides after the n-th power-up: the GTC from which it is due, the virtual device, and 1 to stop it for good, 2 or 3 to power its quads down or up
(R85, R325, R437: firmware's policy). (Log 5: DESIGN CHOICE, 62: DESIGN CHOICE) -/
opaque compositorPlan : Nat → List (Nat × BitVec 6 × BitVec 2)
/-- Physical address bits [49:12] of the memory to which H0 writes the queue state of virtual device v at a switch (R83: the firmware's choice). (Log 5: DESIGN CHOICE, 45: DESIGN CHOICE) -/
opaque queueSave : Nat → BitVec 38
/-- A pair key agreed with a peer device at the n-th exchange (R441). (Log 5: DESIGN CHOICE) -/
opaque pairKey : Nat → BitVec 256
/-- The n-th read of VTIME on a core that lies in no partition, whose registers R382 does not name. (Log 5: DESIGN CHOICE) -/
opaque vtimeOutside : Nat → BitVec 64

/-- Physical address bits [49:12] of the steward buffer into which stage 1 copies the segment 15 image at the n-th power-up (R434: the firmware's choice). (Log 5: DESIGN CHOICE) -/
opaque seg15Buffer : Nat → BitVec 38
/-- Whether IDLE ends in a cycle without a visible cause, by a running number (R192). (Log 5: DESIGN CHOICE, 53: DESIGN CHOICE) -/
opaque idleEnds : Nat → Bool
/-- What a byte of an erased flash sector reads as (R430 states no value). (Log 5: DESIGN CHOICE) -/
opaque erasedByte : Byte
/-- Uncorrectable codewords of a port between two reads of PT_FEC, by a running number (R447). (Log 5: DESIGN CHOICE) -/
opaque fecCount : Nat → BitVec 32
/-- What an A96 word with E = 0 and M[79] = 1 reads as, a form that R210 does not list. (Log 5: DESIGN CHOICE, 22: DESIGN CHOICE) -/
opaque a96Unlisted : BitVec 96 → BitVec 96

/-- Whether the host refuses an access made at a cycle to a physical address of its window (R273). (Log 67: DESIGN CHOICE) -/
opaque hostRefuses : Nat → Nat → Bool

end Sys2Proof.Config
end

