-- ==== Sys2Proof/Machine/Types.lean ====
section
/-! DEFINITION. Element types of R195: widths, lanes and kinds of the codes of the field T, and which types each vector major accepts (R118, R216). -/

namespace Sys2Proof.Machine

/-- Width in bits of element type code `t` (R195); 0 for the illegal codes 13 to 15. -/
def elemWidth (t : BitVec 4) : Nat :=
  match t.toNat with
  | 0 => 8 | 1 => 16 | 2 => 32 | 3 => 64
  | 4 => 8 | 5 => 16 | 6 => 32 | 7 => 64
  | 8 => 16 | 9 => 32 | 10 => 8 | 11 => 6 | 12 => 4
  | _ => 0

/-- LANES(t) of R119: lanes in 256 bits. -/
def elemLanes (t : BitVec 4) : Nat :=
  match t.toNat with
  | 0 => 32 | 1 => 16 | 2 => 8 | 3 => 4
  | 4 => 32 | 5 => 16 | 6 => 8 | 7 => 4
  | 8 => 16 | 9 => 8 | 10 => 32 | 11 => 40 | 12 => 64
  | _ => 0

/-- An integer type, .iN or .nN. -/
def elemIsInt (t : BitVec 4) : Bool := decide (t.toNat < 8)
/-- A signed integer type, .iN. -/
def elemIsSigned (t : BitVec 4) : Bool := decide (t.toNat < 4)
/-- .bf16 or .f32. -/
def elemIsFloat (t : BitVec 4) : Bool := t.toNat == 8 || t.toNat == 9
/-- .t8, .t6 or .t4. -/
def elemIsTapered (t : BitVec 4) : Bool := decide (10 ≤ t.toNat ∧ t.toNat ≤ 12)
/-- A code that R195 assigns. -/
def elemIsAssigned (t : BitVec 4) : Bool := decide (t.toNat ≤ 12)

/-- Types that VAR, VFM, VRD and VMS other than VCVT accept (R118): integers and floats. -/
def elemArith (t : BitVec 4) : Bool := decide (t.toNat ≤ 9)
/-- Types that the bitwise, shift and saturating instructions of VAR accept (R118). -/
def elemBitwise (t : BitVec 4) : Bool := elemIsInt t
/-- Types that VDOT2 accepts (R216). -/
def elemDot (t : BitVec 4) : Bool := elemArith t && elemWidth t != 64
/-- Types that VMULW accepts (R216). -/
def elemMulw (t : BitVec 4) : Bool := elemDot t && t.toNat != 9

/-- The type code of twice the width and the same signedness, and .f32 for the floats (R224). -/
def elemWide (t : BitVec 4) : BitVec 4 :=
  match t.toNat with
  | 0 => 1#4 | 1 => 2#4 | 2 => 3#4
  | 4 => 5#4 | 5 => 6#4 | 6 => 7#4
  | _ => 9#4

end Sys2Proof.Machine
end

