-- ==== Sys2Proof/Syntax.lean ====
section
/-! DEFINITION. The instructions, operations and events of the Opepra: one constructor for each row of spec/opcode_table.json.
An encoded instruction carries its operand fields as bits, highest bit first, without reserved fields (R111 to R117, R114).
An event that no core encodes carries the names of the unit and entry it acts on. -/

namespace Sys2Proof

/-- A write of a register that one hart alone may write: the hart that makes it, and the value (R446). -/
structure HartWrite (n : Nat) where
  hart : Nat
  x    : BitVec n
  deriving DecidableEq, Repr

/-- A port and the device at its other end, numbered as the port's peers are (R441). -/
structure PortPeer where
  port : Nat
  peer : Nat
  deriving DecidableEq, Repr

/-- One step of the part: an instruction that a core issues, or an operation or event of another agent. -/
inductive Instr where
  /-- LDB (R161). Loads a sign-extended byte into a general register; the load is a token operation. -/
  | ldb (sc : BitVec 2) (k : BitVec 4) (imm : BitVec 6) (a : BitVec 5) (d : BitVec 5)
  /-- LDBZ (R161). Loads a zero-extended byte into a general register. -/
  | ldbz (sc : BitVec 2) (k : BitVec 4) (imm : BitVec 6) (a : BitVec 5) (d : BitVec 5)
  /-- LDH (R161). Loads a sign-extended halfword into a general register. -/
  | ldh (sc : BitVec 2) (k : BitVec 4) (imm : BitVec 6) (a : BitVec 5) (d : BitVec 5)
  /-- LDHZ (R161). Loads a zero-extended halfword into a general register. -/
  | ldhz (sc : BitVec 2) (k : BitVec 4) (imm : BitVec 6) (a : BitVec 5) (d : BitVec 5)
  /-- LDW (R161). Loads a sign-extended word into a general register. -/
  | ldw (sc : BitVec 2) (k : BitVec 4) (imm : BitVec 6) (a : BitVec 5) (d : BitVec 5)
  /-- LDWZ (R161). Loads a zero-extended word into a general register. -/
  | ldwz (sc : BitVec 2) (k : BitVec 4) (imm : BitVec 6) (a : BitVec 5) (d : BitVec 5)
  /-- LDD (R161). Loads a doubleword into a general register. -/
  | ldd (sc : BitVec 2) (k : BitVec 4) (imm : BitVec 6) (a : BitVec 5) (d : BitVec 5)
  /-- STB (R163). Stores the low byte of a general register, at once through the private alias or posted otherwise. -/
  | stb (sc : BitVec 2) (imm : BitVec 10) (b : BitVec 5) (a : BitVec 5)
  /-- STH (R163). Stores the low halfword of a general register. -/
  | sth (sc : BitVec 2) (imm : BitVec 10) (b : BitVec 5) (a : BitVec 5)
  /-- STW (R163). Stores the low word of a general register. -/
  | stw (sc : BitVec 2) (imm : BitVec 10) (b : BitVec 5) (a : BitVec 5)
  /-- STD (R163). Stores a whole general register. -/
  | std (sc : BitVec 2) (imm : BitVec 10) (b : BitVec 5) (a : BitVec 5)
  /-- LDV (R218). Loads 32 bytes into a vector register. -/
  | ldv (sc : BitVec 2) (k : BitVec 4) (imm : BitVec 6) (a : BitVec 5) (d : BitVec 5)
  /-- STV (R219). Stores all 32 bytes of a vector register. -/
  | stv (sc : BitVec 2) (imm : BitVec 10) (b : BitVec 5) (a : BitVec 5)
  /-- STVM (R219). Stores the mask-enabled lanes of a vector register. -/
  | stvm (sc : BitVec 2) (imm : BitVec 7) (m : BitVec 3) (b : BitVec 5) (a : BitVec 5)
  /-- LDVE_8 (R218). Loads one byte and broadcasts it to every 8-bit lane. -/
  | ldve8 (sc : BitVec 2) (k : BitVec 4) (imm : BitVec 6) (a : BitVec 5) (d : BitVec 5)
  /-- LDVE_16 (R218). Loads one halfword and broadcasts it to every 16-bit lane. -/
  | ldve16 (sc : BitVec 2) (k : BitVec 4) (imm : BitVec 6) (a : BitVec 5) (d : BitVec 5)
  /-- LDVE_32 (R218). Loads one word and broadcasts it to every 32-bit lane. -/
  | ldve32 (sc : BitVec 2) (k : BitVec 4) (imm : BitVec 6) (a : BitVec 5) (d : BitVec 5)
  /-- LDVE_64 (R218). Loads one doubleword and broadcasts it to every 64-bit lane. -/
  | ldve64 (sc : BitVec 2) (k : BitVec 4) (imm : BitVec 6) (a : BitVec 5) (d : BitVec 5)
  /-- ADDI (R165). Adds a sign-extended immediate to a register. -/
  | addi (sc : BitVec 2) (imm : BitVec 10) (a : BitVec 5) (d : BitVec 5)
  /-- ANDI (R165). ANDs a register with a sign-extended immediate. -/
  | andi (sc : BitVec 2) (imm : BitVec 10) (a : BitVec 5) (d : BitVec 5)
  /-- ORI (R165). ORs a register with a sign-extended immediate. -/
  | ori (sc : BitVec 2) (imm : BitVec 10) (a : BitVec 5) (d : BitVec 5)
  /-- XORI (R165). XORs a register with a sign-extended immediate. -/
  | xori (sc : BitVec 2) (imm : BitVec 10) (a : BitVec 5) (d : BitVec 5)
  /-- SLTI (R165). Sets 1 if the register is less than the immediate, compared as signed values. -/
  | slti (sc : BitVec 2) (imm : BitVec 10) (a : BitVec 5) (d : BitVec 5)
  /-- SLTNI (R165). Sets 1 if the register is less than the immediate, compared as unsigned values. -/
  | sltni (sc : BitVec 2) (imm : BitVec 10) (a : BitVec 5) (d : BitVec 5)
  /-- SLLI (R165). Shifts a register left by an immediate amount. -/
  | slli (sc : BitVec 2) (sh : BitVec 6) (a : BitVec 5) (d : BitVec 5)
  /-- SRLI (R165). Shifts a register right logically by an immediate amount. -/
  | srli (sc : BitVec 2) (sh : BitVec 6) (a : BitVec 5) (d : BitVec 5)
  /-- SRAI (R165). Shifts a register right arithmetically by an immediate amount. -/
  | srai (sc : BitVec 2) (sh : BitVec 6) (a : BitVec 5) (d : BitVec 5)
  /-- ADD (R166). Adds two registers modulo 2^64. -/
  | add (sc : BitVec 2) (b : BitVec 5) (a : BitVec 5) (d : BitVec 5)
  /-- SUB (R166). Subtracts two registers modulo 2^64. -/
  | sub (sc : BitVec 2) (b : BitVec 5) (a : BitVec 5) (d : BitVec 5)
  /-- AND (R166). Bitwise AND of two registers. -/
  | andR (sc : BitVec 2) (b : BitVec 5) (a : BitVec 5) (d : BitVec 5)
  /-- OR (R166). Bitwise OR of two registers. -/
  | orR (sc : BitVec 2) (b : BitVec 5) (a : BitVec 5) (d : BitVec 5)
  /-- XOR (R166). Bitwise XOR of two registers. -/
  | xorR (sc : BitVec 2) (b : BitVec 5) (a : BitVec 5) (d : BitVec 5)
  /-- ANDN (R166). ANDs a register with the complement of another. -/
  | andn (sc : BitVec 2) (b : BitVec 5) (a : BitVec 5) (d : BitVec 5)
  /-- SLL (R166). Shifts a register left by a register amount. -/
  | sll (sc : BitVec 2) (b : BitVec 5) (a : BitVec 5) (d : BitVec 5)
  /-- SRL (R166). Shifts a register right logically by a register amount. -/
  | srl (sc : BitVec 2) (b : BitVec 5) (a : BitVec 5) (d : BitVec 5)
  /-- SRA (R166). Shifts a register right arithmetically by a register amount. -/
  | sra (sc : BitVec 2) (b : BitVec 5) (a : BitVec 5) (d : BitVec 5)
  /-- SLT (R166). Sets 1 on a signed less-than comparison of two registers. -/
  | slt (sc : BitVec 2) (b : BitVec 5) (a : BitVec 5) (d : BitVec 5)
  /-- SLTN (R166). Sets 1 on an unsigned less-than comparison of two registers. -/
  | sltn (sc : BitVec 2) (b : BitVec 5) (a : BitVec 5) (d : BitVec 5)
  /-- MIN (R166). Gives the signed minimum of two registers. -/
  | minS (sc : BitVec 2) (b : BitVec 5) (a : BitVec 5) (d : BitVec 5)
  /-- MAX (R166). Gives the signed maximum of two registers. -/
  | maxS (sc : BitVec 2) (b : BitVec 5) (a : BitVec 5) (d : BitVec 5)
  /-- MINN (R166). Gives the unsigned minimum of two registers. -/
  | minn (sc : BitVec 2) (b : BitVec 5) (a : BitVec 5) (d : BitVec 5)
  /-- MAXN (R166). Gives the unsigned maximum of two registers. -/
  | maxn (sc : BitVec 2) (b : BitVec 5) (a : BitVec 5) (d : BitVec 5)
  /-- MUL (R167). Multiplies two registers modulo 2^64, with latency 3. -/
  | mul (sc : BitVec 2) (b : BitVec 5) (a : BitVec 5) (d : BitVec 5)
  /-- MULH (R167). Gives the high half of the signed 128-bit product. -/
  | mulh (sc : BitVec 2) (b : BitVec 5) (a : BitVec 5) (d : BitVec 5)
  /-- MULHN (R167). Gives the high half of the unsigned 128-bit product. -/
  | mulhn (sc : BitVec 2) (b : BitVec 5) (a : BitVec 5) (d : BitVec 5)
  /-- DIV (R168). Signed divide as a token operation; traps on a zero divisor. -/
  | divS (sc : BitVec 2) (k : BitVec 4) (b : BitVec 5) (a : BitVec 5) (d : BitVec 5)
  /-- DIVN (R168). Unsigned divide as a token operation. -/
  | divn (sc : BitVec 2) (k : BitVec 4) (b : BitVec 5) (a : BitVec 5) (d : BitVec 5)
  /-- MOD (R168). Signed remainder as a token operation. -/
  | modS (sc : BitVec 2) (k : BitVec 4) (b : BitVec 5) (a : BitVec 5) (d : BitVec 5)
  /-- MODN (R168). Unsigned remainder as a token operation. -/
  | modn (sc : BitVec 2) (k : BitVec 4) (b : BitVec 5) (a : BitVec 5) (d : BitVec 5)
  /-- CLZ (R169). Counts leading zero bits. -/
  | clz (sc : BitVec 2) (a : BitVec 5) (d : BitVec 5)
  /-- CTZ (R169). Counts trailing zero bits. -/
  | ctz (sc : BitVec 2) (a : BitVec 5) (d : BitVec 5)
  /-- POPC (R169). Counts one bits. -/
  | popc (sc : BitVec 2) (a : BitVec 5) (d : BitVec 5)
  /-- BREV (R169). Reverses the bit order of a register. -/
  | brev (sc : BitVec 2) (a : BitVec 5) (d : BitVec 5)
  /-- BSWAP (R169). Reverses the byte order of a register. -/
  | bswap (sc : BitVec 2) (a : BitVec 5) (d : BitVec 5)
  /-- EXTS (R170). Extracts a bit field and sign-extends it. -/
  | exts (sc : BitVec 2) (b : BitVec 5) (a : BitVec 5) (d : BitVec 5)
  /-- EXTZ (R170). Extracts a bit field and zero-extends it. -/
  | extz (sc : BitVec 2) (b : BitVec 5) (a : BitVec 5) (d : BitVec 5)
  /-- INS (R170). Inserts low bits of a register into a bit field of the destination. -/
  | ins (sc : BitVec 2) (b : BitVec 5) (a : BitVec 5) (d : BitVec 5)
  /-- LIH (R171). Loads a sign-extended immediate shifted left by 10. -/
  | lih (imm : BitVec 20) (d : BitVec 5)
  /-- ADDPC (R172). Adds a shifted immediate to the code address of the PC. -/
  | addpc (imm : BitVec 20) (d : BitVec 5)
  /-- JAL (R173). Jumps PC-relative within instruction memory and writes the link. -/
  | jal (off : BitVec 20) (d : BitVec 5)
  /-- JALR (R174). Jumps to an IMA in a register plus offset and writes the link. -/
  | jalr (sc : BitVec 2) (imm : BitVec 10) (a : BitVec 5) (d : BitVec 5)
  /-- BEQ (R175). Branches if two registers are equal. -/
  | beq (sc : BitVec 2) (imm : BitVec 10) (b : BitVec 5) (a : BitVec 5)
  /-- BNE (R175). Branches if two registers differ. -/
  | bne (sc : BitVec 2) (imm : BitVec 10) (b : BitVec 5) (a : BitVec 5)
  /-- BLT (R175). Branches on signed less-than. -/
  | blt (sc : BitVec 2) (imm : BitVec 10) (b : BitVec 5) (a : BitVec 5)
  /-- BGE (R175). Branches on signed greater-or-equal. -/
  | bge (sc : BitVec 2) (imm : BitVec 10) (b : BitVec 5) (a : BitVec 5)
  /-- BLTN (R175). Branches on unsigned less-than. -/
  | bltn (sc : BitVec 2) (imm : BitVec 10) (b : BitVec 5) (a : BitVec 5)
  /-- BGEN (R175). Branches on unsigned greater-or-equal. -/
  | bgen (sc : BitVec 2) (imm : BitVec 10) (b : BitVec 5) (a : BitVec 5)
  /-- LOOP (R178). Starts a zero-overhead loop with a count from a register. -/
  | loopG (sc : BitVec 2) (len : BitVec 10) (a : BitVec 5) (lv : BitVec 2)
  /-- LOOPI (R178). Starts a zero-overhead loop with an immediate count. -/
  | loopi (sc : BitVec 2) (len : BitVec 10) (cnt : BitVec 8) (lv : BitVec 2)
  /-- LOOPM (R178). Starts a zero-overhead loop with a count from the head message word mh0. -/
  | loopm (sc : BitVec 2) (len : BitVec 10) (lv : BitVec 2)
  /-- LBRK (R181). Leaves an active loop level by jumping to its end. -/
  | lbrk (sc : BitVec 2) (lv : BitVec 2)
  /-- DLY (R183). Delays the next issue by an immediate number of cycles. -/
  | dly (sc : BitVec 2) (imm : BitVec 10)
  /-- WAIT_IMM (R184). Holds issue until a token reaches an immediate count. -/
  | waitImm (sc : BitVec 2) (imm : BitVec 15) (bank : BitVec 1) (k : BitVec 4)
  /-- WAIT_REG (R184). Holds issue until a token reaches a count taken from a register. -/
  | waitReg (sc : BitVec 2) (bank : BitVec 1) (k : BitVec 4) (a : BitVec 5)
  /-- TKRD (R185). Reads a token's ISSUED and COUNT into a register. -/
  | tkrd (sc : BitVec 2) (bank : BitVec 1) (k : BitVec 4) (d : BitVec 5)
  /-- TKSET_IMM (R186). Sets a quiescent token's COUNT and ISSUED to an immediate. -/
  | tksetImm (sc : BitVec 2) (imm : BitVec 15) (bank : BitVec 1) (k : BitVec 4)
  /-- TKSET_REG (R186). Sets a quiescent token's COUNT and ISSUED from a register. -/
  | tksetReg (sc : BitVec 2) (bank : BitVec 1) (k : BitVec 4) (a : BitVec 5)
  /-- CRD (R187). Reads a control register into a general register. -/
  | crd (crn : BitVec 12) (d : BitVec 5)
  /-- CWR (R187). Writes a control register from a general register. -/
  | cwr (crn : BitVec 12) (a : BitVec 5)
  /-- CSET (R187). Sets bits of a control register. -/
  | cset (crn : BitVec 12) (a : BitVec 5)
  /-- CCLR (R187). Clears bits of a control register. -/
  | cclr (crn : BitVec 12) (a : BitVec 5)
  /-- TRAP (R189). Raises the exact SOFTWARE trap with a code. -/
  | trapI (sc : BitVec 2) (code : BitVec 10)
  /-- ERET (R359). Returns from a handler: discards held log entries, restores loop state, leaves steward mode and resumes or takes a pending trap. -/
  | eret (sc : BitVec 2)
  /-- BRK (R191). Halts the core's armed halt group, or raises the BREAKPOINT trap. -/
  | brk (sc : BitVec 2) (code : BitVec 10)
  /-- IDLE (R192). Issues nothing from the slot until a token post, message, bind record, stop or trap. -/
  | idle (sc : BitVec 2)
  /-- REPLAY (R193). Re-issues a load held in the operand log for a late fault. -/
  | replay (sc : BitVec 2) (entry : BitVec 4)
  /-- FNC (R329). Fence: waits for earlier accesses to be performed and acts as a release and acquire at a scope. -/
  | fnc (sc : BitVec 2) (sco : BitVec 3)
  /-- QFNC (R330). Queue fence: later entries of named queues start only after earlier entries complete. -/
  | qfnc (sc : BitVec 2) (n : BitVec 4)
  /-- LDAQ (R332). Acquire load of a doubleword as a token operation. -/
  | ldaq (sc : BitVec 2) (k : BitVec 4) (sco : BitVec 3) (a : BitVec 5) (d : BitVec 5)
  /-- STRL (R333). Release store of a doubleword. -/
  | strl (sc : BitVec 2) (sco : BitVec 3) (b : BitVec 5) (a : BitVec 5)
  /-- AMOADD (R335). Atomic add at an address, returning the old value. -/
  | amoadd (aq : BitVec 1) (rl : BitVec 1) (w : BitVec 1) (b : BitVec 5) (a : BitVec 5) (sco : BitVec 3) (d : BitVec 5)
  /-- AMOAND (R335). Atomic AND, returning the old value. -/
  | amoand (aq : BitVec 1) (rl : BitVec 1) (w : BitVec 1) (b : BitVec 5) (a : BitVec 5) (sco : BitVec 3) (d : BitVec 5)
  /-- AMOOR (R335). Atomic OR, returning the old value. -/
  | amoor (aq : BitVec 1) (rl : BitVec 1) (w : BitVec 1) (b : BitVec 5) (a : BitVec 5) (sco : BitVec 3) (d : BitVec 5)
  /-- AMOXOR (R335). Atomic XOR, returning the old value. -/
  | amoxor (aq : BitVec 1) (rl : BitVec 1) (w : BitVec 1) (b : BitVec 5) (a : BitVec 5) (sco : BitVec 3) (d : BitVec 5)
  /-- AMOMIN (R335). Atomic signed minimum, returning the old value. -/
  | amomin (aq : BitVec 1) (rl : BitVec 1) (w : BitVec 1) (b : BitVec 5) (a : BitVec 5) (sco : BitVec 3) (d : BitVec 5)
  /-- AMOMAX (R335). Atomic signed maximum, returning the old value. -/
  | amomax (aq : BitVec 1) (rl : BitVec 1) (w : BitVec 1) (b : BitVec 5) (a : BitVec 5) (sco : BitVec 3) (d : BitVec 5)
  /-- AMOMINN (R335). Atomic unsigned minimum, returning the old value. -/
  | amominn (aq : BitVec 1) (rl : BitVec 1) (w : BitVec 1) (b : BitVec 5) (a : BitVec 5) (sco : BitVec 3) (d : BitVec 5)
  /-- AMOMAXN (R335). Atomic unsigned maximum, returning the old value. -/
  | amomaxn (aq : BitVec 1) (rl : BitVec 1) (w : BitVec 1) (b : BitVec 5) (a : BitVec 5) (sco : BitVec 3) (d : BitVec 5)
  /-- AMOSWP (R335). Atomic swap, returning the old value. -/
  | amoswp (aq : BitVec 1) (rl : BitVec 1) (w : BitVec 1) (b : BitVec 5) (a : BitVec 5) (sco : BitVec 3) (d : BitVec 5)
  /-- AMOCAS (R335). Atomic compare-and-swap against the old destination value. -/
  | amocas (aq : BitVec 1) (rl : BitVec 1) (w : BitVec 1) (b : BitVec 5) (a : BitVec 5) (sco : BitVec 3) (d : BitVec 5)
  /-- VADD (R221). Lane-wise add. -/
  | vadd (sc : BitVec 2) (t : BitVec 4) (b : BitVec 5) (a : BitVec 5) (d : BitVec 5)
  /-- VSUB (R221). Lane-wise subtract. -/
  | vsub (sc : BitVec 2) (t : BitVec 4) (b : BitVec 5) (a : BitVec 5) (d : BitVec 5)
  /-- VMUL (R221). Lane-wise multiply. -/
  | vmul (sc : BitVec 2) (t : BitVec 4) (b : BitVec 5) (a : BitVec 5) (d : BitVec 5)
  /-- VMIN (R221). Lane-wise minimum. -/
  | vmin (sc : BitVec 2) (t : BitVec 4) (b : BitVec 5) (a : BitVec 5) (d : BitVec 5)
  /-- VMAX (R221). Lane-wise maximum. -/
  | vmax (sc : BitVec 2) (t : BitVec 4) (b : BitVec 5) (a : BitVec 5) (d : BitVec 5)
  /-- VAND (R221). Lane-wise AND on integer types. -/
  | vand (sc : BitVec 2) (t : BitVec 4) (b : BitVec 5) (a : BitVec 5) (d : BitVec 5)
  /-- VOR (R221). Lane-wise OR on integer types. -/
  | vor (sc : BitVec 2) (t : BitVec 4) (b : BitVec 5) (a : BitVec 5) (d : BitVec 5)
  /-- VXOR (R221). Lane-wise XOR on integer types. -/
  | vxor (sc : BitVec 2) (t : BitVec 4) (b : BitVec 5) (a : BitVec 5) (d : BitVec 5)
  /-- VSHL (R221). Lane-wise shift left. -/
  | vshl (sc : BitVec 2) (t : BitVec 4) (b : BitVec 5) (a : BitVec 5) (d : BitVec 5)
  /-- VSHR (R221). Lane-wise logical shift right. -/
  | vshr (sc : BitVec 2) (t : BitVec 4) (b : BitVec 5) (a : BitVec 5) (d : BitVec 5)
  /-- VSAR (R221). Lane-wise arithmetic shift right. -/
  | vsar (sc : BitVec 2) (t : BitVec 4) (b : BitVec 5) (a : BitVec 5) (d : BitVec 5)
  /-- VABD (R221). Lane-wise absolute difference. -/
  | vabd (sc : BitVec 2) (t : BitVec 4) (b : BitVec 5) (a : BitVec 5) (d : BitVec 5)
  /-- VADDS (R221). Lane-wise saturating add. -/
  | vadds (sc : BitVec 2) (t : BitVec 4) (b : BitVec 5) (a : BitVec 5) (d : BitVec 5)
  /-- VSUBS (R221). Lane-wise saturating subtract. -/
  | vsubs (sc : BitVec 2) (t : BitVec 4) (b : BitVec 5) (a : BitVec 5) (d : BitVec 5)
  /-- VFMA (R223). Fused multiply-add into the destination lanes. -/
  | vfma (sc : BitVec 2) (t : BitVec 4) (b : BitVec 5) (a : BitVec 5) (d : BitVec 5)
  /-- VFMS (R223). Fused multiply-subtract of the destination lanes. -/
  | vfms (sc : BitVec 2) (t : BitVec 4) (b : BitVec 5) (a : BitVec 5) (d : BitVec 5)
  /-- VFNMA (R223). Destination lanes minus the product, fused. -/
  | vfnma (sc : BitVec 2) (t : BitVec 4) (b : BitVec 5) (a : BitVec 5) (d : BitVec 5)
  /-- VDOT2 (R224). Pair dot product accumulated into double-width lanes. -/
  | vdot2 (sc : BitVec 2) (t : BitVec 4) (b : BitVec 5) (a : BitVec 5) (d : BitVec 5)
  /-- VMULW (R224). Widening multiply of the lower source lanes. -/
  | vmulw (sc : BitVec 2) (t : BitVec 4) (b : BitVec 5) (a : BitVec 5) (d : BitVec 5)
  /-- VCMP (R225). Compares lanes and writes a mask register. -/
  | vcmp (sc : BitVec 2) (t : BitVec 4) (b : BitVec 5) (a : BitVec 5) (cc : BitVec 2) (m : BitVec 3)
  /-- VSEL (R226). Copies the mask-enabled lanes of a source into the destination. -/
  | vsel (sc : BitVec 2) (t : BitVec 4) (m : BitVec 3) (a : BitVec 5) (d : BitVec 5)
  /-- VCVT (R227). Converts lanes from a source type to the destination type. -/
  | vcvt (sc : BitVec 2) (t : BitVec 4) (src : BitVec 4) (a : BitVec 5) (d : BitVec 5)
  /-- VBCAST (R228). Broadcasts a general register to every lane. -/
  | vbcast (sc : BitVec 2) (t : BitVec 4) (a : BitVec 5) (d : BitVec 5)
  /-- VPERM (R228). Permutes lanes by indices from a vector. -/
  | vperm (sc : BitVec 2) (t : BitVec 4) (b : BitVec 5) (a : BitVec 5) (d : BitVec 5)
  /-- VEXT (R228). Extracts one lane into a general register. -/
  | vext (sc : BitVec 2) (t : BitVec 4) (lane : BitVec 5) (a : BitVec 5) (d : BitVec 5)
  /-- VINS (R228). Inserts a general register into one lane. -/
  | vins (sc : BitVec 2) (t : BitVec 4) (lane : BitVec 5) (a : BitVec 5) (d : BitVec 5)
  /-- VABS (R229). Lane-wise absolute value. -/
  | vabs (sc : BitVec 2) (t : BitVec 4) (a : BitVec 5) (d : BitVec 5)
  /-- VNEG (R229). Lane-wise negation. -/
  | vneg (sc : BitVec 2) (t : BitVec 4) (a : BitVec 5) (d : BitVec 5)
  /-- VMOV (R229). Copies all 256 bits of a vector register. -/
  | vmov (sc : BitVec 2) (t : BitVec 4) (a : BitVec 5) (d : BitVec 5)
  /-- VMSK (R226). Writes a mask enabling the first n lanes. -/
  | vmsk (sc : BitVec 2) (t : BitVec 4) (a : BitVec 5) (m : BitVec 3)
  /-- VRED_ADD (R230). Tree-sums all lanes into lane 0. -/
  | vredAdd (sc : BitVec 2) (t : BitVec 4) (a : BitVec 5) (d : BitVec 5)
  /-- VRED_MIN (R230). Tree-minimum of all lanes into lane 0. -/
  | vredMin (sc : BitVec 2) (t : BitVec 4) (a : BitVec 5) (d : BitVec 5)
  /-- VRED_MAX (R230). Tree-maximum of all lanes into lane 0. -/
  | vredMax (sc : BitVec 2) (t : BitVec 4) (a : BitVec 5) (d : BitVec 5)
  /-- VSCAN_ADD (R230). Inclusive prefix sum across lanes. -/
  | vscanAdd (sc : BitVec 2) (t : BitVec 4) (a : BitVec 5) (d : BitVec 5)
  /-- VSCAN_MIN (R230). Inclusive prefix minimum across lanes. -/
  | vscanMin (sc : BitVec 2) (t : BitVec 4) (a : BitVec 5) (d : BitVec 5)
  /-- VSCAN_MAX (R230). Inclusive prefix maximum across lanes. -/
  | vscanMax (sc : BitVec 2) (t : BitVec 4) (a : BitVec 5) (d : BitVec 5)
  /-- QRED (R231). Reduces elements from full quire slots into a running sum, acquiring and releasing slots. -/
  | qred (sc : BitVec 2) (t : BitVec 4) (q : BitVec 4) (a : BitVec 5) (d : BitVec 5)
  /-- QRED_SUSPEND (R232). After 256 cycles waiting for a full slot, QRED suspends its slot to WAITING. -/
  | qredSuspend (u : Nat)
  /-- TLOAD (R236). Queues a table load or emptying request to the tile's table engine. -/
  | tload (sc : BitVec 2) (k : BitVec 4) (a : BitVec 5) (n : BitVec 3)
  /-- TEVAL (R237). Queues a table evaluation of a vector of lanes. -/
  | teval (sc : BitVec 2) (k : BitVec 4) (p : BitVec 1) (n : BitVec 3) (a : BitVec 5) (d : BitVec 5)
  /-- TSTAT (R238). Reads a table's status. -/
  | tstat (sc : BitVec 2) (n : BitVec 3) (d : BitVec 5)
  /-- TLOAD_PERFORM (R236). At the head of the table queue, the engine loads or empties the table and posts the token. -/
  | tloadPerform (tile : Nat)
  /-- TEVAL_PERFORM (R237). At the head of the table queue, the engine evaluates the lanes, writes the result and posts the token. -/
  | tevalPerform (tile : Nat)
  /-- SEND (R265). Sends 16 bytes of a vector register to a mailbox handle as a release. -/
  | send (sc : BitVec 2) (sco : BitVec 3) (b : BitVec 5) (a : BitVec 5)
  /-- SENDG (R265). Multicasts a message to a slot of each core in a set. -/
  | sendg (sc : BitVec 2) (sco : BitVec 3) (b : BitVec 5) (a : BitVec 5)
  /-- RCV (R267). Takes the head message into a vector register as an acquire, holding while the mailbox is empty. -/
  | rcv (sc : BitVec 2) (d : BitVec 5)
  /-- WFM (R267). Suspends the slot until a message is present. -/
  | wfm (sc : BitVec 2)
  /-- MBCNT (R265). Reads the mailbox count, own handle or the core's dropped count. -/
  | mbcnt (sc : BitVec 2) (n : BitVec 5) (d : BitVec 5)
  /-- MESSAGE_DELIVERY (R266). A message arriving at its destination core is placed in the slot mailbox or the absent context's area, waking a waiting continuation. -/
  | messageDelivery (i : Nat)
  /-- BUFFER_FREE_ANSWER (R268). A router counts a combined buffer-free answer and sends one FREE message when all have arrived. -/
  | bufferFreeAnswer (i : Nat)
  /-- QCFG (R251). Configures or unconfigures a quire of the issuing core. -/
  | qcfg (sc : BitVec 2) (q : BitVec 4) (a : BitVec 5)
  /-- QRES (R252). Reserves the next free slot of a quire, waiting while none is free. -/
  | qres (sc : BitVec 2) (q : BitVec 4) (a : BitVec 5) (d : BitVec 5)
  /-- QPUB (R252). Publishes the held reserved slot as a release. -/
  | qpub (sc : BitVec 2) (q : BitVec 4) (a : BitVec 5)
  /-- QACQ (R252). Acquires the next full slot of a quire, waiting while none is full. -/
  | qacq (sc : BitVec 2) (q : BitVec 4) (a : BitVec 5) (d : BitVec 5)
  /-- QREL (R252). Releases the held acquired slot as a release. -/
  | qrel (sc : BitVec 2) (q : BitVec 4) (a : BitVec 5)
  /-- QSTAT (R252). Reads a quire's status. -/
  | qstat (sc : BitVec 2) (q : BitVec 4) (a : BitVec 5) (d : BitVec 5)
  /-- QUIRE_SUSPEND (R254). After 256 cycles blocked, a QRES or QACQ suspends its slot to WAITING. -/
  | quireSuspend (u : Nat)
  /-- QUEUE_DEADLOCK (R254). After 4,096 cycles with every consumer blocked in QRES, each takes the QUEUE_DEADLOCK trap. -/
  | queueDeadlock (lnch grp : Nat)
  /-- PMAC (R297). Appends a matrix multiply-accumulate entry to the galley. -/
  | pmac (sc : BitVec 2) (k : BitVec 4) (a : BitVec 5)
  /-- PMACS (R298). Appends a structured-sparse multiply-accumulate entry to the galley. -/
  | pmacs (sc : BitVec 2) (k : BitVec 4) (a : BitVec 5)
  /-- PZERO (R299). Appends an entry that zeroes accumulators. -/
  | pzero (sc : BitVec 2) (a : BitVec 5)
  /-- PDRAIN (R300). Appends an entry that rounds accumulators into a pool matrix. -/
  | pdrain (sc : BitVec 2) (k : BitVec 4) (a : BitVec 5)
  /-- PSTAT (R302). Reads the galley status and clears its sticky ERR and FLAGS. -/
  | pstat (sc : BitVec 2) (d : BitVec 5)
  /-- PSYNC (R302). Holds issue until the core's earlier press entries complete, then acquires their writes. -/
  | psync (sc : BitVec 2)
  /-- LEASE_GRANT (R305). A press grants its lease to the next galley of its tile that holds an entry. -/
  | leaseGrant (tile : Nat)
  /-- LEASE_TIMEOUT (R305). A lease ends after 16 started entries or 8,192 press cycles. -/
  | leaseTimeout (tile : Nat)
  /-- PRESS_ENTRY_START (R301). A press starts a galley entry, checking shape, format and rights. -/
  | pressEntryStart (tile : Nat)
  /-- PRESS_START_ADMIT (R306). The surge arbiter admits a press start within its window limit. -/
  | pressStartAdmit (tile : Nat)
  /-- BLOCK_SLICE (R297). A press computes one block-slice of an entry's slice sums. -/
  | blockSlice (tile : Nat)
  /-- SLICE_SUM_ACCUMULATE (R294). A tile's accumulate unit adds an arriving slice sum into an accumulator. -/
  | sliceSumAccumulate (tile : Nat)
  /-- PRESS_ENTRY_COMPLETE (R302). An entry ends with a status, sets DONE and posts its token. -/
  | pressEntryComplete (tile : Nat)
  /-- GOVERNOR_WINDOW (R307). A new 256-press-cycle governor window begins, allowing stopped presses to start again. -/
  | governorWindow
  /-- PRESS_SHOOTDOWN (R304). A press ends a running entry named by a revoked region at its next block-slice boundary and acknowledges. -/
  | pressShootdown (tile rgn : Nat)
  /-- SEGMV (R283). Queues a stack-engine matrix-vector command. -/
  | segmv (sc : BitVec 2) (k : BitVec 4) (a : BitVec 5)
  /-- SEFIL (R283). Queues a stack-engine fill command. -/
  | sefil (sc : BitVec 2) (k : BitVec 4) (a : BitVec 5)
  /-- SECPY (R283). Queues a stack-engine copy command. -/
  | secpy (sc : BitVec 2) (k : BitVec 4) (a : BitVec 5)
  /-- SECMP (R283). Queues a stack-engine compare command. -/
  | secmp (sc : BitVec 2) (k : BitVec 4) (a : BitVec 5)
  /-- SERED (R283). Queues a stack-engine reduce command. -/
  | sered (sc : BitVec 2) (k : BitVec 4) (a : BitVec 5)
  /-- SESTAT (R285). Reads a channel galley's DONE and NEXT numbers. -/
  | sestat (sc : BitVec 2) (a : BitVec 5) (d : BitVec 5)
  /-- STACK_COMMAND_START (R283). A galley starts its next stack command after earlier entries' writes. -/
  | stackCommandStart (ch : Nat)
  /-- STACK_COMMAND_COMPLETE (R284). A stack command ends, writes its completion record and posts its token. -/
  | stackCommandComplete (ch : Nat)
  /-- GO_SEGMV (R284). A hart's GO write queues a SEGMV on a galley through the hart port. -/
  | goSegmv (ch : Nat)
  /-- GO_SEFIL (R284). A hart's GO write queues a SEFIL through the hart port. -/
  | goSefil (ch : Nat)
  /-- GO_SECPY (R284). A hart's GO write queues a SECPY through the hart port. -/
  | goSecpy (ch : Nat)
  /-- GO_SECMP (R284). A hart's GO write queues a SECMP through the hart port. -/
  | goSecmp (ch : Nat)
  /-- GO_SERED (R284). A hart's GO write queues a SERED through the hart port. -/
  | goSered (ch : Nat)
  /-- XLD (R271). Loads a doubleword from the heap on a channel core. -/
  | xld (sc : BitVec 2) (k : BitVec 4) (imm : BitVec 6) (a : BitVec 5) (d : BitVec 5)
  /-- XST (R271). Stores a doubleword to the heap on a channel core. -/
  | xst (sc : BitVec 2) (imm : BitVec 10) (b : BitVec 5) (a : BitVec 5)
  /-- XLDV (R271). Loads 32 bytes from the heap into a vector register. -/
  | xldv (sc : BitVec 2) (k : BitVec 4) (imm : BitVec 6) (a : BitVec 5) (d : BitVec 5)
  /-- XSTV (R271). Stores 32 bytes of a vector register to the heap. -/
  | xstv (sc : BitVec 2) (imm : BitVec 10) (b : BitVec 5) (a : BitVec 5)
  /-- XHINT (R275). Appends a hot or cold tier hint record to the hint ring. -/
  | xhint (sc : BitVec 2) (b : BitVec 5) (a : BitVec 5) (hot : BitVec 1)
  /-- SPAWN (R342). Creates a child continuation from a descriptor and a spawn ring entry. -/
  | spawn (sc : BitVec 2) (a : BitVec 5) (d : BitVec 5)
  /-- DEAL (R347). Submits a job card to the dealer and returns its status. -/
  | deal (sc : BitVec 2) (a : BitVec 5) (d : BitVec 5)
  /-- SUSP (R348). Suspends the slot unless the WAKE latch is set. -/
  | susp (sc : BitVec 2)
  /-- EXIT (R349). Retires the continuation once its work is complete, updating its completion word. -/
  | exitI (sc : BitVec 2)
  /-- GBAR (R345). Arrives at a group barrier as a release and waits for the generation to complete. -/
  | gbar (sc : BitVec 2) (n : BitVec 2)
  /-- GRANK (R346). Reads the issuer's group id and rank in a group. -/
  | grank (sc : BitVec 2) (n : BitVec 2) (d : BitVec 5)
  /-- GENERATION_COMPLETE (R344). The group engine completes a barrier generation and departs every arrived member. -/
  | generationComplete (lnch grp : Nat)
  /-- GRANT (R352). Gives rights over a range to another owner through the security engine. -/
  | grant (sc : BitVec 2) (a : BitVec 5) (d : BitVec 5)
  /-- REVOKE (R353). Withdraws or frees a region as a token operation. -/
  | revoke (sc : BitVec 2) (k : BitVec 4) (free : BitVec 1) (a : BitVec 5) (d : BitVec 5)
  /-- RTEST (R354). Reads the rights of the owner in force at an address. -/
  | rtest (sc : BitVec 2) (a : BitVec 5) (d : BitVec 5)
  /-- RDROP (R355). Drops the owner in force's rights over a range. -/
  | rdrop (sc : BitVec 2) (b : BitVec 5) (a : BitVec 5) (d : BitVec 5)
  /-- SHOOTDOWN_COMPLETE (R63). When every receiver has acknowledged a revocation's shootdown, a freed region becomes TOMBSTONE and the REVOKE completes. -/
  | shootdownComplete (rgn : Nat)
  /-- JF (R121). Fenced PC-relative jump through a code address. -/
  | jf (off : BitVec 17) (d : BitVec 5)
  /-- JFR (R122). Fenced jump to a code address in a register. -/
  | jfr (sc : BitVec 2) (a : BitVec 5) (d : BitVec 5)
  /-- CFETCH (R120). Starts loading 4 KiB of code into an instruction-memory segment. -/
  | cfetch (sc : BitVec 2) (k : BitVec 4) (seg : BitVec 4) (a : BitVec 5)
  /-- CFETCH_COMPLETION (R120). A segment fetch ends LANDED or FAILED and posts its token. -/
  | cfetchCompletion (u seg : Nat)
  /-- CSEG (R123). Reads, and optionally invalidates, a segment descriptor. -/
  | cseg (sc : BitVec 2) (inv : BitVec 1) (seg : BitVec 4) (d : BitVec 5)
  /-- FITB (R403). Opens an approximable region and receives the true path or a substitution from the viceroy. -/
  | fitb (sc : BitVec 2) (k : BitVec 4) (n : BitVec 4) (a : BitVec 5)
  /-- FITE (R404). Closes an approximable region, sending outputs for a sample or comparison. -/
  | fite (sc : BitVec 2) (n : BitVec 4)
  /-- FITK (R407). Makes a viceroy entry INVALID. -/
  | fitk (sc : BitVec 2) (n : BitVec 4)
  /-- FITQ (R409). Saves a viceroy entry's weight image to memory. -/
  | fitq (sc : BitVec 2) (n : BitVec 4) (a : BitVec 5) (d : BitVec 5)
  /-- FITW (R410). Restores a viceroy entry from a weight image. -/
  | fitw (sc : BitVec 2) (n : BitVec 4) (a : BitVec 5) (j : BitVec 5)
  /-- TRAINING_STEP (R398). The viceroy completes one gradient step over a full sample buffer and moves the entry to VALIDATE. -/
  | trainingStep (quad e : Nat)
  /-- SUBSTITUTION_OUTPUTS (R403). A substituted FITB's outputs are written and its token posts. -/
  | substitutionOutputs (quad i : Nat)
  /-- NOP (R118). Hint-region encoding with no effect beyond its stall count. -/
  | nop (sc : BitVec 2)
  /-- C_ADDI (R115). Compact add of a signed 8-bit immediate. -/
  | cAddi (r : BitVec 3) (imm : BitVec 8)
  /-- C_LI (R115). Compact load of a signed 8-bit immediate. -/
  | cLi (r : BitVec 3) (imm : BitVec 8)
  /-- C_LDD (R194). Compact doubleword load on token 0. -/
  | cLdd (r : BitVec 3) (r2 : BitVec 3) (off : BitVec 5)
  /-- C_STD (R115). Compact doubleword store. -/
  | cStd (r : BitVec 3) (r2 : BitVec 3) (off : BitVec 5)
  /-- C_DLY (R194). Compact delay of up to 255 cycles. -/
  | cDly (imm : BitVec 8)
  /-- C_NOP (R115). Compact no-operation. -/
  | cNop
  /-- C_MV (R115). Compact register move. -/
  | cMv (r : BitVec 3) (r2 : BitVec 3)
  /-- C_ADD (R115). Compact register add. -/
  | cAdd (r : BitVec 3) (r2 : BitVec 3)
  /-- C_SUB (R115). Compact register subtract. -/
  | cSub (r : BitVec 3) (r2 : BitVec 3)
  /-- C_JR (R115). Compact jump to an IMA in a register. -/
  | cJr (r : BitVec 3)
  /-- C_JALR (R194). Compact jump to a register IMA with link. -/
  | cJalr (r : BitVec 3)
  /-- C_BEQZ (R115). Compact branch if a register is zero. -/
  | cBeqz (r : BitVec 3) (off : BitVec 8)
  /-- C_BNEZ (R115). Compact branch if a register is nonzero. -/
  | cBnez (r : BitVec 3) (off : BitVec 8)
  /-- C_J (R115). Compact PC-relative jump. -/
  | cJ (off : BitVec 11)
  /-- OWNER_WRITE (R61). A write of OWNER switches the owner in force if the steward, E-right or equality case allows, else faults. -/
  | ownerWrite (x : BitVec 64)
  /-- PART_WORD_WRITE (R244). A write of PART_WORD drains pool work, writes back register lines, applies the division and clears the pool. -/
  | partWordWrite (x : BitVec 64)
  /-- COPY_GO (R257). A read of COPY_GO latches the copy fields, launches a copy and returns its transfer id. -/
  | copyGo (d : BitVec 5)
  /-- STOP_AT_WRITE (R376). A steward write of STOP_AT arms or disarms its own core's stop. -/
  | stopAtWrite (x : BitVec 64)
  /-- ENERGY_WRITE (R421). A steward write of ENERGY sets COUNT and SAT and clears FRAC. -/
  | energyWrite (x : BitVec 64)
  /-- ASYNC_TRAP (R369). A pending asynchronous trap is taken at the continuation's next instruction boundary outside steward mode. -/
  | asyncTrap (u : Nat)
  /-- LOAD_COMPLETION (R162). A non-private load's response writes its destination and posts its token, or a refusal holds its log entry for a late fault. -/
  | loadCompletion (u e : Nat)
  /-- DIVIDE_COMPLETION (R168). A divide completes, writes its result and posts its token. -/
  | divideCompletion (u i : Nat)
  /-- STORE_ACK (R159). A destination acknowledges a posted store as performed or refused, freeing its journal entry. -/
  | storeAck (u e : Nat)
  /-- AMO_RESPONSE (R338). A remote AMO's answer arrives, writing the old value or raising the refusal's trap. -/
  | amoResponse (u : Nat)
  /-- COPY_BEAT (R258). The copy engine performs one 64-byte beat of a copy. -/
  | copyBeat (u : Nat)
  /-- COPY_COMPLETION (R263). A copy ends with a status, posts its token and sends its DONE message. -/
  | copyCompletion (u : Nat)
  /-- TILE_COMPLETION (R261). A multicast's destination tile finishes and its router sends a TILE message. -/
  | tileCompletion (u tile : Nat)
  /-- QA_SLOT_RESERVE (R260). A QA copy at the head of the engine reserves a quire slot when one is free. -/
  | qaSlotReserve (u : Nat)
  /-- SLOT_LOAD (R98). At a switch point a BOUND slot is loaded from its record, becoming LOADED. -/
  | slotLoad (u slot : Nat)
  /-- EVICT_WRITEBACK (R98). At a switch point an EVICTING slot writes its state back to the record and becomes EMPTY. -/
  | evictWriteback (u slot : Nat)
  /-- SLOT_SELECT (R100). At a switch point the core selects the slot to issue from by priority and round-robin. -/
  | slotSelect (u : Nat)
  /-- SLICE_EXPIRY (R100). The issuing slot has issued for SLICE cycles and yields to an equal-priority slot. -/
  | sliceExpiry (u : Nat)
  /-- BIND_START (R97). Dispatch takes a START record and binds a continuation into an empty slot. -/
  | bindStart (p : Nat) (ch : Bool)
  /-- BIND_EVICT (R97). Dispatch takes an EVICT record and removes a slot's occupant. -/
  | bindEvict (p : Nat) (ch : Bool)
  /-- BIND_EVICT_START (R97). Dispatch takes a record with START and EVICT, replacing the occupant in one step. -/
  | bindEvictStart (p : Nat) (ch : Bool)
  /-- BIND_MODIFY (R97). Dispatch takes a record with neither bit, changing priority and pin or resuming a fault-stopped occupant. -/
  | bindModify (p : Nat) (ch : Bool)
  /-- PART_MAP_WRITE (R90). A write of PART_MAP changes a partition's quads unless it overlaps or the partition is resident. -/
  | partMapWrite (p : Nat) (x : BitVec 32)
  /-- PW_SET_WRITE (R245). A hart writes a partition word to wait for application on a core. -/
  | pwSetWrite (u : Nat) (x : BitVec 13)
  /-- PW_SET_APPLY (R245). At a switch point with every slot empty the core applies the waiting partition word. -/
  | pwSetApply (u : Nat)
  /-- DEAL_CHUNK (R40). The dealer cuts the next chunk of a running card into a continuation when fewer than P are NEW. -/
  | dealChunk (card : Nat)
  /-- DEPENDENCE_SATISFIED (R38). A pending card's last dependence is satisfied and it moves to RUNNING. -/
  | dependenceSatisfied (card : Nat)
  /-- DEPENDENCE_FAILED (R38). A dependence fails and the card is cancelled, passing failure to its dependants. -/
  | dependenceFailed (card : Nat)
  /-- DRAIN_COMPLETE (R80). A draining queue with no card pending or running becomes CLOSED and DRAIN is answered. -/
  | drainComplete (v q : Nat)
  /-- RESET_COMPLETE (R88). A resetting queue's stop and sweep finish, dependants fail, and the queue becomes CLOSED. -/
  | resetComplete (v q : Nat)
  /-- WATCHDOG_EXPIRY (R384). A running queue goes its interval without progress and dispatch writes a WATCHDOG event. -/
  | watchdogExpiry (v q : Nat)
  /-- OPEN (R435). Opens an authenticated session on an endpoint. -/
  | hostOpen (ep : Nat) (c : HostCmd)
  /-- CLOSE (R76). Ends a session and releases its lock. -/
  | hostClose (ep : Nat) (c : HostCmd)
  /-- LOCK (R78). Takes or renews an endpoint's interface lock. -/
  | hostLock (ep : Nat) (c : HostCmd)
  /-- UNLOCK (R78). Releases the interface lock. -/
  | hostUnlock (ep : Nat) (c : HostCmd)
  /-- QCREATE (R79). Creates a launch queue from a descriptor. -/
  | hostQcreate (ep : Nat) (c : HostCmd)
  /-- QOPEN (R80). Reopens a closed queue with HEAD := TAIL. -/
  | hostQopen (ep : Nat) (c : HostCmd)
  /-- LAUNCH (R81). Hands cards to the dealer, checks them in two passes and writes their statuses. -/
  | hostLaunch (ep : Nat) (c : HostCmd)
  /-- DRAIN (R88). Starts draining a queue. -/
  | hostDrain (ep : Nat) (c : HostCmd)
  /-- RESET (R88). Starts resetting a queue. -/
  | hostReset (ep : Nat) (c : HostCmd)
  /-- QDESTROY (R80). Destroys a closed queue. -/
  | hostQdestroy (ep : Nat) (c : HostCmd)
  /-- HOST_QSTAT (R76). Returns a queue's descriptor and dropped-message count. -/
  | hostQstat (ep : Nat) (c : HostCmd)
  /-- KEYLOAD (R86). Installs a wrapped tenant key into a key slot. -/
  | hostKeyload (ep : Nat) (c : HostCmd)
  /-- EVIDENCE (R437). Returns a signed attestation record for a nonce. -/
  | hostEvidence (ep : Nat) (c : HostCmd)
  /-- VCREATE (R91). Creates a virtual device and opens its command endpoint. -/
  | hostVcreate (ep : Nat) (c : HostCmd)
  /-- VDESTROY (R92). Removes a virtual device, its sessions, regions, owners and keys. -/
  | hostVdestroy (ep : Nat) (c : HostCmd)
  /-- RMA_WRITE (R73). A host RMA write checked under the endpoint owner's rights. -/
  | rmaWrite (ep : Nat) (va : BitVec 64) (bytes : List Byte)
  /-- RMA_READ (R73). A host RMA read checked under the endpoint owner's rights. -/
  | rmaRead (ep : Nat) (va : BitVec 64) (n : Nat)
  /-- UNSUPPORTED_PACKET (R72). A packet of an unsupported UEC kind is dropped and counted or refused. -/
  | unsupportedPacket (ep : Nat) (kind : PacketKind)
  /-- SESSION_TIMEOUT (R74). H2 closes a session after 30 s without a command. -/
  | sessionTimeout (ep sid : Nat)
  /-- LOCK_LEASE_EXPIRY (R78). An interface lock is released when its lease expires. -/
  | lockLeaseExpiry (ep : Nat)
  /-- XLT_INV (R53). A write of XLT_INV starts invalidating cached translations of a page. -/
  | xltInv (x : BitVec 64)
  /-- XLT_INV_COMPLETE (R53). Every agent has dropped the old translation and BUSY clears. -/
  | xltInvComplete
  /-- QUERY (R67). RGN_CMD QUERY reports a region's PLB references and in-flight requests. -/
  | regionQuery (id : BitVec 20)
  /-- PURGE (R67). RGN_CMD PURGE deletes every range-table entry naming a region. -/
  | regionPurge (id : BitVec 20)
  /-- FREE (R68). RGN_CMD FREE returns a swept TOMBSTONE region to FREE. -/
  | regionFree (id : BitVec 20)
  /-- ALLOC (R66). RGN_CMD ALLOC makes a FREE region LIVE and gives its creator full rights. -/
  | regionAlloc (id : BitVec 20)
  /-- RFREE (R425). RGN_CMD RFREE performs a steward free REVOKE of a region. -/
  | regionRfree (id : BitVec 20)
  /-- OPURGE (R425). RGN_CMD OPURGE deletes an owner's range table and shoots down its PLB entries. -/
  | ownerPurge (o : BitVec 12)
  /-- OCREATE (R70). RGN_CMD OCREATE creates an owner descriptor. -/
  | ownerCreate (o : BitVec 12)
  /-- ODEL (R70). RGN_CMD ODEL removes an owner descriptor. -/
  | ownerDelete (o : BitVec 12)
  /-- ARM (R376). STOP_CMD ARM sets STOP_AT on every core of a partition after a lead check. -/
  | stopArm (p : Nat) (tear : Bool) (q : BitVec 8)
  /-- CANCEL (R376). STOP_CMD CANCEL disarms the cores not yet halted. -/
  | stopCancel (p : Nat)
  /-- RESUME (R380). STOP_CMD RESUME reinjects spilled packets and restarts a swept partition. -/
  | stopResume (p : Nat) (drop : Bool) (col : BitVec 6)
  /-- SYNC_STOP_HALT (R376). A core's local GTC reaches STOP_AT and it halts, stopping its continuations and tearing a named queue. -/
  | syncStopHalt (u : Nat)
  /-- SWEEP_COMPLETE (R377). The sweep, engine work and spill write finish and SWEPT is set. -/
  | sweepComplete (p : Nat)
  /-- HG_HALT (R387). A HALT write halts every member core of a halt group, with cross-triggers. -/
  | hgHalt (g : Nat)
  /-- HG_RESUME (R387). A RESUME write restarts every member of a halt group. -/
  | hgResume (g : Nat)
  /-- HINT_DROP_READ (R275). A read of HINT_DROP returns and clears the dropped-hint count. -/
  | hintDropRead
  /-- ACCT_E_READ (R423). A read of ACCT_E returns and clears a virtual device's energy sum. -/
  | acctERead (v : Nat)
  /-- ACCT_LATE_READ (R423). A read of ACCT_LATE returns and clears a virtual device's late charges. -/
  | acctLateRead (v : Nat)
  /-- POWER_UP (R427). Power-up starts the GTC and runs the mask ROM, which reconstructs identity and enters stage 1 or a recovery boot. -/
  | powerUp (recov : Bool)
  /-- BOOT_SET_WRITE (R428). A hart write of BOOT_SET advances the boot phase or records an error. -/
  | bootSetWrite (hart : Nat) (x : BitVec 64)
  /-- HART_RUN (R428). A write of HART_RUN releases harts from reset. -/
  | hartRun (hart : Nat) (x : BitVec 64)
  /-- PUF_LOCK (R428). A write of PUF_LOCK locks the PUF window and SE_UDS until power-off. -/
  | pufLock (x : BitVec 64)
  /-- CORE_REL (R428). A write of CORE_REL loads segment 15 into every core and releases the cores. -/
  | coreRel (x : BitVec 64)
  /-- FP_DATA (R430). A write of FP_DATA programs 8 bytes of boot flash during recovery. -/
  | fpData (x : BitVec 64)
  /-- FP_ERASE (R430). A write of FP_ERASE erases a 4 KiB flash sector during recovery. -/
  | fpErase
  /-- LKEY (R446). SE_CMD LKEY installs a link key in both ends of a link. -/
  | lkey (link : HartWrite 8)
  /-- SE_LROOT_WRITE (R446). The one accepted write of LROOT into the security engine. -/
  | seLrootWrite (x : HartWrite 256)
  /-- MC_POWER (R443). Setting MC_CTL PWR powers a stack's memory controller. -/
  | mcPower (n : Nat)
  /-- MC_ENABLE (R443). Setting MC_CTL ENABLE brings a trained stack into service. -/
  | mcEnable (n : Nat)
  /-- MC_LANE_REPAIR (R443). Training step 1: IEEE 1500 port reset and lane repair. -/
  | mcLaneRepair (n : Nat)
  /-- MC_CA_TRAINING (R443). Training step 2: command and address training. -/
  | mcCaTraining (n : Nat)
  /-- MC_READ_TRAINING (R443). Training step 3: read training. -/
  | mcReadTraining (n : Nat)
  /-- MC_WRITE_TRAINING (R443). Training step 4: write training. -/
  | mcWriteTraining (n : Nat)
  /-- MC_EYE_CENTRING (R443). Training step 5: read-write eye centring. -/
  | mcEyeCentring (n : Nat)
  /-- MC_REFRESH_SETUP (R443). Training step 6: refresh and temperature set-up. -/
  | mcRefreshSetup (n : Nat)
  /-- MC_STEP_COMPLETE (R444). A training step finishes with PASS and per-channel failures recorded. -/
  | mcStepComplete (n : Nat) (pass : Bool) (fail : BitVec 32) (lanes : BitVec 16)
  /-- UL_SIDEBAND (R445). Setting UL_CTL SB turns on a UCIe link's sideband. -/
  | ulSideband (l : Nat)
  /-- UL_TRAIN (R445). Setting UL_CTL TRAIN runs mainband initialisation and lane repair. -/
  | ulTrain (l : Nat)
  /-- UL_ENABLE (R445). Setting UL_CTL ENABLE admits traffic on a link. -/
  | ulEnable (l : Nat)
  /-- PT_PLL (R447). Setting PT_CTL PLL starts a port's PLL. -/
  | ptPll (p : Nat)
  /-- PT_TXEN (R447). Setting PT_CTL TXEN enables a port's transmitter. -/
  | ptTxen (p : Nat)
  /-- PT_LINK_TRAINING (R447). Setting PT_CTL LT runs 802.3dj link training. -/
  | ptLinkTraining (p : Nat)
  /-- PT_MAC (R447). Setting PT_CTL MAC brings the port's MAC up. -/
  | ptMac (p : Nat)
  /-- PT_FEC_READ (R447). A read of PT_FEC returns and clears the uncorrectable codeword count. -/
  | ptFecRead (p : Nat)
  /-- PORT_RETRY (R448). Every second H3 retries bringing up a port without a link partner. -/
  | portRetry (p : Nat)
  /-- PAIR_KEY_EXCHANGE (R441). H1 agrees a pair key with a peer device before device-to-device traffic crosses a port. -/
  | pairKeyExchange (p : PortPeer)
  /-- LINK_TAG_MISMATCH (R442). A sealed flit run fails its tag and is discarded and retried, taking the link down after 16 mismatches. -/
  | linkTagMismatch (link : Nat)
  /-- LINK_REKEY (R442). A flit counter would wrap, so the sender moves to the next key epoch. -/
  | linkRekey (link dir : Nat)
  /-- REGISTER_WRITE (R5). A write to a hub or core register that has no row of its own. -/
  | registerWrite (addr x : BitVec 64)
  /-- ILLEGAL_INSTRUCTION (R118). The core issues an encoding that is not an assigned instruction and raises the exact illegal-instruction trap. -/
  | illegalInstruction (word : BitVec 32)
  /-- NOT_LANDED_FETCH (R108). Sequential flow reaches an IMA whose segment is not LANDED, or segment 15 outside steward mode, and the not-landed or protection trap is raised. -/
  | notLandedFetch
  /-- BADOP_COMMAND (R76). A command with an OP outside the table or a VER other than 1 is answered BADOP. -/
  | badopCommand (ep : Nat) (c : HostCmd)
  /-- ISSUE_CYCLE (R422). Each issue cycle the GTC counts up and every LOADED slot is charged its share of static energy, even while nothing issues. -/
  | issueCycle
  /-- POWER_OFF (R427). Power is removed, ending the recovery halt, PUF_LOCK, BOOTN and every other volatile state. -/
  | powerOff
  /-- MC_PWROK (R443). A stack's memory controller reports PWROK after PWR is set. -/
  | mcPwrok (n : Nat)
  /-- MC_ACTIVE (R443). A stack's memory controller reports ACTIVE after ENABLE is set. -/
  | mcActive (n : Nat)
  /-- UL_SBUP (R445). A UCIe link's sideband comes up and SBUP is set. -/
  | ulSbup (l : Nat)
  /-- UL_ACTIVE (R445). A UCIe link completes mainband training and reports ACTIVE with its lane count. -/
  | ulActive (l : Nat) (lanes repaired : BitVec 8)
  /-- PT_PLLLOCK (R447). A port's PLL locks and PLLLOCK is set. -/
  | ptPlllock (p : Nat)
  /-- PT_LTDONE (R447). A port's 802.3dj link training finishes with LTDONE and CDR lock on its lanes. -/
  | ptLtdone (p : Nat) (cdr : BitVec 8)
  /-- PT_FECLOCK (R447). A port gains FEC lock and alignment, setting FECLOCK and ALIGN. -/
  | ptFeclock (p : Nat)
  /-- PT_UP (R447). A port's MAC comes up and UP is set. -/
  | ptUp (p : Nat)
  /-- LKEY_DONE (R446). The security engine finishes installing a link key in both ends and sets SE_STA DONE or ERR. -/
  | lkeyDone
  /-- FP_BUSY_CLEAR (R430). A boot-flash program or erase operation finishes and FP_STA BUSY clears. -/
  | fpBusyClear
  deriving DecidableEq, Repr

end Sys2Proof
end

