-- ==== Sys2Proof/WellFormed.lean ====
section
/-! DEFINITION. Which instructions and events are well formed: the encodings that R118 and R216 call legal wherever that does not hang on the mode,
and events that name a unit the device has (R26). An ill-formed encoded instruction takes the illegal-instruction trap when it issues. -/

namespace Sys2Proof

open Sys2Proof.Machine

/-- Cores of every kind: 4,096 compute cores, 256 channel cores and 16 fabric channel cores (R26), numbered as R386 numbers them. -/
def unitCount : Nat := 4368

/-- The checks of R118 and R216 that the fields alone decide, and the ranges of units in events. -/
def wellFormed : Instr → Bool
  | .ldb _ _ _ _ _ => true
  | .ldbz _ _ _ _ _ => true
  | .ldh _ _ _ _ _ => true
  | .ldhz _ _ _ _ _ => true
  | .ldw _ _ _ _ _ => true
  | .ldwz _ _ _ _ _ => true
  | .ldd _ _ _ _ _ => true
  | .stb _ _ _ _ => true
  | .sth _ _ _ _ => true
  | .stw _ _ _ _ => true
  | .std _ _ _ _ => true
  | .ldv _ _ _ _ _ => true
  | .stv _ _ _ _ => true
  | .stvm _ _ _ _ _ => true
  | .ldve8 _ _ _ _ _ => true
  | .ldve16 _ _ _ _ _ => true
  | .ldve32 _ _ _ _ _ => true
  | .ldve64 _ _ _ _ _ => true
  | .addi _ _ _ _ => true
  | .andi _ _ _ _ => true
  | .ori _ _ _ _ => true
  | .xori _ _ _ _ => true
  | .slti _ _ _ _ => true
  | .sltni _ _ _ _ => true
  | .slli _ _ _ _ => true
  | .srli _ _ _ _ => true
  | .srai _ _ _ _ => true
  | .add _ _ _ _ => true
  | .sub _ _ _ _ => true
  | .andR _ _ _ _ => true
  | .orR _ _ _ _ => true
  | .xorR _ _ _ _ => true
  | .andn _ _ _ _ => true
  | .sll _ _ _ _ => true
  | .srl _ _ _ _ => true
  | .sra _ _ _ _ => true
  | .slt _ _ _ _ => true
  | .sltn _ _ _ _ => true
  | .minS _ _ _ _ => true
  | .maxS _ _ _ _ => true
  | .minn _ _ _ _ => true
  | .maxn _ _ _ _ => true
  | .mul _ _ _ _ => true
  | .mulh _ _ _ _ => true
  | .mulhn _ _ _ _ => true
  | .divS _ _ _ _ _ => true
  | .divn _ _ _ _ _ => true
  | .modS _ _ _ _ _ => true
  | .modn _ _ _ _ _ => true
  | .clz _ _ _ => true
  | .ctz _ _ _ => true
  | .popc _ _ _ => true
  | .brev _ _ _ => true
  | .bswap _ _ _ => true
  | .exts _ _ _ _ => true
  | .extz _ _ _ _ => true
  | .ins _ _ _ _ => true
  | .lih _ _ => true
  | .addpc _ _ => true
  | .jal _ _ => true
  | .jalr _ _ _ _ => true
  | .beq _ _ _ _ => true
  | .bne _ _ _ _ => true
  | .blt _ _ _ _ => true
  | .bge _ _ _ _ => true
  | .bltn _ _ _ _ => true
  | .bgen _ _ _ _ => true
  | .loopG _ _ _ lv => lv != 3#2
  | .loopi _ _ _ lv => lv != 3#2
  | .loopm _ _ lv => lv != 3#2
  | .lbrk _ lv => lv != 3#2
  | .dly _ _ => true
  | .waitImm _ _ _ _ => true
  | .waitReg _ _ _ _ => true
  | .tkrd _ _ _ _ => true
  | .tksetImm _ _ _ _ => true
  | .tksetReg _ _ _ _ => true
  | .crd _ _ => true
  | .cwr _ _ => true
  | .cset _ _ => true
  | .cclr _ _ => true
  | .trapI _ _ => true
  | .eret _ => true
  | .brk _ _ => true
  | .idle _ => true
  | .replay _ _ => true
  | .fnc _ _ => true
  | .qfnc _ _ => true
  | .ldaq _ _ _ _ _ => true
  | .strl _ _ _ _ => true
  | .amoadd _ _ _ _ _ _ _ => true
  | .amoand _ _ _ _ _ _ _ => true
  | .amoor _ _ _ _ _ _ _ => true
  | .amoxor _ _ _ _ _ _ _ => true
  | .amomin _ _ _ _ _ _ _ => true
  | .amomax _ _ _ _ _ _ _ => true
  | .amominn _ _ _ _ _ _ _ => true
  | .amomaxn _ _ _ _ _ _ _ => true
  | .amoswp _ _ _ _ _ _ _ => true
  | .amocas _ _ _ _ _ _ _ => true
  | .vadd _ t _ _ _ => elemArith t
  | .vsub _ t _ _ _ => elemArith t
  | .vmul _ t _ _ _ => elemArith t
  | .vmin _ t _ _ _ => elemArith t
  | .vmax _ t _ _ _ => elemArith t
  | .vand _ t _ _ _ => elemBitwise t
  | .vor _ t _ _ _ => elemBitwise t
  | .vxor _ t _ _ _ => elemBitwise t
  | .vshl _ t _ _ _ => elemBitwise t
  | .vshr _ t _ _ _ => elemBitwise t
  | .vsar _ t _ _ _ => elemBitwise t
  | .vabd _ t _ _ _ => elemArith t
  | .vadds _ t _ _ _ => elemBitwise t
  | .vsubs _ t _ _ _ => elemBitwise t
  | .vfma _ t _ _ _ => elemArith t
  | .vfms _ t _ _ _ => elemArith t
  | .vfnma _ t _ _ _ => elemArith t
  | .vdot2 _ t _ _ _ => elemDot t
  | .vmulw _ t _ _ _ => elemMulw t
  | .vcmp _ t _ _ _ _ => elemArith t
  | .vsel _ t _ _ _ => elemArith t
  | .vcvt _ t src _ _ => elemIsAssigned t && elemIsAssigned src
  | .vbcast _ t _ _ => elemArith t
  | .vperm _ t _ _ _ => elemArith t
  | .vext _ t lane _ _ => elemArith t && decide (lane.toNat < elemLanes t)
  | .vins _ t lane _ _ => elemArith t && decide (lane.toNat < elemLanes t)
  | .vabs _ t _ _ => elemArith t
  | .vneg _ t _ _ => elemArith t
  | .vmov _ t _ _ => elemArith t
  | .vmsk _ t _ _ => elemArith t
  | .vredAdd _ t _ _ => elemArith t
  | .vredMin _ t _ _ => elemArith t
  | .vredMax _ t _ _ => elemArith t
  | .vscanAdd _ t _ _ => elemArith t
  | .vscanMin _ t _ _ => elemArith t
  | .vscanMax _ t _ _ => elemArith t
  | .qred _ t _ _ _ => elemArith t
  | .qredSuspend u => decide (u < unitCount)
  | .tload _ _ _ _ => true
  | .teval _ _ _ _ _ _ => true
  | .tstat _ _ _ => true
  | .tloadPerform tile => decide (tile < 512)
  | .tevalPerform tile => decide (tile < 512)
  | .send _ _ _ _ => true
  | .sendg _ _ _ _ => true
  | .rcv _ _ => true
  | .wfm _ => true
  | .mbcnt _ n _ => decide (n.toNat ≤ 2)
  | .messageDelivery _ => true
  | .bufferFreeAnswer _ => true
  | .qcfg _ _ _ => true
  | .qres _ _ _ _ => true
  | .qpub _ _ _ => true
  | .qacq _ _ _ _ => true
  | .qrel _ _ _ => true
  | .qstat _ _ _ _ => true
  | .quireSuspend u => decide (u < unitCount)
  | .queueDeadlock _ grp => decide (grp < 256)
  | .pmac _ _ _ => true
  | .pmacs _ _ _ => true
  | .pzero _ _ => true
  | .pdrain _ _ _ => true
  | .pstat _ _ => true
  | .psync _ => true
  | .leaseGrant tile => decide (tile < 512)
  | .leaseTimeout tile => decide (tile < 512)
  | .pressEntryStart tile => decide (tile < 512)
  | .pressStartAdmit tile => decide (tile < 512)
  | .blockSlice tile => decide (tile < 512)
  | .sliceSumAccumulate tile => decide (tile < 512)
  | .pressEntryComplete tile => decide (tile < 512)
  | .governorWindow => true
  | .pressShootdown tile _ => decide (tile < 512)
  | .segmv _ _ _ => true
  | .sefil _ _ _ => true
  | .secpy _ _ _ => true
  | .secmp _ _ _ => true
  | .sered _ _ _ => true
  | .sestat _ _ _ => true
  | .stackCommandStart ch => decide (ch < 256)
  | .stackCommandComplete ch => decide (ch < 256)
  | .goSegmv ch => decide (ch < 256)
  | .goSefil ch => decide (ch < 256)
  | .goSecpy ch => decide (ch < 256)
  | .goSecmp ch => decide (ch < 256)
  | .goSered ch => decide (ch < 256)
  | .xld _ _ _ _ _ => true
  | .xst _ _ _ _ => true
  | .xldv _ _ _ _ _ => true
  | .xstv _ _ _ _ => true
  | .xhint _ _ _ _ => true
  | .spawn _ _ _ => true
  | .deal _ _ _ => true
  | .susp _ => true
  | .exitI _ => true
  | .gbar _ _ => true
  | .grank _ _ _ => true
  | .generationComplete _ grp => decide (grp < 256)
  | .grant _ _ _ => true
  | .revoke _ _ _ _ _ => true
  | .rtest _ _ _ => true
  | .rdrop _ _ _ _ => true
  | .shootdownComplete _ => true
  | .jf _ _ => true
  | .jfr _ _ _ => true
  | .cfetch _ _ _ _ => true
  | .cfetchCompletion u seg => decide (u < unitCount) && decide (seg < 16)
  | .cseg _ _ _ _ => true
  | .fitb _ _ _ _ => true
  | .fite _ _ => true
  | .fitk _ _ => true
  | .fitq _ _ _ _ => true
  | .fitw _ _ _ _ => true
  | .trainingStep quad e => decide (quad < 32) && decide (e < 16)
  | .substitutionOutputs quad _ => decide (quad < 32)
  | .nop _ => true
  | .cAddi _ _ => true
  | .cLi _ _ => true
  | .cLdd _ _ _ => true
  | .cStd _ _ _ => true
  | .cDly _ => true
  | .cNop => true
  | .cMv _ _ => true
  | .cAdd _ _ => true
  | .cSub _ _ => true
  | .cJr _ => true
  | .cJalr _ => true
  | .cBeqz _ _ => true
  | .cBnez _ _ => true
  | .cJ _ => true
  | .ownerWrite _ => true
  | .partWordWrite _ => true
  | .copyGo _ => true
  | .stopAtWrite _ => true
  | .energyWrite _ => true
  | .asyncTrap u => decide (u < unitCount)
  | .loadCompletion u e => decide (u < unitCount) && decide (e < 16)
  | .divideCompletion u _ => decide (u < unitCount)
  | .storeAck u e => decide (u < unitCount) && decide (e < 32)
  | .amoResponse u => decide (u < unitCount)
  | .copyBeat u => decide (u < unitCount)
  | .copyCompletion u => decide (u < unitCount)
  | .tileCompletion u tile => decide (u < unitCount) && decide (tile < 512)
  | .qaSlotReserve u => decide (u < unitCount)
  | .slotLoad u slot => decide (u < unitCount) && decide (slot < 8)
  | .evictWriteback u slot => decide (u < unitCount) && decide (slot < 8)
  | .slotSelect u => decide (u < unitCount)
  | .sliceExpiry u => decide (u < unitCount)
  | .bindStart p _ => decide (p < 8)
  | .bindEvict p _ => decide (p < 8)
  | .bindEvictStart p _ => decide (p < 8)
  | .bindModify p _ => decide (p < 8)
  | .partMapWrite p _ => decide (p < 8)
  | .pwSetWrite u _ => decide (u < unitCount)
  | .pwSetApply u => decide (u < unitCount)
  | .dealChunk _ => true
  | .dependenceSatisfied _ => true
  | .dependenceFailed _ => true
  | .drainComplete v q => decide (v < 64) && decide (q < 256)
  | .resetComplete v q => decide (v < 64) && decide (q < 256)
  | .watchdogExpiry v q => decide (v < 64) && decide (q < 256)
  | .hostOpen ep _ => decide (ep < 65)
  | .hostClose ep _ => decide (ep < 65)
  | .hostLock ep _ => decide (ep < 65)
  | .hostUnlock ep _ => decide (ep < 65)
  | .hostQcreate ep _ => decide (ep < 65)
  | .hostQopen ep _ => decide (ep < 65)
  | .hostLaunch ep _ => decide (ep < 65)
  | .hostDrain ep _ => decide (ep < 65)
  | .hostReset ep _ => decide (ep < 65)
  | .hostQdestroy ep _ => decide (ep < 65)
  | .hostQstat ep _ => decide (ep < 65)
  | .hostKeyload ep _ => decide (ep < 65)
  | .hostEvidence ep _ => decide (ep < 65)
  | .hostVcreate ep _ => decide (ep < 65)
  | .hostVdestroy ep _ => decide (ep < 65)
  | .rmaWrite ep _ _ => decide (ep < 65)
  | .rmaRead ep _ _ => decide (ep < 65)
  | .unsupportedPacket ep _ => decide (ep < 65)
  | .sessionTimeout ep _ => decide (ep < 65)
  | .lockLeaseExpiry ep => decide (ep < 65)
  | .xltInv _ => true
  | .xltInvComplete => true
  | .regionQuery _ => true
  | .regionPurge _ => true
  | .regionFree _ => true
  | .regionAlloc _ => true
  | .regionRfree _ => true
  | .ownerPurge _ => true
  | .ownerCreate _ => true
  | .ownerDelete _ => true
  | .stopArm p _ _ => decide (p < 8)
  | .stopCancel p => decide (p < 8)
  | .stopResume p _ _ => decide (p < 8)
  | .syncStopHalt u => decide (u < unitCount)
  | .sweepComplete p => decide (p < 8)
  | .hgHalt g => decide (g < 64)
  | .hgResume g => decide (g < 64)
  | .hintDropRead => true
  | .acctERead v => decide (v < 64)
  | .acctLateRead v => decide (v < 64)
  | .powerUp _ => true
  | .bootSetWrite hart _ => decide (hart < 4)
  | .hartRun hart _ => decide (hart < 4)
  | .pufLock _ => true
  | .coreRel _ => true
  | .fpData _ => true
  | .fpErase => true
  | .lkey link => decide (link.hart < 4)
  | .seLrootWrite x => decide (x.hart < 4)
  | .mcPower n => decide (n < 8)
  | .mcEnable n => decide (n < 8)
  | .mcLaneRepair n => decide (n < 8)
  | .mcCaTraining n => decide (n < 8)
  | .mcReadTraining n => decide (n < 8)
  | .mcWriteTraining n => decide (n < 8)
  | .mcEyeCentring n => decide (n < 8)
  | .mcRefreshSetup n => decide (n < 8)
  | .mcStepComplete n _ _ _ => decide (n < 8)
  | .ulSideband l => decide (l < 18)
  | .ulTrain l => decide (l < 18)
  | .ulEnable l => decide (l < 18)
  | .ptPll p => decide (p < 8)
  | .ptTxen p => decide (p < 8)
  | .ptLinkTraining p => decide (p < 8)
  | .ptMac p => decide (p < 8)
  | .ptFecRead p => decide (p < 8)
  | .portRetry p => decide (p < 8)
  | .pairKeyExchange p => decide (p.port < 8)
  | .linkTagMismatch link => decide (link < 72)
  | .linkRekey link dir => decide (link < 72) && decide (dir < 2)
  | .registerWrite _ _ => true
  | .illegalInstruction _ => true
  | .notLandedFetch => true
  | .badopCommand ep _ => decide (ep < 65)
  | .issueCycle => true
  | .powerOff => true
  | .mcPwrok n => decide (n < 8)
  | .mcActive n => decide (n < 8)
  | .ulSbup l => decide (l < 18)
  | .ulActive l _ _ => decide (l < 18)
  | .ptPlllock p => decide (p < 8)
  | .ptLtdone p _ => decide (p < 8)
  | .ptFeclock p => decide (p < 8)
  | .ptUp p => decide (p < 8)
  | .lkeyDone => true
  | .fpBusyClear => true

end Sys2Proof
end

