-- ==== Sys2Proof/Decode.lean ====
section
/-! DEFINITION. Decoding and encoding. A 32-bit word is split into the seven fields that every format of R111 is cut from, a compact parcel into the four of R114;
the opcode map (R115 to R117) is written over these fields. Decoding is total; an unassigned encoding is rejected by name and takes the fate of R118. -/

namespace Sys2Proof

/-- The cuts common to the 32-bit formats of R111: bits [31:30], [29:25], [24:20], [19:15], [14:12], [11:7] and [6:2]. -/
structure Fields where
  sc  : BitVec 2
  f5  : BitVec 5
  b   : BitVec 5
  a   : BitVec 5
  f3  : BitVec 3
  d   : BitVec 5
  maj : BitVec 5
  deriving DecidableEq, Repr

/-- The cuts of the compact formats of R114: bits [15:13], [12:10], [9:2] and [1:0]. -/
structure CFields where
  f  : BitVec 3
  r  : BitVec 3
  lo : BitVec 8
  q  : BitVec 2
  deriving DecidableEq, Repr

/-- Why bytes are not an instruction. -/
inductive Reject where
  /-- Fewer bytes than the first parcel asks for (R110). -/
  | truncated
  /-- Not an assigned instruction (R118): the word, or the parcel for a compact form, zero-extended. -/
  | unassigned (word : BitVec 32)
  deriving DecidableEq, Repr

/-- What decoding bytes gives: an instruction and its size in bytes, or a rejection. -/
inductive Decoded where
  | ok (i : Instr) (size : Nat)
  | reject (r : Reject)
  deriving DecidableEq, Repr

/-- An encoded instruction: one parcel or one word. -/
inductive Encoded where
  | parcel (p : BitVec 16)
  | word (w : BitVec 32)
  deriving DecidableEq, Repr

/-- The fields of a 32-bit word (R111). -/
def splitWord (w : BitVec 32) : Fields :=
  { sc := w.extractLsb' 30 2, f5 := w.extractLsb' 25 5, b := w.extractLsb' 20 5, a := w.extractLsb' 15 5,
    f3 := w.extractLsb' 12 3, d := w.extractLsb' 7 5, maj := w.extractLsb' 2 5 }

/-- The 32-bit word of fields, with bits [1:0] = 0b11 (R111). -/
def joinWord (F : Fields) : BitVec 32 := F.sc ++ F.f5 ++ F.b ++ F.a ++ F.f3 ++ F.d ++ F.maj ++ 3#2

/-- The fields of a compact parcel (R114). -/
def splitParcel (p : BitVec 16) : CFields :=
  { f := p.extractLsb' 13 3, r := p.extractLsb' 10 3, lo := p.extractLsb' 2 8, q := p.extractLsb' 0 2 }

/-- The compact parcel of fields (R114). -/
def joinParcel (F : CFields) : BitVec 16 := F.f ++ F.r ++ F.lo ++ F.q

/-- Major 0, LDS (R116, R117). -/
def decodeLds (F : Fields) : Option Instr :=
  match F.f3.toNat with
  | 0 => some (.ldb F.sc (F.f5.extractLsb' 1 4) ((F.f5.extractLsb' 0 1) ++ F.b) F.a F.d)
  | 1 => some (.ldbz F.sc (F.f5.extractLsb' 1 4) ((F.f5.extractLsb' 0 1) ++ F.b) F.a F.d)
  | 2 => some (.ldh F.sc (F.f5.extractLsb' 1 4) ((F.f5.extractLsb' 0 1) ++ F.b) F.a F.d)
  | 3 => some (.ldhz F.sc (F.f5.extractLsb' 1 4) ((F.f5.extractLsb' 0 1) ++ F.b) F.a F.d)
  | 4 => some (.ldw F.sc (F.f5.extractLsb' 1 4) ((F.f5.extractLsb' 0 1) ++ F.b) F.a F.d)
  | 5 => some (.ldwz F.sc (F.f5.extractLsb' 1 4) ((F.f5.extractLsb' 0 1) ++ F.b) F.a F.d)
  | 6 => some (.ldd F.sc (F.f5.extractLsb' 1 4) ((F.f5.extractLsb' 0 1) ++ F.b) F.a F.d)
  | _ => none

/-- Major 1, STS (R116, R117). -/
def decodeSts (F : Fields) : Option Instr :=
  match F.f3.toNat with
  | 0 => some (.stb F.sc (F.f5 ++ F.d) F.b F.a)
  | 1 => some (.sth F.sc (F.f5 ++ F.d) F.b F.a)
  | 2 => some (.stw F.sc (F.f5 ++ F.d) F.b F.a)
  | 3 => some (.std F.sc (F.f5 ++ F.d) F.b F.a)
  | _ => none

/-- Major 2, VLS (R116, R117). -/
def decodeVls (F : Fields) : Option Instr :=
  match F.f3.toNat with
  | 0 => some (.ldv F.sc (F.f5.extractLsb' 1 4) ((F.f5.extractLsb' 0 1) ++ F.b) F.a F.d)
  | 1 => some (.stv F.sc (F.f5 ++ F.d) F.b F.a)
  | 2 => some (.stvm F.sc ((F.f5.extractLsb' 3 2) ++ F.d) (F.f5.extractLsb' 0 3) F.b F.a)
  | 4 => some (.ldve8 F.sc (F.f5.extractLsb' 1 4) ((F.f5.extractLsb' 0 1) ++ F.b) F.a F.d)
  | 5 => some (.ldve16 F.sc (F.f5.extractLsb' 1 4) ((F.f5.extractLsb' 0 1) ++ F.b) F.a F.d)
  | 6 => some (.ldve32 F.sc (F.f5.extractLsb' 1 4) ((F.f5.extractLsb' 0 1) ++ F.b) F.a F.d)
  | 7 => some (.ldve64 F.sc (F.f5.extractLsb' 1 4) ((F.f5.extractLsb' 0 1) ++ F.b) F.a F.d)
  | _ => none

/-- Major 3, ALUI (R116, R117). -/
def decodeAlui (F : Fields) : Option Instr :=
  match F.f3.toNat with
  | 0 => some (.addi F.sc (F.f5 ++ F.b) F.a F.d)
  | 1 => some (.andi F.sc (F.f5 ++ F.b) F.a F.d)
  | 2 => some (.ori F.sc (F.f5 ++ F.b) F.a F.d)
  | 3 => some (.xori F.sc (F.f5 ++ F.b) F.a F.d)
  | 4 => some (.slti F.sc (F.f5 ++ F.b) F.a F.d)
  | 5 => some (.sltni F.sc (F.f5 ++ F.b) F.a F.d)
  | 6 => match (F.f5.extractLsb' 3 2).toNat with
    | 0 => some (.slli F.sc ((F.f5.extractLsb' 0 1) ++ F.b) F.a F.d)
    | 1 => some (.srli F.sc ((F.f5.extractLsb' 0 1) ++ F.b) F.a F.d)
    | 2 => some (.srai F.sc ((F.f5.extractLsb' 0 1) ++ F.b) F.a F.d)
    | _ => none
  | _ => none

/-- Major 4, ALU (R116, R117). -/
def decodeAlu (F : Fields) : Option Instr :=
  if F.f3 = 0#3 then
    match F.f5.toNat with
    | 0 => some (.add F.sc F.b F.a F.d)
    | 1 => some (.sub F.sc F.b F.a F.d)
    | 2 => some (.andR F.sc F.b F.a F.d)
    | 3 => some (.orR F.sc F.b F.a F.d)
    | 4 => some (.xorR F.sc F.b F.a F.d)
    | 5 => some (.andn F.sc F.b F.a F.d)
    | 6 => some (.sll F.sc F.b F.a F.d)
    | 7 => some (.srl F.sc F.b F.a F.d)
    | 8 => some (.sra F.sc F.b F.a F.d)
    | 9 => some (.slt F.sc F.b F.a F.d)
    | 10 => some (.sltn F.sc F.b F.a F.d)
    | 11 => some (.minS F.sc F.b F.a F.d)
    | 12 => some (.maxS F.sc F.b F.a F.d)
    | 13 => some (.minn F.sc F.b F.a F.d)
    | 14 => some (.maxn F.sc F.b F.a F.d)
    | _ => none
  else none

/-- Major 5, MULDIV (R116, R117). -/
def decodeMuldiv (F : Fields) : Option Instr :=
  match F.f3.toNat with
  | 0 => some (.mul F.sc F.b F.a F.d)
  | 1 => some (.mulh F.sc F.b F.a F.d)
  | 2 => some (.mulhn F.sc F.b F.a F.d)
  | 3 => some (.divS F.sc (F.f5.extractLsb' 1 4) F.b F.a F.d)
  | 4 => some (.divn F.sc (F.f5.extractLsb' 1 4) F.b F.a F.d)
  | 5 => some (.modS F.sc (F.f5.extractLsb' 1 4) F.b F.a F.d)
  | 6 => some (.modn F.sc (F.f5.extractLsb' 1 4) F.b F.a F.d)
  | _ => none

/-- Major 6, BITS (R116, R117). -/
def decodeBits (F : Fields) : Option Instr :=
  if F.f3 = 0#3 then
    match F.f5.toNat with
    | 0 => some (.clz F.sc F.a F.d)
    | 1 => some (.ctz F.sc F.a F.d)
    | 2 => some (.popc F.sc F.a F.d)
    | 3 => some (.brev F.sc F.a F.d)
    | 4 => some (.bswap F.sc F.a F.d)
    | 5 => some (.exts F.sc F.b F.a F.d)
    | 6 => some (.extz F.sc F.b F.a F.d)
    | 7 => some (.ins F.sc F.b F.a F.d)
    | _ => none
  else none

/-- Major 7, LIH (R116, R117). -/
def decodeLih (F : Fields) : Option Instr := some (.lih (F.sc ++ F.f5 ++ F.b ++ F.a ++ F.f3) F.d)

/-- Major 8, ADDPC (R116, R117). -/
def decodeAddpc (F : Fields) : Option Instr := some (.addpc (F.sc ++ F.f5 ++ F.b ++ F.a ++ F.f3) F.d)

/-- Major 9, JAL (R116, R117). -/
def decodeJal (F : Fields) : Option Instr := some (.jal (F.sc ++ F.f5 ++ F.b ++ F.a ++ F.f3) F.d)

/-- Major 10, JALR (R116, R117). -/
def decodeJalr (F : Fields) : Option Instr :=
  match F.f3.toNat with
  | 0 => some (.jalr F.sc (F.f5 ++ F.b) F.a F.d)
  | _ => none

/-- Major 11, BR (R116, R117). -/
def decodeBr (F : Fields) : Option Instr :=
  match F.f3.toNat with
  | 0 => some (.beq F.sc (F.f5 ++ F.d) F.b F.a)
  | 1 => some (.bne F.sc (F.f5 ++ F.d) F.b F.a)
  | 2 => some (.blt F.sc (F.f5 ++ F.d) F.b F.a)
  | 3 => some (.bge F.sc (F.f5 ++ F.d) F.b F.a)
  | 4 => some (.bltn F.sc (F.f5 ++ F.d) F.b F.a)
  | 5 => some (.bgen F.sc (F.f5 ++ F.d) F.b F.a)
  | _ => none

/-- Major 12, LOOP (R116, R117). -/
def decodeLoop (F : Fields) : Option Instr :=
  match F.f3.toNat with
  | 0 => some (.loopG F.sc (F.f5 ++ F.b) F.a (F.d.extractLsb' 0 2))
  | 1 => some (.loopi F.sc (F.f5 ++ F.b) (F.a ++ (F.d.extractLsb' 2 3)) (F.d.extractLsb' 0 2))
  | 2 => some (.loopm F.sc (F.f5 ++ F.b) (F.d.extractLsb' 0 2))
  | 3 => some (.lbrk F.sc (F.d.extractLsb' 0 2))
  | _ => none

/-- Major 13, ISS (R116, R117). -/
def decodeIss (F : Fields) : Option Instr :=
  match F.f3.toNat with
  | 0 => some (.dly F.sc (F.f5 ++ F.b))
  | 1 => some (.waitImm F.sc (F.f5 ++ F.a ++ F.d) (F.b.extractLsb' 4 1) (F.b.extractLsb' 0 4))
  | 2 => some (.waitReg F.sc (F.b.extractLsb' 4 1) (F.b.extractLsb' 0 4) F.a)
  | 3 => some (.tkrd F.sc (F.b.extractLsb' 4 1) (F.b.extractLsb' 0 4) F.d)
  | 4 => some (.tksetImm F.sc (F.f5 ++ F.a ++ F.d) (F.b.extractLsb' 4 1) (F.b.extractLsb' 0 4))
  | 5 => some (.tksetReg F.sc (F.b.extractLsb' 4 1) (F.b.extractLsb' 0 4) F.a)
  | _ => none

/-- Major 14, SYS (R116, R117). -/
def decodeSys (F : Fields) : Option Instr :=
  match F.f3.toNat with
  | 0 => some (.crd (F.sc ++ F.f5 ++ F.b) F.d)
  | 1 => some (.cwr (F.sc ++ F.f5 ++ F.b) F.a)
  | 2 => some (.cset (F.sc ++ F.f5 ++ F.b) F.a)
  | 3 => some (.cclr (F.sc ++ F.f5 ++ F.b) F.a)
  | 4 => match F.f5.toNat with
    | 0 => some (.trapI F.sc (F.b ++ F.a))
    | 1 => some (.eret F.sc)
    | 2 => some (.brk F.sc (F.b ++ F.a))
    | 3 => some (.idle F.sc)
    | 4 => some (.replay F.sc (F.a.extractLsb' 0 4))
    | _ => none
  | _ => none

/-- Major 15, ORD (R116, R117). -/
def decodeOrd (F : Fields) : Option Instr :=
  match F.f3.toNat with
  | 0 => some (.fnc F.sc (F.f5.extractLsb' 0 3))
  | 1 => some (.qfnc F.sc (F.f5.extractLsb' 0 4))
  | 2 => some (.ldaq F.sc (F.f5.extractLsb' 1 4) (F.b.extractLsb' 0 3) F.a F.d)
  | 3 => some (.strl F.sc (F.f5.extractLsb' 0 3) F.b F.a)
  | _ => none

/-- Major 16, AMO (R116, R117). -/
def decodeAmo (F : Fields) : Option Instr :=
  match (F.f5.extractLsb' 1 4).toNat with
  | 0 => some (.amoadd (F.sc.extractLsb' 1 1) (F.sc.extractLsb' 0 1) (F.f5.extractLsb' 0 1) F.b F.a F.f3 F.d)
  | 1 => some (.amoand (F.sc.extractLsb' 1 1) (F.sc.extractLsb' 0 1) (F.f5.extractLsb' 0 1) F.b F.a F.f3 F.d)
  | 2 => some (.amoor (F.sc.extractLsb' 1 1) (F.sc.extractLsb' 0 1) (F.f5.extractLsb' 0 1) F.b F.a F.f3 F.d)
  | 3 => some (.amoxor (F.sc.extractLsb' 1 1) (F.sc.extractLsb' 0 1) (F.f5.extractLsb' 0 1) F.b F.a F.f3 F.d)
  | 4 => some (.amomin (F.sc.extractLsb' 1 1) (F.sc.extractLsb' 0 1) (F.f5.extractLsb' 0 1) F.b F.a F.f3 F.d)
  | 5 => some (.amomax (F.sc.extractLsb' 1 1) (F.sc.extractLsb' 0 1) (F.f5.extractLsb' 0 1) F.b F.a F.f3 F.d)
  | 6 => some (.amominn (F.sc.extractLsb' 1 1) (F.sc.extractLsb' 0 1) (F.f5.extractLsb' 0 1) F.b F.a F.f3 F.d)
  | 7 => some (.amomaxn (F.sc.extractLsb' 1 1) (F.sc.extractLsb' 0 1) (F.f5.extractLsb' 0 1) F.b F.a F.f3 F.d)
  | 8 => some (.amoswp (F.sc.extractLsb' 1 1) (F.sc.extractLsb' 0 1) (F.f5.extractLsb' 0 1) F.b F.a F.f3 F.d)
  | 9 => some (.amocas (F.sc.extractLsb' 1 1) (F.sc.extractLsb' 0 1) (F.f5.extractLsb' 0 1) F.b F.a F.f3 F.d)
  | _ => none

/-- Major 17, VAR (R116, R117). -/
def decodeVar (F : Fields) : Option Instr :=
  match (F.f5.extractLsb' 0 4).toNat with
  | 0 => some (.vadd F.sc ((F.f5.extractLsb' 4 1) ++ F.f3) F.b F.a F.d)
  | 1 => some (.vsub F.sc ((F.f5.extractLsb' 4 1) ++ F.f3) F.b F.a F.d)
  | 2 => some (.vmul F.sc ((F.f5.extractLsb' 4 1) ++ F.f3) F.b F.a F.d)
  | 3 => some (.vmin F.sc ((F.f5.extractLsb' 4 1) ++ F.f3) F.b F.a F.d)
  | 4 => some (.vmax F.sc ((F.f5.extractLsb' 4 1) ++ F.f3) F.b F.a F.d)
  | 5 => some (.vand F.sc ((F.f5.extractLsb' 4 1) ++ F.f3) F.b F.a F.d)
  | 6 => some (.vor F.sc ((F.f5.extractLsb' 4 1) ++ F.f3) F.b F.a F.d)
  | 7 => some (.vxor F.sc ((F.f5.extractLsb' 4 1) ++ F.f3) F.b F.a F.d)
  | 8 => some (.vshl F.sc ((F.f5.extractLsb' 4 1) ++ F.f3) F.b F.a F.d)
  | 9 => some (.vshr F.sc ((F.f5.extractLsb' 4 1) ++ F.f3) F.b F.a F.d)
  | 10 => some (.vsar F.sc ((F.f5.extractLsb' 4 1) ++ F.f3) F.b F.a F.d)
  | 11 => some (.vabd F.sc ((F.f5.extractLsb' 4 1) ++ F.f3) F.b F.a F.d)
  | 12 => some (.vadds F.sc ((F.f5.extractLsb' 4 1) ++ F.f3) F.b F.a F.d)
  | 13 => some (.vsubs F.sc ((F.f5.extractLsb' 4 1) ++ F.f3) F.b F.a F.d)
  | _ => none

/-- Major 18, VFM (R116, R117). -/
def decodeVfm (F : Fields) : Option Instr :=
  match (F.f5.extractLsb' 0 4).toNat with
  | 0 => some (.vfma F.sc ((F.f5.extractLsb' 4 1) ++ F.f3) F.b F.a F.d)
  | 1 => some (.vfms F.sc ((F.f5.extractLsb' 4 1) ++ F.f3) F.b F.a F.d)
  | 2 => some (.vfnma F.sc ((F.f5.extractLsb' 4 1) ++ F.f3) F.b F.a F.d)
  | 3 => some (.vdot2 F.sc ((F.f5.extractLsb' 4 1) ++ F.f3) F.b F.a F.d)
  | 4 => some (.vmulw F.sc ((F.f5.extractLsb' 4 1) ++ F.f3) F.b F.a F.d)
  | _ => none

/-- Major 19, VMS (R116, R117). -/
def decodeVms (F : Fields) : Option Instr :=
  match (F.f5.extractLsb' 0 4).toNat with
  | 0 => some (.vcmp F.sc ((F.f5.extractLsb' 4 1) ++ F.f3) F.b F.a (F.d.extractLsb' 3 2) (F.d.extractLsb' 0 3))
  | 1 => some (.vsel F.sc ((F.f5.extractLsb' 4 1) ++ F.f3) (F.b.extractLsb' 0 3) F.a F.d)
  | 2 => some (.vcvt F.sc ((F.f5.extractLsb' 4 1) ++ F.f3) (F.b.extractLsb' 0 4) F.a F.d)
  | 3 => some (.vbcast F.sc ((F.f5.extractLsb' 4 1) ++ F.f3) F.a F.d)
  | 4 => some (.vperm F.sc ((F.f5.extractLsb' 4 1) ++ F.f3) F.b F.a F.d)
  | 5 => some (.vext F.sc ((F.f5.extractLsb' 4 1) ++ F.f3) F.b F.a F.d)
  | 6 => some (.vins F.sc ((F.f5.extractLsb' 4 1) ++ F.f3) F.b F.a F.d)
  | 7 => some (.vabs F.sc ((F.f5.extractLsb' 4 1) ++ F.f3) F.a F.d)
  | 8 => some (.vneg F.sc ((F.f5.extractLsb' 4 1) ++ F.f3) F.a F.d)
  | 9 => some (.vmov F.sc ((F.f5.extractLsb' 4 1) ++ F.f3) F.a F.d)
  | 10 => some (.vmsk F.sc ((F.f5.extractLsb' 4 1) ++ F.f3) F.a (F.d.extractLsb' 0 3))
  | _ => none

/-- Major 20, VRD (R116, R117). -/
def decodeVrd (F : Fields) : Option Instr :=
  match (F.f5.extractLsb' 0 4).toNat with
  | 0 => some (.vredAdd F.sc ((F.f5.extractLsb' 4 1) ++ F.f3) F.a F.d)
  | 1 => some (.vredMin F.sc ((F.f5.extractLsb' 4 1) ++ F.f3) F.a F.d)
  | 2 => some (.vredMax F.sc ((F.f5.extractLsb' 4 1) ++ F.f3) F.a F.d)
  | 3 => some (.vscanAdd F.sc ((F.f5.extractLsb' 4 1) ++ F.f3) F.a F.d)
  | 4 => some (.vscanMin F.sc ((F.f5.extractLsb' 4 1) ++ F.f3) F.a F.d)
  | 5 => some (.vscanMax F.sc ((F.f5.extractLsb' 4 1) ++ F.f3) F.a F.d)
  | 6 => some (.qred F.sc ((F.f5.extractLsb' 4 1) ++ F.f3) (F.b.extractLsb' 0 4) F.a F.d)
  | _ => none

/-- Major 21, TBL (R116, R117). -/
def decodeTbl (F : Fields) : Option Instr :=
  match F.f3.toNat with
  | 0 => some (.tload F.sc (F.f5.extractLsb' 1 4) F.a (F.d.extractLsb' 0 3))
  | 1 => some (.teval F.sc (F.f5.extractLsb' 1 4) (F.f5.extractLsb' 0 1) (F.b.extractLsb' 0 3) F.a F.d)
  | 2 => some (.tstat F.sc (F.b.extractLsb' 0 3) F.d)
  | _ => none

/-- Major 22, MSG (R116, R117). -/
def decodeMsg (F : Fields) : Option Instr :=
  match F.f3.toNat with
  | 0 => some (.send F.sc (F.f5.extractLsb' 0 3) F.b F.a)
  | 1 => some (.sendg F.sc (F.f5.extractLsb' 0 3) F.b F.a)
  | 2 => some (.rcv F.sc F.d)
  | 3 => some (.wfm F.sc)
  | 4 => some (.mbcnt F.sc F.b F.d)
  | _ => none

/-- Major 23, QUI (R116, R117). -/
def decodeQui (F : Fields) : Option Instr :=
  match F.f3.toNat with
  | 0 => some (.qcfg F.sc (F.b.extractLsb' 0 4) F.a)
  | 1 => some (.qres F.sc (F.b.extractLsb' 0 4) F.a F.d)
  | 2 => some (.qpub F.sc (F.b.extractLsb' 0 4) F.a)
  | 3 => some (.qacq F.sc (F.b.extractLsb' 0 4) F.a F.d)
  | 4 => some (.qrel F.sc (F.b.extractLsb' 0 4) F.a)
  | 5 => some (.qstat F.sc (F.b.extractLsb' 0 4) F.a F.d)
  | _ => none

/-- Major 24, PRS (R116, R117). -/
def decodePrs (F : Fields) : Option Instr :=
  match F.f3.toNat with
  | 0 => some (.pmac F.sc (F.f5.extractLsb' 1 4) F.a)
  | 1 => some (.pmacs F.sc (F.f5.extractLsb' 1 4) F.a)
  | 2 => some (.pzero F.sc F.a)
  | 3 => some (.pdrain F.sc (F.f5.extractLsb' 1 4) F.a)
  | 4 => some (.pstat F.sc F.d)
  | 5 => some (.psync F.sc)
  | _ => none

/-- Major 25, STK (R116, R117). -/
def decodeStk (F : Fields) : Option Instr :=
  match F.f3.toNat with
  | 0 => some (.segmv F.sc (F.f5.extractLsb' 1 4) F.a)
  | 1 => some (.sefil F.sc (F.f5.extractLsb' 1 4) F.a)
  | 2 => some (.secpy F.sc (F.f5.extractLsb' 1 4) F.a)
  | 3 => some (.secmp F.sc (F.f5.extractLsb' 1 4) F.a)
  | 4 => some (.sered F.sc (F.f5.extractLsb' 1 4) F.a)
  | 5 => some (.sestat F.sc F.a F.d)
  | _ => none

/-- Major 26, EXT (R116, R117). -/
def decodeExt (F : Fields) : Option Instr :=
  match F.f3.toNat with
  | 0 => some (.xld F.sc (F.f5.extractLsb' 1 4) ((F.f5.extractLsb' 0 1) ++ F.b) F.a F.d)
  | 1 => some (.xst F.sc (F.f5 ++ F.d) F.b F.a)
  | 2 => some (.xldv F.sc (F.f5.extractLsb' 1 4) ((F.f5.extractLsb' 0 1) ++ F.b) F.a F.d)
  | 3 => some (.xstv F.sc (F.f5 ++ F.d) F.b F.a)
  | 4 => some (.xhint F.sc F.b F.a (F.d.extractLsb' 0 1))
  | _ => none

/-- Major 27, TSK (R116, R117). -/
def decodeTsk (F : Fields) : Option Instr :=
  match F.f3.toNat with
  | 0 => some (.spawn F.sc F.a F.d)
  | 1 => some (.deal F.sc F.a F.d)
  | 2 => some (.susp F.sc)
  | 3 => some (.exitI F.sc)
  | 4 => some (.gbar F.sc (F.b.extractLsb' 0 2))
  | 5 => some (.grank F.sc (F.b.extractLsb' 0 2) F.d)
  | _ => none

/-- Major 28, OWN (R116, R117). -/
def decodeOwn (F : Fields) : Option Instr :=
  match F.f3.toNat with
  | 0 => some (.grant F.sc F.a F.d)
  | 1 => some (.revoke F.sc (F.f5.extractLsb' 1 4) (F.f5.extractLsb' 0 1) F.a F.d)
  | 2 => some (.rtest F.sc F.a F.d)
  | 3 => some (.rdrop F.sc F.b F.a F.d)
  | _ => none

/-- Major 29, CODE (R116, R117). -/
def decodeCode (F : Fields) : Option Instr :=
  match F.f3.toNat with
  | 0 => some (.jf (F.sc ++ F.f5 ++ F.b ++ F.a) F.d)
  | 1 => some (.jfr F.sc F.a F.d)
  | 2 => some (.cfetch F.sc (F.f5.extractLsb' 1 4) (F.b.extractLsb' 0 4) F.a)
  | 3 => some (.cseg F.sc (F.b.extractLsb' 4 1) (F.b.extractLsb' 0 4) F.d)
  | _ => none

/-- Major 30, FIT (R116, R117). -/
def decodeFit (F : Fields) : Option Instr :=
  match F.f3.toNat with
  | 0 => some (.fitb F.sc (F.f5.extractLsb' 1 4) (F.b.extractLsb' 0 4) F.a)
  | 1 => some (.fite F.sc (F.b.extractLsb' 0 4))
  | 2 => some (.fitk F.sc (F.b.extractLsb' 0 4))
  | 3 => some (.fitq F.sc (F.b.extractLsb' 0 4) F.a F.d)
  | 4 => some (.fitw F.sc (F.b.extractLsb' 0 4) F.a F.d)
  | _ => none

/-- Major 31, HINT (R116, R117). -/
def decodeHint (F : Fields) : Option Instr := some (.nop F.sc)

/-- The opcode map of R116 over the fields of a word. -/
def decodeFields (F : Fields) : Option Instr :=
  match F.maj.toNat with
  | 0 => decodeLds F
  | 1 => decodeSts F
  | 2 => decodeVls F
  | 3 => decodeAlui F
  | 4 => decodeAlu F
  | 5 => decodeMuldiv F
  | 6 => decodeBits F
  | 7 => decodeLih F
  | 8 => decodeAddpc F
  | 9 => decodeJal F
  | 10 => decodeJalr F
  | 11 => decodeBr F
  | 12 => decodeLoop F
  | 13 => decodeIss F
  | 14 => decodeSys F
  | 15 => decodeOrd F
  | 16 => decodeAmo F
  | 17 => decodeVar F
  | 18 => decodeVfm F
  | 19 => decodeVms F
  | 20 => decodeVrd F
  | 21 => decodeTbl F
  | 22 => decodeMsg F
  | 23 => decodeQui F
  | 24 => decodePrs F
  | 25 => decodeStk F
  | 26 => decodeExt F
  | 27 => decodeTsk F
  | 28 => decodeOwn F
  | 29 => decodeCode F
  | 30 => decodeFit F
  | 31 => decodeHint F
  | _ => none

/-- The compact forms of R115 over the fields of a parcel. -/
def decodeCFields (F : CFields) : Option Instr :=
  match F.q.toNat, F.f.toNat with
  | 0, 1 => some (.cAddi F.r F.lo)
  | 0, 2 => some (.cLi F.r F.lo)
  | 0, 3 => some (.cLdd F.r (F.lo.extractLsb' 5 3) (F.lo.extractLsb' 0 5))
  | 0, 4 => some (.cStd F.r (F.lo.extractLsb' 5 3) (F.lo.extractLsb' 0 5))
  | 0, 5 => some (.cDly F.lo)
  | 0, 6 => some (.cNop)
  | 1, 1 => some (.cBeqz F.r F.lo)
  | 1, 2 => some (.cBnez F.r F.lo)
  | 1, 3 => some (.cJ (F.r ++ F.lo))
  | 1, 0 => match (F.lo.extractLsb' 0 5).toNat with
    | 0 => some (.cMv F.r (F.lo.extractLsb' 5 3))
    | 1 => some (.cAdd F.r (F.lo.extractLsb' 5 3))
    | 2 => some (.cSub F.r (F.lo.extractLsb' 5 3))
    | 3 => some (.cJr F.r)
    | 4 => some (.cJalr F.r)
    | _ => none
  | _, _ => none

/-- Decodes a 32-bit word (R111, R116). -/
def decodeWord (w : BitVec 32) : Option Instr := decodeFields (splitWord w)

/-- Decodes a compact parcel (R114, R115). -/
def decodeParcel (p : BitVec 16) : Option Instr := decodeCFields (splitParcel p)

/-- The parcel rule of R110: a first parcel whose bits [1:0] are 0b11 begins a 32-bit instruction. -/
def isLong (p : BitVec 16) : Bool := p.extractLsb' 0 2 == 3#2

/-- Decodes the instruction whose first parcel is `p0` and whose second, if it has one, is `p1`; the raw word is kept for the fate of R118. -/
def decodeParcels (p0 p1 : BitVec 16) : Decoded :=
  if isLong p0 then
    match decodeWord (p1 ++ p0) with
    | some i => .ok i 4
    | none => .reject (.unassigned (p1 ++ p0))
  else
    match decodeParcel p0 with
    | some i => .ok i 2
    | none => .reject (.unassigned (p0.setWidth 32))

/-- Decodes the bytes at the start of a list: parcels are little-endian (R110). -/
def decodeBytes : List Byte → Decoded
  | b0 :: b1 :: b2 :: b3 :: _ => decodeParcels (b1 ++ b0) (b3 ++ b2)
  | b0 :: b1 :: _ => if isLong (b1 ++ b0) then .reject .truncated else decodeParcels (b1 ++ b0) 0#16
  | _ => .reject .truncated

/-- The instruction in bytes, where they hold one. -/
def decodeInstr (bs : List Byte) : Option Instr :=
  match decodeBytes bs with
  | .ok i _ => some i
  | .reject _ => none

/-- Byte n of a number, bits [8n+7:8n]. -/
def byteOf (w n : Nat) : Byte := BitVec.ofNat 8 (w / 2 ^ (8 * n))

/-- The decoder on a row of spec/opcode_table.json: bit 0 is the least significant bit of the first parcel; bits above `nbits` are 0. -/
def decodeTableWord (nbits w : Nat) : Option Instr :=
  let x := w % 2 ^ nbits
  decodeInstr [byteOf x 0, byteOf x 1, byteOf x 2, byteOf x 3]

/-- The fields of an instruction's 32-bit word, reserved fields 0 (R111, R116, R117); none for a compact form or an event. -/
def encodeFields : Instr → Option Fields
  | .ldb sc k imm a d => some { sc := sc, f5 := k ++ (imm.extractLsb' 5 1), b := imm.extractLsb' 0 5, a := a, f3 := 0#3, d := d, maj := 0#5 }
  | .ldbz sc k imm a d => some { sc := sc, f5 := k ++ (imm.extractLsb' 5 1), b := imm.extractLsb' 0 5, a := a, f3 := 1#3, d := d, maj := 0#5 }
  | .ldh sc k imm a d => some { sc := sc, f5 := k ++ (imm.extractLsb' 5 1), b := imm.extractLsb' 0 5, a := a, f3 := 2#3, d := d, maj := 0#5 }
  | .ldhz sc k imm a d => some { sc := sc, f5 := k ++ (imm.extractLsb' 5 1), b := imm.extractLsb' 0 5, a := a, f3 := 3#3, d := d, maj := 0#5 }
  | .ldw sc k imm a d => some { sc := sc, f5 := k ++ (imm.extractLsb' 5 1), b := imm.extractLsb' 0 5, a := a, f3 := 4#3, d := d, maj := 0#5 }
  | .ldwz sc k imm a d => some { sc := sc, f5 := k ++ (imm.extractLsb' 5 1), b := imm.extractLsb' 0 5, a := a, f3 := 5#3, d := d, maj := 0#5 }
  | .ldd sc k imm a d => some { sc := sc, f5 := k ++ (imm.extractLsb' 5 1), b := imm.extractLsb' 0 5, a := a, f3 := 6#3, d := d, maj := 0#5 }
  | .stb sc imm b a => some { sc := sc, f5 := imm.extractLsb' 5 5, b := b, a := a, f3 := 0#3, d := imm.extractLsb' 0 5, maj := 1#5 }
  | .sth sc imm b a => some { sc := sc, f5 := imm.extractLsb' 5 5, b := b, a := a, f3 := 1#3, d := imm.extractLsb' 0 5, maj := 1#5 }
  | .stw sc imm b a => some { sc := sc, f5 := imm.extractLsb' 5 5, b := b, a := a, f3 := 2#3, d := imm.extractLsb' 0 5, maj := 1#5 }
  | .std sc imm b a => some { sc := sc, f5 := imm.extractLsb' 5 5, b := b, a := a, f3 := 3#3, d := imm.extractLsb' 0 5, maj := 1#5 }
  | .ldv sc k imm a d => some { sc := sc, f5 := k ++ (imm.extractLsb' 5 1), b := imm.extractLsb' 0 5, a := a, f3 := 0#3, d := d, maj := 2#5 }
  | .stv sc imm b a => some { sc := sc, f5 := imm.extractLsb' 5 5, b := b, a := a, f3 := 1#3, d := imm.extractLsb' 0 5, maj := 2#5 }
  | .stvm sc imm m b a => some { sc := sc, f5 := (imm.extractLsb' 5 2) ++ m, b := b, a := a, f3 := 2#3, d := imm.extractLsb' 0 5, maj := 2#5 }
  | .ldve8 sc k imm a d => some { sc := sc, f5 := k ++ (imm.extractLsb' 5 1), b := imm.extractLsb' 0 5, a := a, f3 := 4#3, d := d, maj := 2#5 }
  | .ldve16 sc k imm a d => some { sc := sc, f5 := k ++ (imm.extractLsb' 5 1), b := imm.extractLsb' 0 5, a := a, f3 := 5#3, d := d, maj := 2#5 }
  | .ldve32 sc k imm a d => some { sc := sc, f5 := k ++ (imm.extractLsb' 5 1), b := imm.extractLsb' 0 5, a := a, f3 := 6#3, d := d, maj := 2#5 }
  | .ldve64 sc k imm a d => some { sc := sc, f5 := k ++ (imm.extractLsb' 5 1), b := imm.extractLsb' 0 5, a := a, f3 := 7#3, d := d, maj := 2#5 }
  | .addi sc imm a d => some { sc := sc, f5 := imm.extractLsb' 5 5, b := imm.extractLsb' 0 5, a := a, f3 := 0#3, d := d, maj := 3#5 }
  | .andi sc imm a d => some { sc := sc, f5 := imm.extractLsb' 5 5, b := imm.extractLsb' 0 5, a := a, f3 := 1#3, d := d, maj := 3#5 }
  | .ori sc imm a d => some { sc := sc, f5 := imm.extractLsb' 5 5, b := imm.extractLsb' 0 5, a := a, f3 := 2#3, d := d, maj := 3#5 }
  | .xori sc imm a d => some { sc := sc, f5 := imm.extractLsb' 5 5, b := imm.extractLsb' 0 5, a := a, f3 := 3#3, d := d, maj := 3#5 }
  | .slti sc imm a d => some { sc := sc, f5 := imm.extractLsb' 5 5, b := imm.extractLsb' 0 5, a := a, f3 := 4#3, d := d, maj := 3#5 }
  | .sltni sc imm a d => some { sc := sc, f5 := imm.extractLsb' 5 5, b := imm.extractLsb' 0 5, a := a, f3 := 5#3, d := d, maj := 3#5 }
  | .slli sc sh a d => some { sc := sc, f5 := 0#4 ++ (sh.extractLsb' 5 1), b := sh.extractLsb' 0 5, a := a, f3 := 6#3, d := d, maj := 3#5 }
  | .srli sc sh a d => some { sc := sc, f5 := 4#4 ++ (sh.extractLsb' 5 1), b := sh.extractLsb' 0 5, a := a, f3 := 6#3, d := d, maj := 3#5 }
  | .srai sc sh a d => some { sc := sc, f5 := 8#4 ++ (sh.extractLsb' 5 1), b := sh.extractLsb' 0 5, a := a, f3 := 6#3, d := d, maj := 3#5 }
  | .add sc b a d => some { sc := sc, f5 := 0#5, b := b, a := a, f3 := 0#3, d := d, maj := 4#5 }
  | .sub sc b a d => some { sc := sc, f5 := 1#5, b := b, a := a, f3 := 0#3, d := d, maj := 4#5 }
  | .andR sc b a d => some { sc := sc, f5 := 2#5, b := b, a := a, f3 := 0#3, d := d, maj := 4#5 }
  | .orR sc b a d => some { sc := sc, f5 := 3#5, b := b, a := a, f3 := 0#3, d := d, maj := 4#5 }
  | .xorR sc b a d => some { sc := sc, f5 := 4#5, b := b, a := a, f3 := 0#3, d := d, maj := 4#5 }
  | .andn sc b a d => some { sc := sc, f5 := 5#5, b := b, a := a, f3 := 0#3, d := d, maj := 4#5 }
  | .sll sc b a d => some { sc := sc, f5 := 6#5, b := b, a := a, f3 := 0#3, d := d, maj := 4#5 }
  | .srl sc b a d => some { sc := sc, f5 := 7#5, b := b, a := a, f3 := 0#3, d := d, maj := 4#5 }
  | .sra sc b a d => some { sc := sc, f5 := 8#5, b := b, a := a, f3 := 0#3, d := d, maj := 4#5 }
  | .slt sc b a d => some { sc := sc, f5 := 9#5, b := b, a := a, f3 := 0#3, d := d, maj := 4#5 }
  | .sltn sc b a d => some { sc := sc, f5 := 10#5, b := b, a := a, f3 := 0#3, d := d, maj := 4#5 }
  | .minS sc b a d => some { sc := sc, f5 := 11#5, b := b, a := a, f3 := 0#3, d := d, maj := 4#5 }
  | .maxS sc b a d => some { sc := sc, f5 := 12#5, b := b, a := a, f3 := 0#3, d := d, maj := 4#5 }
  | .minn sc b a d => some { sc := sc, f5 := 13#5, b := b, a := a, f3 := 0#3, d := d, maj := 4#5 }
  | .maxn sc b a d => some { sc := sc, f5 := 14#5, b := b, a := a, f3 := 0#3, d := d, maj := 4#5 }
  | .mul sc b a d => some { sc := sc, f5 := 0#5, b := b, a := a, f3 := 0#3, d := d, maj := 5#5 }
  | .mulh sc b a d => some { sc := sc, f5 := 0#5, b := b, a := a, f3 := 1#3, d := d, maj := 5#5 }
  | .mulhn sc b a d => some { sc := sc, f5 := 0#5, b := b, a := a, f3 := 2#3, d := d, maj := 5#5 }
  | .divS sc k b a d => some { sc := sc, f5 := k ++ 0#1, b := b, a := a, f3 := 3#3, d := d, maj := 5#5 }
  | .divn sc k b a d => some { sc := sc, f5 := k ++ 0#1, b := b, a := a, f3 := 4#3, d := d, maj := 5#5 }
  | .modS sc k b a d => some { sc := sc, f5 := k ++ 0#1, b := b, a := a, f3 := 5#3, d := d, maj := 5#5 }
  | .modn sc k b a d => some { sc := sc, f5 := k ++ 0#1, b := b, a := a, f3 := 6#3, d := d, maj := 5#5 }
  | .clz sc a d => some { sc := sc, f5 := 0#5, b := 0#5, a := a, f3 := 0#3, d := d, maj := 6#5 }
  | .ctz sc a d => some { sc := sc, f5 := 1#5, b := 0#5, a := a, f3 := 0#3, d := d, maj := 6#5 }
  | .popc sc a d => some { sc := sc, f5 := 2#5, b := 0#5, a := a, f3 := 0#3, d := d, maj := 6#5 }
  | .brev sc a d => some { sc := sc, f5 := 3#5, b := 0#5, a := a, f3 := 0#3, d := d, maj := 6#5 }
  | .bswap sc a d => some { sc := sc, f5 := 4#5, b := 0#5, a := a, f3 := 0#3, d := d, maj := 6#5 }
  | .exts sc b a d => some { sc := sc, f5 := 5#5, b := b, a := a, f3 := 0#3, d := d, maj := 6#5 }
  | .extz sc b a d => some { sc := sc, f5 := 6#5, b := b, a := a, f3 := 0#3, d := d, maj := 6#5 }
  | .ins sc b a d => some { sc := sc, f5 := 7#5, b := b, a := a, f3 := 0#3, d := d, maj := 6#5 }
  | .lih imm d => some { sc := imm.extractLsb' 18 2, f5 := imm.extractLsb' 13 5, b := imm.extractLsb' 8 5, a := imm.extractLsb' 3 5, f3 := imm.extractLsb' 0 3, d := d, maj := 7#5 }
  | .addpc imm d => some { sc := imm.extractLsb' 18 2, f5 := imm.extractLsb' 13 5, b := imm.extractLsb' 8 5, a := imm.extractLsb' 3 5, f3 := imm.extractLsb' 0 3, d := d, maj := 8#5 }
  | .jal off d => some { sc := off.extractLsb' 18 2, f5 := off.extractLsb' 13 5, b := off.extractLsb' 8 5, a := off.extractLsb' 3 5, f3 := off.extractLsb' 0 3, d := d, maj := 9#5 }
  | .jalr sc imm a d => some { sc := sc, f5 := imm.extractLsb' 5 5, b := imm.extractLsb' 0 5, a := a, f3 := 0#3, d := d, maj := 10#5 }
  | .beq sc imm b a => some { sc := sc, f5 := imm.extractLsb' 5 5, b := b, a := a, f3 := 0#3, d := imm.extractLsb' 0 5, maj := 11#5 }
  | .bne sc imm b a => some { sc := sc, f5 := imm.extractLsb' 5 5, b := b, a := a, f3 := 1#3, d := imm.extractLsb' 0 5, maj := 11#5 }
  | .blt sc imm b a => some { sc := sc, f5 := imm.extractLsb' 5 5, b := b, a := a, f3 := 2#3, d := imm.extractLsb' 0 5, maj := 11#5 }
  | .bge sc imm b a => some { sc := sc, f5 := imm.extractLsb' 5 5, b := b, a := a, f3 := 3#3, d := imm.extractLsb' 0 5, maj := 11#5 }
  | .bltn sc imm b a => some { sc := sc, f5 := imm.extractLsb' 5 5, b := b, a := a, f3 := 4#3, d := imm.extractLsb' 0 5, maj := 11#5 }
  | .bgen sc imm b a => some { sc := sc, f5 := imm.extractLsb' 5 5, b := b, a := a, f3 := 5#3, d := imm.extractLsb' 0 5, maj := 11#5 }
  | .loopG sc len a lv => some { sc := sc, f5 := len.extractLsb' 5 5, b := len.extractLsb' 0 5, a := a, f3 := 0#3, d := 0#3 ++ lv, maj := 12#5 }
  | .loopi sc len cnt lv => some { sc := sc, f5 := len.extractLsb' 5 5, b := len.extractLsb' 0 5, a := cnt.extractLsb' 3 5, f3 := 1#3, d := (cnt.extractLsb' 0 3) ++ lv, maj := 12#5 }
  | .loopm sc len lv => some { sc := sc, f5 := len.extractLsb' 5 5, b := len.extractLsb' 0 5, a := 0#5, f3 := 2#3, d := 0#3 ++ lv, maj := 12#5 }
  | .lbrk sc lv => some { sc := sc, f5 := 0#5, b := 0#5, a := 0#5, f3 := 3#3, d := 0#3 ++ lv, maj := 12#5 }
  | .dly sc imm => some { sc := sc, f5 := imm.extractLsb' 5 5, b := imm.extractLsb' 0 5, a := 0#5, f3 := 0#3, d := 0#5, maj := 13#5 }
  | .waitImm sc imm bank k => some { sc := sc, f5 := imm.extractLsb' 10 5, b := bank ++ k, a := imm.extractLsb' 5 5, f3 := 1#3, d := imm.extractLsb' 0 5, maj := 13#5 }
  | .waitReg sc bank k a => some { sc := sc, f5 := 0#5, b := bank ++ k, a := a, f3 := 2#3, d := 0#5, maj := 13#5 }
  | .tkrd sc bank k d => some { sc := sc, f5 := 0#5, b := bank ++ k, a := 0#5, f3 := 3#3, d := d, maj := 13#5 }
  | .tksetImm sc imm bank k => some { sc := sc, f5 := imm.extractLsb' 10 5, b := bank ++ k, a := imm.extractLsb' 5 5, f3 := 4#3, d := imm.extractLsb' 0 5, maj := 13#5 }
  | .tksetReg sc bank k a => some { sc := sc, f5 := 0#5, b := bank ++ k, a := a, f3 := 5#3, d := 0#5, maj := 13#5 }
  | .crd crn d => some { sc := crn.extractLsb' 10 2, f5 := crn.extractLsb' 5 5, b := crn.extractLsb' 0 5, a := 0#5, f3 := 0#3, d := d, maj := 14#5 }
  | .cwr crn a => some { sc := crn.extractLsb' 10 2, f5 := crn.extractLsb' 5 5, b := crn.extractLsb' 0 5, a := a, f3 := 1#3, d := 0#5, maj := 14#5 }
  | .cset crn a => some { sc := crn.extractLsb' 10 2, f5 := crn.extractLsb' 5 5, b := crn.extractLsb' 0 5, a := a, f3 := 2#3, d := 0#5, maj := 14#5 }
  | .cclr crn a => some { sc := crn.extractLsb' 10 2, f5 := crn.extractLsb' 5 5, b := crn.extractLsb' 0 5, a := a, f3 := 3#3, d := 0#5, maj := 14#5 }
  | .trapI sc code => some { sc := sc, f5 := 0#5, b := code.extractLsb' 5 5, a := code.extractLsb' 0 5, f3 := 4#3, d := 0#5, maj := 14#5 }
  | .eret sc => some { sc := sc, f5 := 1#5, b := 0#5, a := 0#5, f3 := 4#3, d := 0#5, maj := 14#5 }
  | .brk sc code => some { sc := sc, f5 := 2#5, b := code.extractLsb' 5 5, a := code.extractLsb' 0 5, f3 := 4#3, d := 0#5, maj := 14#5 }
  | .idle sc => some { sc := sc, f5 := 3#5, b := 0#5, a := 0#5, f3 := 4#3, d := 0#5, maj := 14#5 }
  | .replay sc entry => some { sc := sc, f5 := 4#5, b := 0#5, a := 0#1 ++ entry, f3 := 4#3, d := 0#5, maj := 14#5 }
  | .fnc sc sco => some { sc := sc, f5 := 0#2 ++ sco, b := 0#5, a := 0#5, f3 := 0#3, d := 0#5, maj := 15#5 }
  | .qfnc sc n => some { sc := sc, f5 := 0#1 ++ n, b := 0#5, a := 0#5, f3 := 1#3, d := 0#5, maj := 15#5 }
  | .ldaq sc k sco a d => some { sc := sc, f5 := k ++ 0#1, b := 0#2 ++ sco, a := a, f3 := 2#3, d := d, maj := 15#5 }
  | .strl sc sco b a => some { sc := sc, f5 := 0#2 ++ sco, b := b, a := a, f3 := 3#3, d := 0#5, maj := 15#5 }
  | .amoadd aq rl w b a sco d => some { sc := aq ++ rl, f5 := 0#4 ++ w, b := b, a := a, f3 := sco, d := d, maj := 16#5 }
  | .amoand aq rl w b a sco d => some { sc := aq ++ rl, f5 := 1#4 ++ w, b := b, a := a, f3 := sco, d := d, maj := 16#5 }
  | .amoor aq rl w b a sco d => some { sc := aq ++ rl, f5 := 2#4 ++ w, b := b, a := a, f3 := sco, d := d, maj := 16#5 }
  | .amoxor aq rl w b a sco d => some { sc := aq ++ rl, f5 := 3#4 ++ w, b := b, a := a, f3 := sco, d := d, maj := 16#5 }
  | .amomin aq rl w b a sco d => some { sc := aq ++ rl, f5 := 4#4 ++ w, b := b, a := a, f3 := sco, d := d, maj := 16#5 }
  | .amomax aq rl w b a sco d => some { sc := aq ++ rl, f5 := 5#4 ++ w, b := b, a := a, f3 := sco, d := d, maj := 16#5 }
  | .amominn aq rl w b a sco d => some { sc := aq ++ rl, f5 := 6#4 ++ w, b := b, a := a, f3 := sco, d := d, maj := 16#5 }
  | .amomaxn aq rl w b a sco d => some { sc := aq ++ rl, f5 := 7#4 ++ w, b := b, a := a, f3 := sco, d := d, maj := 16#5 }
  | .amoswp aq rl w b a sco d => some { sc := aq ++ rl, f5 := 8#4 ++ w, b := b, a := a, f3 := sco, d := d, maj := 16#5 }
  | .amocas aq rl w b a sco d => some { sc := aq ++ rl, f5 := 9#4 ++ w, b := b, a := a, f3 := sco, d := d, maj := 16#5 }
  | .vadd sc t b a d => some { sc := sc, f5 := (t.extractLsb' 3 1) ++ 0#4, b := b, a := a, f3 := t.extractLsb' 0 3, d := d, maj := 17#5 }
  | .vsub sc t b a d => some { sc := sc, f5 := (t.extractLsb' 3 1) ++ 1#4, b := b, a := a, f3 := t.extractLsb' 0 3, d := d, maj := 17#5 }
  | .vmul sc t b a d => some { sc := sc, f5 := (t.extractLsb' 3 1) ++ 2#4, b := b, a := a, f3 := t.extractLsb' 0 3, d := d, maj := 17#5 }
  | .vmin sc t b a d => some { sc := sc, f5 := (t.extractLsb' 3 1) ++ 3#4, b := b, a := a, f3 := t.extractLsb' 0 3, d := d, maj := 17#5 }
  | .vmax sc t b a d => some { sc := sc, f5 := (t.extractLsb' 3 1) ++ 4#4, b := b, a := a, f3 := t.extractLsb' 0 3, d := d, maj := 17#5 }
  | .vand sc t b a d => some { sc := sc, f5 := (t.extractLsb' 3 1) ++ 5#4, b := b, a := a, f3 := t.extractLsb' 0 3, d := d, maj := 17#5 }
  | .vor sc t b a d => some { sc := sc, f5 := (t.extractLsb' 3 1) ++ 6#4, b := b, a := a, f3 := t.extractLsb' 0 3, d := d, maj := 17#5 }
  | .vxor sc t b a d => some { sc := sc, f5 := (t.extractLsb' 3 1) ++ 7#4, b := b, a := a, f3 := t.extractLsb' 0 3, d := d, maj := 17#5 }
  | .vshl sc t b a d => some { sc := sc, f5 := (t.extractLsb' 3 1) ++ 8#4, b := b, a := a, f3 := t.extractLsb' 0 3, d := d, maj := 17#5 }
  | .vshr sc t b a d => some { sc := sc, f5 := (t.extractLsb' 3 1) ++ 9#4, b := b, a := a, f3 := t.extractLsb' 0 3, d := d, maj := 17#5 }
  | .vsar sc t b a d => some { sc := sc, f5 := (t.extractLsb' 3 1) ++ 10#4, b := b, a := a, f3 := t.extractLsb' 0 3, d := d, maj := 17#5 }
  | .vabd sc t b a d => some { sc := sc, f5 := (t.extractLsb' 3 1) ++ 11#4, b := b, a := a, f3 := t.extractLsb' 0 3, d := d, maj := 17#5 }
  | .vadds sc t b a d => some { sc := sc, f5 := (t.extractLsb' 3 1) ++ 12#4, b := b, a := a, f3 := t.extractLsb' 0 3, d := d, maj := 17#5 }
  | .vsubs sc t b a d => some { sc := sc, f5 := (t.extractLsb' 3 1) ++ 13#4, b := b, a := a, f3 := t.extractLsb' 0 3, d := d, maj := 17#5 }
  | .vfma sc t b a d => some { sc := sc, f5 := (t.extractLsb' 3 1) ++ 0#4, b := b, a := a, f3 := t.extractLsb' 0 3, d := d, maj := 18#5 }
  | .vfms sc t b a d => some { sc := sc, f5 := (t.extractLsb' 3 1) ++ 1#4, b := b, a := a, f3 := t.extractLsb' 0 3, d := d, maj := 18#5 }
  | .vfnma sc t b a d => some { sc := sc, f5 := (t.extractLsb' 3 1) ++ 2#4, b := b, a := a, f3 := t.extractLsb' 0 3, d := d, maj := 18#5 }
  | .vdot2 sc t b a d => some { sc := sc, f5 := (t.extractLsb' 3 1) ++ 3#4, b := b, a := a, f3 := t.extractLsb' 0 3, d := d, maj := 18#5 }
  | .vmulw sc t b a d => some { sc := sc, f5 := (t.extractLsb' 3 1) ++ 4#4, b := b, a := a, f3 := t.extractLsb' 0 3, d := d, maj := 18#5 }
  | .vcmp sc t b a cc m => some { sc := sc, f5 := (t.extractLsb' 3 1) ++ 0#4, b := b, a := a, f3 := t.extractLsb' 0 3, d := cc ++ m, maj := 19#5 }
  | .vsel sc t m a d => some { sc := sc, f5 := (t.extractLsb' 3 1) ++ 1#4, b := 0#2 ++ m, a := a, f3 := t.extractLsb' 0 3, d := d, maj := 19#5 }
  | .vcvt sc t src a d => some { sc := sc, f5 := (t.extractLsb' 3 1) ++ 2#4, b := 0#1 ++ src, a := a, f3 := t.extractLsb' 0 3, d := d, maj := 19#5 }
  | .vbcast sc t a d => some { sc := sc, f5 := (t.extractLsb' 3 1) ++ 3#4, b := 0#5, a := a, f3 := t.extractLsb' 0 3, d := d, maj := 19#5 }
  | .vperm sc t b a d => some { sc := sc, f5 := (t.extractLsb' 3 1) ++ 4#4, b := b, a := a, f3 := t.extractLsb' 0 3, d := d, maj := 19#5 }
  | .vext sc t lane a d => some { sc := sc, f5 := (t.extractLsb' 3 1) ++ 5#4, b := lane, a := a, f3 := t.extractLsb' 0 3, d := d, maj := 19#5 }
  | .vins sc t lane a d => some { sc := sc, f5 := (t.extractLsb' 3 1) ++ 6#4, b := lane, a := a, f3 := t.extractLsb' 0 3, d := d, maj := 19#5 }
  | .vabs sc t a d => some { sc := sc, f5 := (t.extractLsb' 3 1) ++ 7#4, b := 0#5, a := a, f3 := t.extractLsb' 0 3, d := d, maj := 19#5 }
  | .vneg sc t a d => some { sc := sc, f5 := (t.extractLsb' 3 1) ++ 8#4, b := 0#5, a := a, f3 := t.extractLsb' 0 3, d := d, maj := 19#5 }
  | .vmov sc t a d => some { sc := sc, f5 := (t.extractLsb' 3 1) ++ 9#4, b := 0#5, a := a, f3 := t.extractLsb' 0 3, d := d, maj := 19#5 }
  | .vmsk sc t a m => some { sc := sc, f5 := (t.extractLsb' 3 1) ++ 10#4, b := 0#5, a := a, f3 := t.extractLsb' 0 3, d := 0#2 ++ m, maj := 19#5 }
  | .vredAdd sc t a d => some { sc := sc, f5 := (t.extractLsb' 3 1) ++ 0#4, b := 0#5, a := a, f3 := t.extractLsb' 0 3, d := d, maj := 20#5 }
  | .vredMin sc t a d => some { sc := sc, f5 := (t.extractLsb' 3 1) ++ 1#4, b := 0#5, a := a, f3 := t.extractLsb' 0 3, d := d, maj := 20#5 }
  | .vredMax sc t a d => some { sc := sc, f5 := (t.extractLsb' 3 1) ++ 2#4, b := 0#5, a := a, f3 := t.extractLsb' 0 3, d := d, maj := 20#5 }
  | .vscanAdd sc t a d => some { sc := sc, f5 := (t.extractLsb' 3 1) ++ 3#4, b := 0#5, a := a, f3 := t.extractLsb' 0 3, d := d, maj := 20#5 }
  | .vscanMin sc t a d => some { sc := sc, f5 := (t.extractLsb' 3 1) ++ 4#4, b := 0#5, a := a, f3 := t.extractLsb' 0 3, d := d, maj := 20#5 }
  | .vscanMax sc t a d => some { sc := sc, f5 := (t.extractLsb' 3 1) ++ 5#4, b := 0#5, a := a, f3 := t.extractLsb' 0 3, d := d, maj := 20#5 }
  | .qred sc t q a d => some { sc := sc, f5 := (t.extractLsb' 3 1) ++ 6#4, b := 0#1 ++ q, a := a, f3 := t.extractLsb' 0 3, d := d, maj := 20#5 }
  | .tload sc k a n => some { sc := sc, f5 := k ++ 0#1, b := 0#5, a := a, f3 := 0#3, d := 0#2 ++ n, maj := 21#5 }
  | .teval sc k p n a d => some { sc := sc, f5 := k ++ p, b := 0#2 ++ n, a := a, f3 := 1#3, d := d, maj := 21#5 }
  | .tstat sc n d => some { sc := sc, f5 := 0#5, b := 0#2 ++ n, a := 0#5, f3 := 2#3, d := d, maj := 21#5 }
  | .send sc sco b a => some { sc := sc, f5 := 0#2 ++ sco, b := b, a := a, f3 := 0#3, d := 0#5, maj := 22#5 }
  | .sendg sc sco b a => some { sc := sc, f5 := 0#2 ++ sco, b := b, a := a, f3 := 1#3, d := 0#5, maj := 22#5 }
  | .rcv sc d => some { sc := sc, f5 := 0#5, b := 0#5, a := 0#5, f3 := 2#3, d := d, maj := 22#5 }
  | .wfm sc => some { sc := sc, f5 := 0#5, b := 0#5, a := 0#5, f3 := 3#3, d := 0#5, maj := 22#5 }
  | .mbcnt sc n d => some { sc := sc, f5 := 0#5, b := n, a := 0#5, f3 := 4#3, d := d, maj := 22#5 }
  | .qcfg sc q a => some { sc := sc, f5 := 0#5, b := 0#1 ++ q, a := a, f3 := 0#3, d := 0#5, maj := 23#5 }
  | .qres sc q a d => some { sc := sc, f5 := 0#5, b := 0#1 ++ q, a := a, f3 := 1#3, d := d, maj := 23#5 }
  | .qpub sc q a => some { sc := sc, f5 := 0#5, b := 0#1 ++ q, a := a, f3 := 2#3, d := 0#5, maj := 23#5 }
  | .qacq sc q a d => some { sc := sc, f5 := 0#5, b := 0#1 ++ q, a := a, f3 := 3#3, d := d, maj := 23#5 }
  | .qrel sc q a => some { sc := sc, f5 := 0#5, b := 0#1 ++ q, a := a, f3 := 4#3, d := 0#5, maj := 23#5 }
  | .qstat sc q a d => some { sc := sc, f5 := 0#5, b := 0#1 ++ q, a := a, f3 := 5#3, d := d, maj := 23#5 }
  | .pmac sc k a => some { sc := sc, f5 := k ++ 0#1, b := 0#5, a := a, f3 := 0#3, d := 0#5, maj := 24#5 }
  | .pmacs sc k a => some { sc := sc, f5 := k ++ 0#1, b := 0#5, a := a, f3 := 1#3, d := 0#5, maj := 24#5 }
  | .pzero sc a => some { sc := sc, f5 := 0#5, b := 0#5, a := a, f3 := 2#3, d := 0#5, maj := 24#5 }
  | .pdrain sc k a => some { sc := sc, f5 := k ++ 0#1, b := 0#5, a := a, f3 := 3#3, d := 0#5, maj := 24#5 }
  | .pstat sc d => some { sc := sc, f5 := 0#5, b := 0#5, a := 0#5, f3 := 4#3, d := d, maj := 24#5 }
  | .psync sc => some { sc := sc, f5 := 0#5, b := 0#5, a := 0#5, f3 := 5#3, d := 0#5, maj := 24#5 }
  | .segmv sc k a => some { sc := sc, f5 := k ++ 0#1, b := 0#5, a := a, f3 := 0#3, d := 0#5, maj := 25#5 }
  | .sefil sc k a => some { sc := sc, f5 := k ++ 0#1, b := 0#5, a := a, f3 := 1#3, d := 0#5, maj := 25#5 }
  | .secpy sc k a => some { sc := sc, f5 := k ++ 0#1, b := 0#5, a := a, f3 := 2#3, d := 0#5, maj := 25#5 }
  | .secmp sc k a => some { sc := sc, f5 := k ++ 0#1, b := 0#5, a := a, f3 := 3#3, d := 0#5, maj := 25#5 }
  | .sered sc k a => some { sc := sc, f5 := k ++ 0#1, b := 0#5, a := a, f3 := 4#3, d := 0#5, maj := 25#5 }
  | .sestat sc a d => some { sc := sc, f5 := 0#5, b := 0#5, a := a, f3 := 5#3, d := d, maj := 25#5 }
  | .xld sc k imm a d => some { sc := sc, f5 := k ++ (imm.extractLsb' 5 1), b := imm.extractLsb' 0 5, a := a, f3 := 0#3, d := d, maj := 26#5 }
  | .xst sc imm b a => some { sc := sc, f5 := imm.extractLsb' 5 5, b := b, a := a, f3 := 1#3, d := imm.extractLsb' 0 5, maj := 26#5 }
  | .xldv sc k imm a d => some { sc := sc, f5 := k ++ (imm.extractLsb' 5 1), b := imm.extractLsb' 0 5, a := a, f3 := 2#3, d := d, maj := 26#5 }
  | .xstv sc imm b a => some { sc := sc, f5 := imm.extractLsb' 5 5, b := b, a := a, f3 := 3#3, d := imm.extractLsb' 0 5, maj := 26#5 }
  | .xhint sc b a hot => some { sc := sc, f5 := 0#5, b := b, a := a, f3 := 4#3, d := 0#4 ++ hot, maj := 26#5 }
  | .spawn sc a d => some { sc := sc, f5 := 0#5, b := 0#5, a := a, f3 := 0#3, d := d, maj := 27#5 }
  | .deal sc a d => some { sc := sc, f5 := 0#5, b := 0#5, a := a, f3 := 1#3, d := d, maj := 27#5 }
  | .susp sc => some { sc := sc, f5 := 0#5, b := 0#5, a := 0#5, f3 := 2#3, d := 0#5, maj := 27#5 }
  | .exitI sc => some { sc := sc, f5 := 0#5, b := 0#5, a := 0#5, f3 := 3#3, d := 0#5, maj := 27#5 }
  | .gbar sc n => some { sc := sc, f5 := 0#5, b := 0#3 ++ n, a := 0#5, f3 := 4#3, d := 0#5, maj := 27#5 }
  | .grank sc n d => some { sc := sc, f5 := 0#5, b := 0#3 ++ n, a := 0#5, f3 := 5#3, d := d, maj := 27#5 }
  | .grant sc a d => some { sc := sc, f5 := 0#5, b := 0#5, a := a, f3 := 0#3, d := d, maj := 28#5 }
  | .revoke sc k free a d => some { sc := sc, f5 := k ++ free, b := 0#5, a := a, f3 := 1#3, d := d, maj := 28#5 }
  | .rtest sc a d => some { sc := sc, f5 := 0#5, b := 0#5, a := a, f3 := 2#3, d := d, maj := 28#5 }
  | .rdrop sc b a d => some { sc := sc, f5 := 0#5, b := b, a := a, f3 := 3#3, d := d, maj := 28#5 }
  | .jf off d => some { sc := off.extractLsb' 15 2, f5 := off.extractLsb' 10 5, b := off.extractLsb' 5 5, a := off.extractLsb' 0 5, f3 := 0#3, d := d, maj := 29#5 }
  | .jfr sc a d => some { sc := sc, f5 := 0#5, b := 0#5, a := a, f3 := 1#3, d := d, maj := 29#5 }
  | .cfetch sc k seg a => some { sc := sc, f5 := k ++ 0#1, b := 0#1 ++ seg, a := a, f3 := 2#3, d := 0#5, maj := 29#5 }
  | .cseg sc inv seg d => some { sc := sc, f5 := 0#5, b := inv ++ seg, a := 0#5, f3 := 3#3, d := d, maj := 29#5 }
  | .fitb sc k n a => some { sc := sc, f5 := k ++ 0#1, b := 0#1 ++ n, a := a, f3 := 0#3, d := 0#5, maj := 30#5 }
  | .fite sc n => some { sc := sc, f5 := 0#5, b := 0#1 ++ n, a := 0#5, f3 := 1#3, d := 0#5, maj := 30#5 }
  | .fitk sc n => some { sc := sc, f5 := 0#5, b := 0#1 ++ n, a := 0#5, f3 := 2#3, d := 0#5, maj := 30#5 }
  | .fitq sc n a d => some { sc := sc, f5 := 0#5, b := 0#1 ++ n, a := a, f3 := 3#3, d := d, maj := 30#5 }
  | .fitw sc n a j => some { sc := sc, f5 := 0#5, b := 0#1 ++ n, a := a, f3 := 4#3, d := j, maj := 30#5 }
  | .nop sc => some { sc := sc, f5 := 0#5, b := 0#5, a := 0#5, f3 := 0#3, d := 0#5, maj := 31#5 }
  | _ => none

/-- The fields of a compact form's parcel, reserved fields 0 (R114, R115). -/
def encodeCFields : Instr → Option CFields
  | .cAddi r imm => some { f := 1#3, r := r, lo := imm, q := 0#2 }
  | .cLi r imm => some { f := 2#3, r := r, lo := imm, q := 0#2 }
  | .cLdd r r2 off => some { f := 3#3, r := r, lo := r2 ++ off, q := 0#2 }
  | .cStd r r2 off => some { f := 4#3, r := r, lo := r2 ++ off, q := 0#2 }
  | .cDly imm => some { f := 5#3, r := 0#3, lo := imm, q := 0#2 }
  | .cNop => some { f := 6#3, r := 0#3, lo := 0#8, q := 0#2 }
  | .cMv r r2 => some { f := 0#3, r := r, lo := r2 ++ 0#5, q := 1#2 }
  | .cAdd r r2 => some { f := 0#3, r := r, lo := r2 ++ 1#5, q := 1#2 }
  | .cSub r r2 => some { f := 0#3, r := r, lo := r2 ++ 2#5, q := 1#2 }
  | .cJr r => some { f := 0#3, r := r, lo := 3#8, q := 1#2 }
  | .cJalr r => some { f := 0#3, r := r, lo := 4#8, q := 1#2 }
  | .cBeqz r off => some { f := 1#3, r := r, lo := off, q := 1#2 }
  | .cBnez r off => some { f := 2#3, r := r, lo := off, q := 1#2 }
  | .cJ off => some { f := 3#3, r := off.extractLsb' 8 3, lo := off.extractLsb' 0 8, q := 1#2 }
  | _ => none

/-- The encoding of an instruction; none for an event, which no core encodes. -/
def encode (i : Instr) : Option Encoded :=
  match encodeFields i with
  | some F => some (.word (joinWord F))
  | none => (encodeCFields i).map fun F => .parcel (joinParcel F)

/-- The instruction's bytes in memory, lowest address first (R110); no byte for an event. -/
def encodeBytes (i : Instr) : List Byte :=
  match encode i with
  | some (.word w) => [w.extractLsb' 0 8, w.extractLsb' 8 8, w.extractLsb' 16 8, w.extractLsb' 24 8]
  | some (.parcel p) => [p.extractLsb' 0 8, p.extractLsb' 8 8]
  | none => []

end Sys2Proof
end

