-- ==== Sys2Proof/Machine/State.lean ====
section
/-! DEFINITION. The state of the Opepra as plain data: contexts, cores, tiles, quads, dies, hub blocks, hosts, memory, and the machine right after reset.
A sparse table (`Tab`) lists only keys whose value differs from the default; `Machine/Mem.lean` keeps it so. -/

namespace Sys2Proof.Machine

/-- A sparse table: keys strictly rising, an unlisted key holds the default of its type. -/
abbrev Tab (α : Type) := List (Nat × α)

/-! ### Stops of the model -/

/-- Reasons for a fault. No meaning of this model ends in one: every condition that the spec names is a trap, a status or an event. -/
inductive Fault where
  /-- Raised by no instruction; kept so that the type is inhabited. Safe: a run never ends in it. -/
  | unreachable
  deriving DecidableEq, Repr

/-- Reasons for a refusal. -/
inductive Refusal where
  /-- An instruction that the model gives no meaning. Raised by Dispatch's refused arms alone. Safe: the machine goes no further. -/
  | notModelled (mnemonic : String)
  deriving DecidableEq, Repr

/-! ### Contexts -/

/-- A completion token: 16-bit COUNT and ISSUED (R131). -/
structure Token where
  count  : BitVec 16 := 0
  issued : BitVec 16 := 0
  deriving DecidableEq, Repr, Inhabited

/-- One loop level without its count, which is lc0 to lc2 (R177). -/
structure LoopLevel where
  start  : BitVec 16 := 0
  stop   : BitVec 16 := 0
  active : Bool := false
  deriving DecidableEq, Repr, Inhabited

/-- The register files of a continuation (R126) with the lane-size tags of its masks (R217; 0 for 1 byte, 1 for 2, 2 for 4, 3 for 8). -/
structure RegSet where
  g     : Vector Word 32 := Vector.replicate 32 0
  v     : Vector Vec 32 := Vector.replicate 32 0
  m     : Vector (BitVec 32) 8 := Vector.replicate 8 0
  mtag  : Vector (BitVec 2) 8 := Vector.replicate 8 0
  k     : Vector Token 16 := Vector.replicate 16 {}
  hk    : Vector Token 4 := Vector.replicate 4 {}
  lc    : Vector (BitVec 32) 3 := Vector.replicate 3 0
  loops : Vector LoopLevel 3 := Vector.replicate 3 {}
  deriving DecidableEq, Repr, Inhabited

/-- The state of a continuation (R43). -/
inductive ContState where
  | new | ready | running | waiting | stopped | exited | torn | cancelled
  deriving DecidableEq, Repr, Inhabited

/-- TRAP_CAUSE (R361). -/
structure TrapCause where
  async  : Bool := false
  reason : BitVec 8 := 0
  code   : BitVec 8 := 0
  deriving DecidableEq, Repr, Inhabited

/-- TRAP_JNL (R364). -/
structure TrapJnl where
  valid : Bool := false
  log   : Bool := false
  entry : BitVec 5 := 0
  deriving DecidableEq, Repr, Inhabited

/-- The shadowed copy fields (R256): reserved bits are not held. -/
structure CopyRegs where
  src   : Word := 0
  dst   : Word := 0
  len   : BitVec 24 := 0
  sta   : Word := 0
  stb   : Word := 0
  shape : BitVec 16 := 0
  map   : Word := 0
  flags : BitVec 23 := 0
  deriving DecidableEq, Repr, Inhabited

/-- The control state of a context (R366, R399, R402, R421). -/
structure Ctl where
  owner    : BitVec 12 := 0
  trapPc   : BitVec 56 := 0
  trapVal  : Word := 0
  cause    : TrapCause := {}
  jnl      : TrapJnl := {}
  copy     : CopyRegs := {}
  ranks    : Vector (BitVec 32) 4 := Vector.replicate 4 0
  fpFlags  : BitVec 5 := 0
  chkEn    : Bool := false
  wake     : Bool := false
  steward  : Bool := false
  savedAct : BitVec 3 := 0
  /-- COUNT × 4,096 + FRAC (R424). -/
  energy   : Nat := 0
  energySat : Bool := false
  record   : BitVec 56 := 0
  mbaHead  : BitVec 5 := 0
  mbaCnt   : BitVec 6 := 0
  hold     : Bool := false
  holdCh   : Bool := false
  holdCore : BitVec 12 := 0
  fitAbs   : BitVec 32 := 0
  fitRel   : BitVec 32 := 0
  fo       : Bool := false
  fs       : Bool := false
  fn       : BitVec 4 := 0
  deriving DecidableEq, Repr, Inhabited

/-- The fields of a continuation record that the device keeps with the context while it is loaded (R42). -/
structure Rec where
  state    : ContState := .new
  pre      : ContState := .new
  fstop    : Bool := false
  cwref    : BitVec 32 := 0
  stride   : BitVec 12 := 0
  ch       : Bool := false
  job      : BitVec 56 := 0
  narg     : BitVec 28 := 0
  groups   : BitVec 32 := 0
  affinity : BitVec 56 := 0
  ngrp     : BitVec 3 := 0
  arg      : BitVec 56 := 0
  chrys    : BitVec 56 := 0
  rclass   : BitVec 2 := 0
  prio     : BitVec 2 := 0
  deriving DecidableEq, Repr, Inhabited

/-- A register that an instruction writes. -/
inductive Dest where
  | g (r : Reg)
  | v (r : Reg)
  | m (r : BitVec 3)
  deriving DecidableEq, Repr, Inhabited

/-- A token of a context: k0 to k15, or hk0 to hk3 with `handler`. -/
structure TokenName where
  handler : Bool := false
  num     : BitVec 4 := 0
  deriving DecidableEq, Repr, Inhabited

/-- What a pending fixed-latency result does when it falls due (R127, R157, R201). -/
inductive Pending where
  | writeG (r : Reg) (x : Word)
  | writeV (r : Reg) (x : Vec)
  | writeM (r : BitVec 3) (x : BitVec 32) (tag : BitVec 2)
  | flags (f : BitVec 5)
  | post (t : TokenName)
  deriving DecidableEq, Repr

/-- A destination of a token operation that no satisfied WAIT has covered (R132, R136). -/
structure Uncovered where
  dest    : Dest
  token   : TokenName
  ordinal : BitVec 16
  done    : Bool := false
  /-- For a private-alias load, the cycle from which its latency covers it (R128). -/
  coveredAt : Option Nat := none
  deriving DecidableEq, Repr

/-- A divide in progress (R168). -/
structure Divide where
  issuedAt : Nat
  ctx      : BitVec 56
  dest     : Reg
  token    : TokenName
  result   : Word
  deriving DecidableEq, Repr

/-- The entry record that a pending asynchronous trap copies to the handler window (R368). -/
structure EntryRecord where
  log    : Bool := false
  size   : BitVec 3 := 0
  token  : BitVec 4 := 0
  word   : BitVec 32 := 0
  owner  : BitVec 12 := 0
  reason : BitVec 8 := 0
  file   : BitVec 2 := 0
  reg    : Reg := 0
  data   : Word := 0
  ea     : Word := 0
  deriving DecidableEq, Repr, Inhabited

/-- The spill area (physical address bits [49:21]) and colour of a swept packet (R375, R377). -/
abbrev Spill := BitVec 29 × BitVec 6

/-- Why a WAITING continuation waits, which decides what wakes it (R44). -/
inductive WaitWhy where
  | none
  | message
  | suspended
  | quireFree (home : Nat) (q : Nat)
  | quireFull (home : Nat) (q : Nat)
  | barrier
  /-- No wait any more: the context's QRES takes the QUEUE_DEADLOCK trap when it issues (R254). -/
  | deadlocked (q : Nat)
  deriving DecidableEq, Repr, Inhabited

/-- A context: a continuation's registers, control state and work in flight. -/
structure Ctx where
  regs     : RegSet := {}
  ctl      : Ctl := {}
  rcd      : Rec := {}
  /-- The issuing PC, an IMA (R106). -/
  pc       : BitVec 16 := 0
  /-- The PC as a code address, held while the slot is not issuing (R109). -/
  codePc   : BitVec 56 := 0
  /-- The handler window's bytes that are not 0, chrysalis bytes 0x800 to 0xFFF (R367). -/
  window   : List Host.Cell := []
  mailbox  : List (BitVec 128) := []
  pend     : List (Nat × Pending) := []
  uncov    : List Uncovered := []
  why      : WaitWhy := .none
  /-- The cycle at which the context began to block on a quire (R254). -/
  blockedAt : Option Nat := none
  /-- The cycle from which the context's last private-alias LDAQ is performed (R326, R332). -/
  acqUntil : Nat := 0
  /-- An instruction that another agent has accepted, kept while the slot is not issuing (R339). -/
  accepted : Bool := false
  /-- The context idles in IDLE; true once one of the events of R192 has come. -/
  idle     : Option Bool := none
  /-- Number of the first access issued after the context's last sync operation on its core (R315, R322). -/
  syncSeq  : Nat := 0
  /-- Charges made in this cycle, which a write of ENERGY in it adds to the written value (R421). -/
  recent   : Nat := 0
  deriving DecidableEq, Repr, Inhabited

/-! ### Cores -/

/-- The state of a slot (R98). -/
inductive SlotState where
  | empty | bound | loaded | evicting
  deriving DecidableEq, Repr, Inhabited

/-- The continuation of a START and EVICT record that is bound in the step that empties its slot (R97). -/
structure Incoming where
  cont   : BitVec 56
  pin    : Bool
  prio   : BitVec 2
  tag    : BitVec 32
  part   : BitVec 3
  deriving DecidableEq, Repr, Inhabited

/-- A slot of a core: the slot table's entry (R94) and its context while loaded. -/
structure Slot where
  sst  : SlotState := .empty
  /-- Continuation record address. -/
  cont : BitVec 56 := 0
  pin  : Bool := false
  prio : BitVec 2 := 0
  seqNo : BitVec 32 := 0
  tag  : BitVec 32 := 0
  /-- Partition of the ring that bound the slot; its events go there (R98, R270). -/
  part : Option (BitVec 3) := none
  /-- Place in the round-robin of its level: lower goes first (R100). -/
  turn : Nat := 0
  /-- TAG of the record that evicts the slot, for its EVICTED event (R101). -/
  evTag : BitVec 32 := 0
  /-- What is bound once the slot is EMPTY (R97). -/
  after : Option Incoming := none
  ctx  : Ctx := {}
  deriving DecidableEq, Repr, Inhabited

/-- State of an instruction-memory segment (R107). -/
inductive SegState where
  | empty | loading | landed | failed
  deriving DecidableEq, Repr, Inhabited

/-- A segment descriptor (R107). -/
structure Seg where
  st   : SegState := .empty
  err  : BitVec 4 := 0
  base : BitVec 44 := 0
  deriving DecidableEq, Repr, Inhabited

/-- Region and generation under which a request was checked (R59); none for a private alias. -/
abbrev Stamp := Option (BitVec 20 × BitVec 16)

/-- A CFETCH in progress (R120). -/
structure Fetch where
  seg   : BitVec 4
  addr  : Word
  owner : BitVec 12
  ctx   : BitVec 56
  token : TokenName
  stamp : Stamp
  deriving DecidableEq, Repr

/-- What a load does with the bytes it reads (R161, R218). -/
inductive LoadKind where
  /-- Sign- or zero-extended into a general register. -/
  | scalar (signed : Bool)
  /-- The 32 bytes into a vector register. -/
  | vec
  /-- Every lane of the access size set to the value. -/
  | splat
  deriving DecidableEq, Repr, Inhabited

/-- An operand-log entry: a load in flight, or held for a late fault (R158). -/
structure LogEntry where
  seqNo  : Nat
  /-- GTC at which it was issued, which orders a context's accesses across cores (R311). -/
  at_    : Nat := 0
  word   : BitVec 32
  base   : Word
  ea     : Word
  sizeLog : Nat
  kind   : LoadKind
  dest   : Reg
  vecDest : Bool
  token  : TokenName
  owner  : BitVec 12
  steward : Bool
  ctx    : BitVec 56
  stamp  : Stamp
  /-- The scope of an LDAQ, an acquire (R332). -/
  sync   : Option (BitVec 3) := none
  /-- Held for a late fault, from the cycle it arrived (R158, R369). -/
  held   : Option Nat := none
  /-- The late fault has been taken by its context (R371). -/
  taken  : Bool := false
  reason : BitVec 8 := 0
  /-- Set while a REPLAY of the entry is in flight (R193). -/
  replaying : Bool := false
  /-- SC of that REPLAY (R125). -/
  replaySc  : BitVec 2 := 0
  /-- Where the entry's packet lies swept, until a RESUME reinjects it (R377, R380). -/
  swept  : Option Spill := none
  deriving DecidableEq, Repr

/-- A posted-store journal entry (R159). -/
structure JnlEntry where
  seqNo : Nat
  at_   : Nat := 0
  ea    : Word
  /-- The bytes stored, by offset; STVM carries only the enabled ones (R219). -/
  bytes : List (Nat × Byte)
  sizeLog : Nat
  data  : Word
  owner : BitVec 12
  ctx   : BitVec 56
  stamp : Stamp
  /-- The scope of an STRL, a release (R333). -/
  sync  : Option (BitVec 3) := none
  /-- Refused and kept for the asynchronous trap, from the cycle of the refusal (R370). -/
  held  : Option Nat := none
  reason : BitVec 8 := 0
  swept : Option Spill := none
  deriving DecidableEq, Repr

/-- An AMO whose request has been sent and whose answer is awaited (R338). -/
structure AmoFlight where
  op    : BitVec 4
  wide  : Bool
  ea    : Word
  y     : Word
  cmp   : Word
  dest  : Reg
  owner : BitVec 12
  sco   : BitVec 3
  stamp : Stamp
  deriving DecidableEq, Repr

/-- State of a quire slot (R248). -/
inductive QSlotState where
  | free | reserved | published | full | acquired | released
  deriving DecidableEq, Repr, Inhabited

/-- A quire slot: state, holder (chrysalis address; none for a QA copy) and open contributor copies. -/
structure QSlot where
  st     : QSlotState := .free
  holder : Option (BitVec 56) := none
  open_  : Nat := 0
  deriving DecidableEq, Repr, Inhabited

/-- A quire (R248, R251, R419). -/
structure Quire where
  cfg     : Bool := false
  retired : Bool := false
  base    : BitVec 19 := 0
  slotB   : BitVec 16 := 0
  owner   : BitVec 12 := 0
  pgrp    : BitVec 9 := 0
  cgrp    : BitVec 9 := 0
  holder  : BitVec 56 := 0
  free    : Nat := 0
  full    : Nat := 0
  res     : Nat := 0
  pub     : Nat := 0
  acq     : Nat := 0
  rel     : Nat := 0
  slots   : List QSlot := []
  deriving DecidableEq, Repr, Inhabited

/-- What a multicast has done at one destination tile (R261). -/
structure CopyTile where
  tile   : Nat
  /-- The tile's first failure. -/
  status : BitVec 8 := 0
  bytes  : Nat := 0
  /-- Named cores whose pool has refused a beat. -/
  refused : List Nat := []
  /-- Its TILE message has been sent. -/
  sent   : Bool := false
  deriving DecidableEq, Repr, Inhabited

/-- A copy in flight: the fields latched at COPY_GO and its progress (R257 to R261). -/
structure Copy where
  tid     : BitVec 8
  regs    : CopyRegs
  owner   : BitVec 12
  ctx     : BitVec 56
  record  : BitVec 56
  steward : Bool
  token   : Option TokenName
  /-- The tensor map's 64 bytes, where COPY_MAP names one (R277). -/
  tmap    : Option (List Byte)
  launchedAt : Nat
  started : Bool := false
  /-- Beats performed. -/
  beats   : Nat := 0
  bytes   : Nat := 0
  status  : Option (BitVec 8) := none
  /-- Quire home, number and slot index of a QC or QA copy (R259, R260). -/
  slot    : Option (Nat × Nat × Nat) := none
  /-- A multicast's tiles. -/
  tiles   : List CopyTile := []
  /-- Number among the core's engine entries, for QFNC (R330). -/
  eng     : Nat := 0
  /-- The copy has ended and posted; only its messages are still on their way (R257). -/
  ended   : Bool := false
  /-- Mailbox handle of the issuing context, and its queue, for completion messages (R88, R263). -/
  handle  : Word := 0
  ofQueue : Option (Nat × BitVec 8) := none
  /-- Regions that the copy names and whose generation has changed since it was launched (R67). -/
  old     : List (BitVec 20) := []
  deriving DecidableEq, Repr

/-- PW_SET (R245). -/
structure PwSet where
  pend  : Bool := false
  bad   : Bool := false
  value : BitVec 13 := 0
  deriving DecidableEq, Repr, Inhabited

/-- A PLB entry: owner and range-table entry (R56, R60). -/
structure PlbEntry where
  owner  : BitVec 12
  region : BitVec 20
  gen    : BitVec 16
  rights : BitVec 5
  len    : BitVec 40
  base   : BitVec 44
  deriving DecidableEq, Repr

/-- A galley entry (R288, R289). -/
structure PressEntry where
  desc  : BitVec 512
  seqNo : BitVec 32
  owner : BitVec 12
  op    : BitVec 3
  token : Option TokenName
  ctx   : BitVec 56
  stamps : List (BitVec 20 × BitVec 16) := []
  /-- Number among the core's engine entries, for QFNC (R330). -/
  eng    : Nat := 0
  /-- Regions that the entry names and whose generation has changed since it was issued (R67). -/
  old    : List (BitVec 20) := []
  deriving DecidableEq, Repr

/-- A core's press galley (R288, R302). -/
structure Galley where
  next    : BitVec 32 := 1
  done    : BitVec 32 := 0
  err     : BitVec 8 := 0
  flags   : BitVec 5 := 0
  entries : List PressEntry := []
  deriving DecidableEq, Repr, Inhabited

/-- A queue fence in force: the queues it names, and the number of the first entry issued after it (R330). -/
structure QFence where
  set  : BitVec 4
  mark : Nat
  deriving DecidableEq, Repr

/-- A core of any kind. -/
structure Core where
  released  : Bool := false
  /-- The slot the core issues from. -/
  issuing   : Option (BitVec 3) := none
  /-- The context of the issuing slot; that slot's own copy is out of date while it issues. -/
  ctx       : Ctx := {}
  slots     : Vector Slot 8 := Vector.replicate 8 {}
  /-- Earliest GTC at which the next instruction issues (R125). -/
  nextIssue : Nat := 0
  /-- GTC at which the instruction at the PC began to hold issue (R129, R254). -/
  holdSince : Option Nat := none
  /-- An instruction other than WAIT holds issue, so the core is at a switch point where results allow (R99). -/
  holdSwitch : Bool := false
  /-- The instruction word being issued, for TRAP_VAL and the operand log (R118, R158). -/
  ir        : BitVec 32 := 0
  /-- Cycles the issuing slot has issued since it was selected (R100). -/
  selectedAt : Nat := 0
  starts    : BitVec 32 := 0
  turns     : Nat := 0
  segs      : Vector Seg 16 := Vector.replicate 16 {}
  /-- Segment 15 still holds the steward image that CORE_REL loaded, kept once in the boot block (R428). -/
  bootSeg   : Bool := false
  fetches   : List Fetch := []
  rf        : BitVec 5 := 2
  acc       : BitVec 5 := 0
  pw        : PwSet := {}
  /-- Format tags of the pool's 4 KiB regions: FMT and BLK (R247). -/
  tags      : Tab (BitVec 4 × BitVec 2) := []
  /-- Scale sidecars: byte j of region r at 256 × r + j (R208). -/
  scales    : Tab Byte := []
  quires    : Vector Quire 16 := Vector.replicate 16 {}
  /-- Released ring bytes of RETIRED quires: first offset and end (R419). -/
  freed     : List (Nat × Nat) := []
  copies    : List Copy := []
  lastTid   : BitVec 8 := 0xFF
  log       : Vector (Option LogEntry) 16 := Vector.replicate 16 none
  journal   : Vector (Option JnlEntry) 32 := Vector.replicate 32 none
  amo       : Option AmoFlight := none
  divs      : List Divide := []
  seqNo     : Nat := 0
  dropped   : BitVec 16 := 0
  /-- Number of the next send entry taken (R265). -/
  sendSeq   : Nat := 0
  stopAt    : Word := 0
  haltStop  : Bool := false
  haltGroup : Bool := false
  /-- A halt group's trigger has reached the core, which halts at its next instruction boundary (R387). -/
  haltReq   : Bool := false
  /-- The slot that a stop or halt found issuing: it resumes without the cost of a switch (R99, R183). -/
  resume    : Option (BitVec 3) := none
  /-- Cycles that it had issued since it was selected (R100). -/
  ranFor    : Nat := 0
  plb       : List PlbEntry := []
  galley    : Galley := {}
  fences    : List QFence := []
  /-- Engine entries that the core's slots have issued, for QFNC (R330). -/
  engSeq    : Nat := 0
  /-- The latest local GTC that this core has shown (R22). -/
  gtcSeen   : Nat := 0
  /-- An instruction has been accepted by another agent and only waits for its answer (R339). -/
  accepted  : Bool := false
  /-- The answer that an accepted instruction waits for has arrived. -/
  answer    : Option Word := none
  /-- The fit record and the inputs that a FITB has sent and holds issue for (R403). -/
  asked     : Option (BitVec 192 × List (BitVec 32)) := none
  deriving DecidableEq, Repr, Inhabited

/-! ### Tiles, quads, dies, stacks -/

/-- State of a table (R233). -/
inductive TabState where
  | empty | loading | ready
  deriving DecidableEq, Repr, Inhabited

/-- The contents of a loaded table (R234). -/
structure TabImage where
  lo    : BitVec 32
  scale : BitVec 32
  segs  : List (BitVec 32 × BitVec 32 × BitVec 32)
  deriving DecidableEq, Repr

/-- A table of a tile's table engine (R233). -/
structure Table where
  st    : TabState := .empty
  owner : BitVec 12 := 0
  err   : BitVec 3 := 0
  flags : BitVec 4 := 0
  image : Option TabImage := none
  /-- Owner of the last load performed, for a skipped request (R236). -/
  loadedBy : BitVec 12 := 0
  deriving DecidableEq, Repr, Inhabited

/-- A request in a table engine's queue (R236, R237). -/
structure TableReq where
  /-- GTC of its arrival; requests of one cycle are ordered by core number (R239). -/
  num   : Nat
  unit  : Nat
  ctx   : BitVec 56
  owner : BitVec 12
  table : BitVec 3
  token : TokenName
  /-- TEVAL: destination, captured lanes and the .f32 choice; none for TLOAD. -/
  eval  : Option (Reg × Vec × Bool) := none
  /-- TLOAD: the image's address; none for the emptying form. -/
  addr  : Option Word := none
  stamp : Stamp := none
  /-- Number among the core's engine entries, for QFNC (R330). -/
  eng   : Nat := 0
  deriving DecidableEq, Repr

/-- A combining entry of a tile's router (R261, R268). -/
structure Combine where
  handle : Word
  tid    : BitVec 8
  expect : Nat
  count  : Nat := 0
  /-- Queue of the multicast's issuer, for its FREE message (R88). -/
  ofQueue : Option (Nat × BitVec 8) := none
  deriving DecidableEq, Repr

/-- What a running press entry has done (R294, R297, R302). -/
structure PressRun where
  core    : Nat
  /-- The status with which it ends, once known. -/
  status  : Option (BitVec 8) := none
  block   : Nat := 0
  slice   : Nat := 0
  /-- Its press start has been admitted and no pause has followed (R306). -/
  admitted : Bool := false
  /-- Press cycle from which its work in progress runs. -/
  since   : Nat := 0
  deriving DecidableEq, Repr, Inhabited

/-- A slice sum on its way to an accumulate unit (R294): the tile whose press formed it, the accumulator's storage key and the A96 value;
`zero` takes the accumulator as +0 first. -/
structure SliceSum where
  src  : Nat
  addr : Nat
  sum  : BitVec 96
  zero : Bool
  deriving DecidableEq, Repr

/-- A tile: table engine, router's combining entries, press with its lease, accumulate unit. -/
structure Tile where
  tables   : Vector Table 8 := Vector.replicate 8 {}
  tq       : List TableReq := []
  combine  : List Combine := []
  lease    : Option (BitVec 3) := none
  leaseStarts : Nat := 0
  leaseAt  : Nat := 0
  lastHolder : BitVec 3 := 7
  run      : Option PressRun := none
  /-- Press cycle of the press's last PMAC or PMACS work (R306). -/
  lastWork : Option Nat := none
  /-- A start requested of the arbiter and its press cycle (R306). -/
  request  : Option Nat := none
  /-- PMAC and PMACS press cycles in this governor window (R307). -/
  windowUse : Nat := 0
  gated    : Bool := false
  sums     : List SliceSum := []
  deriving DecidableEq, Repr, Inhabited

/-- State of a viceroy entry (R400). -/
inductive FitState where
  | collect | train | validate | active | fallback | invalid
  deriving DecidableEq, Repr, Inhabited

/-- A viceroy's region entry (R394). Weights and biases are in the order of a weight image (R408). -/
structure FitEntry where
  owner   : BitVec 12
  n       : BitVec 4
  /-- Bits [191:0] of the signature record: signature and parameters (R395). -/
  record  : BitVec 192
  weights : List (BitVec 32)
  buffer  : List (List (BitVec 32) × List (BitVec 32)) := []
  good    : Nat := 0
  fb      : Nat := 0
  cnt     : BitVec 32 := 0
  steps   : Nat := 0
  fba     : Option (BitVec 56) := none
  fea     : BitVec 56 := 0
  /-- FEA is valid. -/
  fev     : Bool := false
  /-- Steps made since the entry was taken, which no FITW changes (R404). -/
  made    : Nat := 0
  image   : Stamp := none
  st      : FitState := .collect
  deriving DecidableEq, Repr

/-- What an open execution was opened as (R404). -/
inductive OpenAs where
  | sample
  | compare (st : FitState) (made : Nat)
  | nothing
  deriving DecidableEq, Repr

/-- An open execution of a viceroy (R405). -/
structure OpenExec where
  ctx    : BitVec 56
  /-- Its entry; none where no entry was free (R400). -/
  entry  : Option Nat
  inputs : List (BitVec 32)
  /-- The output registers that its record names (R395). -/
  outs   : List Dest
  as_    : OpenAs
  deriving DecidableEq, Repr

/-- A substitution answered and not yet completed (R403). -/
structure Subst where
  ctx   : BitVec 56
  token : TokenName
  outs  : List (Dest × BitVec 32)
  deriving DecidableEq, Repr

/-- A viceroy (R394, R405). -/
structure Viceroy where
  entries : Tab (Option FitEntry) := []
  execs   : List OpenExec := []
  substs  : List Subst := []
  deriving DecidableEq, Repr, Inhabited

/-- A compute die's surge arbiter and duty values (R306, R307). -/
structure Die where
  starts : List Nat := []
  lastPart : Nat := 7
  wideDuty : BitVec 5 := 16
  narrowDuty : BitVec 5 := 16
  deriving DecidableEq, Repr, Inhabited

/-- A stack galley entry (R280, R282). -/
structure StackEntry where
  desc  : BitVec 512
  op    : BitVec 3
  seqNo : BitVec 32
  owner : BitVec 12
  /-- Issuing unit and context; none through the hart port. -/
  by_   : Option (Nat × BitVec 56)
  token : Option TokenName
  /-- Number among the core's engine entries, for QFNC (R330). -/
  eng   : Nat := 0
  started : Bool := false
  status : BitVec 8 := 0
  flags : BitVec 5 := 0
  beats : Nat := 0
  /-- Regions that the command names and whose generation has changed since it was issued (R67). -/
  old   : List (BitVec 20) := []
  deriving DecidableEq, Repr

/-- A stack galley (R280, R284, R285). -/
structure StackGalley where
  next    : BitVec 32 := 1
  done    : BitVec 32 := 0
  entries : List StackEntry := []
  desc    : BitVec 512 := 0
  deriving DecidableEq, Repr, Inhabited

/-! ### Hub blocks -/

/-- A message in the network on its way to a mailbox (R264 to R268). -/
structure NetMsg where
  handle : Word
  body   : BitVec 128
  /-- The sending core whose send entry the message holds; none for an engine or router. -/
  sender : Option Nat
  colour : BitVec 6
  /-- The continuation that sent it; 0 where an engine or router did (R380). -/
  src    : BitVec 56 := 0
  /-- The send entry of that core (R265). -/
  entry  : Nat := 0
  /-- SENDG: the message goes to the slot's continuation only if it names this launch and group; a GIDX that names no group is named by none. -/
  group  : Option (Option (Nat × BitVec 8)) := none
  swept  : Option Spill := none
  /-- A completion message's virtual device and queue, for the queue's dropped count (R88). -/
  ofQueue : Option (Nat × BitVec 8) := none
  /-- The unit and transfer id of the copy that sends a completion message (R257). -/
  copyOf : Option (Nat × BitVec 8) := none
  deriving DecidableEq, Repr

/-- A partition: the dispatch block's registers (R93, R270, R340) and the stop registers (R375). -/
structure Part where
  map      : BitVec 32 := 0
  bindTail : BitVec 32 := 0
  bindHead : BitVec 32 := 0
  cbindTail : BitVec 32 := 0
  cbindHead : BitVec 32 := 0
  evtBase  : BitVec 38 := 0
  evtLog   : BitVec 4 := 0
  evtTail  : BitVec 32 := 0
  evtHead  : BitVec 32 := 0
  /-- Events whose producers wait for room in the ring, oldest first (R101). -/
  evtWait  : List (BitVec 128) := []
  slice    : BitVec 24 := 65536
  spnBase  : BitVec 38 := 0
  spnLog   : BitVec 4 := 0
  spnTail  : BitVec 32 := 0
  spnHead  : BitVec 32 := 0
  stopGtc  : Word := 0
  armed    : Bool := false
  halted   : Bool := false
  swept    : Bool := false
  late     : Bool := false
  tear     : Option (BitVec 8) := none
  colour   : BitVec 6 := 0
  spill    : BitVec 29 := 0
  vtBase   : Word := 0
  vtGtc    : Word := 0
  vtWall   : Bool := false
  deriving DecidableEq, Repr, Inhabited

/-- The rights block's registers (R69) and translation caches' state (R53). -/
structure Rights where
  xltRoot : BitVec 50 := 0
  ownTbl  : BitVec 50 := 0
  rgnTbl  : BitVec 50 := 0
  rgnCap  : Nat := 0
  locked  : Bool := false
  xltBusy : Bool := false
  staDone : Bool := false
  staErr  : BitVec 3 := 0
  staState : BitVec 2 := 0
  staGen  : BitVec 16 := 0
  staRefs : BitVec 16 := 0
  staInfl : BitVec 16 := 0
  arg0    : Word := 0
  arg1    : Word := 0
  deriving DecidableEq, Repr, Inhabited

/-- Who waits for a shootdown (R63, R353, R355, R425). -/
inductive ShootFor where
  | revoke (unit : Nat) (ctx : BitVec 56) (dest : Reg) (token : TokenName)
  | rdrop (unit : Nat) (ctx : BitVec 56)
  | rfree
  deriving DecidableEq, Repr

/-- A shootdown in progress (R63). -/
structure Shoot where
  region : BitVec 20
  freed  : Bool
  for_   : ShootFor
  deriving DecidableEq, Repr

/-- State of a launch queue (R80). -/
inductive QueueState where
  | none | open_ | draining | resetting | closed
  deriving DecidableEq, Repr, Inhabited

/-- A launch queue's descriptor and counts (R79, R88, R384). -/
structure Queue where
  st      : QueueState := .none
  wdog    : BitVec 32 := 0
  cwCap   : BitVec 24 := 0
  part    : BitVec 4 := 0
  cwBase  : BitVec 56 := 0
  owner   : BitVec 12 := 0
  capLog  : BitVec 4 := 0
  cardBase : BitVec 56 := 0
  head    : BitVec 32 := 0
  tail    : BitVec 32 := 0
  prot    : Bool := false
  kslot   : BitVec 8 := 0
  dropped : Nat := 0
  /-- The DRAIN and RESET commands to answer at CLOSED, with their endpoints (R77). -/
  answers : List (Nat × HostCmd) := []
  /-- IVL and LAST of the watchdog block, and whether the queue runs (R384). -/
  ivl     : BitVec 32 := 0
  wdLast  : Nat := 0
  wdRuns  : Bool := false
  deriving DecidableEq, Repr, Inhabited

/-- Status of a job card (R33). -/
inductive CardStatus where
  | pending | running | done | cancelled | torn
  deriving DecidableEq, Repr, Inhabited

/-- A card that the dealer has accepted (R35 to R41). -/
structure Card where
  vdev  : Nat
  queue : BitVec 8
  /-- Which launch's group table its groups index (R45). -/
  launch : Nat
  addr  : BitVec 56
  bits  : BitVec 512
  st    : CardStatus := .pending
  dealt : Nat := 0
  /-- Records of continuations that have ended: exited, and torn or cancelled (R34). -/
  done  : Nat := 0
  lost  : Nat := 0
  /-- Some continuation of the job was written TORN (R34). -/
  anyTorn : Bool := false
  /-- Dependences that have been satisfied, and those that have failed before that (R37). -/
  depOk  : BitVec 4 := 0
  depBad : BitVec 4 := 0
  deriving DecidableEq, Repr, Inhabited

/-- A group of a launch, as the group engine keeps it (R45, R344). -/
structure Group where
  valid   : Bool := false
  scope   : BitVec 3 := 0
  expect  : BitVec 32 := 0
  gen     : Nat := 0
  /-- Chrysalis addresses of the members that have arrived in GEN; an arrival stays when its member is torn (R345). -/
  arrived : List (BitVec 56) := []
  /-- Members that are not in a final state. -/
  live    : List (BitVec 56) := []
  nextRank : Nat := 0
  /-- GTC since which every member has been blocked in QRES, for QUEUE_DEADLOCK (R254). -/
  stuck   : Option Nat := none
  deriving DecidableEq, Repr, Inhabited

/-- A launch that brought a group table: its queue and the nesting bits "X without Y" (R46). -/
structure Launch where
  vdev   : Nat := 0
  queue  : BitVec 8 := 0
  without : List (BitVec 8 × BitVec 8) := []
  members : List (BitVec 8) := []
  deriving DecidableEq, Repr, Inhabited

/-- A dealt or spawned continuation that is not in a final state (R44, R88, R379). -/
structure Cont where
  record : BitVec 56
  chrys  : BitVec 56
  vdev   : Nat
  queue  : BitVec 8
  launch : Nat
  card   : Option Nat
  owner  : BitVec 12
  /-- Argument records of its chunk, which its ending adds to DONE or LOST (R34). -/
  narg   : BitVec 28 := 0
  /-- Still NEW, so the dealer counts it (R40). -/
  fresh  : Bool := true
  deriving DecidableEq, Repr

/-- A virtual device (R91, R437, R438). -/
structure Vdev where
  live    : Bool := false
  pword   : BitVec 13 := 0
  wall    : Bool := false
  rclass  : BitVec 2 := 0
  colour  : BitVec 6 := 0
  owner   : BitVec 12 := 0
  part    : BitVec 3 := 0
  key     : List Byte := []
  vmeas   : List Byte := []
  resident : Bool := false
  gated   : Bool := false
  /-- It has been resident before (R382). -/
  ran     : Bool := false
  /-- V_stop of R383, and the STOP_GTC of that stop. -/
  vStop   : Word := 0
  stopGtc : Nat := 0
  /-- Queue state that H0 has written out at its last switch: dealer positions of its cards, chrysalis addresses of its NEW continuations, and slot bindings
  as unit, slot and record (R83); its copy in memory is what counts. -/
  savedCards : List (Nat × Nat) := []
  savedNew   : List (BitVec 56) := []
  savedSlots : List (Nat × Nat × BitVec 56) := []
  /-- Quads of whose cores H0 has written PW_SET with PWORD (R91). -/
  worded  : BitVec 32 := 0
  /-- Owners of the virtual device: its endpoint's, and those of its queues (R426). -/
  owners  : List (BitVec 12) := []
  launches : Nat := 0
  deriving DecidableEq, Repr, Inhabited

/-- How far the compositor has come with the reset of a queue (R385). -/
inductive ResetStage where
  | arm | poll | close
  deriving DecidableEq, Repr, Inhabited

/-- How far the harts have come with stopping a virtual device for good, and with removing it (R92, R325, R426). -/
inductive RetireStage where
  /-- R325 steps 1 and 2. -/
  | writes | report
  /-- R53 for the pages whose D bits step 2 has cleared, each an address with its SIZE, and then R325 step 3 with the report's address. -/
  | inval (report : Nat) (ps : List (Nat × Nat))
  /-- R426 steps 1 to 3: regions to free, to sweep, owners to purge and delete. -/
  | rfree (ids : List (BitVec 20)) | sweep (ids : List (BitVec 20)) | owners (os : List (BitVec 12))
  /-- R92 step 4 and the response. -/
  | finish
  deriving DecidableEq, Repr, Inhabited

/-- A task of the shipped firmware that waits for something: each cycle it does what it can. -/
inductive Job where
  | reset (v : Nat) (q : BitVec 8) (st : ResetStage)
  /-- ENROL of a recovery boot (R430). -/
  | enrol
  /-- With the VDESTROY commands to answer and their endpoints; none for a stop for good alone. -/
  | retire (v : Nat) (cmds : List (Nat × HostCmd)) (st : RetireStage)
  deriving DecidableEq, Repr

/-- A decision of the compositor that no rule takes for it: input of the run. -/
inductive Decision where
  /-- Stops a virtual device for good (R85, R325). -/
  | stopForGood (v : Nat)
  /-- Its partition's quads are powered down, or up again (R437). -/
  | gate (v : Nat) (off : Bool)
  deriving DecidableEq, Repr

/-- An open session of an endpoint (R74, R435). -/
structure Session where
  id   : BitVec 32
  key  : List Byte
  last : Nat
  /-- Flits that the device has sealed under the key; the counter of the other direction is the peer's, carried in its packets (R441). -/
  sent : Nat := 0
  deriving DecidableEq, Repr

/-- A command endpoint: 0 the operator's, v + 1 that of virtual device v (R74, R78). -/
structure Endpoint where
  live     : Bool := false
  sessions : List Session := []
  /-- Lock holder and the GTC at which its lease expires. -/
  lock     : Option (BitVec 32 × Nat) := none
  deriving DecidableEq, Repr, Inhabited

/-- What the device sends to hosts and harts: responses (R77), RMA completions (R73) and register reads. -/
inductive HostOut where
  | response (ep : Nat) (session seqNo : BitVec 32) (queue op status : BitVec 8) (arg0 arg1 : Word) (payload : List Byte)
  | rmaDone (ep : Nat) (bytes : List Byte)
  | rmaError (ep : Nat) (reason : BitVec 8)
  | readValue (addr : Nat) (x : Word)
  deriving DecidableEq, Repr

/-- Energy accounting (R423). -/
structure Acct where
  w     : Vector (BitVec 24) 8 := Vector.replicate 8 0
  sw    : BitVec 24 := 0
  swc   : BitVec 24 := 0
  total : Tab Word := []
  /-- Late charges of each virtual device in units of 2^−12 counts. -/
  late  : Tab Nat := []
  deriving DecidableEq, Repr, Inhabited

/-- The hint registers (R275). -/
structure Hints where
  base : BitVec 38 := 0
  log  : BitVec 4 := 0
  tail : BitVec 32 := 0
  head : BitVec 32 := 0
  drop : Word := 0
  deriving DecidableEq, Repr, Inhabited

/-- A halt group's control register (R386). -/
structure HaltGroup where
  halted : Bool := false
  xv     : Bool := false
  xg     : BitVec 8 := 0
  armed  : Bool := false
  deriving DecidableEq, Repr, Inhabited

/-- The boot block, the security engine and the flash port (R428 to R434, R440, R446). -/
structure Boot where
  powered  : Bool := false
  powerUps : Nat := 0
  /-- PHASE of BOOT_STA: 0 ROM, 1 STAGE1, 2 LINKS, 3 MEMORY, 4 PORTS, 5 READY, 6 RECOVERY, 15 FAIL (R427). -/
  phase    : BitVec 4 := 0
  err      : BitVec 8 := 0
  degraded : Bool := false
  recov    : Bool := false
  harts    : BitVec 4 := 0
  h1Halted : Bool := false
  pufLock  : Bool := false
  seg15    : BitVec 38 := 0
  coreRel  : Bool := false
  /-- The 4 KiB steward image as CORE_REL loaded it into every core (R428). -/
  image15  : List Byte := []
  bootn    : BitVec 256 := 0
  /-- The device seed while the mask ROM holds it (R429, R431). -/
  uds      : List Byte := []
  /-- CDI_1, which stage 1 erases, and CDI_2 as the seed of the alias key (R431, R434). -/
  cdi1     : List Byte := []
  aliasSeed : List Byte := []
  /-- DeviceID public key, L1 certificate, alias certificate (R434). -/
  certs    : List Byte := []
  /-- The measurement log's entries, 128 bytes each (R433). -/
  mlog     : List (List Byte) := []
  operatorKey : List Byte := []
  lroot    : Option (BitVec 256) := none
  fpAddr   : BitVec 32 := 0
  fpBusy   : Bool := false
  seDone   : Bool := false
  seErr    : Bool := false
  seLink   : BitVec 8 := 0
  seBusy   : Bool := false
  /-- The LKEY in progress was issued before SE_LROOT was written, or names no link (R446). -/
  seBad    : Bool := false
  deriving DecidableEq, Repr, Inhabited

/-- A management hart (R89): its RISC-V registers, M or U mode, its PMP entries, and the image in its instruction RAM (R433, R434). mhartid is its number. -/
structure Hart where
  x       : Vector Word 32 := Vector.replicate 32 0
  pc      : Word := 0
  user    : Bool := false
  pmpcfg  : Vector Byte 16 := Vector.replicate 16 0
  pmpaddr : Vector Word 16 := Vector.replicate 16 0
  ram     : List Byte := []
  deriving DecidableEq, Repr, Inhabited

/-- A stack's memory controller (R443). -/
structure MemCtl where
  pwr    : Bool := false
  enable : Bool := false
  step   : BitVec 4 := 0
  pwrok  : Bool := false
  busy   : Bool := false
  pass   : Bool := false
  active : Bool := false
  rate   : BitVec 8 := 0
  fail   : BitVec 32 := 0
  repair : BitVec 16 := 0
  deriving DecidableEq, Repr, Inhabited

/-- A UCIe link (R445). -/
structure UcieLink where
  sb : Bool := false
  train : Bool := false
  enable : Bool := false
  sbup : Bool := false
  active : Bool := false
  lanes : BitVec 8 := 0
  repaired : BitVec 8 := 0
  deriving DecidableEq, Repr, Inhabited

/-- A pair key agreed with a peer device, with the flits that the device has sealed under it (R441). -/
structure PairKey where
  key  : BitVec 256
  sent : Nat := 0
  deriving DecidableEq, Repr

/-- An Ethernet port (R447, R448). -/
structure Port where
  pll : Bool := false
  txen : Bool := false
  lt : Bool := false
  mac : Bool := false
  pllLock : Bool := false
  cdr : BitVec 8 := 0
  ltDone : Bool := false
  fecLock : Bool := false
  align : Bool := false
  up : Bool := false
  fec : BitVec 32 := 0
  droppedPkts : Nat := 0
  /-- Pair keys, by the number of the peer device (R441). -/
  pairKeys : Tab (Option PairKey) := []
  deriving DecidableEq, Repr, Inhabited

/-- One direction of a sealed link: key, epoch and flit counter (R439, R442). -/
structure Seal where
  key   : List Byte := []
  /-- The previous epoch's key, which the receiver keeps until the new epoch's first flit (R442). -/
  prev  : List Byte := []
  epoch : Nat := 0
  count : Nat := 0
  deriving DecidableEq, Repr, Inhabited

/-- A sealed link: its two directions, the times of recent tag mismatches and whether the retry is still up (R442). -/
structure SealedLink where
  west : Seal := {}
  east : Seal := {}
  mismatches : List Nat := []
  down : Bool := false
  deriving DecidableEq, Repr, Inhabited

/-- An access that the race detector knows (R317 to R321). State holds them in the order in which they were performed. -/
structure OpenAccess where
  /-- The continuation (chrysalis address) or engine that made it. -/
  agent   : Nat
  granule : Nat
  write   : Bool
  priv    : Bool
  /-- The scope of a sync access; none for a plain one (R317). -/
  sync    : Option (BitVec 3) := none
  /-- The unit at which the agent stands, for scopes; 8,192 is outside the device (R311). -/
  unit    : Nat := 0
  /-- GTC at which a context issued it: its place in program order (R311). -/
  at_     : Nat := 0
  /-- An older access of the agent was still in flight when this one was performed (R318). -/
  early   : Bool := false
  /-- Its sync region has ended; it is kept for an older access still in flight that it was performed ahead of, or that another so kept was (R318, R321). -/
  closed  : Bool := false
  deriving DecidableEq, Repr

/-- The hub dies' blocks. -/
structure Hub where
  parts    : Vector Part 8 := Vector.replicate 8 {}
  ovlp     : Bool := false
  rights   : Rights := {}
  shoots   : List Shoot := []
  /-- Colour counters' packets are the `net` of their colour; the register is a view. -/
  hints    : Hints := {}
  acct     : Acct := {}
  groups64 : Tab HaltGroup := []
  hgOf     : Tab (Option (BitVec 6)) := []
  /-- G of the HG_OF entries whose V is 0 (R386). -/
  hgIdle   : Tab (BitVec 6) := []
  boot     : Boot := {}
  mcs      : Tab MemCtl := []
  links    : Tab UcieLink := []
  ports    : Tab Port := []
  seals    : Tab SealedLink := []
  vdevs    : Tab Vdev := []
  eps      : Tab Endpoint := []
  queues   : Tab Queue := []
  /-- Key slots 0 to 254: the key and the virtual device whose session filled the slot (R86, R92). -/
  keys     : Tab (Option (BitVec 256 × Nat)) := []
  /-- Flits that the device has sealed under each slot's key (R441). -/
  keysSent : Tab Nat := []
  unsupported : Nat := 0
  /-- Press cycle at which the governor's window began (R307). -/
  govAt    : Nat := 0
  harts    : Vector Hart 4 := Vector.replicate 4 {}
  /-- External interrupts raised: bit 0 H0's for a hint, bit 1 H1's for a link taken down, bit 3 H3's for a link or memory controller (R89, R275, R442). -/
  irq      : BitVec 4 := 0
  cards    : List Card := []
  launches : List Launch := []
  groups   : Tab Group := []
  conts    : List Cont := []
  /-- Tasks of the harts' firmware under way. -/
  jobs     : List Job := []
  /-- Decisions of the compositor with the GTC from which each is due. The model's own field. -/
  decisions : List (Nat × Decision) := []
  out      : List HostOut := []
  deriving DecidableEq, Repr, Inhabited

/-- What the device keeps of a context that no slot holds, beside its image: what it waits for and its uncovered destinations. -/
structure Aside where
  why   : WaitWhy := .none
  uncov : List Uncovered := []
  blockedAt : Option Nat := none
  accepted : Bool := false
  deriving DecidableEq, Repr, Inhabited

/-- The Opepra. -/
structure State where
  /-- Device time (R21). -/
  gtc    : Nat := 0
  /-- The unit in focus: compute core n, or 4,096 plus the number of R269 (R386). -/
  cur    : Nat := 0
  /-- The core in focus. -/
  core   : Core := {}
  /-- Every other core that differs from a core at reset. -/
  others : Tab Core := []
  /-- All byte storage, by the keys of `Machine/Mem.lean`. -/
  mem    : List Host.Cell := []
  tiles  : Tab Tile := []
  quads  : Tab Viceroy := []
  dies   : Tab Die := []
  galleys : Tab StackGalley := []
  net    : List NetMsg := []
  hub    : Hub := {}
  races  : List OpenAccess := []
  asides : Tab Aside := []
  /-- Numbers the free values that a step uses. The model's own field. -/
  freeCtr : Nat := 0
  /-- What other agents do and when: the input of the run. The model's own field. (Log 3: DESIGN CHOICE, 55: DEDUCED, 56: DESIGN CHOICE) -/
  agenda : List (Nat × Instr) := []
  deriving DecidableEq, Repr, Inhabited

/-- The machine right after reset: no power-up has run, nothing is released, every field at the value the spec gives or the log names. (Log 1: DESIGN CHOICE) -/
def State.reset : State := {}

end Sys2Proof.Machine
end

