-- ==== Sys2Proof/Machine/Mem.lean ====
section
/-! DEFINITION. Sparse tables, byte storage and its keys, places in the address space (R23 to R25, R48), the page walk (R49 to R52) and the tables of rights (R55 to R57). -/

namespace Sys2Proof.Machine

/-! ### Sparse tables -/

/-- The value at key `k`; `d` is what an unlisted key holds. -/
def tabGet {α : Type} (d : α) : Tab α → Nat → α
  | [], _ => d
  | (k', x) :: t, k => if k = k' then x else if k < k' then d else tabGet d t k

/-- Sets key `k`, keeping keys rising and removing an entry that would equal the default. -/
def tabSet {α : Type} [DecidableEq α] (d : α) : Tab α → Nat → α → Tab α
  | [], k, x => if x = d then [] else [(k, x)]
  | (k', y) :: t, k, x =>
    if k = k' then (if x = d then t else (k, x) :: t)
    else if k < k' then (if x = d then (k', y) :: t else (k, x) :: (k', y) :: t)
    else (k', y) :: tabSet d t k x

/-- Keys strictly rising above a bound and no entry equal to the default. -/
def tabWfFrom {α : Type} [DecidableEq α] (d : α) : Nat → Tab α → Bool
  | _, [] => true
  | lo, (k, x) :: t => decide (lo ≤ k) && decide (x ≠ d) && tabWfFrom d (k + 1) t

/-- The canonical form of a table. -/
def tabWf {α : Type} [DecidableEq α] (d : α) (t : Tab α) : Bool := tabWfFrom d 0 t

/-! ### Bytes -/

/-- What a byte that nothing has written reads as: 0 (DESIGN CHOICE: no rule gives the contents of memory at power-up). (Log 2: DESIGN CHOICE) -/
def unwritten : Byte := 0

/-- One byte of storage. (Log 2: DESIGN CHOICE) -/
def getByte (m : List Host.Cell) (a : Nat) : Byte := tabGet unwritten m a

/-- Stores one byte, keeping the canonical form. -/
def setByte (m : List Host.Cell) (a : Nat) (x : Byte) : List Host.Cell := tabSet unwritten m a x

/-- The canonical form of memory: addresses strictly rising, no entry equal to what an unlisted address reads as. -/
def Memory.wf (m : List Host.Cell) : Bool := tabWf unwritten m

/-- `n` bytes from `a`, lowest address first. -/
def getBytes (m : List Host.Cell) (a : Nat) : Nat → List Byte
  | 0 => []
  | n + 1 => getByte m a :: getBytes m (a + 1) n

/-- Stores bytes from `a` upward. -/
def setBytes (m : List Host.Cell) (a : Nat) : List Byte → List Host.Cell
  | [] => m
  | b :: bs => setBytes (setByte m a b) (a + 1) bs

/-- The little-endian value of bytes (R3). -/
def leNat : List Byte → Nat
  | [] => 0
  | b :: bs => b.toNat + 256 * leNat bs

/-- The `n` little-endian bytes of a number (R3). -/
def leBytes (n x : Nat) : List Byte :=
  match n with
  | 0 => []
  | n + 1 => BitVec.ofNat 8 x :: leBytes n (x / 256)

/-- The little-endian number in `n` bytes at `a`. -/
def getLe (m : List Host.Cell) (a n : Nat) : Nat := leNat (getBytes m a n)

/-- Stores the `n` little-endian bytes of a number at `a`. -/
def setLe (m : List Host.Cell) (a n x : Nat) : List Host.Cell := setBytes m a (leBytes n x)

/-- Bits [lo+n−1:lo] of a number. -/
def bits (x lo n : Nat) : Nat := x / 2 ^ lo % 2 ^ n

/-- A number with bits [lo+n−1:lo] replaced. -/
def setBits (x lo n v : Nat) : Nat := x % 2 ^ lo + v % 2 ^ n * 2 ^ lo + x / 2 ^ (lo + n) * 2 ^ (lo + n)

/-- Bit `i` of a number. -/
def bitAt (x i : Nat) : Bool := x / 2 ^ i % 2 == 1

/-- 1 or 0. -/
def boolNat (b : Bool) : Nat := if b then 1 else 0

/-! ### Units and places -/

/-- A compute core (R17, R386). -/
def isCompute (u : Nat) : Bool := decide (u < 4096)
/-- A fabric channel core. -/
def isFabric (u : Nat) : Bool := decide (4352 ≤ u)

/-- Bytes of a unit's pool (R27). -/
def poolSize (u : Nat) : Nat := if isCompute u then 0x80000 else 0x40000

/-- 16 KiB units of a unit's pool: U of R243. -/
def poolUnits (u : Nat) : Nat := if isCompute u then 32 else 16

/-- CORE_BASE: the global alias of the unit's pool offset 0 (R24, R25). -/
def coreBase (u : Nat) : Nat :=
  if u < 4096 then 0x00F0000000000000 + u * 2 ^ 19
  else if u < 4352 then 0x00F8000000000000 + (u - 4096) * 2 ^ 18
  else 0x00F8000000000000 + 2 ^ 26 + (u - 4352) / 8 * 2 ^ 23 + (u - 4352) % 8 * 2 ^ 18

/-- CORE_ID (R18). -/
def coreId (u : Nat) : Nat :=
  if u < 4096 then u * 8
  else if u < 4352 then 0x8000 + (u - 4096) / 32 * 2 ^ 11 + (u - 4096) % 32 * 2 ^ 6
  else 0x8000 + 0x4000 + (u - 4352) / 8 * 2 ^ 11 + (u - 4352) % 8 * 2 ^ 6

/-- The tile of a unit, die × 64 + y × 8 + x; a channel core stands in the tile it attaches to (R16, R311). -/
def tileOf (u : Nat) : Nat :=
  if u < 4096 then u / 8
  else
    let n := u - 4096
    n / 32 * 64 + (if n / 32 < 4 then 0 else 56) + n % 32 / 4

/-- The compute die of a tile. -/
def dieOfTile (t : Nat) : Nat := t / 64

/-- The quad of a tile, die × 4 + q (R14, R90). -/
def quadOfTile (t : Nat) : Nat := t / 64 * 4 + (if t % 64 / 8 < 4 then 0 else 2) + (if t % 8 < 4 then 0 else 1)

/-- The quad of a core that is not a fabric channel core (R14, R90). -/
def quadOf (u : Nat) : Nat := quadOfTile (tileOf u)

/-- Where an address lies (R23). -/
inductive Place where
  | priv (off : Nat)
  | pool (unit off : Nat)
  | heap
  | bad
  deriving DecidableEq, Repr

/-- The unit and offset of an address in the channel alias range, or none where it names no core (R25). -/
def channelAlias (o : Nat) : Option (Nat × Nat) :=
  let die := o / 2 ^ 23 % 8
  let ch := o / 2 ^ 18 % 32
  if o / 2 ^ 26 = 0 then some (4096 + die * 32 + ch, o % 2 ^ 18)
  else if die ≤ 1 ∧ ch ≤ 7 then some (4352 + die * 8 + ch, o % 2 ^ 18)
  else none

/-- The place of a virtual address; on a channel core the private alias ends at 0x3_FFFF (R156). -/
def place (compute : Bool) (va : Nat) : Place :=
  if va < 0x80000 then (if compute || decide (va < 0x40000) then .priv va else .bad)
  else if va < 0x00F0000000000000 then .heap
  else if va < 0x00F0000080000000 then .pool ((va - 0x00F0000000000000) / 2 ^ 19) (va % 2 ^ 19)
  else if va < 0x00F8000000000000 then .bad
  else if va < 0x00F8000008000000 then
    match channelAlias (va - 0x00F8000000000000) with
    | some (u, off) => .pool u off
    | none => .bad
  else .bad

/-- Storage key of a pool byte: its global alias. -/
def poolKey (u off : Nat) : Nat := coreBase u + off

/-- Storage key of a byte of a unit's instruction memory; a range of its own above every address. -/
def imemKey (u ima : Nat) : Nat := 2 ^ 60 + u * 2 ^ 16 + ima

/-- A physical address that a heap page may map to (R48): memory of a stack, or the host window. -/
def physOk (pa : Nat) : Bool :=
  (decide (pa < 2 ^ 40) && decide (pa % 2 ^ 37 < 80000000000)) || (decide (2 ^ 49 ≤ pa) && decide (pa < 2 ^ 50))

/-- Stack memory: the stack and channel of a physical address (R48, R103). -/
def stackOf (pa : Nat) : Option (Nat × Nat) :=
  if pa < 2 ^ 40 ∧ pa % 2 ^ 37 < 80000000000 then some (pa / 2 ^ 37, pa / 4096 % 32) else none

/-- In the host window (R48). -/
def inHostWindow (pa : Nat) : Bool := decide (2 ^ 49 ≤ pa) && decide (pa < 2 ^ 50)

/-! ### The page table -/

/-- A leaf found by a walk: the entry's address and fields, its level and the physical address of the byte (R50). -/
structure Leaf where
  addr  : Nat
  entry : Nat
  level : Nat
  pa    : Nat
  deriving DecidableEq, Repr

/-- One level of the walk of R49 and R50; `level` counts down from 4. -/
def walkFrom (m : List Host.Cell) (va : Nat) (table : Nat) : Nat → Option Leaf
  | 0 =>
    let a0 := table + 16 * bits va 12 9
    let e0 := getLe m a0 16
    if bitAt e0 0 && bitAt e0 2 then
      -- a 64 KiB page: any one of the 16 entries may be used (R49)
      let j := (Config.c64Entry (va / 4096)).toNat
      let a := table + 16 * (bits va 12 9 / 16 * 16 + j)
      let e := getLe m a 16
      if bitAt e 0 && bitAt e 1 && bits e 4 2 != 3 then
        some { addr := a, entry := e, level := 0, pa := (bits e 12 38 - j + bits va 12 4) * 4096 + va % 4096 }
      else none
    else if bitAt e0 0 && bitAt e0 1 && bits e0 4 2 != 3 then
      some { addr := a0, entry := e0, level := 0, pa := bits e0 12 38 * 4096 + va % 4096 }
    else none
  | level + 1 =>
    let a := table + 16 * (if level + 1 = 4 then bits va 48 8 else bits va (12 + 9 * (level + 1)) 9)
    let e := getLe m a 16
    if !bitAt e 0 then none
    else if bitAt e 1 then
      if level + 1 ≥ 3 ∨ bits e 4 2 = 3 ∨ bits e 12 (9 * (level + 1)) ≠ 0 then none
      else some { addr := a, entry := e, level := level + 1, pa := bits e 12 38 * 4096 + va % 2 ^ (12 + 9 * (level + 1)) }
    else walkFrom m va (bits e 12 38 * 4096) level

/-- The leaf that maps `va`; none where the walk raises the translation fault (R48 to R50). (Log 7: DESIGN CHOICE) -/
def walk (s : State) (va : Nat) : Option Leaf :=
  match walkFrom s.mem va s.hub.rights.xltRoot.toNat 4 with
  | some l => if physOk l.pa then some l else none
  | none => none

/-- Sets A, and D for a write, in a leaf entry (R52). -/
def setAD (m : List Host.Cell) (l : Leaf) (write : Bool) : List Host.Cell :=
  setByte m (l.addr + 8) (getByte m (l.addr + 8) ||| (if write then 3#8 else 1#8))

/-- A heap page's FMT and BLK, and its scale area (R50, R51). -/
def leafFmt (l : Leaf) : BitVec 4 := BitVec.ofNat 4 (bits l.entry 8 4)
def leafBlk (l : Leaf) : BitVec 2 := BitVec.ofNat 2 (bits l.entry 6 2)
def leafScale (l : Leaf) : Nat := bits l.entry 76 38 * 4096

/-! ### The tables of rights -/

/-- A right of R56, at its bit among E G X W I. -/
inductive Right where
  | I | W | X | G | E
  deriving DecidableEq, Repr

/-- Whether rights bits E G X W I hold a right (R56). -/
def hasRight (r : BitVec 5) : Right → Bool
  | .I => r.getLsbD 0
  | .W => r.getLsbD 1
  | .X => r.getLsbD 2
  | .G => r.getLsbD 3
  | .E => r.getLsbD 4

/-- An owner descriptor (R55). -/
structure OwnerDesc where
  valid : Bool
  cap   : Nat
  count : Nat
  base  : Nat
  deriving DecidableEq, Repr

/-- A range-table entry (R56). -/
structure RangeEntry where
  region : BitVec 20
  gen    : BitVec 16
  rights : BitVec 5
  len    : Nat
  base   : Nat
  deriving DecidableEq, Repr

/-- State of a region (R57). -/
inductive RegionState where
  | free | live | revoking | tombstone
  deriving DecidableEq, Repr

/-- A region-table entry (R57). -/
structure Region where
  st      : RegionState
  creator : BitVec 12
  gen     : BitVec 16
  len     : Nat
  base    : Nat
  deriving DecidableEq, Repr

/-- Address of an owner's descriptor (R55, R69). -/
def ownerAddr (s : State) (o : BitVec 12) : Nat := s.hub.rights.ownTbl.toNat + 16 * o.toNat

/-- An owner's descriptor, read from the owner table (R55). -/
def ownerDesc (s : State) (o : BitVec 12) : OwnerDesc :=
  let x := getLe s.mem (ownerAddr s o) 16
  { valid := bitAt x 127, cap := bits x 84 20, count := bits x 64 20, base := bits x 4 46 * 16 }

/-- Writes an owner's descriptor (R55). -/
def setOwnerDesc (s : State) (o : BitVec 12) (d : OwnerDesc) : State :=
  { s with mem := setLe s.mem (ownerAddr s o) 16 (d.base % 2 ^ 50 / 16 * 16 + d.count * 2 ^ 64 + d.cap * 2 ^ 84 + boolNat d.valid * 2 ^ 127) }

/-- Reads a range-table entry (R56). -/
def readRange (m : List Host.Cell) (a : Nat) : RangeEntry :=
  let x := getLe m a 16
  { region := BitVec.ofNat 20 (bits x 108 20), gen := BitVec.ofNat 16 (bits x 92 16), rights := BitVec.ofNat 5 (bits x 84 5),
    len := bits x 44 40, base := bits x 0 44 }

/-- A range-table entry as a number (R56). -/
def rangeNat (e : RangeEntry) : Nat :=
  e.base + e.len * 2 ^ 44 + e.rights.toNat * 2 ^ 84 + e.gen.toNat * 2 ^ 92 + e.region.toNat * 2 ^ 108

/-- `n` range-table entries from address `a`. -/
def readRanges (m : List Host.Cell) (a : Nat) : Nat → List RangeEntry
  | 0 => []
  | n + 1 => readRange m a :: readRanges m (a + 16) n

/-- An owner's range table (R56). -/
def rangeTable (s : State) (o : BitVec 12) : List RangeEntry :=
  let d := ownerDesc s o
  readRanges s.mem d.base d.count

/-- Writes entries from address `a` upward. -/
def writeRanges (m : List Host.Cell) (a : Nat) : List RangeEntry → List Host.Cell
  | [] => m
  | e :: es => writeRanges (setLe m a 16 (rangeNat e)) (a + 16) es

/-- Replaces an owner's range table; RT_COUNT follows (R55, R56). -/
def setRangeTable (s : State) (o : BitVec 12) (es : List RangeEntry) : State :=
  let d := ownerDesc s o
  let s1 := { s with mem := writeRanges s.mem d.base es }
  setOwnerDesc s1 o { d with count := es.length }

/-- Address of a region's entry (R57, R69). -/
def regionAddr (s : State) (id : BitVec 20) : Nat := s.hub.rights.rgnTbl.toNat + 16 * id.toNat

/-- The region state of its code (R57). -/
def regionStateOf (n : Nat) : RegionState := if n = 0 then .free else if n = 1 then .live else if n = 2 then .revoking else .tombstone
/-- The code of a region state (R57). -/
def regionCode : RegionState → Nat
  | .free => 0 | .live => 1 | .revoking => 2 | .tombstone => 3

/-- A region's entry (R57). -/
def region (s : State) (id : BitVec 20) : Region :=
  let x := getLe s.mem (regionAddr s id) 16
  { st := regionStateOf (bits x 126 2), creator := BitVec.ofNat 12 (bits x 112 12), gen := BitVec.ofNat 16 (bits x 96 16),
    len := bits x 44 40, base := bits x 0 44 }

/-- Writes a region's entry (R57). -/
def setRegion (s : State) (id : BitVec 20) (r : Region) : State :=
  let x := r.base + r.len * 2 ^ 44 + r.gen.toNat * 2 ^ 96 + r.creator.toNat * 2 ^ 112 + regionCode r.st * 2 ^ 126
  { s with mem := setLe s.mem (regionAddr s id) 16 x }

/-- Whether an entry of a range table covers an address (R56). -/
def covers (base len va : Nat) : Bool := decide (base ≤ va / 4096) && decide (va / 4096 < base + len)

/-- The entry of an owner's range table that covers an address (R58 step 3). -/
def findRange (s : State) (o : BitVec 12) (va : Nat) : Option RangeEntry :=
  (rangeTable s o).find? fun e => covers e.base e.len va

/-- Region ids in use, searched in increasing order from `i`. -/
def findRegionFrom (s : State) (p : Region → Bool) (i : Nat) : Nat → Option (BitVec 20)
  | 0 => none
  | n + 1 => if p (region s (BitVec.ofNat 20 i)) then some (BitVec.ofNat 20 i) else findRegionFrom s p (i + 1) n

/-- Entries of the region table: RGN_CAP, but no more than there are region ids (R57). (Log 37: DESIGN CHOICE) -/
def regionCap (s : State) : Nat := min s.hub.rights.rgnCap (2 ^ 20)

/-- The first region with a property. -/
def findRegion (s : State) (p : Region → Bool) : Option (BitVec 20) := findRegionFrom s p 0 (regionCap s)

/-- The region other than a FREE one that covers an address (R57: no two overlap). -/
def regionAt (s : State) (va : Nat) : Option (BitVec 20) :=
  findRegion s fun r => r.st != .free && covers r.base r.len va

/-- Why a check or an access is refused; the codes of REASON and of the statuses follow (R258, R360). -/
inductive Refuse where
  | address | protection | stale | noExternal | translation | race
  deriving DecidableEq, Repr

/-- The trap cause of a refusal (R360). -/
def causeOf : Refuse → BitVec 8
  | .address => 2 | .protection => 3 | .stale => 4 | .noExternal => 6 | .translation => 5 | .race => 17

/-- The engine status of a refusal (R258, R284, R319); an address that no copy may name ends BADSHAPE. -/
def statusOf : Refuse → BitVec 8
  | .address => 6 | .protection => 3 | .stale => 4 | .noExternal => 1 | .translation => 2 | .race => 10

/-- Whether a stamp's generation is still current; the refusal it meets otherwise (R64). -/
def stampCheck (s : State) : Stamp → Option Refuse
  | none => none
  | some (id, gen) =>
    let r := region s id
    if r.gen = gen then none
    else if r.st = .revoking ∨ r.st = .tombstone then some .stale else some .protection

/-- Steps 4 and 5 of R58 on a found entry. -/
def entryCheck (s : State) (e : RangeEntry) (n : Right) : Option Refuse :=
  match stampCheck s (some (e.region, e.gen)) with
  | some r => some r
  | none => if hasRight e.rights n then none else some .protection

end Sys2Proof.Machine
end

