-- ==== Sys2Proof/Machine/Image.lean ====
section
/-! DEFINITION. Contexts as data: their registers and tokens, the chrysalis image (R137, R366, R367), the continuation record (R42), and finding a context wherever its lines lie (R138). -/

namespace Sys2Proof.Machine

/-! ### Registers and tokens of a context -/

/-- g[r]; g[0] reads 0 (R119). -/
def ctxG (c : Ctx) (r : Reg) : Word := if r = 0#5 then 0#64 else c.regs.g[r.toNat]'(r.isLt)
/-- g[r] := x; writes to g[0] are discarded (R119). -/
def ctxPutG (c : Ctx) (r : Reg) (x : Word) : Ctx :=
  if r = 0#5 then c else { c with regs := { c.regs with g := c.regs.g.set r.toNat x r.isLt } }
/-- v[r]. -/
def ctxV (c : Ctx) (r : Reg) : Vec := c.regs.v[r.toNat]'(r.isLt)
/-- v[r] := x. -/
def ctxPutV (c : Ctx) (r : Reg) (x : Vec) : Ctx := { c with regs := { c.regs with v := c.regs.v.set r.toNat x r.isLt } }
/-- m[r]; m[0] reads all ones (R119). -/
def ctxM (c : Ctx) (r : BitVec 3) : BitVec 32 := if r = 0#3 then BitVec.allOnes 32 else c.regs.m[r.toNat]'(r.isLt)
/-- The lane-size tag of m[r], W = 2^tag bytes; m0 has W = 1 (R217). -/
def ctxTag (c : Ctx) (r : BitVec 3) : BitVec 2 := if r = 0#3 then 0#2 else c.regs.mtag[r.toNat]'(r.isLt)
/-- m[r] and its tag; writes to m[0] are discarded (R119). -/
def ctxPutM (c : Ctx) (r : BitVec 3) (x : BitVec 32) (tag : BitVec 2) : Ctx :=
  if r = 0#3 then c
  else { c with regs := { c.regs with m := c.regs.m.set r.toNat x r.isLt, mtag := c.regs.mtag.set r.toNat tag r.isLt } }

/-- The token a name denotes (R112). -/
def ctxToken (c : Ctx) (t : TokenName) : Token :=
  if t.handler then c.regs.hk[t.num.toNat % 4]'(Nat.mod_lt _ (by omega)) else c.regs.k[t.num.toNat]'(t.num.isLt)
/-- Sets the token a name denotes. -/
def ctxSetToken (c : Ctx) (t : TokenName) (x : Token) : Ctx :=
  if t.handler then { c with regs := { c.regs with hk := c.regs.hk.set (t.num.toNat % 4) x (Nat.mod_lt _ (by omega)) } }
  else { c with regs := { c.regs with k := c.regs.k.set t.num.toNat x t.num.isLt } }

/-- Makes a WAITING context READY for a wake that `on` accepts; one that is STOPPED from such a wait has PRE := READY (R348, R373, R378). -/
def ctxWake (on : WaitWhy → Bool) (c : Ctx) : Ctx :=
  if on c.why then
    let ctl := if c.why = .suspended then { c.ctl with wake := false } else c.ctl
    if c.rcd.state = .waiting then { c with why := .none, blockedAt := none, ctl := ctl, rcd := { c.rcd with state := .ready } }
    else if c.rcd.state = .stopped ∧ c.rcd.pre = .waiting then { c with why := .none, blockedAt := none, ctl := ctl, rcd := { c.rcd with pre := .ready } }
    else c
  else c

/-- POST_TOKEN (R119, R131): COUNT rises by one; the WAKE latch is set, which ends a SUSP (R348), and an IDLE ends (R192). -/
def ctxPost (c : Ctx) (t : TokenName) : Ctx :=
  let k := ctxToken c t
  let c1 := ctxSetToken c t { k with count := k.count + 1#16 }
  ctxWake (fun w => w == .suspended) { c1 with idle := c1.idle.map fun _ => true, ctl := { c1.ctl with wake := true } }

/-- Marks the uncovered destinations of an operation as written (R132). -/
def ctxUncovDone (c : Ctx) (t : TokenName) (d : Dest) : Ctx :=
  { c with uncov := c.uncov.map fun e => if e.token = t ∧ e.dest = d then { e with done := true } else e }

/-! ### The image -/

/-- Loop levels and saved loop state, tags and flags of the control word at 0x5E4 (R366). -/
def ctlWord (c : Ctx) : Nat :=
  let act : Nat := boolNat c.regs.loops[0].active + 2 * boolNat c.regs.loops[1].active + 4 * boolNat c.regs.loops[2].active
  let tags : Nat := (List.range 7).foldl (fun n i => n + (c.regs.mtag.getD (i + 1) 0#2).toNat * 4 ^ i) 0
  c.ctl.fpFlags.toNat + 2 ^ 5 * boolNat c.ctl.chkEn + 2 ^ 6 * boolNat c.ctl.wake + 2 ^ 7 * boolNat c.ctl.steward
    + 2 ^ 8 * act + 2 ^ 11 * c.ctl.savedAct.toNat + 2 ^ 14 * tags

/-- ENERGY as software reads it (R421, R424). -/
def energyWord (c : Ctl) : Nat := c.energy / 4096 + 2 ^ 48 * boolNat c.energySat + 2 ^ 52 * (c.energy % 4096)

/-- The control word at 0x5F8 (R366, R402). -/
def holdWord (c : Ctl) : Nat :=
  c.mbaHead.toNat + 2 ^ 5 * c.mbaCnt.toNat + 2 ^ 11 * boolNat c.hold + 2 ^ 12 * boolNat c.holdCh + 2 ^ 13 * c.holdCore.toNat
    + 2 ^ 25 * boolNat c.fo + 2 ^ 26 * boolNat c.fs + 2 ^ 27 * c.fn.toNat

/-- Bytes 0x000 to 0x5FF of the image (R137, R366). -/
def imageBytes (c : Ctx) : List Byte :=
  (c.regs.g.toList.flatMap fun x => leBytes 8 x.toNat) ++ (c.regs.v.toList.flatMap fun x => leBytes 32 x.toNat)
  ++ (c.regs.m.toList.flatMap fun x => leBytes 4 x.toNat)
  ++ (c.regs.k.toList.flatMap fun t => leBytes 2 t.count.toNat) ++ (c.regs.k.toList.flatMap fun t => leBytes 2 t.issued.toNat)
  ++ (c.regs.hk.toList.flatMap fun t => leBytes 2 t.count.toNat) ++ (c.regs.hk.toList.flatMap fun t => leBytes 2 t.issued.toNat)
  ++ (c.regs.lc.toList.flatMap fun x => leBytes 4 x.toNat) ++ leBytes 4 0
  ++ leBytes 8 c.ctl.trapPc.toNat ++ leBytes 8 c.ctl.trapVal.toNat
  ++ leBytes 4 (c.ctl.cause.code.toNat + 256 * c.ctl.cause.reason.toNat + 2 ^ 31 * boolNat c.ctl.cause.async)
  ++ leBytes 4 (c.ctl.jnl.entry.toNat + 2 ^ 5 * boolNat c.ctl.jnl.log + 2 ^ 6 * boolNat c.ctl.jnl.valid)
  ++ leBytes 8 c.ctl.copy.src.toNat ++ leBytes 8 c.ctl.copy.dst.toNat ++ leBytes 8 c.ctl.copy.sta.toNat ++ leBytes 8 c.ctl.copy.stb.toNat
  ++ leBytes 8 c.ctl.copy.map.toNat
  ++ leBytes 8 (c.ctl.copy.len.toNat + 2 ^ 24 * c.ctl.copy.shape.toNat + 2 ^ 40 * c.ctl.copy.flags.toNat)
  ++ (c.regs.loops.toList.flatMap fun l => leBytes 2 l.start.toNat) ++ (c.regs.loops.toList.flatMap fun l => leBytes 2 l.stop.toNat)
  ++ (c.ctl.ranks.toList.flatMap fun x => leBytes 4 x.toNat)
  ++ leBytes 4 (ctlWord c) ++ leBytes 8 (energyWord c.ctl) ++ leBytes 8 c.ctl.record.toNat ++ leBytes 8 (holdWord c.ctl)

/-- Window offsets 0x018 to 0x01F hold the thresholds (R367, R399). -/
def fitWord (c : Ctl) : Nat := c.fitAbs.toNat + 2 ^ 32 * c.fitRel.toNat

/-- A byte of the handler window (R367). -/
def windowByte (c : Ctx) (off : Nat) : Byte :=
  if 0x18 ≤ off ∧ off < 0x20 then byteOf (fitWord c.ctl) (off - 0x18) else getByte c.window off

/-- Stores a byte of the handler window; stores to the thresholds are ignored (R367). -/
def setWindowByte (c : Ctx) (off : Nat) (x : Byte) : Ctx :=
  if 0x18 ≤ off ∧ off < 0x20 then c else { c with window := setByte c.window off x }

/-- Stores bytes of the handler window. -/
def setWindowBytes (c : Ctx) (off : Nat) : List Byte → Ctx
  | [] => c
  | b :: bs => setWindowBytes (setWindowByte c off b) (off + 1) bs

/-- Bytes 0x800 to 0xFFF of the image: the handler window with the thresholds (R137, R367, R399). -/
def windowBytes (c : Ctx) : List Byte := (List.range 2048).map (windowByte c)

/-- Writes a context's lines to its image at storage key `key`; the mailbox area is left. -/
def storeImage (m : List Host.Cell) (key : Nat) (c : Ctx) : List Host.Cell :=
  setBytes (setBytes m key (imageBytes c)) (key + 0x800) (windowBytes c)

/-- A vector of `n` values read from equally spaced places. -/
def readVec {α : Type} (n : Nat) (f : Nat → α) : Vector α n := Vector.ofFn fun i => f i.val

/-- Reads the register files of an image (R137). -/
def loadRegs (m : List Host.Cell) (key : Nat) : RegSet :=
  let w := getLe m (key + 0x5E4) 4
  { g := readVec 32 fun i => BitVec.ofNat 64 (if i = 0 then 0 else getLe m (key + 8 * i) 8)
    v := readVec 32 fun i => BitVec.ofNat 256 (getLe m (key + 0x100 + 32 * i) 32)
    m := readVec 8 fun i => BitVec.ofNat 32 (getLe m (key + 0x500 + 4 * i) 4)
    mtag := readVec 8 fun i => BitVec.ofNat 2 (if i = 0 then 0 else bits w (14 + 2 * (i - 1)) 2)
    k := readVec 16 fun i => { count := BitVec.ofNat 16 (getLe m (key + 0x520 + 2 * i) 2), issued := BitVec.ofNat 16 (getLe m (key + 0x540 + 2 * i) 2) }
    hk := readVec 4 fun i => { count := BitVec.ofNat 16 (getLe m (key + 0x560 + 2 * i) 2), issued := BitVec.ofNat 16 (getLe m (key + 0x568 + 2 * i) 2) }
    lc := readVec 3 fun i => BitVec.ofNat 32 (getLe m (key + 0x570 + 4 * i) 4)
    loops := readVec 3 fun i =>
      { start := BitVec.ofNat 16 (getLe m (key + 0x5C8 + 2 * i) 2), stop := BitVec.ofNat 16 (getLe m (key + 0x5CE + 2 * i) 2), active := bitAt w (8 + i) } }

/-- Reads the control state of an image (R366); OWNER comes from the record. -/
def loadCtl (m : List Host.Cell) (key : Nat) (owner : BitVec 12) : Ctl :=
  let w := getLe m (key + 0x5E4) 4
  let tc := getLe m (key + 0x590) 4
  let tj := getLe m (key + 0x594) 4
  let cp := getLe m (key + 0x5C0) 8
  let en := getLe m (key + 0x5E8) 8
  let hw := getLe m (key + 0x5F8) 8
  let ft := getLe m (key + 0x818) 8
  { owner := owner
    trapPc := BitVec.ofNat 56 (getLe m (key + 0x580) 8)
    trapVal := BitVec.ofNat 64 (getLe m (key + 0x588) 8)
    cause := { async := bitAt tc 31, reason := BitVec.ofNat 8 (bits tc 8 8), code := BitVec.ofNat 8 (bits tc 0 8) }
    jnl := { valid := bitAt tj 6, log := bitAt tj 5, entry := BitVec.ofNat 5 (bits tj 0 5) }
    copy :=
      { src := BitVec.ofNat 64 (getLe m (key + 0x598) 8), dst := BitVec.ofNat 64 (getLe m (key + 0x5A0) 8)
        sta := BitVec.ofNat 64 (getLe m (key + 0x5A8) 8), stb := BitVec.ofNat 64 (getLe m (key + 0x5B0) 8)
        map := BitVec.ofNat 64 (getLe m (key + 0x5B8) 8)
        len := BitVec.ofNat 24 (bits cp 0 24), shape := BitVec.ofNat 16 (bits cp 24 16), flags := BitVec.ofNat 23 (bits cp 40 23) }
    ranks := readVec 4 fun i => BitVec.ofNat 32 (getLe m (key + 0x5D4 + 4 * i) 4)
    fpFlags := BitVec.ofNat 5 (bits w 0 5), chkEn := bitAt w 5, wake := bitAt w 6, steward := bitAt w 7
    savedAct := BitVec.ofNat 3 (bits w 11 3)
    energy := bits en 0 48 * 4096 + bits en 52 12, energySat := bitAt en 48
    record := BitVec.ofNat 56 (getLe m (key + 0x5F0) 8)
    mbaHead := BitVec.ofNat 5 (bits hw 0 5), mbaCnt := BitVec.ofNat 6 (bits hw 5 6)
    hold := bitAt hw 11, holdCh := bitAt hw 12, holdCore := BitVec.ofNat 12 (bits hw 13 12)
    fo := bitAt hw 25, fs := bitAt hw 26, fn := BitVec.ofNat 4 (bits hw 27 4)
    fitAbs := BitVec.ofNat 32 (bits ft 0 32), fitRel := BitVec.ofNat 32 (bits ft 32 32) }

/-- The handler window's nonzero bytes of an image, without the thresholds. -/
def loadWindow (m : List Host.Cell) (key : Nat) : List Host.Cell :=
  (List.range 2048).foldr (fun i w =>
    let b := getByte m (key + 0x800 + i)
    if b = 0#8 ∨ (0x18 ≤ i ∧ i < 0x20) then w else (i, b) :: w) []

/-! ### Continuation records -/

/-- The code of a continuation's state (R43). -/
def contCode : ContState → Nat
  | .new => 0 | .ready => 1 | .running => 2 | .waiting => 3 | .stopped => 4 | .exited => 5 | .torn => 6 | .cancelled => 7

/-- The state of a code; 8 and above are reserved and refused at a bind (R42, R43). (Log 35: DESIGN CHOICE) -/
def contOf (n : Nat) : ContState :=
  match n with
  | 0 => .new | 1 => .ready | 2 => .running | 3 => .waiting | 4 => .stopped | 5 => .exited | 6 => .torn | _ => .cancelled

/-- EXITED, TORN and CANCELLED are final (R44). -/
def isFinal : ContState → Bool
  | .exited | .torn | .cancelled => true
  | _ => false

/-- The fields of a record (R42). -/
def recOf (x : Nat) : Rec :=
  { cwref := BitVec.ofNat 32 (bits x 480 32), stride := BitVec.ofNat 12 (bits x 448 12), ch := bitAt x 440, job := BitVec.ofNat 56 (bits x 384 56)
    narg := BitVec.ofNat 28 (bits x 352 28), groups := BitVec.ofNat 32 (bits x 256 32), affinity := BitVec.ofNat 56 (bits x 192 56)
    fstop := bitAt x 191, pre := contOf (bits x 188 3), ngrp := BitVec.ofNat 3 (bits x 184 3), arg := BitVec.ofNat 56 (bits x 128 56)
    chrys := BitVec.ofNat 56 (bits x 64 56), rclass := BitVec.ofNat 2 (bits x 62 2), prio := BitVec.ofNat 2 (bits x 60 2), state := contOf (bits x 56 4) }

/-- A record's OWNER and PC (R42). -/
def recOwner (x : Nat) : BitVec 12 := BitVec.ofNat 12 (bits x 288 12)
def recPc (x : Nat) : BitVec 56 := BitVec.ofNat 56 (bits x 0 56)

/-- A whole record as a number (R42). -/
def recNat (r : Rec) (owner : BitVec 12) (pc : BitVec 56) (kout : BitVec 16) (hkout : BitVec 4) : Nat :=
  pc.toNat + contCode r.state * 2 ^ 56 + r.prio.toNat * 2 ^ 60 + r.rclass.toNat * 2 ^ 62 + r.chrys.toNat * 2 ^ 64 + r.arg.toNat * 2 ^ 128
    + r.ngrp.toNat * 2 ^ 184 + contCode r.pre * 2 ^ 188 + boolNat r.fstop * 2 ^ 191 + r.affinity.toNat * 2 ^ 192 + r.groups.toNat * 2 ^ 256
    + owner.toNat * 2 ^ 288 + kout.toNat * 2 ^ 320 + hkout.toNat * 2 ^ 336 + r.narg.toNat * 2 ^ 352 + r.job.toNat * 2 ^ 384
    + boolNat r.ch * 2 ^ 440 + r.stride.toNat * 2 ^ 448 + r.cwref.toNat * 2 ^ 480

/-- A token with operations outstanding (R131). -/
def outstanding (t : Token) : Bool := t.count != t.issued

/-- KOUT of a context (R42). -/
def koutOf (c : Ctx) : BitVec 16 := (List.range 16).foldl (fun n i => if outstanding (c.regs.k.getD i {}) then n ||| (1#16 <<< i) else n) 0#16
/-- HKOUT of a context (R42). -/
def hkoutOf (c : Ctx) : BitVec 4 := (List.range 4).foldl (fun n i => if outstanding (c.regs.hk.getD i {}) then n ||| (1#4 <<< i) else n) 0#4

/-- An access to a heap address, refused or not: from then on the rights block's table registers are fixed (R69). -/
def lockHeap (va : Nat) (s : State) : State :=
  match place true va with
  | .heap => { s with hub := { s.hub with rights := { s.hub.rights with locked := true } } }
  | _ => s

/-- An access that translates a heap page: it marks the page accessed, and dirty for a write (R52). -/
def touchPage (write : Bool) (va : Nat) (s : State) : State :=
  match place true va with
  | .heap => match walk s va with
    | some l => lockHeap va { s with mem := setAD s.mem l write }
    | none => lockHeap va s
  | _ => s

/-- Storage key of an address that the device itself uses for owner 0, without a rights check: a pool alias, or a heap address translated (R104, R373). (Log 9: DESIGN CHOICE) -/
def devKey (s : State) (va : Nat) : Option Nat :=
  match place true va with
  | .pool u off => some (poolKey u off)
  | .heap => (walk s va).map (·.pa)
  | _ => none

/-- The device's own read of `n` bytes; an address it cannot place reads as 0 (DESIGN CHOICE). (Log 9: DESIGN CHOICE) -/
def devGet (s : State) (va n : Nat) : Nat :=
  match devKey s va with
  | some k => getLe s.mem k n
  | none => 0

/-- The device's own write; one to an address it cannot place is dropped (DESIGN CHOICE). (Log 9: DESIGN CHOICE) -/
def devPut (s : State) (va n x : Nat) : State :=
  match devKey s va with
  | some k => touchPage true va { s with mem := setLe s.mem k n x }
  | none => s

/-! ### Finding a context -/

/-- Slot `i` of a core holds a loaded context and is not the issuing slot. -/
def slotHolds (c : Core) (i : Nat) (chrys : BitVec 56) : Bool :=
  let sl := c.slots.getD i {}
  (sl.sst == .loaded || sl.sst == .evicting) && c.issuing != some (BitVec.ofNat 3 i) && sl.ctx.rcd.chrys == chrys

/-- The core issues the context named by a chrysalis address. -/
def issues (c : Core) (chrys : BitVec 56) : Bool := c.issuing.isSome && c.ctx.rcd.chrys == chrys

/-- The slot of a core that holds a context which is not issuing. -/
def slotWith (c : Core) (chrys : BitVec 56) : Option Nat := (List.range 8).find? fun i => slotHolds c i chrys

/-- Replaces slot `i`'s entry. -/
def setSlot (c : Core) (i : Nat) (sl : Slot) : Core :=
  if h : i < 8 then { c with slots := c.slots.set i sl h } else c

/-- The loaded context of a chrysalis address in one core. -/
def coreCtx (c : Core) (chrys : BitVec 56) : Option Ctx :=
  if issues c chrys then some c.ctx
  else (slotWith c chrys).map fun i => (c.slots.getD i {}).ctx

/-- Changes a loaded context in one core; none where the core does not hold it. -/
def coreModCtx (c : Core) (chrys : BitVec 56) (f : Ctx → Ctx) : Option Core :=
  if issues c chrys then some { c with ctx := f c.ctx }
  else (slotWith c chrys).map fun i =>
    let sl := c.slots.getD i {}
    setSlot c i { sl with ctx := f sl.ctx }

/-- The first core of a table that holds a context. -/
def tabFindCtx (t : Tab Core) (chrys : BitVec 56) : Option (Nat × Ctx) :=
  match t with
  | [] => none
  | (u, c) :: rest => match coreCtx c chrys with
    | some x => some (u, x)
    | none => tabFindCtx rest chrys

/-- Changes a loaded context in the first core of a table that holds it. -/
def tabModCtx (t : Tab Core) (chrys : BitVec 56) (f : Ctx → Ctx) : Option (Tab Core) :=
  match t with
  | [] => none
  | (u, c) :: rest => match coreModCtx c chrys f with
    | some c' => some ((u, c') :: rest)
    | none => (tabModCtx rest chrys f).map ((u, c) :: ·)

/-- The unit that holds a context in a slot, and the context. -/
def findCtx (s : State) (chrys : BitVec 56) : Option (Nat × Ctx) :=
  match coreCtx s.core chrys with
  | some c => some (s.cur, c)
  | none => tabFindCtx s.others chrys

/-- RECORD of the image at a chrysalis address: 0 once the image is released (R366, R373). -/
def imageRecord (s : State) (chrys : BitVec 56) : BitVec 56 := BitVec.ofNat 56 (devGet s (chrys.toNat + 0x5F0) 8)

/-- The context in the image at a chrysalis address, with its record's fields. (Log 9: DESIGN CHOICE) -/
def absentCtx (s : State) (chrys : BitVec 56) : Option Ctx :=
  match devKey s chrys.toNat with
  | none => none
  | some key =>
    let rp := BitVec.ofNat 56 (getLe s.mem (key + 0x5F0) 8)
    if rp = 0#56 then none
    else
      let x := devGet s rp.toNat 64
      let a := tabGet {} s.asides chrys.toNat
      some { regs := loadRegs s.mem key, ctl := loadCtl s.mem key (recOwner x), rcd := recOf x, codePc := recPc x, window := loadWindow s.mem key,
             why := a.why, uncov := a.uncov, blockedAt := a.blockedAt, accepted := a.accepted }

/-- A record's number with the fields replaced that follow the continuation's state: PC, STATE, PRIO, PRE, FSTOP and OWNER (R42, R98). -/
def recUpdate (x : Nat) (c : Ctx) : Nat :=
  setBits (setBits (setBits (setBits (setBits (setBits x 0 56 c.codePc.toNat) 56 4 (contCode c.rcd.state)) 60 2 c.rcd.prio.toNat) 188 3 (contCode c.rcd.pre))
    191 1 (boolNat c.rcd.fstop)) 288 12 c.ctl.owner.toNat

/-- Writes those fields of a context's record where one of them has changed. -/
def putFields (s : State) (c : Ctx) : State :=
  let x := devGet s c.ctl.record.toNat 64
  if recUpdate x c = x then s else devPut s c.ctl.record.toNat 64 (recUpdate x c)

/-- The record at a write-back: the same fields with KOUT and HKOUT; the record's other fields stand (R42, R98). -/
def putRecord (s : State) (c : Ctx) : State :=
  devPut s c.ctl.record.toNat 64 (setBits (setBits (recUpdate (devGet s c.ctl.record.toNat 64) c) 320 16 (koutOf c).toNat) 336 4 (hkoutOf c).toNat)

/-- KOUT and HKOUT of the record at a write-back that leaves the continuation in its slot (R139). -/
def putOuts (s : State) (c : Ctx) : State :=
  devPut s c.ctl.record.toNat 64 (setBits (setBits (devGet s c.ctl.record.toNat 64) 320 16 (koutOf c).toNat) 336 4 (hkoutOf c).toNat)

/-- OWNER and PC of the record at a suspension (R42, R356). (Log 57: DEDUCED) -/
def putSuspended (s : State) (c : Ctx) : State :=
  devPut s c.ctl.record.toNat 64 (setBits (setBits (devGet s c.ctl.record.toNat 64) 0 56 c.codePc.toNat) 288 12 c.ctl.owner.toNat)

/-- Writes a context's lines to its image, and keeps aside what no line holds. -/
def putCtxImage (s : State) (chrys : BitVec 56) (c : Ctx) : State :=
  let s1 := { s with asides := tabSet {} s.asides chrys.toNat { why := c.why, uncov := c.uncov, blockedAt := c.blockedAt, accepted := c.accepted } }
  match devKey s1 chrys.toNat with
  | none => s1
  | some key => touchPage true chrys.toNat { s1 with mem := storeImage s1.mem key c }

/-- Writes a context that no slot holds back to its image, and to its record where the record's fields change. -/
def putAbsent (s : State) (chrys : BitVec 56) (c : Ctx) : State := putFields (putCtxImage s chrys c) c

/-- Changes a context wherever its lines lie (R138); one whose image is released is left alone (R139). -/
def modCtx (s : State) (chrys : BitVec 56) (f : Ctx → Ctx) : State :=
  match coreModCtx s.core chrys f with
  | some c => { s with core := c }
  | none => match tabModCtx s.others chrys f with
    | some o => { s with others := o }
    | none => match absentCtx s chrys with
      | some c => putAbsent s chrys (f c)
      | none => s

/-- A context wherever its lines lie. -/
def anyCtx (s : State) (chrys : BitVec 56) : Option Ctx :=
  match findCtx s chrys with
  | some (_, c) => some c
  | none => absentCtx s chrys

/-! ### Cores -/

/-- A unit's core. -/
def getCore (s : State) (u : Nat) : Core := if u = s.cur then s.core else tabGet {} s.others u

/-- Replaces a unit's core. -/
def setCore (s : State) (u : Nat) (c : Core) : State :=
  if u = s.cur then { s with core := c } else { s with others := tabSet {} s.others u c }

/-- Changes a unit's core. -/
def modCore (s : State) (u : Nat) (f : Core → Core) : State := setCore s u (f (getCore s u))

/-- Moves the focus to a unit. -/
def focus (s : State) (u : Nat) : State :=
  if u = s.cur then s
  else { s with others := tabSet {} (tabSet {} s.others s.cur s.core) u {}, cur := u, core := tabGet {} s.others u }

/-- The next free-value number. (Log 5: DESIGN CHOICE) -/
def nextFree (s : State) : State := { s with freeCtr := s.freeCtr + 1 }

end Sys2Proof.Machine
end

