-- ==== Sys2Proof/Machine/Ops.lean ====
section
/-! DEFINITION. The shared operations of a step: the core in focus, pending results, control flow, taking a trap and returning from one,
events, access checks, race detection, tokens and the operand log and journal. -/

namespace Sys2Proof.Machine

/-- The outcome of a step of this machine. -/
abbrev Out := Host.Outcome State Fault Refusal

/-! ### The core in focus -/

/-- Replaces the issuing context. -/
def setCtx (s : State) (c : Ctx) : State := { s with core := { s.core with ctx := c } }
/-- Replaces the control state of the issuing context. -/
def setCtl (s : State) (c : Ctl) : State := setCtx s { s.core.ctx with ctl := c }
/-- Replaces the register files of the issuing context. -/
def setRegs (s : State) (r : RegSet) : State := setCtx s { s.core.ctx with regs := r }
/-- Replaces the record fields of the issuing context. -/
def setRcd (s : State) (r : Rec) : State := setCtx s { s.core.ctx with rcd := r }
/-- Replaces the hub blocks. -/
def setHub (s : State) (h : Hub) : State := { s with hub := h }

/-- g[r] of the issuing context. (Log 55: DEDUCED) -/
def rdG (s : State) (r : Reg) : Word := ctxG s.core.ctx r
/-- v[r] of the issuing context. -/
def rdV (s : State) (r : Reg) : Vec := ctxV s.core.ctx r
/-- m[r] of the issuing context. -/
def rdM (s : State) (r : BitVec 3) : BitVec 32 := ctxM s.core.ctx r

/-- Steward mode (R358). -/
def steward (s : State) : Bool := s.core.ctx.ctl.steward
/-- The owner that accesses act for (R54). -/
def acting (s : State) : BitVec 12 := if steward s then 0#12 else s.core.ctx.ctl.owner
/-- The chrysalis address that names the issuing context. -/
def me (s : State) : BitVec 56 := s.core.ctx.rcd.chrys
/-- The core in focus is a compute core. -/
def onCompute (s : State) : Bool := isCompute s.cur

/-- The partition of a unit: the one whose map holds its quad (R90); a fabric channel core lies in none. -/
def partOf (s : State) (u : Nat) : Option (BitVec 3) :=
  if isFabric u then none
  else ((List.range 8).find? fun p => (s.hub.parts.getD p {}).map.getLsbD (quadOf u)).map (BitVec.ofNat 3)

/-- Partition p's registers. -/
def getPart (s : State) (p : BitVec 3) : Part := s.hub.parts[p.toNat]'(p.isLt)
/-- Replaces partition p's registers. -/
def setPart (s : State) (p : BitVec 3) (x : Part) : State := setHub s { s.hub with parts := s.hub.parts.set p.toNat x p.isLt }

/-- Bytes of a unit's scratchpad: 16,384 × SCR (R243). -/
def scratchSize (u : Nat) (c : Core) : Nat := 16384 * (poolUnits u - c.rf.toNat - c.acc.toNat)
/-- Bytes of a unit's scratchpad and accumulator partition together (R243). -/
def accEnd (u : Nat) (c : Core) : Nat := 16384 * (poolUnits u - c.rf.toNat)

/-! ### Energy (R421 to R424) -/

/-- The largest X of R424. -/
def energyMax : Nat := (2 ^ 48 - 1) * 4096 + 4095

/-- Adds a charge to a context (R424); at the largest X a charge has no effect until a steward writes ENERGY. -/
def addEnergy (c : Ctx) (x : Nat) : Ctx :=
  if c.ctl.energy + x ≤ energyMax then { c with recent := c.recent + x, ctl := { c.ctl with energy := c.ctl.energy + x } }
  else { c with recent := c.recent + x, ctl := { c.ctl with energy := energyMax, energySat := true } }

/-- The charge of `n` events of class `cls` (R422). -/
def chargeOf (s : State) (cls n : Nat) : Nat := (s.hub.acct.w.getD cls 0#24).toNat * n

/-- Charges the issuing context (R422). (Log 18: DEDUCED) -/
def charge (cls n : Nat) (s : State) : State := setCtx s (addEnergy s.core.ctx (chargeOf s cls n))

/-- What stands in the place of a context that has reached a final state in work it left in flight: its virtual device `v` (R139, R417).
No chrysalis address has this form, since an image is aligned to 4 KiB. -/
def deadCtx (v : Nat) : BitVec 56 := BitVec.ofNat 56 (2 ^ 56 - 1 - v)
/-- The virtual device of a context that has ended, or none for any other address; 64 stands for no virtual device. -/
def deadOf (c : BitVec 56) : Option Nat := if 2 ^ 56 - 65 ≤ c.toNat then some (2 ^ 56 - 1 - c.toNat) else none

/-- Charges a context wherever its lines lie, or the late charges of its virtual device (R417, R422). (Log 18: DEDUCED) -/
def chargeTo (c : BitVec 56) (cls n : Nat) (s : State) : State :=
  match deadOf c with
  | none => modCtx s c fun x => addEnergy x (chargeOf s cls n)
  | some v =>
    if v < 64 then setHub s { s.hub with acct := { s.hub.acct with late := tabSet 0 s.hub.acct.late v (tabGet 0 s.hub.acct.late v + chargeOf s cls n) } }
    else s

/-! ### Pending fixed-latency results (R127, R128) -/

/-- What a result does when it falls due. -/
def applyPending (c : Ctx) : Pending → Ctx
  | .writeG r x => ctxPutG c r x
  | .writeV r x => ctxPutV c r x
  | .writeM r x t => ctxPutM c r x t
  | .flags f => { c with ctl := { c.ctl with fpFlags := c.ctl.fpFlags ||| f } }
  | .post t => ctxPost c t

/-- Applies the results due by cycle `now`, in issue order. -/
def settle (now : Nat) (c : Ctx) : Ctx :=
  let due := c.pend.filter fun p => decide (p.1 ≤ now)
  due.foldl (fun c p => applyPending c p.2) { c with pend := c.pend.filter fun p => !decide (p.1 ≤ now) }

/-- Inserts a result after those due no later, so that the list is by due cycle and then by issue order. -/
def insertDue (p : Nat × Pending) : List (Nat × Pending) → List (Nat × Pending)
  | [] => [p]
  | q :: qs => if p.1 < q.1 then p :: q :: qs else q :: insertDue p qs

/-- Completes every pending result, as trap entry and a stop do (R140, R378). -/
def flush (c : Ctx) : Ctx :=
  (c.pend.foldl (fun l p => insertDue p l) []).foldl (fun c p => applyPending c p.2) { c with pend := [] }

/-- Adds a result of latency `lat` of the instruction issued in this cycle. -/
def later (lat : Nat) (p : Pending) (s : State) : State :=
  setCtx s { s.core.ctx with pend := s.core.ctx.pend ++ [(s.gtc + lat, p)] }

/-- A pending write of g[r] that takes effect by cycle `now`. -/
def stalePend (r : Reg) (now : Nat) (p : Nat × Pending) : Bool :=
  match p.2 with
  | .writeG r' _ => r' == r && decide (p.1 ≤ now)
  | _ => false

/-- g[r] := x at latency 1: it replaces earlier-issued writes that fall due in the same cycle (R127). -/
def putG (r : Reg) (x : Word) (s : State) : State :=
  setCtx s (ctxPutG { s.core.ctx with pend := s.core.ctx.pend.filter fun p => !stalePend r (s.gtc + 1) p } r x)

/-- g[r] := x at a latency above 1. -/
def putGLater (lat : Nat) (r : Reg) (x : Word) (s : State) : State := if r = 0#5 then s else later lat (.writeG r x) s
/-- v[r] := x at a latency. -/
def putVLater (lat : Nat) (r : Reg) (x : Vec) (s : State) : State := later lat (.writeV r x) s
/-- m[r] := x with a tag at a latency. -/
def putMLater (lat : Nat) (r : BitVec 3) (x : BitVec 32) (tag : BitVec 2) (s : State) : State :=
  if r = 0#3 then s else later lat (.writeM r x tag) s
/-- Flags ORed into FP_FLAGS at a latency (R201). -/
def flagsLater (lat : Nat) (f : BitVec 5) (s : State) : State := if f = 0#5 then s else later lat (.flags f) s

/-! ### Segments and code addresses -/

/-- SEG[n] of a core (R107). -/
def segOf (c : Core) (n : BitVec 4) : Seg := c.segs[n.toNat]'(n.isLt)
/-- Replaces SEG[n]. -/
def setSeg (c : Core) (n : BitVec 4) (x : Seg) : Core := { c with segs := c.segs.set n.toNat x n.isLt }

/-- The segment of an IMA (R105). -/
def segNo (p : BitVec 16) : BitVec 4 := p.extractLsb' 12 4

/-- CODE_VA(p) (R119). -/
def codeVa (s : State) (p : BitVec 16) : BitVec 56 := (segOf s.core (segNo p)).base ++ p.extractLsb' 0 12

/-- A byte of the unit in focus's instruction memory; segment 15 holds the image of CORE_REL until other code is fetched into it (R428). -/
def imemByte (s : State) (p : BitVec 16) : Byte :=
  if s.core.bootSeg && segNo p == 15#4 then s.hub.boot.image15.getD (p.toNat - 0xF000) unwritten else getByte s.mem (imemKey s.cur p.toNat)

/-- A parcel of the unit in focus's instruction memory (R110). -/
def parcelAt (s : State) (p : BitVec 16) : BitVec 16 := imemByte s (p + 1#16) ++ imemByte s p

/-- A cause and value of an exact trap. -/
abbrev Cause := BitVec 8 × Word

/-- The trap that R108 names for fetching a parcel at `p`, if any; `va` is TRAP_VAL. -/
def parcelTrap (s : State) (p : BitVec 16) (va : BitVec 56) : Option Cause :=
  if (segOf s.core (segNo p)).st ≠ .landed then some (7#8, va.setWidth 64)
  else if segNo p = 15#4 ∧ steward s = false then some (3#8, va.setWidth 64)
  else none

/-- The trap that R108 names for fetching the instruction at IMA `p`, if any. -/
def fetchTrap (s : State) (p : BitVec 16) : Option Cause :=
  match parcelTrap s p (codeVa s p) with
  | some c => some c
  | none => if isLong (parcelAt s p) then parcelTrap s (p + 2#16) (codeVa s p) else none

/-- RESOLVE(c) (R119): an IMA, or the trap it names. -/
def resolve (s : State) (c : Word) : Except Cause (BitVec 16) :=
  if c.extractLsb' 56 8 ≠ 0#8 ∨ c.getLsbD 0 then .error (2#8, c)
  else
    match (List.range 16).find? fun n =>
        let g := segOf s.core (BitVec.ofNat 4 n)
        g.st == .landed && g.base == c.extractLsb' 12 44 with
    | none => .error (7#8, c)
    | some n => if n = 15 ∧ steward s = false then .error (3#8, c) else .ok (BitVec.ofNat 4 n ++ c.extractLsb' 0 12)

/-! ### Events of the dispatch block (R101) -/

/-- An event record (R101). -/
def eventOf (kind err : Nat) (cont : BitVec 56) (core slot : Nat) (tag : BitVec 32) : BitVec 128 :=
  BitVec.ofNat 128 (tag.toNat + slot % 8 * 2 ^ 49 + core % 4096 * 2 ^ 52 + kind % 16 * 2 ^ 64 + err % 16 * 2 ^ 68 + cont.toNat / 64 * 2 ^ 72)

/-- The event ring has no room: its size field is outside 6 to 15, it holds all its records, or producers wait already (R101). (Log 10: DEDUCED) -/
def ringFull (x : Part) : Bool :=
  decide (x.evtLog.toNat < 6) || decide ((x.evtTail - x.evtHead).toNat ≥ 2 ^ x.evtLog.toNat) || !x.evtWait.isEmpty

/-- Writes an event into its partition's ring, or keeps it until there is room: no event is lost (R101). (Log 10: DEDUCED) -/
def writeEvent (p : BitVec 3) (e : BitVec 128) (s : State) : State :=
  let x := getPart s p
  if ringFull x then setPart s p { x with evtWait := x.evtWait ++ [e] }
  else
    let a := x.evtBase.toNat * 4096 + 16 * (x.evtTail.toNat % 2 ^ x.evtLog.toNat)
    setPart { s with mem := setLe s.mem a 16 e.toNat } p { x with evtTail := x.evtTail + 1#32 }

/-- Writes an event where a partition is known. -/
def writeEventTo (p : Option (BitVec 3)) (e : BitVec 128) (s : State) : State :=
  match p with
  | some q => writeEvent q e s
  | none => s

/-- The number that events and bind records give a core: linear, or that of R269. -/
def coreNumber (u : Nat) : Nat := if isCompute u then u else u - 4096

/-- KIND of a slot's event: channel slots add 8 (R270). -/
def slotKind (u k : Nat) : Nat := if isCompute u then k else k + 8

/-! ### Sequential flow (R179) -/

/-- One level of the scan of R179; the flag says that the scan has ended. -/
def loopScan (q : BitVec 16) (st : Ctx × BitVec 16 × Bool) (n : Fin 3) : Ctx × BitVec 16 × Bool :=
  let (c, next, ended) := st
  let l := c.regs.loops[n]
  if !ended && l.active && l.stop == q then
    if 1 < c.regs.lc[n].toNat then
      ({ c with regs := { c.regs with lc := c.regs.lc.set n (c.regs.lc[n] - 1#32) } }, l.start, true)
    else ({ c with regs := { c.regs with lc := c.regs.lc.set n 0#32, loops := c.regs.loops.set n { l with active := false } } }, next, false)
  else st

/-- The PC after sequential flow to `q`, with the loop-back check of R179. -/
def seqFlow (c : Ctx) (q : BitVec 16) : Ctx :=
  let (c1, next, _) := loopScan q (loopScan q (loopScan q (c, q, false) 2) 1) 0
  { c1 with pc := next }

/-! ### Accesses of a context in flight (R326) -/

/-- A logged load of a context that has not been performed. -/
def logWaits (chrys : BitVec 56) (e : Option LogEntry) : Bool :=
  match e with
  | some x => x.ctx == chrys && x.held.isNone
  | none => false

/-- A posted store of a context that has not been performed. -/
def jnlWaits (chrys : BitVec 56) (e : Option JnlEntry) : Bool :=
  match e with
  | some x => x.ctx == chrys && x.held.isNone
  | none => false

/-- Some core has a property: a context that was moved can have accesses in flight on the core it left (R138, R311). -/
def anyCore (p : Core → Bool) (s : State) : Bool := p s.core || s.others.any fun e => p e.2

/-- A core has an access of a context in flight. -/
def coreWaits (chrys : BitVec 56) (c : Core) : Bool := c.log.toList.any (logWaits chrys) || c.journal.toList.any (jnlWaits chrys)

/-- A context's access was performed ahead of an older one of it that may still be in flight (R318). -/
def overtook (s : State) (a : OpenAccess) : Bool := a.early && decide (a.agent < 2 ^ 56) && anyCore (coreWaits (BitVec.ofNat 56 a.agent)) s

/-- The accesses that the detector goes on knowing: those of open regions, and from the first that overtook one still in flight all that were performed (R318). -/
def keptFrom (p : OpenAccess → Bool) : List OpenAccess → List OpenAccess
  | [] => []
  | a :: rest => if p a then a :: rest else if a.closed then keptFrom p rest else a :: keptFrom p rest

/-- Ends the open sync region of an agent (R321). (Log 16: DEDUCED) -/
def endRegion (agent : Nat) (s : State) : State :=
  { s with races := keptFrom (overtook s) (s.races.map fun a => if a.agent = agent then { a with closed := true } else a) }

/-! ### Slots of the core in focus -/

/-- The issuing slot's entry. -/
def issuingSlot (s : State) : Slot :=
  match s.core.issuing with
  | some i => s.core.slots[i.toNat]'(i.isLt)
  | none => {}

/-- The IDLE that a context stands in is complete: it has issued, and the PC is after it (R192). -/
def endIdle (s : State) (c : Ctx) : Ctx :=
  if c.idle.isSome then let c1 := addEnergy c (chargeOf s 0 1); { seqFlow c1 (c1.pc + 4#16) with idle := none } else c

/-- An IDLE that a core stands in ends (R192). -/
def wakeIdle (c : Core) : Core := { c with ctx := { c.ctx with idle := c.ctx.idle.map fun _ => true } }

/-- The issuing slot stops issuing: its context goes back to the slot and its PC is written as a code address (R109); an IDLE is complete (R192). -/
def leaveSlot (s : State) : State :=
  match s.core.issuing with
  | none => s
  | some i =>
    let b := if s.core.ctx.rcd.state = .waiting then s.core.ctx.blockedAt else none
    let c0 := endIdle s s.core.ctx
    let c := { c0 with codePc := codeVa s c0.pc, blockedAt := b, accepted := s.core.accepted }
    let sl := s.core.slots[i.toNat]'(i.isLt)
    { s with core := { s.core with issuing := none, ctx := {}, holdSince := none, holdSwitch := false, accepted := false, answer := none, asked := none,
                                   slots := s.core.slots.set i.toNat { sl with ctx := c } i.isLt } }

/-- Slot `i` of the core in focus goes to the end of its level's round-robin (R100). -/
def toEnd (i : BitVec 3) (s : State) : State :=
  { s with core := { s.core with slots := s.core.slots.set i.toNat { s.core.slots[i.toNat]'(i.isLt) with turn := s.core.turns } i.isLt, turns := s.core.turns + 1 } }

/-- The issuing slot suspends or is switched away from: it leaves, and goes to the end of its level (R100). -/
def leaveToEnd (s : State) : State :=
  match s.core.issuing with
  | none => s
  | some i => toEnd i (leaveSlot s)


/-! ### Traps (R357 to R365) -/

/-- The loop state of a context as the handler window keeps it (R367). -/
def loopBytes (c : Ctx) : List Byte :=
  (c.regs.lc.toList.flatMap fun x => leBytes 4 x.toNat) ++ (c.regs.loops.toList.flatMap fun l => leBytes 2 l.start.toNat)
    ++ (c.regs.loops.toList.flatMap fun l => leBytes 2 l.stop.toNat)

/-- ACTIVE of the three levels as bits. -/
def activeBits (c : Ctx) : BitVec 3 :=
  BitVec.ofBool c.regs.loops[2].active ++ BitVec.ofBool c.regs.loops[1].active ++ BitVec.ofBool c.regs.loops[0].active

/-- Saves the loop state into the handler window and clears every ACTIVE (R182, R357 step 3). -/
def saveLoops (c : Ctx) : Ctx :=
  let c1 := setWindowBytes c 0 (loopBytes c)
  { c1 with ctl := { c1.ctl with savedAct := activeBits c }, regs := { c1.regs with loops := c1.regs.loops.map fun l => { l with active := false } } }

/-- A little-endian number in the handler window. -/
def windowLe (c : Ctx) (off n : Nat) : Nat := leNat ((List.range n).map fun i => windowByte c (off + i))

/-- Restores the loop state from the handler window (R182, R359 step 2). -/
def restoreLoops (c : Ctx) : Ctx :=
  { c with regs :=
    { c.regs with lc := readVec 3 fun i => BitVec.ofNat 32 (windowLe c (4 * i) 4)
                  loops := readVec 3 fun i =>
                    { start := BitVec.ofNat 16 (windowLe c (0xC + 2 * i) 2), stop := BitVec.ofNat 16 (windowLe c (0x12 + 2 * i) 2),
                      active := c.ctl.savedAct.getLsbD i } } }

/-- A context that enters the handler from outside steward mode (R357): its older results written, the trap registers set, its loop state saved, at IMA 0xF000. -/
def handlerCtx (cause : TrapCause) (val : Word) (pc : BitVec 56) (jnl : TrapJnl) (x : Ctx) : Ctx :=
  let c := saveLoops (flush x)
  { c with pc := 0xF000#16, blockedAt := none, ctl := { c.ctl with trapPc := pc, trapVal := val, cause := cause, jnl := jnl, steward := true } }

/-- Enters the handler from outside steward mode (R357). -/
def enterHandler (cause : TrapCause) (val : Word) (pc : BitVec 56) (jnl : TrapJnl) (s : State) : State :=
  endRegion (me s).toNat
    { s with core := { s.core with ctx := handlerCtx cause val pc jnl s.core.ctx, nextIssue := s.gtc + 6, holdSince := none, holdSwitch := false, accepted := false, answer := none, asked := none } }

/-- An exact trap in steward mode: the slot is STOPPED with FSTOP and a FAULT event is written (R365). -/
def faultStop (code : BitVec 8) (s : State) : State :=
  let c := flush s.core.ctx
  let s1 := setCtx s { c with rcd := { c.rcd with state := .stopped, pre := .running, fstop := true } }
  let sl := issuingSlot s
  let s2 := leaveToEnd s1
  let s3 := { s2 with core := { s2.core with nextIssue := s2.gtc + 1, accepted := false, answer := none, asked := none } }
  writeEventTo sl.part (eventOf (slotKind s.cur 7) 0 sl.cont (coreNumber s.cur) ((s.core.issuing.getD 0#3).toNat) (code.setWidth 32)) (endRegion (me s).toNat s3)

/-- Takes an exact trap with TRAP_PC given (R357, R365). -/
def takeTrapAt (pc : BitVec 56) (c : Cause) (s : State) : State :=
  if steward s then faultStop c.1 s
  else enterHandler { async := false, reason := 0#8, code := c.1 } c.2 pc {} s

/-- Takes an exact trap at the instruction in focus. -/
def takeTrap (c : Cause) (s : State) : State := takeTrapAt (codeVa s s.core.ctx.pc) c s

/-- The energy class of the instruction in the issue register: 1 for majors 17 to 20, else 0 (R422). -/
def issueClass (ir : BitVec 32) : Nat := if ir.extractLsb' 0 2 = 3#2 ∧ 17 ≤ (ir.extractLsb' 2 5).toNat ∧ (ir.extractLsb' 2 5).toNat ≤ 20 then 1 else 0

/-- The outcome of an instruction that traps: it has issued, so it is charged, and it writes nothing (R357, R422). (Log 18: DEDUCED) -/
def trapAs (c : Cause) (s : State) : Out := .next (takeTrap c (charge (issueClass s.core.ir) 1 s))
/-- The same with the cause's code and value apart. -/
def trap (code : BitVec 8) (val : Word) (s : State) : Out := trapAs (code, val) s

/-- ILLEGAL() (R119): TRAP_VAL is the instruction word. -/
def illegal (s : State) : Out := trap 1#8 (s.core.ir.setWidth 64) s

/-! ### Control flow (R180) -/

/-- Ends level `n` where target `x` lies outside its body (R180). -/
def endLevel (x : BitVec 16) (c : Ctx) (n : Fin 3) : Ctx :=
  let l := c.regs.loops[n]
  if l.active && !decide ((x - l.start).toNat < (l.stop - l.start).toNat) then
    { c with regs := { c.regs with lc := c.regs.lc.set n 0#32, loops := c.regs.loops.set n { l with active := false } } }
  else c

/-- Ends every level that a transfer to `x` leaves (R180). -/
def endLevels (x : BitVec 16) (c : Ctx) : Ctx := endLevel x (endLevel x (endLevel x c 0) 1) 2

/-- The core after an instruction has issued: the next issues no earlier than t + 1 + extra (R125). -/
def issued (extra : Nat) (s : State) : State :=
  { s with core := { s.core with nextIssue := s.gtc + 1 + extra, holdSince := none, holdSwitch := false, accepted := false, answer := none, asked := none } }

/-- An instruction of `size` bytes completes without transferring control. -/
def retireBy (size : Nat) (cls : Nat) (extra : Nat) (s : State) : State :=
  let s1 := charge cls 1 s
  issued extra (setCtx s1 (seqFlow s1.core.ctx (s1.core.ctx.pc + BitVec.ofNat 16 size)))

/-- A 32-bit instruction outside majors 17 to 20 completes. -/
def retire (sc : BitVec 2) (s : State) : State := retireBy 4 0 sc.toNat s
/-- A vector instruction of majors 17 to 20 completes (R422 class 1). -/
def retireV (sc : BitVec 2) (s : State) : State := retireBy 4 1 sc.toNat s

/-- Control passes to `x` (R176, R180); the caller has checked R108. -/
def transfer (sc : BitVec 2) (x : BitVec 16) (s : State) : State :=
  let s1 := charge 0 1 s
  issued sc.toNat (setCtx s1 { endLevels x s1.core.ctx with pc := x })

/-- A transfer of control to `x`, or the exact trap that R108 names, with nothing changed (R176). (Log 19: DEDUCED) -/
def jumpTo (sc : BitVec 2) (x : BitVec 16) (k : State → State) (s : State) : Out :=
  match fetchTrap s x with
  | some c => trapAs c s
  | none => .next (transfer sc x (k s))

/-- The instruction holds issue: it is issued again in the next cycle, and nothing else has changed (R129). (Log 20: DEDUCED) -/
def hold (atSwitch : Bool) (s : State) : State :=
  { s with core := { s.core with nextIssue := s.gtc + 1, holdSince := some (s.core.holdSince.getD s.gtc), holdSwitch := atSwitch } }

/-! ### The checking scoreboard (R135, R136) -/

/-- FILE and REG of a destination. -/
def destBits : Dest → Nat
  | .g r => r.toNat
  | .v r => 32 + r.toNat
  | .m r => 64 + r.toNat

/-- The destination of a pending write. -/
def pendDest : Pending → Option Dest
  | .writeG r _ => some (.g r)
  | .writeV r _ => some (.v r)
  | .writeM r _ _ => some (.m r)
  | _ => none

/-- g0 and m0 hold no value that a write could change. -/
def destLive : Dest → Bool
  | .g r => r != 0#5
  | .m r => r != 0#3
  | .v _ => true

/-- A destination of a token operation that a read in cycle `now` is not covered for. -/
def uncovered (now : Nat) (d : Dest) (e : Uncovered) : Bool :=
  e.dest == d && (match e.coveredAt with | some t => decide (now < t) | none => true)

/-- KIND 0 and 1 for a read of `d` (R136). -/
def readTrap (now : Nat) (c : Ctx) (d : Dest) : Option Word :=
  if !destLive d then none
  else if c.pend.any fun p => pendDest p.2 == some d && decide (now < p.1) then some (BitVec.ofNat 64 (destBits d))
  else match c.uncov.find? (uncovered now d) with
    | some e => some (BitVec.ofNat 64 (1 * 2 ^ 12 + e.token.num.toNat * 2 ^ 8 + boolNat e.token.handler * 2 ^ 7 + destBits d))
    | none => none

/-- KIND 2 for a write of `d` at latency `lat` (R136): among fixed-latency writes alone; neither is a token operation's, of which the rule does not speak. (Log 55: DEDUCED) -/
def writeTrap (now : Nat) (c : Ctx) (d : Dest) (lat : Nat) : Option Word :=
  if destLive d && c.pend.any (fun p => pendDest p.2 == some d && decide (now + lat < p.1)) then
    some (BitVec.ofNat 64 (2 * 2 ^ 12 + destBits d)) else none

/-- UNDER_WAIT for an instruction's reads and fixed-latency write, with EN = 1 (R136). (Log 55: DEDUCED) -/
def underWait (s : State) (reads : List Dest) (wr : Option (Dest × Nat)) : Option Word :=
  if !s.core.ctx.ctl.chkEn then none
  else match reads.findSome? (readTrap s.gtc s.core.ctx) with
    | some v => some v
    | none => match wr with
      | some (d, lat) => writeTrap s.gtc s.core.ctx d lat
      | none => none

/-- Runs an instruction's effect unless the scoreboard traps. -/
def checked (reads : List Dest) (wr : Option (Dest × Nat)) (s : State) (k : State → Out) : Out :=
  match underWait s reads wr with
  | some v => trap 9#8 v s
  | none => k s

/-! ### Tokens (R112, R131) -/

/-- TOKEN(K): the token that K names in the mode in force; none where it is illegal (R112). -/
def tokenOf (s : State) (k : BitVec 4) : Option TokenName :=
  if steward s then (if k.extractLsb' 2 2 = 0#2 then some { handler := true, num := k } else none)
  else some { handler := false, num := k }

/-- The token of major 13's K and BANK (R112). -/
def tokenBank (s : State) (bank : BitVec 1) (k : BitVec 4) : Option TokenName :=
  if bank = 1#1 then (if steward s then some { handler := false, num := k } else none) else tokenOf s k

/-- A token's number as TRAP_VAL: 16 + n for hkn (R360). -/
def tokenNo (t : TokenName) : Word := BitVec.ofNat 64 (t.num.toNat + (if t.handler then 16 else 0))

/-- Issuing an operation on the token would make its outstanding number exceed 2^15 − 1 (R131). -/
def tokenFull (s : State) (t : TokenName) : Bool :=
  let k := ctxToken s.core.ctx t
  decide (2 ^ 15 - 1 ≤ (k.issued - k.count).toNat)

/-- ISSUE_TOKEN(t) (R119, R131). -/
def issueToken (t : TokenName) (s : State) : State :=
  let k := ctxToken s.core.ctx t
  setCtx s (ctxSetToken s.core.ctx t { k with issued := k.issued + 1#16 })

/-- The ordinal of the operation issued last on a token. -/
def ordinal (s : State) (t : TokenName) : BitVec 16 := (ctxToken s.core.ctx t).issued

/-- Records a destination of a token operation as uncovered (R132, R136). -/
def addUncovered (d : Dest) (t : TokenName) (covered : Option Nat) (s : State) : State :=
  if destLive d then
    setCtx s { s.core.ctx with uncov := (s.core.ctx.uncov.filter fun e => !(e.done && e.dest == d && e.coveredAt.isSome)) ++
      [{ dest := d, token := t, ordinal := ordinal s t, done := covered.isSome, coveredAt := covered }] }
  else s

/-- Runs the rest of a token operation with its token, or takes the trap of R112 or R131. -/
def withToken (k : BitVec 4) (s : State) (f : TokenName → Out) : Out :=
  match tokenOf s k with
  | none => illegal s
  | some t => f t

/-- Takes TOKEN_OVERFLOW, or goes on (R131). -/
def guardToken (t : TokenName) (s : State) (f : State → Out) : Out :=
  if tokenFull s t then trap 10#8 (tokenNo t) s else f s

/-- REACHED(t, n) (R119). -/
def reached (c : Ctx) (t : TokenName) (n : BitVec 16) : Bool := decide (((ctxToken c t).count - n).toNat < 2 ^ 15)

/-! ### Access checks (R58 to R60) -/

/-- Moves a PLB entry to the front of the 32 (R60: least recently used is replaced). -/
def plbFill (c : Core) (e : PlbEntry) : Core := { c with plb := (e :: c.plb.filter (· != e)).take 32 }

/-- The range entry that a PLB entry holds. -/
def plbRange (e : PlbEntry) : RangeEntry :=
  { region := e.region, gen := e.gen, rights := e.rights, len := e.len.toNat, base := e.base.toNat }

/-- The PLB entry of a range entry. -/
def toPlb (o : BitVec 12) (e : RangeEntry) : PlbEntry :=
  { owner := o, region := e.region, gen := e.gen, rights := e.rights, len := BitVec.ofNat 40 e.len, base := BitVec.ofNat 44 e.base }

/-- The entry of owner `o` that covers `va`, through a core's PLB, and the core with its PLB filled; an entry whose generation has passed is not held, so that a swept region's
count stays 0 (R60, R67). (Log 36: DEDUCED) -/
def plbLookup (s : State) (c : Core) (o : BitVec 12) (va : Nat) : Option (RangeEntry × Core) :=
  match c.plb.find? fun e => e.owner == o && covers e.base.toNat e.len.toNat va with
  | some e => some (plbRange e, plbFill c e)
  | none => (findRange s o va).map fun e => (e, if (region s e.region).gen = e.gen then plbFill c (toPlb o e) else c)

/-- R58 steps 1 to 5 for one granule by the core in focus: the stamp carried with the access. -/
def checkGranule (s : State) (o : BitVec 12) (va : Word) (n : Right) : Except Refuse (Stamp × State) :=
  match place (onCompute s) va.toNat with
  | .bad => .error .address
  | .priv _ => .ok (none, s)
  | _ => match plbLookup s s.core o va.toNat with
    | none => .error .protection
    | some (e, c) => match entryCheck s e n with
      | some r => .error r
      | none => .ok (some (e.region, e.gen), { s with core := c })

/-- CHECK over `n` further granules, keeping the first granule's stamp. -/
def checkMore (s : State) (o : BitVec 12) (va : Word) (r : Right) : Nat → Except Refuse State
  | 0 => .ok s
  | n + 1 => match checkGranule s o va r with
    | .error e => .error e
    | .ok (_, s1) => checkMore s1 o (va + 4096#64) r n

/-- CHECK(a, len, right) (R119): every granule of a to a + len − 1, for owner `o`. -/
def check (s : State) (o : BitVec 12) (va : Word) (len : Nat) (r : Right) : Except Refuse (Stamp × State) :=
  match checkGranule s o va r with
  | .error e => .error e
  | .ok (st, s1) =>
    match checkMore s1 o (BitVec.ofNat 64 ((va.toNat / 4096 + 1) * 4096)) r ((va.toNat % 4096 + len - 1) / 4096) with
    | .error e => .error e
    | .ok s2 => .ok (st, s2)

/-- The PLB after the walk of one granule, whatever the check then finds: an entry that exists is held (R60); a heap address has been accessed (R69). -/
def granuleFill (s : State) (o : BitVec 12) (va : Word) : State :=
  match place (onCompute s) va.toNat with
  | .bad => s
  | .priv _ => s
  | _ => lockHeap va.toNat (match plbLookup s s.core o va.toNat with
    | none => s
    | some (_, c) => { s with core := c })

/-- The PLB after the walks of `n` further granules, up to the first that is refused. -/
def fillMore (s : State) (o : BitVec 12) (va : Word) (r : Right) : Nat → State
  | 0 => s
  | n + 1 => match checkGranule s o va r with
    | .error _ => granuleFill s o va
    | .ok (_, s1) => fillMore s1 o (va + 4096#64) r n

/-- The state that a refused CHECK leaves: its walks have filled the PLB up to the granule that is refused (R60). -/
def checkFill (s : State) (o : BitVec 12) (va : Word) (len : Nat) (r : Right) : State :=
  match checkGranule s o va r with
  | .error _ => granuleFill s o va
  | .ok (_, s1) => fillMore s1 o (BitVec.ofNat 64 ((va.toNat / 4096 + 1) * 4096)) r ((va.toNat % 4096 + len - 1) / 4096)

/-- The access check of an engine or agent other than a core: R58 steps 1 to 5 through the tables themselves. -/
def agentCheck (s : State) (o : BitVec 12) (compute : Bool) (va : Nat) (n : Right) : Except Refuse Stamp :=
  match place compute va with
  | .bad => .error .address
  | .priv _ => .ok none
  | _ => match findRange s o va with
    | none => .error .protection
    | some e => match entryCheck s e n with
      | some r => .error r
      | none => .ok (some (e.region, e.gen))

/-- Where an engine's or agent's access to `va` lands: a storage key, or its refusal (R58 step 8, R246); `u` is the unit whose private alias counts. -/
def locate (s : State) (u : Nat) (va : Nat) : Except Refuse Nat :=
  match place (isCompute u) va with
  | .bad => .error .address
  | .priv off => if off < scratchSize u (getCore s u) then .ok (poolKey u off) else .error .protection
  | .pool w off => if off < scratchSize w (getCore s w) then .ok (poolKey w off) else .error .protection
  | .heap => match walk s va with
    | some l => .ok l.pa
    | none => .error .translation

/-- The host refuses an access to a heap page that lies in its window (R273). (Log 67: DESIGN CHOICE) -/
def hostRefuses (s : State) (va : Nat) : Bool :=
  match walk s va with
  | some l => inHostWindow l.pa && Config.hostRefuses s.gtc l.pa
  | none => false

/-- Where an engine's byte lies, as `locate`; the host may refuse it, which counts as a translation fault (R273). -/
def reach (s : State) (u : Nat) (va : Nat) : Except Refuse Nat :=
  match place (isCompute u) va with
  | .heap => if hostRefuses s va then .error .translation else locate s u va
  | _ => locate s u va

/-! ### Race detection (R317 to R321) -/

/-- SCOPE(s) of R119: 7 is taken as .sys. -/
def scopeOf (x : BitVec 3) : BitVec 3 := if x = 7#3 then 6#3 else x

/-- The place of a host, outside the device (R311). -/
def hostUnit : Nat := 8192
/-- HD0, where the management harts stand, and the dealer and the group engine with them (R311). -/
def hubUnit : Nat := 8193

/-- A unit stands in a tile: a compute core, or a channel core of a compute die (R16, R311). -/
def inTile (u : Nat) : Bool := decide (u < 4352)

/-- A scope covers two places (R312). -/
def scopeCovers (x : BitVec 3) (a b : Nat) : Bool :=
  match (scopeOf x).toNat with
  | 0 => a == b && decide (a < hostUnit)
  | 1 => inTile a && inTile b && tileOf a == tileOf b
  | 2 => inTile a && inTile b && quadOf a == quadOf b
  | 3 => inTile a && inTile b && tileOf a / 64 == tileOf b / 64
  | 6 => true
  | _ => a != hostUnit && b != hostUnit

/-- A sync access whose scope covers both agents (R317). -/
def syncCovers (a b : OpenAccess) : Bool :=
  (match a.sync with | some x => scopeCovers x a.unit b.unit | none => false) ||
  (match b.sync with | some x => scopeCovers x a.unit b.unit | none => false)

/-- Two accesses that conflict and that the detector covers (R317, R320). -/
def conflicts (a b : OpenAccess) : Bool :=
  a.agent != b.agent && a.granule == b.granule && (a.write || b.write) && !(a.priv && b.priv) && !syncCovers a b

/-- `b` stands for `a` too: the same agent's access of the same kind in the same open region. -/
def repeats (a b : OpenAccess) : Bool := !b.closed && { b with at_ := a.at_, early := a.early } == a

/-- Adds an access to those performed; while no access of any agent has been overtaken, one of each kind in a region is enough. -/
def addAccess (a : OpenAccess) (s : State) : State :=
  if s.races.any (repeats a) && !a.early && !s.races.any (overtook s) then s else { s with races := s.races ++ [a] }

/-- An access of an agent whose region is a single access, and at which no race trap has a form (R319): a later access that it comes before may still race with it. -/
def noteAccess (a : OpenAccess) (s : State) : State :=
  if s.races.any (overtook s) then { s with races := s.races ++ [{ a with closed := true }] } else s

/-- The same for the granules of `n` bytes from a storage key. -/
def noteSpan (a : OpenAccess) (n : Nat) (key : Nat) (s : State) : State :=
  (List.range ((key % 32 + n + 31) / 32)).foldl (fun s i => noteAccess { a with granule := key / 32 + i } s) s

/-- An access of an agent of HD0 to a storage key: 1 the dealer, 2 the management harts (R311). -/
def hubOpen (n key : Nat) (write : Bool) : OpenAccess := { agent := 2 ^ 59 + n, granule := key / 32, write := write, priv := false, unit := hubUnit }

/-- Records an access with the detector; none where the device raises a race at it. Which races are raised is not fixed. (Log 16: DEDUCED) -/
def recordAccess (a : OpenAccess) (s : State) : Option State :=
  if s.races.any fun b => !b.closed && conflicts a b then
    if Config.raceRaised s.freeCtr then none else some (nextFree (addAccess a s))
  else some (addAccess a s)

/-- An access that a younger one of its agent was performed ahead of, and that conflicts with an access performed since: taken in program order it would come before both,
so that the execution is an interleaving only where a race is raised (R318). (Log 16: DEDUCED) -/
def overtaken (a : OpenAccess) : List OpenAccess → Bool
  | [] => false
  | y :: rest => if y.agent == a.agent && decide (a.at_ < y.at_) then rest.any (conflicts a) else overtaken a rest

/-- Records an access at its destination, where its race is raised in any case if it is `overtaken`. (Log 16: DEDUCED) -/
def recordLate (a : OpenAccess) (s : State) : Option State := if overtaken a s.races then none else recordAccess a s

/-- The access of the issuing context to a storage key. -/
def myAccess (s : State) (key : Nat) (write priv : Bool) (sync : Option (BitVec 3)) : OpenAccess :=
  { agent := (me s).toNat, granule := key / 32, write := write, priv := priv, sync := sync, unit := s.cur, at_ := s.gtc, early := anyCore (coreWaits (me s)) s }

/-- A sync operation, an engine issue or the like ends the issuing context's sync region (R321), and orders its accesses through the two aliases (R315). (Log 16: DEDUCED) -/
def syncPoint (s : State) : State := endRegion (me s).toNat (setCtx s { s.core.ctx with syncSeq := s.core.seqNo })

/-! ### Earlier accesses of the context (R326 to R328, R332) -/

/-- A private-alias load that has not yet written its destination. -/
def loadPending (now : Nat) (p : Nat × Pending) : Bool :=
  match p.2 with
  | .post _ => decide (now < p.1)
  | _ => false

/-- Every earlier memory access of the issuing context is performed, on whichever core it was issued (R326). -/
def allPerformed (s : State) : Bool := !anyCore (coreWaits (me s)) s && !(s.core.ctx.pend.any (loadPending s.gtc))

/-- A core has an LDAQ of a context in flight. -/
def coreAcquires (chrys : BitVec 56) (c : Core) : Bool :=
  c.log.toList.any fun e => match e with
    | some x => x.ctx == chrys && x.sync.isSome && x.held.isNone
    | none => false

/-- A core has an STRL of a context in flight. -/
def coreReleases (chrys : BitVec 56) (c : Core) : Bool :=
  c.journal.toList.any fun e => match e with
    | some x => x.ctx == chrys && x.sync.isSome && x.held.isNone
    | none => false

/-- An LDAQ of the issuing context is not yet performed, so later accesses hold issue (R332). -/
def acquirePending (s : State) : Bool :=
  decide (s.gtc < s.core.ctx.acqUntil) || anyCore (coreAcquires (me s)) s

/-- An STRL of the issuing context is not yet performed (R333). -/
def strlPending (s : State) : Bool := anyCore (coreReleases (me s)) s

/-- Holds issue behind an LDAQ not yet performed (R332); a release holds at a switch point (R99, R327). (Log 15: DEDUCED) -/
def behindLdaq (release : Bool) (s : State) (k : State → Out) : Out := if acquirePending s then .next (hold release s) else k s
/-- The same for an instruction that is no release. (Log 15: DEDUCED) -/
def afterAcquire (s : State) (k : State → Out) : Out := behindLdaq false s k

/-- Holds issue until every earlier access is performed: the wait of a release (R327). -/
def afterAll (s : State) (k : State → Out) : Out := if allPerformed s then k s else .next (hold true s)

/-- The lowest free index of a vector of entries. -/
def freeIndex {α : Type} {n : Nat} (v : Vector (Option α) n) : Option (Fin n) :=
  (List.finRange n).find? fun i => (v[i]).isNone

/-! ### Asynchronous traps (R369, R370) -/

/-- A pending asynchronous trap: arrival cycle, 0 for the log or 1 for the journal, and the entry. -/
abbrev PendTrap := Nat × Nat × Nat

/-- The pending asynchronous traps of a context in a core. -/
def pendTraps (c : Core) (chrys : BitVec 56) : List PendTrap :=
  ((List.finRange 16).filterMap fun i => match c.log[i] with
    | some e => if e.ctx == chrys && !e.taken && !e.replaying then e.held.map fun t => (t, 0, i.val) else none
    | none => none) ++
  ((List.finRange 32).filterMap fun i => match c.journal[i] with
    | some e => if e.ctx == chrys then e.held.map fun t => (t, 1, i.val) else none
    | none => none)

/-- Arrival order, LATE_FAULT before JOURNAL, then lower entry number (R369). -/
def trapBefore (a b : PendTrap) : Bool :=
  decide (a.1 < b.1) || (a.1 == b.1 && (decide (a.2.1 < b.2.1) || (a.2.1 == b.2.1 && decide (a.2.2 < b.2.2))))

/-- The first pending trap. -/
def firstTrap : List PendTrap → Option PendTrap
  | [] => none
  | t :: ts => match firstTrap ts with
    | none => some t
    | some u => some (if trapBefore t u then t else u)

/-- Whether a core holds a refused or late-fault entry of a context (R370). -/
def holdsEntries (c : Core) (chrys : BitVec 56) : Bool :=
  (c.log.toList.any fun e => match e with | some x => x.ctx == chrys && x.held.isSome | none => false) ||
  (c.journal.toList.any fun e => match e with | some x => x.ctx == chrys && x.held.isSome | none => false)

/-- HOLD, HOLD_CH and HOLD_CORE of a context after an entry of core `u` has been held or released (R370, R371). -/
def setHold (u : Nat) (s : State) (chrys : BitVec 56) : State :=
  if holdsEntries (getCore s u) chrys then
    modCtx s chrys fun c => { c with ctl := { c.ctl with hold := true, holdCh := !isCompute u, holdCore := BitVec.ofNat 12 (coreNumber u) } }
  else modCtx s chrys fun c => { c with ctl := { c.ctl with hold := false, holdCh := false, holdCore := 0#12 } }

/-- The entry record of an operand-log entry (R368). -/
def logRecord (e : LogEntry) : EntryRecord :=
  { log := true, size := BitVec.ofNat 3 e.sizeLog, token := e.token.num, word := e.word, owner := e.owner, reason := e.reason,
    file := if e.vecDest then 1#2 else 0#2, reg := e.dest, data := e.base, ea := e.ea }

/-- The entry record of a journal entry (R368). -/
def jnlRecord (e : JnlEntry) : EntryRecord :=
  { log := false, size := BitVec.ofNat 3 e.sizeLog, owner := e.owner, reason := e.reason, data := e.data, ea := e.ea }

/-- The 32 bytes of an entry record (R368). -/
def recordBytes (r : EntryRecord) : List Byte :=
  leBytes 32 (r.ea.toNat + r.data.toNat * 2 ^ 64 + (r.reg.toNat + r.file.toNat * 2 ^ 5) * 2 ^ 128 + r.reason.toNat * 2 ^ 140
    + r.owner.toNat * 2 ^ 148 + r.word.toNat * 2 ^ 160 + r.token.toNat * 2 ^ 192 + r.size.toNat * 2 ^ 196 + boolNat r.log * 2 ^ 199)

/-- Takes a pending asynchronous trap of the issuing context (R360, R364, R369, R370). -/
def takeAsync (t : PendTrap) (s : State) : State :=
  let pc := codeVa s s.core.ctx.pc
  if t.2.1 = 0 then
    match s.core.log.getD t.2.2 none with
    | none => s
    | some e =>
      let s1 := enterHandler { async := true, reason := e.reason, code := 32#8 } e.ea pc { valid := true, log := true, entry := BitVec.ofNat 5 t.2.2 } s
      let s2 := setCtx s1 (setWindowBytes s1.core.ctx 0x20 (recordBytes (logRecord e)))
      if h : t.2.2 < 16 then { s2 with core := { s2.core with log := s2.core.log.set t.2.2 (some { e with taken := true }) h } } else s2
  else
    match s.core.journal.getD t.2.2 none with
    | none => s
    | some e =>
      let s1 := enterHandler { async := true, reason := e.reason, code := 33#8 } e.ea pc { valid := true, log := false, entry := BitVec.ofNat 5 t.2.2 } s
      let s2 := setCtx s1 (setWindowBytes s1.core.ctx 0x20 (recordBytes (jnlRecord e)))
      let s3 := if h : t.2.2 < 32 then { s2 with core := { s2.core with journal := s2.core.journal.set t.2.2 none h } } else s2
      setHold s3.cur s3 (me s3)

/-! ### Returning from a trap (R359, R371) -/

/-- A log entry that ERET discards: held for a late fault that this context has taken (R371). -/
def discarded (chrys : BitVec 56) (e : Option LogEntry) : Bool :=
  match e with
  | some x => x.ctx == chrys && x.held.isSome && x.taken
  | none => false

/-- The destination of a logged load. -/
def logDest (e : LogEntry) : Dest := if e.vecDest then .v e.dest else .g e.dest

/-- Step 1 of R359: discards the taken late-fault entries, each posting its logged token once without writing the destination, which a WAIT on it then covers (R132, R371). -/
def discardEntries (s : State) : State :=
  let gone := s.core.log.toList.filter (discarded (me s))
  let c := gone.foldl (fun c e => match e with | some x => ctxPost (ctxUncovDone c x.token (logDest x)) x.token | none => c) s.core.ctx
  let s1 := { s with core := { s.core with ctx := c, log := s.core.log.map fun e => if discarded (me s) e then none else e } }
  setHold s1.cur s1 (me s1)

/-- The effect of ERET (R359). -/
def returnFromTrap (sc : BitVec 2) (s : State) : State :=
  let s1 := discardEntries (charge 0 1 s)
  let c := restoreLoops s1.core.ctx
  let s2 := syncPoint (setCtx s1 { c with ctl := { c.ctl with steward := false } })
  match firstTrap (pendTraps s2.core (me s2)) with
  | some t =>
    -- the trap is taken at the instruction that TRAP_PC names
    let s3 := takeAsync t s2
    setCtl s3 { s3.core.ctx.ctl with trapPc := s2.core.ctx.ctl.trapPc }
  | none => match resolve s2 (s2.core.ctx.ctl.trapPc.setWidth 64) with
    | .error c => takeTrapAt s2.core.ctx.ctl.trapPc c s2
    | .ok p => issued sc.toNat (setCtx s2 { s2.core.ctx with pc := p })

end Sys2Proof.Machine
end

