-- ==== Sys2Proof/Machine/Wake.lean ====
section
/-! DEFINITION. Posting to a context wherever it lies, waking WAITING continuations, and the WAKE event of an absent one (R44, R101, R138, R373). -/

namespace Sys2Proof.Machine

/-- What the dealer and SPAWN registered for the context at a chrysalis address. -/
def contAt (s : State) (chrys : BitVec 56) : Option Cont := s.hub.conts.find? fun c => c.chrys == chrys

/-- A virtual device's state. -/
def vdevOf (s : State) (v : Nat) : Vdev := tabGet {} s.hub.vdevs v

/-- The partition of the virtual device that a context belongs to. -/
def partOfCtx (s : State) (chrys : BitVec 56) : Option (BitVec 3) := (contAt s chrys).map fun c => (vdevOf s c.vdev).part

/-- A record occupies a slot of some core (R97). -/
def occupiesSlot (s : State) (record : BitVec 56) : Bool :=
  let holds (c : Core) : Bool := c.slots.toList.any fun sl => sl.sst != .empty && sl.cont == record
  holds s.core || s.others.any fun e => holds e.2

/-- A WAITING context, or one STOPPED from a wait, has been woken (R345, R348, R373, R378). -/
def wokenBy (c d : Ctx) : Bool :=
  (c.rcd.state == .waiting && d.rcd.state == .ready) || (c.rcd.state == .stopped && d.rcd.state == .stopped && c.rcd.pre == .waiting && d.rcd.pre == .ready)

/-- Changes a context wherever its lines lie; where that wakes one that no slot holds, a WAKE event is written (R101, R373). -/
def touchCtx (s : State) (chrys : BitVec 56) (f : Ctx → Ctx) : State :=
  match findCtx s chrys with
  | some _ => modCtx s chrys f
  | none => match absentCtx s chrys with
    | none => s
    | some c =>
      let s1 := putAbsent s chrys (f c)
      if wokenBy c (f c) && !occupiesSlot s c.ctl.record then
        writeEventTo (partOfCtx s chrys) (eventOf 6 0 c.ctl.record 0 0 0#32) s1
      else s1

/-- Wakes in one slot. -/
def wakeSlot (on : WaitWhy → Bool) (sl : Slot) : Slot := { sl with ctx := ctxWake on sl.ctx }
/-- Wakes in the slots of one core. -/
def wakeCore (on : WaitWhy → Bool) (c : Core) : Core := { c with slots := c.slots.map (wakeSlot on) }

/-- Wakes every continuation whose wait a condition accepts, in slots and absent. -/
def wakeAll (on : WaitWhy → Bool) (s : State) : State :=
  let s1 : State := { s with core := wakeCore on s.core, others := s.others.map fun (u, c) => (u, wakeCore on c) }
  (s1.asides.filter fun a => on a.2.why).foldl (fun s a => touchCtx s (BitVec.ofNat 56 a.1) (ctxWake on)) s1

/-- Posts a token of a context wherever its lines lie (R138). -/
def postTo (chrys : BitVec 56) (t : TokenName) (s : State) : State := touchCtx s chrys fun c => ctxPost c t

/-- The cycle by which every pending result has been written, at least `n`: until then the core is at no switch point (R99). -/
def lastDue (n : Nat) (ps : List (Nat × Pending)) : Nat := ps.foldl (fun m p => max m p.1) n

/-- Suspends the issuing slot to WAITING; the PC stands where the context resumes (R44), and OWNER and PC are written to the record (R42). -/
def suspend (why : WaitWhy) (s : State) : State :=
  let s1 := setCtx s { s.core.ctx with why := why, rcd := { s.core.ctx.rcd with state := .waiting } }
  let s2 := leaveToEnd (setCtx (endRegion (me s).toNat s1) (flush s1.core.ctx))
  let i := s.core.issuing.getD 0#3
  putSuspended { s2 with core := { s2.core with nextIssue := lastDue (s.gtc + 1) s.core.ctx.pend } } (s2.core.slots[i.toNat]'(i.isLt)).ctx

/-- The queue of a continuation made progress now (R384). -/
def progress (chrys : BitVec 56) (s : State) : State :=
  match contAt s chrys with
  | none => s
  | some c =>
    let k := 256 * c.vdev + c.queue.toNat
    setHub s { s.hub with queues := tabSet {} s.hub.queues k { tabGet {} s.hub.queues k with wdLast := s.gtc } }

end Sys2Proof.Machine
end

