-- ==== Sys2Proof/Machine/Operands.lean ====
section
/-! DEFINITION. Operand forms: effective addresses (R156), the route of an access (R58, R156, R246, R367), private-alias bytes,
loads, posted stores and AMOs as shared operations, and the field forms of R170. -/

namespace Sys2Proof.Machine

/-! ### Effective addresses and fields -/

/-- g[a] + SEXT(imm) × size (R156). -/
def eaOf {n : Nat} (s : State) (a : Reg) (imm : BitVec n) (size : Nat) : Word := rdG s a + imm.signExtend 64 * BitVec.ofNat 64 size

/-- POS of a field form (R170). -/
def fieldPos (y : Word) : Nat := y.toNat % 64
/-- LEN of a field form (R170). -/
def fieldLen (y : Word) : Nat := min (y.toNat / 64 % 128) (64 - fieldPos y)

/-- The field of `x` that `y` names, zero-extended (R170). -/
def fieldZ (x y : Word) : Word := BitVec.ofNat 64 (bits x.toNat (fieldPos y) (fieldLen y))
/-- The field of `x` that `y` names, sign-extended from its top bit (R170). -/
def fieldS (x y : Word) : Word :=
  let f := bits x.toNat (fieldPos y) (fieldLen y)
  if fieldLen y ≠ 0 ∧ bitAt f (fieldLen y - 1) then BitVec.ofNat 64 (f + (2 ^ 64 - 2 ^ fieldLen y)) else BitVec.ofNat 64 f
/-- `z` with the field that `y` names replaced by the low bits of `x` (R170). -/
def fieldIns (z x y : Word) : Word :=
  let mask := BitVec.ofNat 64 ((2 ^ fieldLen y - 1) * 2 ^ fieldPos y)
  (z &&& ~~~mask) ||| ((x <<< fieldPos y) &&& mask)

/-! ### Where an access of the core goes -/

/-- Where an access that has passed its checks at issue goes (R156, R367). -/
inductive Route where
  /-- The handler window of the issuing context, at an offset. -/
  | window (off : Nat)
  /-- The own pool through the private alias, at a storage key. -/
  | priv (key : Nat)
  /-- A global alias or the heap: through the mesh or translation. -/
  | remote
  deriving DecidableEq, Repr

/-- The private-alias part of the route: the handler window in steward mode, the scratchpad alone outside it (R246, R358, R367). -/
def privRoute (s : State) (off size : Nat) (ea : Word) : Except Cause Route :=
  if steward s then (if off < 0x800 then .ok (.window off) else .ok (.priv (poolKey s.cur off)))
  else if off + size ≤ scratchSize s.cur s.core then .ok (.priv (poolKey s.cur off))
  else .error (3#8, ea)

/-- The checks of a scalar or vector access after its rights: the no-external-path trap on a compute core, translation on a channel core (R58 steps 7 and 8). -/
def routeOf (s : State) (ea : Word) (size : Nat) : Except Cause Route :=
  match place (onCompute s) ea.toNat with
  | .bad => .error (2#8, ea)
  | .priv off => privRoute s off size ea
  | .pool _ _ => .ok .remote
  | .heap => if onCompute s then .error (6#8, ea) else if (walk s ea.toNat).isNone || hostRefuses s ea.toNat then .error (5#8, ea) else .ok .remote

/-- CHECK for each right in turn, then the route, whose translation marks the page accessed (R52): the stamp of the last check, or the exact trap (R58, R162, R335). -/
def checkRoute (s : State) (ea : Word) (size : Nat) (rights : List Right) : Except Cause (Stamp × Route × State) :=
  match rights with
  | [] => match routeOf s ea size with
    | .error c => .error c
    | .ok r => .ok (none, r, touchPage false ea.toNat s)
  | n :: rest => match check s (acting s) ea size n with
    | .error r => .error (causeOf r, ea)
    | .ok (st, s1) => match checkRoute s1 ea size rest with
      | .error c => .error c
      | .ok (_, r, s2) => .ok (st, r, s2)

/-- The state that a refused access of several checks leaves (R60). -/
def rightsFill (ea : Word) (size : Nat) : List Right → State → State
  | [], s => s
  | n :: rest, s => match check s (acting s) ea size n with
    | .error _ => checkFill s (acting s) ea size n
    | .ok (_, s1) => rightsFill ea size rest s1

/-! ### Private-alias bytes -/

/-- `n` bytes of the handler window. -/
def windowGet (c : Ctx) (off n : Nat) : List Byte := (List.range n).map fun i => windowByte c (off + i)

/-- The bytes of a private-alias access. -/
def readPriv (s : State) (r : Route) (n : Nat) : List Byte :=
  match r with
  | .window off => windowGet s.core.ctx off n
  | .priv key => getBytes s.mem key n
  | .remote => []

/-- Stores selected bytes of storage. -/
def setCells (m : List Host.Cell) (key : Nat) : List (Nat × Byte) → List Host.Cell
  | [] => m
  | (i, b) :: rest => setCells (setByte m (key + i) b) key rest

/-- Stores selected bytes of the handler window. -/
def setWindowCells (c : Ctx) (off : Nat) : List (Nat × Byte) → Ctx
  | [] => c
  | (i, b) :: rest => setWindowCells (setWindowByte c (off + i) b) off rest

/-- Performs a private-alias store of selected bytes. -/
def writePriv (s : State) (r : Route) (cells : List (Nat × Byte)) : State :=
  match r with
  | .window off => setCtx s (setWindowCells s.core.ctx off cells)
  | .priv key => { s with mem := setCells s.mem key cells }
  | .remote => s

/-- Bytes numbered from offset 0. -/
def numbered (bs : List Byte) : List (Nat × Byte) := (List.range bs.length).zip bs

/-! ### At the destination (R59, R64, R246) -/

/-- Where a remote access lands: its storage key, or the refusal it meets: a superseded generation, a protected part of a pool, or a translation fault. -/
def landing (s : State) (u : Nat) (ea : Nat) (st : Stamp) : Except Refuse Nat :=
  match stampCheck s st with
  | some r => .error r
  | none => locate s u ea

/-- A core has an access of a context in flight whose number and issue time are accepted. -/
def coreHasWhere (h : BitVec 56) (p : Nat → Nat → Bool) (c : Core) : Bool :=
  (c.log.toList.any fun e => match e with | some x => x.ctx == h && x.held.isNone && p x.seqNo x.at_ | none => false) ||
  (c.journal.toList.any fun e => match e with | some x => x.ctx == h && x.held.isNone && p x.seqNo x.at_ | none => false)

/-- The context's accesses of earlier cores come first: one issued before cycle `t` on another core than `u` is in flight (R311: the hand-over orders them). -/
def olderElsewhere (s : State) (u : Nat) (h : BitVec 56) (t : Nat) : Bool :=
  let p (_ t' : Nat) : Bool := decide (t' < t)
  (s.cur != u && coreHasWhere h p s.core) || s.others.any fun e => e.1 != u && coreHasWhere h p e.2

/-- An access of context `h` on unit `u`, of number `n` and issued in cycle `t`, has an older access of the context in flight. -/
def overtakes (s : State) (u : Nat) (h : BitVec 56) (n t : Nat) : Bool :=
  coreHasWhere h (fun m _ => decide (m < n)) (getCore s u) || olderElsewhere s u h t

/-- An access of context `c` on unit `u` to a storage key, issued in cycle `t`, as the detector sees it (R317). -/
def remoteAccess (u : Nat) (c : BitVec 56) (key : Nat) (write : Bool) (sync : Option (BitVec 3)) (t : Nat) (early : Bool) : OpenAccess :=
  { agent := c.toNat, granule := key / 32, write := write, priv := false, sync := sync, unit := u, at_ := t, early := early, closed := (deadOf c).isSome }

/-- The storage key of an access's first byte, which decides whether two accesses overlap: two heap addresses may name one byte (R50, R160). -/
def accessKey (s : State) (ea : Word) : Nat :=
  match locate s s.cur ea.toNat with
  | .ok k => k
  | .error _ => 2 ^ 62 + ea.toNat

/-- Two spans of bytes overlap. -/
def spansMeet (a n b m : Nat) : Bool := decide (a < b + m) && decide (b < a + n)

/-- An older access of the core to overlapping bytes, through a global alias or the heap, has not been performed (R160). -/
def olderPending (s : State) (c : Core) (seqNo : Nat) (ea : Word) (size : Nat) : Bool :=
  let meets (ea' : Word) (n : Nat) : Bool := spansMeet (accessKey s ea') n (accessKey s ea) size
  (c.log.toList.any fun e => match e with
    | some x => decide (x.seqNo < seqNo) && x.held.isNone && meets x.ea (2 ^ x.sizeLog)
    | none => false) ||
  (c.journal.toList.any fun e => match e with
    | some x => decide (x.seqNo < seqNo) && x.held.isNone && meets x.ea (2 ^ x.sizeLog)
    | none => false)

/-- An older LDAQ of the same context has not been performed, so a later access may not be (R328); nor is one performed ahead of an older STRL, which other agents
would see out of order without a race (R317, R318). (Log 59: DEDUCED) -/
def behindSync (c : Core) (ctx : BitVec 56) (seqNo : Nat) : Bool :=
  (c.log.toList.any fun e => match e with
    | some x => decide (x.seqNo < seqNo) && x.held.isNone && x.sync.isSome && x.ctx == ctx
    | none => false) ||
  (c.journal.toList.any fun e => match e with
    | some x => decide (x.seqNo < seqNo) && x.held.isNone && x.sync.isSome && x.ctx == ctx
    | none => false)

/-- A plain access in flight of another context than `h`, to the granule of storage key `key`, that a younger access of its context was performed ahead of. -/
def lateEntry (s : State) (h : BitVec 56) (key : Nat) (ctx : BitVec 56) (ea : Word) (t : Nat) : Bool :=
  ctx != h && (s.races.any fun y => y.agent == ctx.toNat && decide (t < y.at_)) && accessKey s ea / 32 == key / 32

/-- A sync access of context `h` to storage key `key` comes after a plain access that has been overtaken: no race is found between the two (R317), so
that this order keeps the execution an interleaving (R318). (Log 59: DEDUCED) -/
def lateOn (s : State) (h : BitVec 56) (key : Nat) (write : Bool) : Bool :=
  anyCore (fun c =>
    (write && c.log.toList.any fun e => match e with
      | some x => x.held.isNone && lateEntry s h key x.ctx x.ea x.at_
      | none => false) ||
    (c.journal.toList.any fun e => match e with
      | some x => x.held.isNone && lateEntry s h key x.ctx x.ea x.at_
      | none => false)) s

/-- A sync access waits at its destination. -/
def syncWaits (s : State) (h : BitVec 56) (ea : Word) (write : Bool) (sync : Option (BitVec 3)) : Bool := sync.isSome && lateOn s h (accessKey s ea) write

/-- Replaces a journal entry of unit `u`. -/
def setJnl (u i : Nat) (e : Option JnlEntry) (s : State) : State :=
  modCore s u fun c => if h : i < 32 then { c with journal := c.journal.set i e h } else c

/-- A posted store meets its destination (R159). -/
def answerStore (u i : Nat) (e : JnlEntry) (s : State) : State :=
  let refuse (r : Refuse) : State := setHold u (setJnl u i (some { e with held := some s.gtc, reason := causeOf r }) s) e.ctx
  match landing s u e.ea.toNat e.stamp with
  | .error r => refuse r
  | .ok key => match recordLate (remoteAccess u e.ctx key true e.sync e.at_ (overtakes s u e.ctx e.seqNo e.at_)) s with
    | none => refuse .race
    | some s1 => chargeTo e.ctx 3 e.bytes.length (setJnl u i none (touchPage true e.ea.toNat { s1 with mem := setCells s1.mem key e.bytes }))

/-- A posted store in flight can be performed: every older access of the core to the same bytes (R160), the context's older LDAQ or STRL, and its accesses on an earlier
core (R311) are performed. -/
def storeReady (u : Nat) (x : JnlEntry) (s : State) : Bool :=
  x.held.isNone && x.swept.isNone && !olderPending s (getCore s u) x.seqNo x.ea (2 ^ x.sizeLog) && !behindSync (getCore s u) x.ctx x.seqNo
    && !olderElsewhere s u x.ctx x.at_ && !syncWaits s x.ctx x.ea true x.sync

/-- The STRL of a context that a core has in flight, with its index. -/
def coreStrl (h : BitVec 56) (c : Core) : Option (Nat × JnlEntry) :=
  (List.range 32).findSome? fun i => match c.journal.getD i none with
    | some x => if x.ctx == h && x.sync.isSome && x.held.isNone then some (i, x) else none
    | none => none

/-- The issuing context's STRL in flight: its unit, index and entry. -/
def strlOf (s : State) : Option (Nat × Nat × JnlEntry) :=
  match coreStrl (me s) s.core with
  | some (i, x) => some (s.cur, i, x)
  | none => s.others.findSome? fun e => (coreStrl (me s) e.2).map fun p => (e.1, p.1, p.2)

/-! ### Private-alias accesses -/

/-- Records a private-alias access with the race detector; the handler window is no data access (R320, R367). -/
def privAccess (s : State) (r : Route) (write : Bool) (sync : Option (BitVec 3)) : Option State :=
  match r with
  | .priv key => recordAccess (myAccess s key write true sync) s
  | _ => some s

/-- An access through a global alias meets bytes of unit `u`'s pool. -/
def entryMeets (u off n : Nat) (ea : Word) (size : Nat) : Bool :=
  match place true ea.toNat with
  | .pool w o => w == u && spansMeet o size off n
  | _ => false

/-- A core has an access of a context in flight to bytes of unit `u`'s pool, among those whose number is accepted. -/
def coreAlias (h : BitVec 56) (u off n : Nat) (p : Nat → Bool) (c : Core) : Bool :=
  (c.log.toList.any fun e => match e with
    | some x => x.ctx == h && x.held.isNone && p x.seqNo && entryMeets u off n x.ea (2 ^ x.sizeLog)
    | none => false) ||
  (c.journal.toList.any fun e => match e with
    | some x => x.ctx == h && x.held.isNone && p x.seqNo && entryMeets u off n x.ea (2 ^ x.sizeLog)
    | none => false)

/-- A private-alias access of `n` bytes follows, through a sync operation or a move to this core, an access of the same context to the same bytes through the global alias
that is still in flight (R315, R322). -/
def aliasWaits (s : State) (key n : Nat) : Bool :=
  let off := key - coreBase s.cur
  coreAlias (me s) s.cur off n (fun m => decide (m < s.core.ctx.syncSeq)) s.core || s.others.any fun e => coreAlias (me s) s.cur off n (fun _ => true) e.2

/-- A private-alias access waits at issue: behind such accesses, behind a plain access that a sync access must follow, or behind the context's own STRL while that waits. (Log 59: DEDUCED) -/
def privWaits (s : State) (key n : Nat) (write : Bool) (sync : Option (BitVec 3)) : Bool :=
  aliasWaits s key n || (sync.isSome && lateOn s (me s) key write) || (match strlOf s with | some (u, _, x) => !storeReady u x s | none => false)

/-- The context's own STRL in flight is performed now, ahead of the private-alias access that issues; the later access does not wait for it (R333). (Log 59: DEDUCED) -/
def landStrl (s : State) : State :=
  match strlOf s with
  | some (u, i, x) => answerStore u i x s
  | none => s

/-- Holds issue while a private-alias access waits, then runs it. -/
def afterAlias (r : Route) (n : Nat) (write : Bool) (sync : Option (BitVec 3)) (s : State) (k : State → Out) : Out :=
  match r with
  | .priv key => if privWaits s key n write sync then .next (hold true s) else k (landStrl s)
  | _ => k s

/-- Charges the bytes of a private-alias access; the handler window is no pool (R422 class 3). -/
def chargePriv (r : Route) (n : Nat) (s : State) : State :=
  match r with
  | .priv _ => charge 3 n s
  | _ => s

/-! ### Loads -/

/-- A general or vector register as a destination. -/
def fileDest (vec : Bool) (d : Reg) : Dest := if vec then .v d else .g d

/-- One lane value in every lane of its size (R218). -/
def splatVec (sizeLog x : Nat) : Vec := BitVec.ofNat 256 ((List.range (32 / 2 ^ sizeLog)).foldl (fun v i => v + x % 2 ^ (8 * 2 ^ sizeLog) * 2 ^ (8 * 2 ^ sizeLog * i)) 0)

/-- The scalar result of a load of `bs` (R161). -/
def loadedWord (signed : Bool) (sizeLog : Nat) (bs : List Byte) : Word :=
  let w := 8 * 2 ^ sizeLog
  let x := leNat bs % 2 ^ w
  if signed ∧ bitAt x (w - 1) then BitVec.ofNat 64 (x + (2 ^ 64 - 2 ^ w)) else BitVec.ofNat 64 x

/-- The register write of a load of `bs` (R161, R218). -/
def loadedWrite (kind : LoadKind) (sizeLog : Nat) (d : Reg) (bs : List Byte) : Pending :=
  match kind with
  | .scalar signed => .writeG d (loadedWord signed sizeLog bs)
  | .vec => .writeV d (BitVec.ofNat 256 (leNat bs))
  | .splat => .writeV d (splatVec sizeLog (leNat bs))

/-- What a load instruction is, beside its address. -/
structure LoadForm where
  sizeLog : Nat
  kind    : LoadKind
  vec     : Bool
  dest    : Reg
  k       : BitVec 4
  base    : Word
  /-- The scope of an LDAQ. -/
  sync    : Option (BitVec 3) := none

/-- The private-alias half of a load: fixed latency 3 and a post at t + 3 (R157). -/
def privLoad (f : LoadForm) (t : TokenName) (ea : Word) (r : Route) (fin : State → State) (s : State) : Out :=
  checked [] (some (fileDest f.vec f.dest, 3)) s fun s => afterAlias r (2 ^ f.sizeLog) false f.sync s fun s => match privAccess s r false f.sync with
  | none => trap 17#8 ea s
  | some s1 =>
    let s2 := issueToken t s1
    let s3 := later 3 (loadedWrite f.kind f.sizeLog f.dest (readPriv s r (2 ^ f.sizeLog))) s2
    let s4 := addUncovered (fileDest f.vec f.dest) t (some (s.gtc + 3)) (later 3 (.post t) s3)
    let s5 := if f.sync.isSome then setCtx s4 { s4.core.ctx with acqUntil := s.gtc + 3 } else s4
    .next (fin (chargePriv r (2 ^ f.sizeLog) s5))

/-- The entry that a load takes in the operand log (R158). -/
def logEntry (f : LoadForm) (t : TokenName) (ea : Word) (st : Stamp) (s : State) : LogEntry :=
  { seqNo := s.core.seqNo, at_ := s.gtc, word := s.core.ir, base := f.base, ea := ea, sizeLog := f.sizeLog, kind := f.kind, dest := f.dest, vecDest := f.vec,
    token := t, owner := acting s, steward := steward s, ctx := me s, stamp := st, sync := f.sync }

/-- The other half: an entry of the operand log, or a hold while all 16 are taken (R158). -/
def loggedLoad (f : LoadForm) (t : TokenName) (ea : Word) (st : Stamp) (fin : State → State) (s : State) : Out :=
  match freeIndex s.core.log with
  | none => .next (hold false s)
  | some i =>
    let s1 := addUncovered (fileDest f.vec f.dest) t none (issueToken t s)
    .next (fin { s1 with core := { s1.core with log := s1.core.log.set i.val (some (logEntry f t ea st s)) i.isLt, seqNo := s1.core.seqNo + 1 } })

/-- The effect of a load (R162): token, alignment, rights, path, TOKEN_OVERFLOW, then the private or the logged half. (Log 17: DEDUCED) -/
def loadOp (f : LoadForm) (ea : Word) (fin : State → State) (s : State) : Out :=
  withToken f.k s fun t =>
    if ea.toNat % 2 ^ f.sizeLog ≠ 0 then trap 2#8 ea s
    else match checkRoute s ea (2 ^ f.sizeLog) [.I] with
      | .error c => trapAs c (rightsFill ea (2 ^ f.sizeLog) [.I] s)
      | .ok (st, r, s1) => guardToken t s1 fun s2 =>
        match r with
        | .remote => loggedLoad f t ea st fin s2
        | r => privLoad f t ea r fin s2

/-- A load instruction: an illegal token first, then behind an LDAQ not yet performed it holds issue (R332), then the scoreboard, then its effect. -/
def loadInstr (f : LoadForm) (a : Reg) (ea : Word) (fin : State → State) (s : State) : Out :=
  if (tokenOf s f.k).isNone then illegal s
  else afterAcquire s fun s => checked [.g a] none s (loadOp f ea fin)

/-! ### Stores -/

/-- What a store instruction is, beside its address. -/
structure StoreForm where
  sizeLog : Nat
  /-- The bytes stored, by offset. -/
  cells   : List (Nat × Byte)
  /-- Store data as a refused entry's record shows it: bytes 0 to 7 (R368). -/
  data    : Word
  /-- The scope of an STRL. -/
  sync    : Option (BitVec 3) := none

/-- A private-alias store, performed at the end of its issue cycle (R157). -/
def privStore (f : StoreForm) (ea : Word) (r : Route) (fin : State → State) (s : State) : Out :=
  afterAlias r (2 ^ f.sizeLog) true f.sync s fun s => match privAccess s r true f.sync with
  | none => trap 17#8 ea s
  | some s1 => .next (fin (chargePriv r f.cells.length (writePriv s1 r f.cells)))

/-- A posted store: an entry of the journal, or a hold while all 32 are taken (R159), for an STRL at a switch point (R327). -/
def postedStore (f : StoreForm) (ea : Word) (st : Stamp) (fin : State → State) (s : State) : Out :=
  match freeIndex s.core.journal with
  | none => .next (hold f.sync.isSome s)
  | some i =>
    let e : JnlEntry := { seqNo := s.core.seqNo, at_ := s.gtc, ea := ea, bytes := f.cells, sizeLog := f.sizeLog, data := f.data, owner := acting s, ctx := me s,
                          stamp := st, sync := f.sync }
    .next (fin { s with core := { s.core with journal := s.core.journal.set i.val (some e) i.isLt, seqNo := s.core.seqNo + 1 } })

/-- The effect of a store (R164): alignment, rights, path, the wait of a release, then the private or the posted half. (Log 17: DEDUCED) -/
def storeOp (f : StoreForm) (ea : Word) (fin : State → State) (s : State) : Out :=
  if ea.toNat % 2 ^ f.sizeLog ≠ 0 then trap 2#8 ea s
  else match checkRoute s ea (2 ^ f.sizeLog) [.W] with
    | .error c => trapAs c (rightsFill ea (2 ^ f.sizeLog) [.W] s)
    | .ok (st, r, s1) =>
      if f.sync.isSome && !allPerformed s1 then .next (hold true s)
      else
        let s2 := if f.sync.isSome then syncPoint s1 else s1
        match r with
        | .remote => postedStore f ea st fin s2
        | r => privStore f ea r fin s2

/-- A store instruction. -/
def storeInstr (f : StoreForm) (reads : List Dest) (ea : Word) (fin : State → State) (s : State) : Out :=
  behindLdaq f.sync.isSome s fun s => checked reads none s (storeOp f ea fin)

/-! ### AMOs (R334 to R338) -/

/-- The value an AMO writes; none where AMOCAS does not write (R334). -/
def amoNew (op : BitVec 4) (n : Nat) (old y e : BitVec n) : Option (BitVec n) :=
  match op.toNat with
  | 0 => some (old + y)
  | 1 => some (old &&& y)
  | 2 => some (old ||| y)
  | 3 => some (old ^^^ y)
  | 4 => some (if old.slt y then old else y)
  | 5 => some (if old.slt y then y else old)
  | 6 => some (if old.ult y then old else y)
  | 7 => some (if old.ult y then y else old)
  | 8 => some y
  | _ => if old = e then some y else none

/-- Bytes of an AMO's access. -/
def amoSize (wide : Bool) : Nat := if wide then 8 else 4

/-- What an AMO stores, as cells, and the value it returns (R334, R335). -/
def amoCells (op : BitVec 4) (wide : Bool) (bs : List Byte) (y e : Word) : List (Nat × Byte) × Word :=
  if wide then
    let old := BitVec.ofNat 64 (leNat bs)
    match amoNew op 64 old y e with
    | some x => (numbered (leBytes 8 x.toNat), old)
    | none => ([], old)
  else
    let old := BitVec.ofNat 32 (leNat bs)
    match amoNew op 32 old (y.setWidth 32) (e.setWidth 32) with
    | some x => (numbered (leBytes 4 x.toNat), old.signExtend 64)
    | none => ([], old.signExtend 64)

/-- g[d] := x by an instruction that has held issue for `n` cycles after this one: it stands over every write due by then (R127, R129). -/
def putGHeld (n : Nat) (r : Reg) (x : Word) (s : State) : State :=
  setCtx s (ctxPutG { s.core.ctx with pend := s.core.ctx.pend.filter fun p => !stalePend r (s.gtc + 1 + n) p } r x)

/-- An AMO through the private alias: it holds for 3 cycles (R338). An AMOCAS that fails is a read (R334). -/
def privAmo (op : BitVec 4) (wide : Bool) (y e : Word) (sco : BitVec 3) (ea : Word) (r : Route) (d : Reg) (s : State) : Out :=
  let res := amoCells op wide (readPriv s r (amoSize wide)) y e
  afterAlias r (amoSize wide) (!res.1.isEmpty) (some (scopeOf sco)) s fun s => match privAccess s r (!res.1.isEmpty) (some (scopeOf sco)) with
  | none => trap 17#8 ea s
  | some s1 =>
    .next (retireBy 4 0 2 (putGHeld 2 d res.2 (chargePriv r (amoSize wide) (writePriv s1 r res.1))))

/-- An AMO elsewhere: its access is sent, and it holds until the destination answers (R338). -/
def sendAmo (op : BitVec 4) (wide : Bool) (y e : Word) (sco : BitVec 3) (ea : Word) (st : Stamp) (d : Reg) (s : State) : Out :=
  let f : AmoFlight := { op := op, wide := wide, ea := ea, y := y, cmp := e, dest := d, owner := acting s, sco := scopeOf sco, stamp := st }
  .next (hold false { s with core := { s.core with amo := some f } })

/-- The effect of an AMO (R335); `op` is OP of R334. (Log 17: DEDUCED) -/
def amoOp (op : BitVec 4) (aq rl w : BitVec 1) (b a : Reg) (sco : BitVec 3) (d : Reg) (s : State) : Out :=
  let wide := w = 0#1
  let ea := rdG s a
  if s.core.amo.isSome then .next (hold false s)
  else behindLdaq (rl == 1#1) s fun s =>
    if strlPending s then .next (hold true s)
    else checked ([.g a, .g b] ++ if op = 9#4 then [.g d] else []) none s fun s =>
      if ea.toNat % amoSize wide ≠ 0 then trap 2#8 ea s
      else match checkRoute s ea (amoSize wide) [.I, .W] with
        | .error c => trapAs c (rightsFill ea (amoSize wide) [.I, .W] s)
        | .ok (st, r, s1) =>
          if rl = 1#1 ∧ allPerformed s1 = false then .next (hold true s)
          else
            let s2 := if rl = 1#1 ∨ aq = 1#1 then syncPoint s1 else s1
            match r with
            | .remote => sendAmo op wide (rdG s b) (rdG s d) sco ea st d s2
            | r => privAmo op wide (rdG s b) (rdG s d) sco ea r d s2

end Sys2Proof.Machine
end

