-- ==== Sys2Proof/Machine/Scalar.lean ====
section
/-! DEFINITION. Integer operations: ALUI, ALU, MULDIV, BITS, LIH, ADDPC (R165 to R172), NOP (R118) and their compact forms (R115, R194). -/

namespace Sys2Proof.Machine

/-! ### Shapes -/

/-- A result of latency 1 from registers read at issue. -/
def aluOp (fin : State → State) (reads : List Dest) (d : Reg) (x : State → Word) (s : State) : Out :=
  checked reads (some (.g d, 1)) s fun s => .next (fin (putG d (x s) s))

/-- ALUI (R165). -/
def aluImm (sc : BitVec 2) (a d : Reg) (f : Word → Word) (s : State) : Out := aluOp (retire sc) [.g a] d (fun s => f (rdG s a)) s

/-- ALU and BITS of two registers (R166, R169). -/
def aluReg (sc : BitVec 2) (b a d : Reg) (f : Word → Word → Word) (s : State) : Out :=
  aluOp (retire sc) [.g a, .g b] d (fun s => f (rdG s a) (rdG s b)) s

/-- MUL, MULH and MULHN: latency 3 (R167). -/
def mulOp (sc : BitVec 2) (b a d : Reg) (f : Word → Word → Word) (s : State) : Out :=
  checked [.g a, .g b] (some (.g d, 3)) s fun s => .next (retire sc (putGLater 3 d (f (rdG s a) (rdG s b)) s))

/-- 1 where a condition holds, else 0. -/
def wordIf (c : Bool) : Word := if c then 1#64 else 0#64

/-- DIV, DIVN, MOD and MODN (R168). -/
def divOp (sc : BitVec 2) (k : BitVec 4) (b a d : Reg) (f : Word → Word → Word) (s : State) : Out :=
  if (tokenOf s k).isNone then illegal s
  else checked [.g a, .g b] none s fun s =>
    if rdG s b = 0#64 then trap 12#8 (rdG s a) s
    else withToken k s fun t => guardToken t s fun s =>
      let s1 := addUncovered (.g d) t none (issueToken t s)
      let v : Divide := { issuedAt := s.gtc, ctx := me s, dest := d, token := t, result := f (rdG s a) (rdG s b) }
      .next (retire sc { s1 with core := { s1.core with divs := s1.core.divs ++ [v] } })

/-! ### Bit operations (R169) -/

/-- Leading zero bits; 64 for 0. -/
def clz (x : Word) : Word := BitVec.ofNat 64 (if x = 0#64 then 64 else 63 - Nat.log2 x.toNat)
/-- Trailing zero bits; 64 for 0. -/
def ctz (x : Word) : Word := BitVec.ofNat 64 (if x = 0#64 then 64 else Nat.log2 (x &&& (0#64 - x)).toNat)
/-- One bits. -/
def popc (x : Word) : Word := BitVec.ofNat 64 ((List.range 64).foldl (fun n i => n + boolNat (x.getLsbD i)) 0)
/-- Bit i moved to bit 63 − i. -/
def brevOf (x : Word) : Word := BitVec.ofNat 64 ((List.range 64).foldl (fun n i => 2 * n + boolNat (x.getLsbD i)) 0)
/-- Byte i moved to byte 7 − i. -/
def bswapOf (x : Word) : Word := BitVec.ofNat 64 (leNat (leBytes 8 x.toNat).reverse)

/-! ### ALUI (R165) -/

def execAddi (sc : BitVec 2) (imm : BitVec 10) (a d : Reg) (s : State) : Out := aluImm sc a d (fun x => x + imm.signExtend 64) s
def execAndi (sc : BitVec 2) (imm : BitVec 10) (a d : Reg) (s : State) : Out := aluImm sc a d (fun x => x &&& imm.signExtend 64) s
def execOri (sc : BitVec 2) (imm : BitVec 10) (a d : Reg) (s : State) : Out := aluImm sc a d (fun x => x ||| imm.signExtend 64) s
def execXori (sc : BitVec 2) (imm : BitVec 10) (a d : Reg) (s : State) : Out := aluImm sc a d (fun x => x ^^^ imm.signExtend 64) s
def execSlti (sc : BitVec 2) (imm : BitVec 10) (a d : Reg) (s : State) : Out := aluImm sc a d (fun x => wordIf (x.slt (imm.signExtend 64))) s
def execSltni (sc : BitVec 2) (imm : BitVec 10) (a d : Reg) (s : State) : Out := aluImm sc a d (fun x => wordIf (x.ult (imm.signExtend 64))) s
def execSlli (sc : BitVec 2) (sh : BitVec 6) (a d : Reg) (s : State) : Out := aluImm sc a d (fun x => x <<< sh.toNat) s
def execSrli (sc : BitVec 2) (sh : BitVec 6) (a d : Reg) (s : State) : Out := aluImm sc a d (fun x => x >>> sh.toNat) s
def execSrai (sc : BitVec 2) (sh : BitVec 6) (a d : Reg) (s : State) : Out := aluImm sc a d (fun x => x.sshiftRight sh.toNat) s

/-! ### ALU (R166) -/

def execAdd (sc : BitVec 2) (b a d : Reg) (s : State) : Out := aluReg sc b a d (fun x y => x + y) s
def execSub (sc : BitVec 2) (b a d : Reg) (s : State) : Out := aluReg sc b a d (fun x y => x - y) s
def execAndR (sc : BitVec 2) (b a d : Reg) (s : State) : Out := aluReg sc b a d (fun x y => x &&& y) s
def execOrR (sc : BitVec 2) (b a d : Reg) (s : State) : Out := aluReg sc b a d (fun x y => x ||| y) s
def execXorR (sc : BitVec 2) (b a d : Reg) (s : State) : Out := aluReg sc b a d (fun x y => x ^^^ y) s
def execAndn (sc : BitVec 2) (b a d : Reg) (s : State) : Out := aluReg sc b a d (fun x y => x &&& ~~~y) s
def execSll (sc : BitVec 2) (b a d : Reg) (s : State) : Out := aluReg sc b a d (fun x y => x <<< (y.toNat % 64)) s
def execSrl (sc : BitVec 2) (b a d : Reg) (s : State) : Out := aluReg sc b a d (fun x y => x >>> (y.toNat % 64)) s
def execSra (sc : BitVec 2) (b a d : Reg) (s : State) : Out := aluReg sc b a d (fun x y => x.sshiftRight (y.toNat % 64)) s
def execSlt (sc : BitVec 2) (b a d : Reg) (s : State) : Out := aluReg sc b a d (fun x y => wordIf (x.slt y)) s
def execSltn (sc : BitVec 2) (b a d : Reg) (s : State) : Out := aluReg sc b a d (fun x y => wordIf (x.ult y)) s
def execMinS (sc : BitVec 2) (b a d : Reg) (s : State) : Out := aluReg sc b a d (fun x y => if x.slt y then x else y) s
def execMaxS (sc : BitVec 2) (b a d : Reg) (s : State) : Out := aluReg sc b a d (fun x y => if x.slt y then y else x) s
def execMinn (sc : BitVec 2) (b a d : Reg) (s : State) : Out := aluReg sc b a d (fun x y => if x.ult y then x else y) s
def execMaxn (sc : BitVec 2) (b a d : Reg) (s : State) : Out := aluReg sc b a d (fun x y => if x.ult y then y else x) s

/-! ### MULDIV (R167, R168) -/

def execMul (sc : BitVec 2) (b a d : Reg) (s : State) : Out := mulOp sc b a d (fun x y => x * y) s
def execMulh (sc : BitVec 2) (b a d : Reg) (s : State) : Out := mulOp sc b a d (fun x y => BitVec.ofInt 64 (x.toInt * y.toInt / 2 ^ 64)) s
def execMulhn (sc : BitVec 2) (b a d : Reg) (s : State) : Out := mulOp sc b a d (fun x y => BitVec.ofNat 64 (x.toNat * y.toNat / 2 ^ 64)) s
def execDivS (sc : BitVec 2) (k : BitVec 4) (b a d : Reg) (s : State) : Out := divOp sc k b a d (fun x y => BitVec.ofInt 64 (x.toInt.tdiv y.toInt)) s
def execDivn (sc : BitVec 2) (k : BitVec 4) (b a d : Reg) (s : State) : Out := divOp sc k b a d (fun x y => BitVec.ofNat 64 (x.toNat / y.toNat)) s
def execModS (sc : BitVec 2) (k : BitVec 4) (b a d : Reg) (s : State) : Out := divOp sc k b a d (fun x y => BitVec.ofInt 64 (x.toInt.tmod y.toInt)) s
def execModn (sc : BitVec 2) (k : BitVec 4) (b a d : Reg) (s : State) : Out := divOp sc k b a d (fun x y => BitVec.ofNat 64 (x.toNat % y.toNat)) s

/-! ### BITS (R169, R170) -/

def execClz (sc : BitVec 2) (a d : Reg) (s : State) : Out := aluImm sc a d clz s
def execCtz (sc : BitVec 2) (a d : Reg) (s : State) : Out := aluImm sc a d ctz s
def execPopc (sc : BitVec 2) (a d : Reg) (s : State) : Out := aluImm sc a d popc s
def execBrev (sc : BitVec 2) (a d : Reg) (s : State) : Out := aluImm sc a d brevOf s
def execBswap (sc : BitVec 2) (a d : Reg) (s : State) : Out := aluImm sc a d bswapOf s
def execExts (sc : BitVec 2) (b a d : Reg) (s : State) : Out := aluReg sc b a d fieldS s
def execExtz (sc : BitVec 2) (b a d : Reg) (s : State) : Out := aluReg sc b a d fieldZ s
def execIns (sc : BitVec 2) (b a d : Reg) (s : State) : Out :=
  aluOp (retire sc) [.g a, .g b, .g d] d (fun s => fieldIns (rdG s d) (rdG s a) (rdG s b)) s

/-! ### LIH, ADDPC (R171, R172) and NOP (R118) -/

def execLih (imm : BitVec 20) (d : Reg) (s : State) : Out := aluOp (retire 0#2) [] d (fun _ => imm.signExtend 64 * 1024#64) s
def execAddpc (imm : BitVec 20) (d : Reg) (s : State) : Out :=
  aluOp (retire 0#2) [] d (fun s => (codeVa s s.core.ctx.pc).setWidth 64 + imm.signExtend 64 * 1024#64) s
def execNop (sc : BitVec 2) (s : State) : Out := .next (retire sc s)

/-! ### Compact forms (R115, R194) -/

/-- r' names g8 to g15 (R114). -/
def cReg (r : BitVec 3) : Reg := 8#5 + r.setWidth 5
/-- A compact form completes: the next parcel is at PC + 2 (R194). -/
def retireC (s : State) : State := retireBy 2 0 0 s

def execCAddi (r : BitVec 3) (imm : BitVec 8) (s : State) : Out :=
  aluOp retireC [.g (cReg r)] (cReg r) (fun s => rdG s (cReg r) + imm.signExtend 64) s
def execCLi (r : BitVec 3) (imm : BitVec 8) (s : State) : Out := aluOp retireC [] (cReg r) (fun _ => imm.signExtend 64) s
def execCNop (s : State) : Out := .next (retireC s)
def execCMv (r r2 : BitVec 3) (s : State) : Out := aluOp retireC [.g (cReg r2)] (cReg r) (fun s => rdG s (cReg r2)) s
def execCAdd (r r2 : BitVec 3) (s : State) : Out :=
  aluOp retireC [.g (cReg r), .g (cReg r2)] (cReg r) (fun s => rdG s (cReg r) + rdG s (cReg r2)) s
def execCSub (r r2 : BitVec 3) (s : State) : Out :=
  aluOp retireC [.g (cReg r), .g (cReg r2)] (cReg r) (fun s => rdG s (cReg r) - rdG s (cReg r2)) s

/-! ### The end of a divide -/

/-- DIVIDE_COMPLETION (R168): divide `i` of unit `u`, at least 6 cycles after it issued, writes its result and posts its token, wherever the lines lie (R138). (Log 54: DEDUCED) -/
def execDivideCompletion (u i : Nat) (s : State) : Out :=
  match (getCore s u).divs[i]? with
  | none => .next s
  | some v =>
    if s.gtc < v.issuedAt + 6 then .next s
    else
      let s1 := modCore s u fun c => { c with divs := c.divs.eraseIdx i }
      .next (touchCtx s1 v.ctx fun c => ctxPost (ctxUncovDone (ctxPutG c v.dest v.result) v.token (.g v.dest)) v.token)

end Sys2Proof.Machine
end

