-- ==== Sys2Proof/Machine/Memory.lean ====
section
/-! DEFINITION. Scalar and vector loads and stores (R161 to R164, R218, R219), LDAQ, STRL, FNC, QFNC and the AMOs (R329 to R338), their compact forms,
and what their destinations answer: LOAD_COMPLETION, STORE_ACK and AMO_RESPONSE. -/

namespace Sys2Proof.Machine

/-! ### Scalar loads (R161, R162) -/

/-- A scalar load of 2^sizeLog bytes. -/
def scalarLoad (sizeLog : Nat) (signed : Bool) (sc : BitVec 2) (k : BitVec 4) (imm : BitVec 6) (a d : Reg) (s : State) : Out :=
  loadInstr { sizeLog := sizeLog, kind := .scalar signed, vec := false, dest := d, k := k, base := rdG s a } a (eaOf s a imm (2 ^ sizeLog)) (retire sc) s

def execLdb (sc : BitVec 2) (k : BitVec 4) (imm : BitVec 6) (a d : Reg) (s : State) : Out := scalarLoad 0 true sc k imm a d s
def execLdbz (sc : BitVec 2) (k : BitVec 4) (imm : BitVec 6) (a d : Reg) (s : State) : Out := scalarLoad 0 false sc k imm a d s
def execLdh (sc : BitVec 2) (k : BitVec 4) (imm : BitVec 6) (a d : Reg) (s : State) : Out := scalarLoad 1 true sc k imm a d s
def execLdhz (sc : BitVec 2) (k : BitVec 4) (imm : BitVec 6) (a d : Reg) (s : State) : Out := scalarLoad 1 false sc k imm a d s
def execLdw (sc : BitVec 2) (k : BitVec 4) (imm : BitVec 6) (a d : Reg) (s : State) : Out := scalarLoad 2 true sc k imm a d s
def execLdwz (sc : BitVec 2) (k : BitVec 4) (imm : BitVec 6) (a d : Reg) (s : State) : Out := scalarLoad 2 false sc k imm a d s
def execLdd (sc : BitVec 2) (k : BitVec 4) (imm : BitVec 6) (a d : Reg) (s : State) : Out := scalarLoad 3 true sc k imm a d s

/-- C.LDD: LDD with K = 0 and an offset of 8 × off5 (R115, R194). -/
def execCLdd (r r2 : BitVec 3) (off : BitVec 5) (s : State) : Out :=
  loadInstr { sizeLog := 3, kind := .scalar true, vec := false, dest := cReg r, k := 0#4, base := rdG s (cReg r2) } (cReg r2)
    (rdG s (cReg r2) + off.setWidth 64 * 8#64) retireC s

/-! ### Scalar stores (R163, R164) -/

/-- The form of a scalar store of the low bytes of `x`. -/
def scalarForm (sizeLog : Nat) (x : Word) : StoreForm :=
  { sizeLog := sizeLog, cells := numbered (leBytes (2 ^ sizeLog) x.toNat), data := x &&& BitVec.ofNat 64 (2 ^ (8 * 2 ^ sizeLog) - 1) }

/-- A scalar store of 2^sizeLog bytes. -/
def scalarStore (sizeLog : Nat) (sc : BitVec 2) (imm : BitVec 10) (b a : Reg) (s : State) : Out :=
  storeInstr (scalarForm sizeLog (rdG s b)) [.g a, .g b] (eaOf s a imm (2 ^ sizeLog)) (retire sc) s

def execStb (sc : BitVec 2) (imm : BitVec 10) (b a : Reg) (s : State) : Out := scalarStore 0 sc imm b a s
def execSth (sc : BitVec 2) (imm : BitVec 10) (b a : Reg) (s : State) : Out := scalarStore 1 sc imm b a s
def execStw (sc : BitVec 2) (imm : BitVec 10) (b a : Reg) (s : State) : Out := scalarStore 2 sc imm b a s
def execStd (sc : BitVec 2) (imm : BitVec 10) (b a : Reg) (s : State) : Out := scalarStore 3 sc imm b a s

/-- C.STD: STD with an offset of 8 × off5 (R115). -/
def execCStd (r r2 : BitVec 3) (off : BitVec 5) (s : State) : Out :=
  storeInstr (scalarForm 3 (rdG s (cReg r))) [.g (cReg r2), .g (cReg r)] (rdG s (cReg r2) + off.setWidth 64 * 8#64) retireC s

/-! ### Vector loads and stores (R218, R219) -/

/-- LDVE of elements of 2^sizeLog bytes. -/
def splatLoad (sizeLog : Nat) (sc : BitVec 2) (k : BitVec 4) (imm : BitVec 6) (a d : Reg) (s : State) : Out :=
  loadInstr { sizeLog := sizeLog, kind := .splat, vec := true, dest := d, k := k, base := rdG s a } a (eaOf s a imm (2 ^ sizeLog)) (retire sc) s

def execLdv (sc : BitVec 2) (k : BitVec 4) (imm : BitVec 6) (a d : Reg) (s : State) : Out :=
  loadInstr { sizeLog := 5, kind := .vec, vec := true, dest := d, k := k, base := rdG s a } a (eaOf s a imm 32) (retire sc) s
def execLdve8 (sc : BitVec 2) (k : BitVec 4) (imm : BitVec 6) (a d : Reg) (s : State) : Out := splatLoad 0 sc k imm a d s
def execLdve16 (sc : BitVec 2) (k : BitVec 4) (imm : BitVec 6) (a d : Reg) (s : State) : Out := splatLoad 1 sc k imm a d s
def execLdve32 (sc : BitVec 2) (k : BitVec 4) (imm : BitVec 6) (a d : Reg) (s : State) : Out := splatLoad 2 sc k imm a d s
def execLdve64 (sc : BitVec 2) (k : BitVec 4) (imm : BitVec 6) (a d : Reg) (s : State) : Out := splatLoad 3 sc k imm a d s

/-- The form of a store of a v register's bytes for which `p` holds. -/
def vecForm (x : Vec) (p : Nat → Bool) : StoreForm :=
  { sizeLog := 5, cells := (numbered (leBytes 32 x.toNat)).filter fun c => p c.1, data := x.setWidth 64 }

def execStv (sc : BitVec 2) (imm : BitVec 10) (b a : Reg) (s : State) : Out :=
  storeInstr (vecForm (rdV s b) fun _ => true) [.g a, .v b] (eaOf s a imm 32) (retire sc) s

/-- Byte `i` belongs to a lane that a mask enables (R217). -/
def maskByte (m : BitVec 32) (tag : BitVec 2) (i : Nat) : Bool := m.getLsbD (i / 2 ^ tag.toNat)

/-- STVM (R219): the checks of a whole 32-byte store; with no lane enabled nothing is written and no entry is taken. -/
def execStvm (sc : BitVec 2) (imm : BitVec 7) (m : BitVec 3) (b a : Reg) (s : State) : Out :=
  let ea := eaOf s a imm 32
  let f := vecForm (rdV s b) (maskByte (rdM s m) (ctxTag s.core.ctx m))
  if f.cells.isEmpty then
    afterAcquire s fun s => checked [.g a, .v b, .m m] none s fun s =>
      if ea.toNat % 32 ≠ 0 then trap 2#8 ea s
      else match checkRoute s ea 32 [.W] with
        | .error c => trapAs c (rightsFill ea 32 [.W] s)
        | .ok (_, _, s1) => .next (retire sc s1)
  else storeInstr f [.g a, .v b, .m m] ea (retire sc) s

/-! ### Fences, LDAQ and STRL (R329 to R333) -/

/-- FNC (R329): holds until every earlier access is performed, then is a release and an acquire. -/
def execFnc (sc : BitVec 2) (_sco : BitVec 3) (s : State) : Out := afterAll s fun s => .next (retire sc (syncPoint s))

/-- A stack entry that unit `u` issued. -/
def stackBy (u : Nat) (e : StackEntry) : Bool := match e.by_ with | some (v, _) => v == u | none => false

/-- Unit `u`'s stack commands that are not complete. -/
def stackEntries (s : State) (u : Nat) : List StackEntry := s.galleys.flatMap fun g => g.2.entries.filter (stackBy u)

/-- Unit `u`'s table requests that are not performed. -/
def tableEntries (s : State) (u : Nat) : List TableReq := (tabGet {} s.tiles (tileOf u)).tq.filter fun r => r.unit == u

/-- An entry of a named queue, issued before number `mark` by unit `u`, has not completed (R330). -/
def queuesBusy (s : State) (u : Nat) (set : BitVec 4) (mark : Nat) : Bool :=
  (set.getLsbD 0 && (getCore s u).copies.any fun c => decide (c.eng < mark) && !c.ended) ||
  (set.getLsbD 1 && (getCore s u).galley.entries.any fun e => decide (e.eng < mark)) ||
  (set.getLsbD 2 && (stackEntries s u).any fun e => decide (e.eng < mark)) ||
  (set.getLsbD 3 && (tableEntries s u).any fun e => decide (e.eng < mark))

/-- Entry number `eng` of queue `q` of unit `u` may not start yet (R330, R331). -/
def fenced (s : State) (u q eng : Nat) : Bool :=
  (getCore s u).fences.any fun f => f.set.getLsbD q && decide (f.mark ≤ eng) && queuesBusy s u f.set f.mark

/-- QFNC (R330): later entries of the named queues start after every earlier entry of every named queue has completed. -/
def execQfnc (sc : BitVec 2) (n : BitVec 4) (s : State) : Out :=
  if n = 0#4 then .next (retire sc s)
  else
    let live := s.core.fences.filter fun f => queuesBusy s s.cur f.set f.mark
    .next (retire sc { s with core := { s.core with fences := live ++ [{ set := n, mark := s.core.engSeq }] } })

/-- LDAQ (R332): LDD's effect at offset 0, an acquire. An earlier STRL is performed first (R333). (Log 52: DEDUCED) -/
def execLdaq (sc : BitVec 2) (k : BitVec 4) (sco : BitVec 3) (a d : Reg) (s : State) : Out :=
  if strlPending s then .next (hold false s)
  else loadInstr { sizeLog := 3, kind := .scalar true, vec := false, dest := d, k := k, base := rdG s a, sync := some (scopeOf sco) } a (rdG s a)
    (fun t => retire sc (syncPoint t)) s

/-- STRL (R333): STD's effect at offset 0, a release. -/
def execStrl (sc : BitVec 2) (sco : BitVec 3) (b a : Reg) (s : State) : Out :=
  storeInstr { scalarForm 3 (rdG s b) with sync := some (scopeOf sco) } [.g a, .g b] (rdG s a) (retire sc) s

/-! ### AMOs (R334, R335) -/

def execAmoadd (aq rl w : BitVec 1) (b a : Reg) (sco : BitVec 3) (d : Reg) (s : State) : Out := amoOp 0#4 aq rl w b a sco d s
def execAmoand (aq rl w : BitVec 1) (b a : Reg) (sco : BitVec 3) (d : Reg) (s : State) : Out := amoOp 1#4 aq rl w b a sco d s
def execAmoor (aq rl w : BitVec 1) (b a : Reg) (sco : BitVec 3) (d : Reg) (s : State) : Out := amoOp 2#4 aq rl w b a sco d s
def execAmoxor (aq rl w : BitVec 1) (b a : Reg) (sco : BitVec 3) (d : Reg) (s : State) : Out := amoOp 3#4 aq rl w b a sco d s
def execAmomin (aq rl w : BitVec 1) (b a : Reg) (sco : BitVec 3) (d : Reg) (s : State) : Out := amoOp 4#4 aq rl w b a sco d s
def execAmomax (aq rl w : BitVec 1) (b a : Reg) (sco : BitVec 3) (d : Reg) (s : State) : Out := amoOp 5#4 aq rl w b a sco d s
def execAmominn (aq rl w : BitVec 1) (b a : Reg) (sco : BitVec 3) (d : Reg) (s : State) : Out := amoOp 6#4 aq rl w b a sco d s
def execAmomaxn (aq rl w : BitVec 1) (b a : Reg) (sco : BitVec 3) (d : Reg) (s : State) : Out := amoOp 7#4 aq rl w b a sco d s
def execAmoswp (aq rl w : BitVec 1) (b a : Reg) (sco : BitVec 3) (d : Reg) (s : State) : Out := amoOp 8#4 aq rl w b a sco d s
def execAmocas (aq rl w : BitVec 1) (b a : Reg) (sco : BitVec 3) (d : Reg) (s : State) : Out := amoOp 9#4 aq rl w b a sco d s

/-! ### Answers of the destination -/

/-- Replaces a log entry of unit `u`. -/
def setLog (u i : Nat) (e : Option LogEntry) (s : State) : State :=
  modCore s u fun c => if h : i < 16 then { c with log := c.log.set i e h } else c

/-- The core in focus leaves REPLAY: the instruction completes, with its own SC (R125, R193). -/
def endReplay (u : Nat) (sc : BitVec 2) (s : State) : State :=
  let f := s.cur
  focus (retire sc (focus s u)) f

/-- A load is refused: the entry is held for a late fault (R158), or stays held after a REPLAY, whose record is rewritten (R193, R371, R372). -/
def refuseLoad (u i : Nat) (e : LogEntry) (r : Refuse) (s : State) : State :=
  if e.replaying then
    let e1 := { e with replaying := false, reason := causeOf r }
    let s1 := modCtx (setLog u i (some e1) s) e.ctx fun c => setWindowBytes c 0x20 (recordBytes (logRecord e1))
    endReplay u e.replaySc s1
  else setHold u (setLog u i (some { e with held := some s.gtc, reason := causeOf r }) s) e.ctx

/-- A load is performed: the destination is written, the token posts and the entry frees (R162); HOLD falls with the last held entry (R371). -/
def performLoad (u i : Nat) (e : LogEntry) (key : Nat) (s : State) : State :=
  let bs := getBytes s.mem key (2 ^ e.sizeLog)
  let s1 := setLog u i none (touchPage false e.ea.toNat s)
  let s2 := touchCtx s1 e.ctx fun c =>
    ctxPost (ctxUncovDone (applyPending c (loadedWrite e.kind e.sizeLog e.dest bs)) e.token (fileDest e.vecDest e.dest)) e.token
  let s3 := chargeTo e.ctx 3 (2 ^ e.sizeLog) s2
  if e.replaying then endReplay u e.replaySc (setHold u s3 e.ctx) else s3

/-- The cycle from which a load stands in program order: a REPLAY's access is that instruction's own (R193, R326). -/
def issueCycle (e : LogEntry) (s : State) : Nat := if e.replaying then s.gtc else e.at_

/-- A load's request meets its destination. -/
def answerLoad (u i : Nat) (e : LogEntry) (s : State) : State :=
  match landing s u e.ea.toNat e.stamp with
  | .error r => refuseLoad u i e r s
  | .ok key => match recordLate (remoteAccess u e.ctx key false e.sync (issueCycle e s) (overtakes s u e.ctx e.seqNo e.at_)) s with
    | none => refuseLoad u i e .race s
    | some s1 => performLoad u i e key s1

/-- LOAD_COMPLETION (R162): entry `e` of unit `u`'s operand log is answered, after every older access of the core to the same bytes (R160) and every access of the context on an earlier core (R311). -/
def execLoadCompletion (u e : Nat) (s : State) : Out :=
  match (getCore s u).log.getD e none with
  | none => .next s
  | some x =>
    if (x.held.isSome && !x.replaying) || x.swept.isSome then .next s
    else if olderPending s (getCore s u) x.seqNo x.ea (2 ^ x.sizeLog) || behindSync (getCore s u) x.ctx x.seqNo || olderElsewhere s u x.ctx x.at_
        || syncWaits s x.ctx x.ea false x.sync then .next s
    else .next (answerLoad u e x s)

/-- STORE_ACK (R159): entry `e` of unit `u`'s journal is performed or refused, after every older access of the core to the same bytes (R160) and every access of the context on an earlier core (R311). -/
def execStoreAck (u e : Nat) (s : State) : Out :=
  match (getCore s u).journal.getD e none with
  | none => .next s
  | some x =>
    if storeReady u x s then .next (answerStore u e x s) else .next s

/-- The answer to the AMO of the core in focus: performed, with the old value in g[d], or the exact trap of its refusal (R338). -/
def answerAmo (f : AmoFlight) (s : State) : State :=
  let s0 := { s with core := { s.core with amo := none } }
  match landing s s.cur f.ea.toNat f.stamp with
  | .error r => takeTrap (causeOf r, f.ea) (charge 0 1 s0)
  | .ok key =>
    let res := amoCells f.op f.wide (getBytes s.mem key (amoSize f.wide)) f.y f.cmp
    match recordAccess (remoteAccess s.cur (me s) key (!res.1.isEmpty) (some f.sco) s.gtc (anyCore (coreWaits (me s)) s)) s0 with
    | none => takeTrap (17#8, f.ea) (charge 0 1 s0)
    | some s1 =>
      let s2 := charge 3 (amoSize f.wide) s1
      retire 0#2 (putG f.dest res.2 (touchPage (!res.1.isEmpty) f.ea.toNat { s2 with mem := setCells s2.mem key res.1 }))

/-- AMO_RESPONSE (R338): the destination answers unit `u`'s AMO, after the core's older accesses to the same bytes (R160) and the context's on an earlier core (R311). -/
def execAmoResponse (u : Nat) (s : State) : Out :=
  match (getCore s u).amo with
  | none => .next s
  | some f =>
    if olderPending s (getCore s u) (getCore s u).seqNo f.ea (amoSize f.wide) || olderElsewhere s u (getCore s u).ctx.rcd.chrys (s.gtc + 1)
        || syncWaits s (getCore s u).ctx.rcd.chrys f.ea true (some f.sco) then .next s
    else .next (focus (answerAmo f (focus s u)) s.cur)

end Sys2Proof.Machine
end

