-- ==== Sys2Proof/Machine/Quires.lean ====
section
/-! DEFINITION. Quires (R248 to R255, R419): the rings' counters, QCFG, QRES, QPUB, QACQ, QREL, QSTAT, and the events that end a wait. -/

namespace Sys2Proof.Machine

/-! ### Rings -/

/-- NSLOT of a quire. -/
def nslot (q : Quire) : Nat := q.slots.length

/-- Slot `i`. -/
def slotAt (q : Quire) (i : Nat) : QSlot := q.slots.getD i {}

/-- Replaces slot `i`. -/
def setSlotAt (q : Quire) (i : Nat) (x : QSlot) : Quire := { q with slots := q.slots.set i x }

/-- Slots in a state. -/
def countSt (q : Quire) (st : QSlotState) : Nat := q.slots.countP fun x => x.st == st

/-- FULL rises for each FULL slot at PUB, in ring order (R252); at most `fuel` slots. A slot is counted once: those between PUB and RES are the ones not yet counted. -/
def advancePub (q : Quire) : Nat → Quire
  | 0 => q
  | n + 1 =>
    if q.full < countSt q .reserved + countSt q .published + countSt q .full ∧ (slotAt q q.pub).st = .full then
      advancePub { q with full := q.full + 1, pub := (q.pub + 1) % nslot q } n
    else q

/-- FREE rises for each RELEASED slot at REL, in ring order (R252). -/
def advanceRel (q : Quire) : Nat → Quire
  | 0 => q
  | n + 1 =>
    if (slotAt q q.rel).st = .released then
      advanceRel { setSlotAt q q.rel {} with free := q.free + 1, rel := (q.rel + 1) % nslot q } n
    else q

/-- A PUBLISHED slot with no copy open becomes FULL (R252). -/
def fillSlot (q : Quire) (i : Nat) : Quire :=
  let x := slotAt q i
  if x.st = .published ∧ x.open_ = 0 then advancePub (setSlotAt q i { x with st := .full }) (nslot q) else q

/-- Publishes slot `i`. -/
def publishSlot (q : Quire) (i : Nat) : Quire := fillSlot (setSlotAt q i { slotAt q i with st := .published, holder := none }) i
/-- Releases slot `i`. -/
def releaseSlot (q : Quire) (i : Nat) : Quire := advanceRel (setSlotAt q i { slotAt q i with st := .released, holder := none }) (nslot q)
/-- Reserves slot RES for a holder; none for a QA copy. -/
def reserveSlot (q : Quire) (h : Option (BitVec 56)) : Quire :=
  { setSlotAt q q.res { slotAt q q.res with st := .reserved, holder := h } with res := (q.res + 1) % nslot q, free := q.free - 1 }
/-- Acquires slot ACQ for a holder. -/
def acquireSlot (q : Quire) (h : BitVec 56) : Quire :=
  { setSlotAt q q.acq { slotAt q q.acq with st := .acquired, holder := some h } with acq := (q.acq + 1) % nslot q, full := q.full - 1 }

/-- The slot that a context holds in a state. -/
def heldSlot (q : Quire) (h : BitVec 56) (st : QSlotState) : Option Nat :=
  (List.range (nslot q)).find? fun i => (slotAt q i).st == st && (slotAt q i).holder == some h

/-- A published slot not yet FULL, held open by a copy, counts with its contributor copies. -/
def anyOpen (q : Quire) : Bool := q.slots.any fun x => decide (x.open_ ≠ 0)

/-- A RETIRED quire with every slot FREE and no copy open becomes unconfigured (R419). -/
def retireCheck (q : Quire) : Quire := if q.retired && q.slots.all (fun x => x.st == .free) && !anyOpen q then {} else q

/-- Quire `n` of unit `u`. -/
def quireOf (s : State) (u n : Nat) : Quire := (getCore s u).quires.getD n {}

/-- A slot can be reserved, or acquired (R252). -/
def canReserve (q : Quire) : Bool := decide (q.free ≠ 0) && decide (countSt q .reserved < 8)
def canAcquire (q : Quire) : Bool := decide (q.full ≠ 0) && decide (countSt q .acquired < 8)

/-- Replaces quire `n` of unit `u`, and wakes the contexts that wait for what it has gained (R254). -/
def setQuire (u n : Nat) (q : Quire) (s : State) : State :=
  let old := quireOf s u n
  let s1 := modCore s u fun c => if h : n < 16 then { c with quires := c.quires.set n (retireCheck q) h } else c
  let s2 := if old.free < q.free || (canReserve q && !canReserve old) then wakeAll (fun w => w == .quireFree u n) s1 else s1
  if old.full < q.full || (canAcquire q && !canAcquire old) then wakeAll (fun w => w == .quireFull u n) s2 else s2

/-! ### Checks (R249, R250) -/

/-- The home of a QUI instruction other than QCFG: the own core, or the core whose pool a global alias names. -/
def quireHome (s : State) (a : Reg) : Option Nat :=
  let x := (rdG s a).toNat
  if x = 0 then some s.cur
  else match place true x with
    | .pool u _ => if isFabric u then none else some u
    | _ => none

/-- A context is a member of group value `x` (R250). -/
def memberOf (r : Rec) (x : BitVec 9) : Bool :=
  x.getLsbD 8 || (List.range 4).any fun i => decide (i < r.ngrp.toNat) && r.groups.extractLsb' (8 * i) 8 == x.extractLsb' 0 8

/-- The owner check, which QCFG makes as well. -/
def quireOwned (s : State) (q : Quire) : Bool := !q.cfg || steward s || q.owner == acting s

/-- The checks of R250 on a quire of a known home; `grp` is the group that the instruction needs. -/
def quireChecks (s : State) (q : Quire) (n : BitVec 4) (grp : Option (BitVec 9)) : Option Cause :=
  if !quireOwned s q then some (3#8, n.setWidth 64)
  else if q.cfg && (match grp with | some g => !memberOf s.core.ctx.rcd g | none => false) then some (3#8, n.setWidth 64)
  else if !q.cfg then some (15#8, 1#64)
  else none

/-- The address of slot `i`: a private alias for the own core, a global alias for another (R249). -/
def slotAddr (s : State) (home : Nat) (q : Quire) (i : Nat) : Word :=
  BitVec.ofNat 64 ((if home = s.cur then 0 else coreBase home) + q.base.toNat + 32 * q.slotB.toNat * i)

/-- Runs a QUI instruction on its quire, after the checks. -/
def onQuire (n : BitVec 4) (a : Reg) (grp : Quire → Option (BitVec 9)) (s : State) (k : Nat → Quire → State → Out) : Out :=
  match quireHome s a with
  | none => trap 2#8 (rdG s a) s
  | some home =>
    let q := quireOf s home n.toNat
    match quireChecks s q n (grp q) with
    | some c => trapAs c s
    | none => k home q s

/-- A QRES or QACQ that must wait: it holds issue at a switch point, and the wait is timed (R254). -/
def quireWait (s : State) : Out :=
  .next (hold true (setCtx s { s.core.ctx with blockedAt := some (s.core.ctx.blockedAt.getD s.gtc) }))

/-- The wait is over. -/
def quireDone (s : State) : State := setCtx s { s.core.ctx with blockedAt := none }

/-! ### QCFG (R251) -/

/-- A quire as QCFG leaves it (R251, R419). -/
def configured (d : Nat) (owner : BitVec 12) (holder : BitVec 56) : Quire :=
  let n := bits d 64 8
  if n = 0 then {}
  else { cfg := true, base := BitVec.ofNat 19 (bits d 0 19), slotB := BitVec.ofNat 16 (bits d 32 16), owner := owner
         pgrp := BitVec.ofNat 9 (bits d 94 9), cgrp := BitVec.ofNat 9 (bits d 103 9), holder := holder, free := n, slots := List.replicate n {} }

/-- The bytes of a quire's ring: first offset and end. -/
def ringSpan (q : Quire) : Nat × Nat := (q.base.toNat, q.base.toNat + 32 * q.slotB.toNat * nslot q)

/-- Two spans share a byte. -/
def spanMeets (a b : Nat × Nat) : Bool := decide (a.1 < b.2) && decide (b.1 < a.2)

/-- Released rings end where a QCFG configures over any of their bytes (R419). -/
def claimRing (q : Quire) (c : Core) : Core := { c with freed := c.freed.filter fun r => !spanMeets r (ringSpan q) }

/-- The cases in which QCFG raises QUIRE with TRAP_VAL 2. -/
def badConfig (s : State) (q : Quire) (d : Nat) : Bool :=
  let n := bits d 64 8
  let sb := bits d 32 16
  let base := bits d 0 19
  q.slots.any (fun x => x.st != .free) || anyOpen q ||
    (decide (n ≠ 0) && (decide (sb = 0) || decide (2048 < sb) || decide (base % 64 ≠ 0) || decide (scratchSize s.cur s.core < base + 32 * sb * n)))

/-- The bytes of a record that an instruction reads in the core through a private alias: the address trap, or the bytes (R251, R358). -/
def readRecord (ea : Word) (align n : Nat) (s : State) : Except Cause (Nat × State) :=
  if ea.toNat % align ≠ 0 then .error (2#8, ea)
  else match place (onCompute s) ea.toNat with
    | .priv _ => match checkRoute s ea n [.I] with
      | .error c => .error c
      | .ok (_, r, s1) => match privAccess s1 r false none with
        | none => .error (17#8, ea)
        | some s2 => .ok (leNat (readPriv s2 r n), s2)
    | _ => .error (2#8, ea)

/-- Runs an instruction that accesses `n` bytes of the core at an address for itself: behind an LDAQ not yet performed (R328), and behind the accesses to them that a sync
operation orders first (R315, R322). (Log 15: DEDUCED) -/
def afterOwn (write : Bool) (ea : Word) (n : Nat) (s : State) (k : State → Out) : Out :=
  match place (onCompute s) ea.toNat with
  | .priv off =>
    if steward s && decide (off < 0x800) then k s
    else afterAcquire s fun s => afterAlias (.priv (poolKey s.cur off)) n write none s k
  | _ => afterAcquire s k

/-- A descriptor that a press or stack command or SPAWN reads in the core is misaligned or not wholly in the scratchpad (R296, R342, R358). -/
def badDescriptor (ea : Word) (align n : Nat) (s : State) : Bool := decide (ea.toNat % align ≠ 0) || decide (scratchSize s.cur s.core < ea.toNat + n)

/-- The detector's note of reading granules through the private alias. -/
def readGranules (key : Nat) : Nat → State → Option State
  | 0, s => some s
  | n + 1, s => match recordAccess (myAccess s key false true none) s with
    | none => none
    | some s1 => readGranules (key + 32) n s1

/-- The same for the `n` bytes from an aligned address; the handler window is no data access (R320, R367). -/
def privGranules (s : State) (r : Route) (n : Nat) : Option State :=
  match r with
  | .priv key => readGranules key ((n + 31) / 32) s
  | _ => some s

/-- The bytes of such a descriptor. -/
def readDescriptor (ea : Word) (align n : Nat) (s : State) : Except Cause (Nat × State) :=
  if badDescriptor ea align n s then .error (2#8, ea)
  else
    let r : Route := if steward s && decide (ea.toNat < 0x800) then .window ea.toNat else .priv (poolKey s.cur ea.toNat)
    match privGranules s r n with
    | none => .error (17#8, ea)
    | some s1 => .ok (leNat (readPriv s1 r n), s1)

/-- Runs an instruction on such a descriptor: the address fault, then the read's waits, then the read. -/
def withDescriptor (ea : Word) (align n : Nat) (s : State) (k : Nat → State → Out) : Out :=
  if badDescriptor ea align n s then trap 2#8 ea s
  else afterOwn false ea n s fun s => match readDescriptor ea align n s with
    | .error c => trapAs c s
    | .ok (d, s1) => k d s1

/-- QCFG (R250, R251): the owner check, the descriptor through the private alias, then the configuration. (Log 27: DEDUCED) -/
def execQcfg (sc : BitVec 2) (q : BitVec 4) (a : Reg) (s : State) : Out :=
  afterAcquire s fun s => checked [.g a] none s fun s =>
    let x := quireOf s s.cur q.toNat
    if !quireOwned s x then trap 3#8 (q.setWidth 64) s
    else afterOwn false (rdG s a) 16 s fun s => match readRecord (rdG s a) 16 16 s with
      | .error c => trapAs c s
      | .ok (d, s1) =>
        if badConfig s1 x d then trap 15#8 2#64 s1
        else
          let y := configured d (acting s1) (me s1)
          let s2 := { s1 with core := claimRing y s1.core }
          .next (retire sc (setQuire s2.cur q.toNat y s2))

/-! ### QRES, QPUB, QACQ, QREL, QSTAT (R252) -/

/-- The QUEUE_DEADLOCK trap that a QRES takes (R254). -/
def deadlockTrap (q : Nat) (s : State) : Out := trap 18#8 (BitVec.ofNat 64 q) (setCtx s { s.core.ctx with why := .none, blockedAt := none })

/-- The quire on which the issuing context's group has been found deadlocked. -/
def deadlockOf (c : Ctx) : Option Nat := match c.why with | .deadlocked q => some q | _ => none

def execQres (sc : BitVec 2) (q : BitVec 4) (a d : Reg) (s : State) : Out :=
  match deadlockOf s.core.ctx with
  | some n => deadlockTrap n s
  | none => afterAcquire s fun s => checked [.g a] none s fun s =>
    onQuire q a (fun x => some x.pgrp) s fun home x s =>
      if x.retired then trap 15#8 1#64 s
      else if (heldSlot x (me s) .reserved).isSome then trap 15#8 3#64 s
      else if !canReserve x then quireWait s
      else checked [] (some (.g d, 1)) s fun s => .next (retire sc (putG d (slotAddr s home x x.res) (syncPoint (quireDone (setQuire home q.toNat (reserveSlot x (some (me s))) s)))))

def execQpub (sc : BitVec 2) (q : BitVec 4) (a : Reg) (s : State) : Out :=
  behindLdaq true s fun s => checked [.g a] none s fun s =>
    onQuire q a (fun x => some x.pgrp) s fun home x s =>
      match heldSlot x (me s) .reserved with
      | none => trap 15#8 4#64 s
      | some i => afterAll s fun s => .next (retire sc (syncPoint (setQuire home q.toNat (publishSlot x i) s)))

def execQacq (sc : BitVec 2) (q : BitVec 4) (a d : Reg) (s : State) : Out :=
  afterAcquire s fun s => checked [.g a] none s fun s =>
    onQuire q a (fun x => some x.cgrp) s fun home x s =>
      if x.retired then trap 15#8 1#64 s
      else if (heldSlot x (me s) .acquired).isSome then trap 15#8 3#64 s
      else if !canAcquire x then quireWait s
      else checked [] (some (.g d, 1)) s fun s => .next (retire sc (putG d (slotAddr s home x x.acq) (syncPoint (quireDone (setQuire home q.toNat (acquireSlot x (me s)) s)))))

def execQrel (sc : BitVec 2) (q : BitVec 4) (a : Reg) (s : State) : Out :=
  behindLdaq true s fun s => checked [.g a] none s fun s =>
    onQuire q a (fun x => some x.cgrp) s fun home x s =>
      match heldSlot x (me s) .acquired with
      | none => trap 15#8 4#64 s
      | some i => afterAll s fun s => .next (retire sc (syncPoint (setQuire home q.toNat (releaseSlot x i) s)))

/-- The status word of QSTAT (R252). -/
def quireStatus (q : Quire) : Word :=
  if q.cfg then
    BitVec.ofNat 64 (nslot q + q.free * 2 ^ 8 + q.full * 2 ^ 16 + countSt q .reserved * 2 ^ 24 + countSt q .acquired * 2 ^ 28 + q.slotB.toNat * 2 ^ 32
      + q.owner.toNat * 2 ^ 48 + 2 ^ 63)
  else 0#64

/-- QSTAT answers for an unconfigured quire too (R250, R252). -/
def execQstat (sc : BitVec 2) (q : BitVec 4) (a d : Reg) (s : State) : Out :=
  afterAcquire s fun s => checked [.g a] none s fun s =>
    match quireHome s a with
    | none => trap 2#8 (rdG s a) s
    | some home =>
      let x := quireOf s home q.toNat
      if !quireOwned s x then trap 3#8 (q.setWidth 64) s
      else checked [] (some (.g d, 2)) s fun s => .next (retire sc (putGLater 2 d (quireStatus x) s))

/-! ### Waits that end (R254) -/

/-- What a QUI or QRED instruction waits for, with the quire it names: the instruction that the core in focus holds on. -/
def quireHeld (s : State) : Option WaitWhy :=
  match decodeWord s.core.ir with
  | some (.qres _ q a _) => (quireHome s a).map fun h => .quireFree h q.toNat
  | some (.qacq _ q a _) => (quireHome s a).map fun h => .quireFull h q.toNat
  | some (.qred _ _ q _ _) => some (.quireFull s.cur q.toNat)
  | _ => none

/-- The held instruction would wait again if it issued now (R254). -/
def stillBlocked (s : State) : Bool :=
  match quireHeld s with
  | some (.quireFree h q) => (deadlockOf s.core.ctx).isNone && !(quireOf s h q).retired && (quireOf s h q).cfg && !canReserve (quireOf s h q)
  | some (.quireFull h q) => !(quireOf s h q).retired && (quireOf s h q).cfg && !canAcquire (quireOf s h q)
  | _ => false

/-- The held instruction is a QRED. -/
def heldQred (s : State) : Bool :=
  match decodeWord s.core.ir with
  | some (.qred _ _ _ _ _) => true
  | _ => false

/-- The issuing context has been blocked on a quire for `n` cycles. -/
def blockedFor (n : Nat) (s : State) : Bool :=
  match s.core.ctx.blockedAt with
  | some t => s.core.issuing.isSome && decide (t + n ≤ s.gtc)
  | none => false

/-- After 256 cycles the slot suspends to WAITING, with the PC at the instruction; the suspension is progress (R254, R384). A slot that its quire has gained by this cycle is
a wake event at the same time, which is taken after the suspension (R44). -/
def suspendBlocked (s : State) : State :=
  match quireHeld s with
  | some w =>
    let s1 := progress (me s) (suspend w s)
    if stillBlocked s then s1 else touchCtx s1 (me s) (ctxWake (· == w))
  | none => s

/-- The wait of the held instruction has ended in a trap that it takes when it issues (R254). -/
def freed (s : State) : Bool := (deadlockOf s.core.ctx).isSome

/-- QUIRE_SUSPEND (R254): a QRES or QACQ of unit `u` that has been blocked for 256 cycles suspends. -/
def execQuireSuspend (u : Nat) (s : State) : Out :=
  let f := focus s u
  if blockedFor 256 f && !freed f && !heldQred f then .next (focus (suspendBlocked f) s.cur) else .next s

/-- QRED_SUSPEND (R232): the same for QRED. -/
def execQredSuspend (u : Nat) (s : State) : Out :=
  let f := focus s u
  if blockedFor 256 f && !freed f && heldQred f then .next (focus (suspendBlocked f) s.cur) else .next s

end Sys2Proof.Machine
end

