-- ==== Sys2Proof/Machine/Dealer.lean ====
section
/-! DEFINITION. Launch queues and completion words (R31 to R34, R79, R450), cards and dependences (R35 to R39), the group engine (R45, R46, R344),
creating a continuation (R42, R340, R343, R449) and dealing (R40, R41). -/

namespace Sys2Proof.Machine

/-! ### Launch queues -/

/-- Queue q of virtual device v. -/
def queueOf (s : State) (v : Nat) (q : BitVec 8) : Queue := tabGet {} s.hub.queues (256 * v + q.toNat)

/-- The code of a queue's state (R80). -/
def queueCode : QueueState → Nat
  | .none => 0 | .open_ => 1 | .draining => 2 | .resetting => 3 | .closed => 4

/-- A queue's descriptor (R79). (Log 11: DESIGN CHOICE) -/
def queueNat (q : Queue) : Nat :=
  q.kslot.toNat * 2 ^ 240 + boolNat q.prot * 2 ^ 255 + q.tail.toNat * 2 ^ 256 + q.head.toNat * 2 ^ 288 + q.cardBase.toNat * 2 ^ 320
    + q.capLog.toNat * 2 ^ 376 + q.owner.toNat * 2 ^ 380 + q.cwBase.toNat * 2 ^ 392 + q.part.toNat * 2 ^ 448 + queueCode q.st * 2 ^ 452
    + q.cwCap.toNat * 2 ^ 456 + q.wdog.toNat * 2 ^ 480

/-- Replaces a queue, and writes its descriptor into the queue table (R79). (Log 11: DESIGN CHOICE) -/
def setQueue (v : Nat) (q : BitVec 8) (x : Queue) (s : State) : State :=
  let a := (Config.queueTable v).toNat * 2 ^ 14 + 64 * q.toNat
  let s1 := setHub s { s.hub with queues := tabSet {} s.hub.queues (256 * v + q.toNat) x }
  { s1 with mem := setLe s1.mem a 64 (queueNat x) }

/-- One more message or update of a queue is dropped (R88, R450). -/
def countDropped (v : Nat) (q : BitVec 8) (n : Nat) (s : State) : State :=
  let x := queueOf s v q
  setHub s { s.hub with queues := tabSet {} s.hub.queues (256 * v + q.toNat) { x with dropped := x.dropped + n } }

/-! ### Accesses of hub agents -/

/-- An access of the dealer, H2 or a host: the storage key, or the refusal (R58, R73, R450). Aliases of a core's own pool name nothing here. -/
def hubAccess (s : State) (o : BitVec 12) (va : Nat) (rights : List Right) : Except Refuse Nat :=
  match place true va with
  | .priv _ => .error .address
  | .bad => .error .address
  | _ => match rights.findSome? fun n => (match agentCheck s o true va n with | .error r => some r | .ok _ => none) with
    | some r => .error r
    | none => reach s 0 va

/-- A little-endian value read by a hub agent; none where any granule of it is refused. -/
def hubRead (s : State) (o : BitVec 12) (va n : Nat) : Option Nat :=
  let ks := (List.range n).map fun i => (hubAccess s o (va + i) [.I]).toOption
  if ks.all (·.isSome) then some (leNat (ks.map fun k => getByte s.mem (k.getD 0))) else none

/-! ### Completion words -/

/-- The address of a completion word (R31). -/
def cwAddr (s : State) (v : Nat) (ref : BitVec 32) : Nat := (queueOf s v (ref.extractLsb' 24 8)).cwBase.toNat + 8 * (ref.toNat % 2 ^ 24)

/-- The storage key of a completion word for a read, and for an update (R31, R450). -/
def cwKey (s : State) (v : Nat) (ref : BitVec 32) (rights : List Right) : Option Nat :=
  (hubAccess s (queueOf s v (ref.extractLsb' 24 8)).owner (cwAddr s v ref) rights).toOption

/-- A completion word; none where it cannot be read. -/
def cwRead (s : State) (v : Nat) (ref : BitVec 32) : Option Nat := (cwKey s v ref [.I]).map fun k => getLe s.mem k 8

/-- Fields of a completion word (R32). -/
def cwDone (x : Nat) : Nat := bits x 0 28
def cwLost (x : Nat) : Nat := bits x 28 28
def cwStatus (x : Nat) : Nat := bits x 60 4
def cwNat (status lost done : Nat) : Nat := done % 2 ^ 28 + lost % 2 ^ 28 * 2 ^ 28 + status * 2 ^ 60

/-- Changes a completion word, or counts the update as dropped where it is refused (R450). -/
def cwUpdate (v : Nat) (ref : BitVec 32) (f : Nat → Nat) (s : State) : State :=
  match cwKey s v ref [.I, .W] with
  | some k => touchPage true (cwAddr s v ref) { s with mem := setLe s.mem k 8 (f (getLe s.mem k 8)) }
  | none => countDropped v (ref.extractLsb' 24 8) 1 s

/-! ### Cards (R35) -/

def cardCh (x : BitVec 512) : Bool := x.getLsbD 0
def cardEntry (x : BitVec 512) : BitVec 56 := BitVec.ofNat 56 (bits x.toNat 1 55 * 2)
def cardPrio (x : BitVec 512) : BitVec 2 := x.extractLsb' 56 2
def cardNgrp (x : BitVec 512) : Nat := (x.extractLsb' 58 3).toNat
def cardNdep (x : BitVec 512) : Nat := (x.extractLsb' 61 3).toNat
def cardBaseArg (x : BitVec 512) : Nat := (x.extractLsb' 64 56).toNat
def cardAff (x : BitVec 512) : Nat := (x.extractLsb' 120 8).toNat
def cardCount (x : BitVec 512) : Nat := (x.extractLsb' 128 28).toNat
def cardOwner (x : BitVec 512) : BitVec 12 := x.extractLsb' 156 12
def cardStride (x : BitVec 512) : Nat := (x.extractLsb' 168 12).toNat
def cardMin (x : BitVec 512) : Nat := max 1 (x.extractLsb' 180 12).toNat
def cardCw (x : BitVec 512) : BitVec 32 := x.extractLsb' 192 32
def cardGroups (x : BitVec 512) : BitVec 32 := x.extractLsb' 224 32
def cardDep (x : BitVec 512) (i : Nat) : BitVec 64 := x.extractLsb' (256 + 64 * i) 64

/-- The groups that a card names. -/
def cardGroupList (x : BitVec 512) : List (BitVec 8) := (List.range (min 4 (cardNgrp x))).map fun i => (cardGroups x).extractLsb' (8 * i) 8

/-- A completion word reference names no word (R31). -/
def cwNone (ref : BitVec 32) : Bool := ref.extractLsb' 0 24 == 0#24

/-- Card `i`. -/
def cardAt (s : State) (i : Nat) : Option Card := s.hub.cards[i]?
/-- Changes card `i`. -/
def modCard (i : Nat) (f : Card → Card) (s : State) : State := setHub s { s.hub with cards := s.hub.cards.modify i f }

/-! ### Dependences (R36 to R38) -/

/-- What a dependence's target word says (R37, R450): satisfied, failed, or neither. -/
def depJudge (s : State) (v : Nat) (d : BitVec 64) : Option Bool :=
  let thresh := (d.extractLsb' 32 28).toNat
  match cwRead s v (d.extractLsb' 0 32) with
  | none => some false
  | some x =>
    let st := cwStatus x
    if st = 3 ∨ (thresh ≠ 0 ∧ thresh ≤ cwDone x ∧ (st = 1 ∨ st = 2)) then some true
    else if st = 4 ∨ st = 5 ∨ st = 6 then some false
    else none

/-- Notes the dependences of a pending card that are now satisfied or have now failed; once satisfied, one stays satisfied (R37). -/
def noteCard (s : State) (c : Card) : Card :=
  if c.st ≠ .pending then c
  else (List.range (min 4 (cardNdep c.bits))).foldl (fun c i =>
    if c.depOk.getLsbD i || c.depBad.getLsbD i then c
    else match depJudge s c.vdev (cardDep c.bits i) with
      | some true => { c with depOk := c.depOk ||| (1#4 <<< i) }
      | some false => { c with depBad := c.depBad ||| (1#4 <<< i) }
      | none => c) c

/-- Reading the target words of a pending card's open dependences accesses their pages (R52). -/
def touchDeps (s : State) (c : Card) : State :=
  if c.st ≠ .pending then s
  else (List.range (min 4 (cardNdep c.bits))).foldl (fun s i =>
    let ref := (cardDep c.bits i).extractLsb' 0 32
    if c.depOk.getLsbD i || c.depBad.getLsbD i || (cwRead s c.vdev ref).isNone then s else touchPage false (cwAddr s c.vdev ref) s) s

/-- Notes the dependences of every pending card. (Log 41: DEDUCED) -/
def noteDeps (s : State) : State :=
  let s1 := s.hub.cards.foldl touchDeps s
  setHub s1 { s1.hub with cards := s1.hub.cards.map (noteCard s1) }

/-- Every used dependence is satisfied. -/
def depsMet (c : Card) : Bool := (List.range (min 4 (cardNdep c.bits))).all fun i => c.depOk.getLsbD i

/-- A card leaves PENDING for RUNNING; one with no records goes to DONE in one update (R34, R38). -/
def startCard (i : Nat) (s : State) : State :=
  match cardAt s i with
  | none => s
  | some c =>
    let fin := cardCount c.bits = 0
    let s1 := modCard i (fun c => { c with st := if fin then .done else .running }) s
    if cwNone (cardCw c.bits) then s1
    else noteDeps (cwUpdate c.vdev (cardCw c.bits) (fun x => cwNat (if fin then 3 else 2) (cwLost x) (cwDone x)) s1)

/-- A card from which nothing has been dealt is cancelled: STATUS := CANCELLED, LOST := ARG_COUNT (R38, R88). -/
def cancelCard (i : Nat) (s : State) : State :=
  match cardAt s i with
  | none => s
  | some c =>
    let s1 := modCard i (fun c => { c with st := .cancelled, lost := cardCount c.bits }) s
    if cwNone (cardCw c.bits) then s1
    else noteDeps (cwUpdate c.vdev (cardCw c.bits) (fun _ => cwNat 4 (cardCount c.bits) 0) s1)

/-- The final status of a card whose records have all ended (R34). -/
def cardFinal (torn : Bool) (lost : Nat) : CardStatus := if torn then .torn else if lost > 0 then .cancelled else .done
/-- The code of a card's status (R33). -/
def cardCode : CardStatus → Nat
  | .pending => 1 | .running => 2 | .done => 3 | .cancelled => 4 | .torn => 5

/-- `n` records of card `i` have ended: exited, or lost, `torn` where one was written TORN (R34). -/
def endRecords (i n : Nat) (exited torn : Bool) (s : State) : State :=
  match cardAt s i with
  | none => s
  | some c =>
    let count := cardCount c.bits
    let tn := c.anyTorn || torn
    let dn := if exited then c.done + n else c.done
    let ls := if exited then c.lost else c.lost + n
    let st := if dn + ls = count then cardFinal tn ls else c.st
    let s1 := modCard i (fun c => { c with done := dn, lost := ls, anyTorn := tn, st := st }) s
    if cwNone (cardCw c.bits) then s1
    else noteDeps (cwUpdate c.vdev (cardCw c.bits) (fun x =>
      let d := if exited then cwDone x + n else cwDone x
      let l := if exited then cwLost x else cwLost x + n
      cwNat (if d + l = count then cardCode (cardFinal tn l) else cwStatus x) l d) s1)

/-! ### The group engine (R45, R46, R344) -/

/-- Group g of a launch. -/
def groupOf (s : State) (l : Nat) (g : BitVec 8) : Group := tabGet {} s.hub.groups (256 * l + g.toNat)
/-- Replaces a group. -/
def setGroup (l : Nat) (g : BitVec 8) (x : Group) (s : State) : State :=
  setHub s { s.hub with groups := tabSet {} s.hub.groups (256 * l + g.toNat) x }

/-- A launch's own state. -/
def launchOf (s : State) (l : Nat) : Launch := s.hub.launches.getD l {}

/-- The bit "X without Y" of a launch is set (R46). -/
def without (x : Launch) (a b : BitVec 8) : Bool := x.without.contains (a, b)

/-- A group set would make two groups nest: some X outside it has members, and some Y in it is named wherever X is (R46). -/
def wouldNest (x : Launch) (set : List (BitVec 8)) : Bool :=
  x.members.any fun a => !set.contains a && set.any fun b => !without x a b

/-- A new member or card with a group set raises its bits (R46): for each X in it, X without Y for every Y outside it. From here on the groups
of the set count as having members, also where nothing has been dealt or every member has ended. (Log 69: DESIGN CHOICE) -/
def joinSet (x : Launch) (set : List (BitVec 8)) : Launch :=
  let pairs := set.flatMap fun a => ((List.range 256).map (BitVec.ofNat 8)).filterMap fun b => if set.contains b then none else some (a, b)
  { x with without := (x.without ++ pairs).dedup, members := (x.members ++ set).dedup }

/-- Registers a group set with a launch. -/
def noteSet (l : Nat) (set : List (BitVec 8)) (s : State) : State :=
  if set.isEmpty then s else setHub s { s.hub with launches := s.hub.launches.modify l fun x => joinSet x set }

/-- A card of the launch that names the group is PENDING or still has records undealt (R344). -/
def cardOpen (l : Nat) (g : BitVec 8) (c : Card) : Bool :=
  c.launch == l && (cardGroupList c.bits).contains g && (c.st == .pending || (c.st == .running && decide (c.dealt < cardCount c.bits)))

/-- The condition under which a generation with an arrival completes (R344). (Log 40: DEDUCED) -/
def genComplete (s : State) (l : Nat) (g : BitVec 8) : Bool :=
  let x := groupOf s l g
  !x.arrived.isEmpty &&
    (if x.expect = 0#32 then x.arrived.length == x.live.length && !s.hub.cards.any (cardOpen l g) else x.arrived.length == x.expect.toNat)

/-- Completes a generation: every member that arrived departs (R344, R345). -/
def completeGen (l : Nat) (g : BitVec 8) (s : State) : State :=
  let x := groupOf s l g
  let s1 := setGroup l g { x with gen := x.gen + 1, arrived := [] } s
  x.arrived.foldl (fun s c => touchCtx s c (ctxWake fun w => w == .barrier)) s1

/-- Completes a generation where its condition holds. -/
def checkGen (l : Nat) (g : BitVec 8) (s : State) : State := if genComplete s l g then completeGen l g s else s

/-- The groups that a record names. -/
def recGroups (r : Rec) : List (BitVec 8) := (List.range (min 4 r.ngrp.toNat)).map fun i => r.groups.extractLsb' (8 * i) 8

/-- Registers a member with each of its groups: it is LIVE, and its RANKs are the numbers of members created before it (R344). -/
def joinGroups (l : Nat) (chrys : BitVec 56) : List (BitVec 8) → State → State × List Nat
  | [], s => (s, [])
  | g :: gs, s =>
    let x := groupOf s l g
    let (s1, rs) := joinGroups l chrys gs (setGroup l g { x with live := x.live ++ [chrys], nextRank := x.nextRank + 1 } s)
    (s1, x.nextRank :: rs)

/-- A member leaves LIVE in each of its groups, which can complete a generation; an arrival it made stays counted, under `dead` (R344, R345). (Log 40: DEDUCED) -/
def leaveGroups (l : Nat) (chrys dead : BitVec 56) : List (BitVec 8) → State → State
  | [], s => s
  | g :: gs, s =>
    let x := groupOf s l g
    let a := x.arrived.map fun c => if c = chrys then dead else c
    leaveGroups l chrys dead gs (checkGen l g (setGroup l g { x with live := x.live.filter (· != chrys), arrived := a } s))

/-! ### Creating a continuation (R340, R343, R449) -/

/-- The entry at a partition's spawn ring: record and image; none where the ring holds none (R340). -/
def spawnEntry (s : State) (p : BitVec 3) : Option (BitVec 56 × BitVec 56) :=
  let x := getPart s p
  if x.spnLog.toNat < 6 ∨ x.spnHead = x.spnTail then none
  else
    let e := getLe s.mem (x.spnBase.toNat * 4096 + 16 * (x.spnHead.toNat % 2 ^ x.spnLog.toNat)) 16
    some (BitVec.ofNat 56 (bits e 0 56), BitVec.ofNat 56 (bits e 64 56))

/-- Takes the entry. -/
def takeSpawn (p : BitVec 3) (s : State) : State := let x := getPart s p; setPart s p { x with spnHead := x.spnHead + 1#32 }

/-- The control state that a new image holds: RECORD and RANKs, all else 0 (R344, R366). -/
def newImage (m : List Host.Cell) (key : Nat) (record : BitVec 56) (ranks : List Nat) : List Host.Cell :=
  let m1 := setBytes m (key + 0x520) (List.replicate 0xE0 0#8)
  let m2 := setLe (setLe m1 (key + 0x818) 8 0) (key + 0x5F0) 8 record.toNat
  setBytes m2 (key + 0x5D4) ((ranks.take 4).flatMap fun r => leBytes 4 r)

/-- Writes a new record and its image (R42, R343). -/
def writeNew (record chrys : BitVec 56) (r : Rec) (owner : BitVec 12) (pc : BitVec 56) (ranks : List Nat) (s : State) : State :=
  let s1 := devPut s record.toNat 64 (recNat { r with chrys := chrys } owner pc 0#16 0#4)
  match devKey s1 chrys.toNat with
  | some k => touchPage true chrys.toNat { s1 with mem := newImage s1.mem k record ranks }
  | none => s1

/-- NEWCONT (R101). -/
def newcontEvent (record : BitVec 56) : BitVec 128 := eventOf 1 0 record 0 0 0#32

/-- Creates a continuation from the partition's ring entry (R342, R449): the record, its groups and ranks, its registration, the NEWCONT event. -/
def createCont (p : BitVec 3) (record chrys : BitVec 56) (r : Rec) (owner : BitVec 12) (pc : BitVec 56) (v : Nat) (q : BitVec 8) (l : Nat) (card : Option Nat)
    (s : State) : State :=
  let (s1, ranks) := joinGroups l chrys (recGroups r) (takeSpawn p s)
  let s2 := writeNew record chrys r owner pc ranks s1
  let c : Cont := { record := record, chrys := chrys, vdev := v, queue := q, launch := l, card := card, owner := owner, narg := r.narg }
  writeEvent p (newcontEvent record) (setHub s2 { s2.hub with conts := s2.hub.conts ++ [c] })

/-! ### Dealing (R40, R41) -/

/-- Quads of a map, each with its die's row: a quad holds 16 channel cores where it lies on its die's outer row (R16, R90). -/
def quadChannels (b : Nat) : Nat := if b / 4 < 4 then (if b % 4 < 2 then 16 else 0) else (if b % 4 < 2 then 0 else 16)

/-- P of R40: the partition's compute cores, or its channel cores. -/
def partCores (s : State) (p : BitVec 3) (ch : Bool) : Nat :=
  let m := (getPart s p).map
  ((List.range 32).filter fun b => m.getLsbD b).foldl (fun n b => n + (if ch then quadChannels b else 128)) 0

/-- The chunk of R40 from `rem` records. -/
def chunkOf (rem min_ p : Nat) : Nat := min rem (max min_ ((rem + 2 * p - 1) / (2 * p)))

/-- Continuations of card `i` that are NEW; one STOPPED from NEW, to which state a release returns it, still counts until it is first selected. (Log 41: DEDUCED) -/
def freshOf (s : State) (i : Nat) : Nat := s.hub.conts.countP fun c => c.card == some i && c.fresh

/-- AFFINITY of a chunk (R41). -/
def affinityOf (s : State) (x : BitVec 512) (arg : Nat) : BitVec 56 :=
  if cardAff x = 0xFF then 0#56
  else match hubRead s (cardOwner x) (arg + 8 * cardAff x) 8 with
    | some y => BitVec.ofNat 56 y
    | none => 0#56

/-- Reading AFFINITY accesses its page (R52), and is an access of the dealer (R311). -/
def touchAffinity (x : BitVec 512) (arg : Nat) (s : State) : State :=
  let a := arg + 8 * cardAff x
  if cardAff x = 0xFF then s
  else if (hubRead s (cardOwner x) a 8).isNone then lockHeap a s
  else match hubAccess s (cardOwner x) a [.I] with
    | .ok k => touchPage false a (noteSpan (hubOpen 1 k false) 8 k s)
    | .error _ => s

/-- The record of a dealt chunk of `n` records from record `first` (R40 to R42); RCLASS is its virtual device's (R91). -/
def chunkRec (s : State) (c : Card) (first n : Nat) : Rec :=
  let x := c.bits
  let arg := cardBaseArg x + first * cardStride x
  { cwref := cardCw x, stride := BitVec.ofNat 12 (cardStride x), ch := cardCh x, job := c.addr, narg := BitVec.ofNat 28 n, groups := cardGroups x,
    affinity := affinityOf s x arg, ngrp := BitVec.ofNat 3 (cardNgrp x), arg := BitVec.ofNat 56 arg, rclass := (vdevOf s c.vdev).rclass, prio := cardPrio x }

/-- DEAL_CHUNK (R40, R449): the dealer cuts the next chunk of card `card`. It needs a RUNNING card of an open or draining queue, a resident virtual device (R84),
records left, fewer than P continuations NEW, an entry of the spawn ring and room in the event ring (R101). A draining queue deals nothing new (R88). (Log 41: DEDUCED) -/
def execDealChunk (card : Nat) (s : State) : Out :=
  match cardAt s card with
  | none => .next s
  | some c =>
    let p := (vdevOf s c.vdev).part
    let cores := partCores s p (cardCh c.bits)
    if c.st ≠ .running ∨ cardCount c.bits ≤ c.dealt ∨ (queueOf s c.vdev c.queue).st ≠ .open_ ∨ (vdevOf s c.vdev).resident = false ∨ cores ≤ freshOf s card
        ∨ ringFull (getPart s p) then .next s
    else match spawnEntry s p with
      | none => .next s
      | some (record, chrys) =>
        let n := chunkOf (cardCount c.bits - c.dealt) (cardMin c.bits) cores
        let s1 := createCont p record chrys (chunkRec s c c.dealt n) (cardOwner c.bits) (cardEntry c.bits) c.vdev c.queue c.launch (some card)
          (touchAffinity c.bits (cardBaseArg c.bits + c.dealt * cardStride c.bits) s)
        .next (modCard card (fun c => { c with dealt := c.dealt + n }) s1)

/-- DEPENDENCE_SATISFIED (R38): a PENDING card whose dependences are all satisfied moves to RUNNING. -/
def execDependenceSatisfied (card : Nat) (s : State) : Out :=
  let s1 := noteDeps s
  match cardAt s1 card with
  | none => .next s
  | some c => if c.st = .pending ∧ depsMet c then .next (startCard card s1) else .next s1

/-- DEPENDENCE_FAILED (R38): a PENDING card with a failed dependence is cancelled. -/
def execDependenceFailed (card : Nat) (s : State) : Out :=
  let s1 := noteDeps s
  match cardAt s1 card with
  | none => .next s
  | some c => if c.st = .pending ∧ c.depBad ≠ 0#4 then .next (cancelCard card s1) else .next s1

/-- GENERATION_COMPLETE (R344): the group engine completes a generation whose condition holds. -/
def execGenerationComplete (lnch grp : Nat) (s : State) : Out := .next (checkGen lnch (BitVec.ofNat 8 grp) s)

end Sys2Proof.Machine
end

