-- ==== Sys2Proof/Machine/Endings.lean ====
section
/-! DEFINITION. What the ending of a continuation leaves (R255, R349, R416 to R420, R139): EXITED, TORN and CANCELLED. -/

namespace Sys2Proof.Machine

/-! ### Work left in flight -/

/-- `d` in place of chrysalis address `c`. -/
def renameCtx (c d x : BitVec 56) : BitVec 56 := if x = c then d else x

/-- Puts `d` in place of an ended context in the work that a core still carries out for it: its completions are discarded when they arrive (R139). -/
def orphanCore (c d : BitVec 56) (k : Core) : Core :=
  { k with
    log := k.log.map fun e => e.map fun (x : LogEntry) => { x with ctx := renameCtx c d x.ctx }
    journal := k.journal.map fun e => e.map fun (x : JnlEntry) => { x with ctx := renameCtx c d x.ctx }
    divs := k.divs.map fun (x : Divide) => { x with ctx := renameCtx c d x.ctx }
    fetches := k.fetches.map fun (x : Fetch) => { x with ctx := renameCtx c d x.ctx }
    copies := k.copies.map fun (x : Copy) => { x with ctx := renameCtx c d x.ctx }
    galley := { k.galley with entries := k.galley.entries.map fun (x : PressEntry) => { x with ctx := renameCtx c d x.ctx } } }

/-- The same for a tile's table requests, a viceroy's substitutions and open executions, and a stack galley's entries. -/
def orphanTile (c d : BitVec 56) (t : Tile) : Tile := { t with tq := t.tq.map fun (x : TableReq) => { x with ctx := renameCtx c d x.ctx } }
def orphanViceroy (c d : BitVec 56) (v : Viceroy) : Viceroy :=
  { v with substs := v.substs.map (fun (x : Subst) => { x with ctx := renameCtx c d x.ctx }), execs := v.execs.filter fun (x : OpenExec) => x.ctx != c }
def orphanStack (c d : BitVec 56) (g : StackGalley) : StackGalley :=
  { g with entries := g.entries.map fun (x : StackEntry) => { x with by_ := x.by_.map fun (u, y) => (u, renameCtx c d y) } }

/-- The same for a revocation whose acknowledgements are awaited. -/
def orphanShoot (c d : BitVec 56) (x : Shoot) : Shoot :=
  { x with for_ := match x.for_ with
    | .revoke u y r t => .revoke u (renameCtx c d y) r t
    | .rdrop u y => .rdrop u (renameCtx c d y)
    | .rfree => .rfree }

/-- Takes an ended context out of everything still in flight. -/
def orphan (c d : BitVec 56) (s : State) : State :=
  { s with
    core := orphanCore c d s.core
    others := s.others.map fun (u, k) => (u, orphanCore c d k)
    tiles := s.tiles.map fun (u, t) => (u, orphanTile c d t)
    quads := s.quads.map fun (u, v) => (u, orphanViceroy c d v)
    galleys := s.galleys.map fun (u, g) => (u, orphanStack c d g)
    net := s.net.map fun (m : NetMsg) => { m with src := renameCtx c d m.src }
    races := s.races.map fun (a : OpenAccess) => if a.agent = c.toNat then { a with agent := d.toNat } else a
    hub := { s.hub with shoots := s.hub.shoots.map (orphanShoot c d) } }

/-! ### Quires of an ended context (R255, R419) -/

/-- Publishes the slot that a context holds reserved in a quire, and releases the one it holds acquired (R255). -/
def yieldQuire (h : BitVec 56) (q : Quire) : Quire :=
  let q1 := match heldSlot q h .reserved with | some i => publishSlot q i | none => q
  match heldSlot q1 h .acquired with | some i => releaseSlot q1 i | none => q1

/-- Applies a change to every quire of a unit. -/
def mapQuires (f : Quire → Quire) (u : Nat) (s : State) : State :=
  (List.range 16).foldl (fun s n => let q := quireOf s u n; if f q = q then s else setQuire u n (f q) s) s

/-- Units whose cores differ from a core at reset, the one in focus included. -/
def liveUnits (s : State) : List Nat := s.cur :: s.others.map (·.1)

/-- R255 on every quire of the device. -/
def yieldQuires (h : BitVec 56) (s : State) : State := (liveUnits s).foldl (fun s u => mapQuires (yieldQuire h) u s) s

/-- A quire that a context configured and that is not yet RETIRED. -/
def retires (h : BitVec 56) (q : Quire) : Bool := q.cfg && q.holder == h && !q.retired

/-- Marks RETIRED the quires of unit `u` that a context configured, and releases their rings' bytes (R419). -/
def retireQuires (h : BitVec 56) (u : Nat) (s : State) : State :=
  let rings := ((getCore s u).quires.toList.filter (retires h)).map ringSpan
  let s1 := modCore s u fun c => { c with freed := c.freed ++ rings }
  mapQuires (fun q => if retires h q then retireCheck { q with retired := true } else q) u s1

/-! ### The ending itself (R416, R417) -/

/-- Makes the energy count final: written to the image, and its COUNT added to ACCT_E (R417). -/
def finalEnergy (v : Option Nat) (c : Ctx) (s : State) : State :=
  let s1 := devPut s (c.rcd.chrys.toNat + 0x5E8) 8 (energyWord c.ctl)
  match v with
  | some v =>
    let t := min (2 ^ 64 - 1) ((tabGet 0#64 s.hub.acct.total v).toNat + c.ctl.energy / 4096)
    setHub s1 { s1.hub with acct := { s1.hub.acct with total := tabSet 0#64 s1.hub.acct.total v (BitVec.ofNat 64 t) } }
  | none => s1

/-- STATE of a record (R42). -/
def putState (record : BitVec 56) (st : ContState) (s : State) : State :=
  let x := devGet s (record.toNat + 7) 1
  devPut s (record.toNat + 7) 1 (x / 16 * 16 + contCode st)

/-- Steps before the completion update: held slots, LIVE and the energy count (R349, R416). -/
def endBefore (c : Ctx) (k : Option Cont) (s : State) : State :=
  let h := c.rcd.chrys
  let dead := deadCtx ((k.map (·.vdev)).getD 64)
  let s1 := yieldQuires h s
  let s2 := match k with | some x => leaveGroups x.launch h dead (recGroups c.rcd) s1 | none => s1
  finalEnergy (k.map (·.vdev)) c s2

/-- Writes a loaded context's lines to its image, as they stand at the final state (R138, R366). -/
def putLines (c : Ctx) (s : State) : State :=
  match devKey s c.rcd.chrys.toNat with
  | some key => touchPage true c.rcd.chrys.toNat { s with mem := storeImage s.mem key c }
  | none => s

/-- The context of a continuation that no slot has loaded, as its ending needs it; where its image cannot be read, what the dealer registered stands for it (R34, R416). -/
def endingCtx (s : State) (k : Cont) : Ctx :=
  (absentCtx s k.chrys).getD { rcd := { recOf (devGet s k.record.toNat 64) with chrys := k.chrys, narg := k.narg }, ctl := { record := k.record } }

/-- The completion update and the steps after it: DONE or LOST, RECORD := 0, STATE; the dealer's own record of the continuation ends (R34, R416). -/
def endAfter (c : Ctx) (k : Option Cont) (st : ContState) (s : State) : State :=
  let h := c.rcd.chrys
  let s1 := match k.bind (·.card) with
    | some i => endRecords i c.rcd.narg.toNat (st == .exited) (st == .torn) s
    | none => s
  let s2 := putState c.ctl.record st (devPut s1 (h.toNat + 0x5F0) 8 0)
  let s3 := orphan h (deadCtx ((k.map (·.vdev)).getD 64)) s2
  let s4 := (liveUnits s3).foldl (fun s u => retireQuires h u s) { s3 with asides := tabSet {} s3.asides h.toNat {} }
  endRegion (deadCtx ((k.map (·.vdev)).getD 64)).toNat (setHub s4 { s4.hub with conts := s4.hub.conts.filter fun x => x.chrys != h })

/-- The core's dropped count rises by `n`, saturating at 16 bits (R266). -/
def countMessages (u n : Nat) (s : State) : State :=
  modCore s u fun c => { c with dropped := BitVec.ofNat 16 (min 65535 (c.dropped.toNat + n)) }

/-- Binds a continuation into slot `i` of unit `u` (R97, R100): it goes to the end of its level. -/
def bindSlot (u i : Nat) (x : Incoming) (s : State) : State :=
  modCore s u fun c => { setSlot c i { sst := .bound, cont := x.cont, pin := x.pin, prio := x.prio, seqNo := c.starts, tag := x.tag, part := some x.part, turn := c.turns } with
    starts := c.starts + 1#32, turns := c.turns + 1 }

/-- Slot `i` of unit `u` becomes EMPTY, or BOUND where a START and EVICT record waits for it (R97, R98). -/
def emptySlot (u i : Nat) (s : State) : State :=
  let s1 := modCore s u fun c => { setSlot c i {} with resume := if c.resume = some (BitVec.ofNat 3 i) then none else c.resume }
  match ((getCore s u).slots.getD i {}).after with
  | some x => bindSlot u i x s1
  | none => s1

/-- The context of a continuation that is bound and not loaded. -/
def boundCtx (s : State) (record : BitVec 56) : Option Ctx :=
  match s.hub.conts.find? fun k => k.record == record with
  | some k => some (endingCtx s k)
  | none => absentCtx s (recOf (devGet s record.toNat 64)).chrys

/-- Ends the continuation in slot `i` of unit `u`, which is not issuing: messages left are discarded and counted, the slot goes EMPTY with an ENDED event (R98, R416). A BOUND slot
goes EMPTY by way of its load, as R98 has it. -/
def endSlot (u i : Nat) (st : ContState) (s : State) : State :=
  let sl := (getCore s u).slots.getD i {}
  let found := if sl.sst = .bound then boundCtx s sl.cont else some sl.ctx
  let s1 := match found with
    | none => s
    | some c =>
      let k := contAt s c.rcd.chrys
      let s1 := endAfter c k st (endBefore c k (if sl.sst = .bound then s else putLines c s))
      countMessages u (c.mailbox.length + c.ctl.mbaCnt.toNat) s1
  if sl.sst = .bound then s1
  else emptySlot u i (writeEventTo sl.part (eventOf (slotKind u 5) 0 sl.cont (coreNumber u) i sl.tag) s1)

/-- Ends a continuation that no slot holds; its ENDED event has CORE 0, SLOT 0 and TAG 0 (R416). -/
def endAbsent (k : Cont) (st : ContState) (s : State) : State :=
  let c := endingCtx s k
  let s1 := endAfter c (some k) st (endBefore c (some k) s)
  writeEvent (vdevOf s k.vdev).part (eventOf 5 0 k.record 0 0 0#32) s1

/-- The slot of a unit that a record occupies, loaded or bound (R97). -/
def slotOfRecord (c : Core) (record : BitVec 56) : Option Nat :=
  (List.range 8).find? fun i => (c.slots.getD i {}).sst != .empty && (c.slots.getD i {}).cont == record

/-- Where a record is bound: unit and slot. -/
def boundAt (s : State) (record : BitVec 56) : Option (Nat × Nat) :=
  (liveUnits s).findSome? fun u => (slotOfRecord (getCore s u) record).map fun i => (u, i)

/-- A record's continuation has started: its STATE, or PRE of a stopped one, is not NEW (R44). -/
def startedRec (r : Rec) : Bool := if r.state = .stopped then r.pre != .new else r.state != .new

/-- The same of a slot's continuation. -/
def startedIn (s : State) (sl : Slot) : Bool := startedRec (if sl.sst = .bound then recOf (devGet s sl.cont.toNat 64) else sl.ctx.rcd)

/-- TORN where the continuation has started, else CANCELLED (R44). -/
def tearState (started : Bool) : ContState := if started then .torn else .cancelled

end Sys2Proof.Machine
end

