-- ==== Sys2Proof/Machine/Galley.lean ====
section
/-! DEFINITION. Press descriptors (R289, R290, R293) and those of stack commands (R281): their fields, the cooperation set, and the pools that an entry writes. -/

namespace Sys2Proof.Machine

/-! ### Fields (R289) -/

def pdM (x : BitVec 512) : Nat := (x.extractLsb' 91 10).toNat
def pdN (x : BitVec 512) : Nat := (x.extractLsb' 101 11).toNat
def pdK (x : BitVec 512) : Nat := (x.extractLsb' 112 16).toNat
def pdAcco (x : BitVec 512) : Nat := (x.extractLsb' 128 19).toNat
def pdTmask (x : BitVec 512) : BitVec 4 := x.extractLsb' 148 4
def pdCmask (x : BitVec 512) : BitVec 8 := x.extractLsb' 152 8
def pdType (x : BitVec 512) : BitVec 4 := x.extractLsb' 87 4
def pdRm (x : BitVec 512) : BitVec 2 := x.extractLsb' 85 2
def pdSp (x : BitVec 512) : Nat := (x.extractLsb' 83 2).toNat
def pdClr (x : BitVec 512) : Bool := x.getLsbD 82
def pdZa (x : BitVec 512) : Bool := x.getLsbD 81

/-- The address records A, B, S and D: 0 to 3. -/
def pdRecord (x : BitVec 512) (i : Nat) : BitVec 64 := x.extractLsb' (192 + 64 * i) 64

/-- Fields of an address record (R290). -/
def arT (r : BitVec 64) : Bool := r.getLsbD 41
def arStride (r : BitVec 64) : Nat := (r.extractLsb' 22 19).toNat
def arCore (r : BitVec 64) : Nat := (r.extractLsb' 19 3).toNat
def arOffset (r : BitVec 64) : Nat := (r.extractLsb' 0 19).toNat

/-- The core of the issuing tile that a record names. -/
def arUnit (u : Nat) (r : BitVec 64) : Nat := u / 8 * 8 + arCore r

/-- A descriptor with its header written by the core (R289). -/
def withHeader (d : Nat) (seqNo : BitVec 32) (owner : BitVec 12) (op : BitVec 3) (kt : BitVec 4) : BitVec 512 :=
  BitVec.ofNat 512 (d / 2 ^ 64 * 2 ^ 64 + seqNo.toNat * 2 ^ 32 + owner.toNat * 2 ^ 20 + op.toNat * 2 ^ 17 + kt.toNat * 2 ^ 13)

/-! ### The cooperation set (R293) -/

/-- Members, in increasing core number. -/
def pdMembers (u : Nat) (x : BitVec 512) : List Nat :=
  if pdTmask x = 0#4 ∧ pdCmask x = 0#8 then [u]
  else (List.range 4).flatMap fun i => if (pdTmask x).getLsbD i then ((List.range 8).filter fun c => (pdCmask x).getLsbD c).map fun c => (u / 8 / 4 * 4 + i) * 8 + c else []

/-- Block rows and columns of the result. -/
def pdBlockRows (x : BitVec 512) : Nat := (pdM x + 127) / 128
def pdBlockCols (x : BitVec 512) : Nat := (pdN x + 127) / 128
def pdBlocks (x : BitVec 512) : Nat := pdBlockRows x * pdBlockCols x

/-- The pools that an entry of unit `u` writes. -/
def entryPools (u : Nat) (e : PressEntry) : List Nat := pdMembers u e.desc ++ if e.op = 3#3 then [arUnit u (pdRecord e.desc 3)] else []

/-- A galley entry of any core writes the pool of unit `u` (R244). -/
def galleysInto (s : State) (u : Nat) : Bool := (liveUnits s).any fun w => (getCore s w).galley.entries.any fun e => (entryPools w e).contains u

/-! ### Descriptors of stack commands (R281) -/

def sdDst (x : BitVec 512) : Nat := (x.extractLsb' 0 64).toNat
def sdSrcA (x : BitVec 512) : Nat := (x.extractLsb' 64 64).toNat
def sdSrcB (x : BitVec 512) : Nat := (x.extractLsb' 128 64).toNat
def sdLen (x : BitVec 512) : Nat := (x.extractLsb' 192 64).toNat
def sdTok (x : BitVec 512) : Bool := x.getLsbD 279
def sdRop (x : BitVec 512) : BitVec 2 := x.extractLsb' 280 2
def sdRm (x : BitVec 512) : BitVec 2 := x.extractLsb' 282 2
def sdType (x : BitVec 512) : BitVec 4 := x.extractLsb' 284 4
def sdBstr (x : BitVec 512) : Nat := (x.extractLsb' 288 48).toNat
def sdCols (x : BitVec 512) : Nat := (x.extractLsb' 336 16).toNat
def sdRows (x : BitVec 512) : Nat := (x.extractLsb' 352 32).toNat
def sdValue (x : BitVec 512) : BitVec 64 := x.extractLsb' 384 64
def sdCwa (x : BitVec 512) : Nat := (x.extractLsb' 448 64).toNat

/-- The unit whose private alias an entry's operands may name; a hart has none (R284). -/
def entryUnit (e : StackEntry) : Nat := match e.by_ with | some (u, _) => u | none => 0

/-- Bytes that a command writes into a pool: SEGMV, SECMP and SERED do (R283). -/
def stackOut (e : StackEntry) : Nat :=
  match e.op.toNat with
  | 0 => sdRows e.desc * (elemWidth (sdType e.desc) / 8)
  | 3 => 8
  | 4 => max 1 (elemWidth (sdType e.desc) / 8)
  | _ => 0

/-- A stack command that is not complete writes the pool of unit `u` (R244, R245, R283). -/
def stackInto (s : State) (u : Nat) : Bool :=
  s.galleys.any fun g => g.2.entries.any fun e => stackOut e != 0 && (List.range (stackOut e / 0x40000 + 2)).any fun i =>
    match place (isCompute (entryUnit e)) (min (sdDst e.desc + 0x40000 * i) (sdDst e.desc + stackOut e - 1)) with
    | .priv _ => e.by_.isSome && entryUnit e == u
    | .pool w _ => w == u
    | _ => false

end Sys2Proof.Machine
end

