-- ==== Sys2Proof/Machine/CopyShape.lean ====
section
/-! DEFINITION. The shape of a copy (R256, R258, R260, R261, R278, R279): its flags, its rows and bytes, where each byte comes from and goes to, the pools it writes. -/

namespace Sys2Proof.Machine

/-! ### Fields of COPY_FLAGS (R256) -/

def flMsg (f : BitVec 23) : Bool := f.getLsbD 0
def flKen (f : BitVec 23) : Bool := f.getLsbD 1
def flK (f : BitVec 23) : BitVec 4 := f.extractLsb' 2 4
def flTr (f : BitVec 23) : Nat := (f.extractLsb' 6 2).toNat
def flMc (f : BitVec 23) : Bool := f.getLsbD 8
def flQc (f : BitVec 23) : Bool := f.getLsbD 9
def flQa (f : BitVec 23) : Bool := f.getLsbD 10
def flQnum (f : BitVec 23) : Nat := (f.extractLsb' 12 4).toNat
def flTagset (f : BitVec 23) : Bool := f.getLsbD 16
def flFmt (f : BitVec 23) : BitVec 4 := f.extractLsb' 17 4
def flBlk (f : BitVec 23) : BitVec 2 := f.extractLsb' 21 2

/-! ### Shape (R258, R278, R279) -/

/-- Field of dimension `i` of a tensor map (R278). -/
def mapField (t : List Byte) (i lo n : Nat) : Nat := bits (leNat ((t.drop (16 * i)).take 16)) lo n
/-- E of a tensor map. -/
def mapE (t : List Byte) : Nat := 2 ^ mapField t 0 112 2
/-- CNT of a dimension; 0 is taken as 1. -/
def mapCnt (t : List Byte) (i : Nat) : Nat := max 1 (mapField t i 32 16)

/-- A signed field. -/
def signedOf (x n : Nat) : Int := if x < 2 ^ (n - 1) then x else (x : Int) - 2 ^ n

/-- COPY_MAP names a tensor map (R277). -/
def mapUsed (u : Nat) (c : Copy) : Bool := !isCompute u && c.regs.map != 0#64

/-- Rows of a copy. -/
def copyRows (c : Copy) : Nat :=
  match c.tmap with
  | some t => mapCnt t 1 * mapCnt t 2 * mapCnt t 3
  | none => max 1 c.regs.shape.toNat
/-- Bytes of a row. -/
def copyRowLen (c : Copy) : Nat :=
  match c.tmap with
  | some t => mapCnt t 0 * mapE t
  | none => c.regs.len.toNat
/-- Beats of a row, and of the copy; a TAGSET copy of no bytes takes one (R247). -/
def copyRowBeats (c : Copy) : Nat := (copyRowLen c + 63) / 64
def copyBeats (c : Copy) : Nat := if copyRowLen c = 0 then boolNat (flTagset c.regs.flags) else copyRows c * copyRowBeats c

/-- c_i of R279 for position `j` of dimension `i`. -/
def mapCoord (c : Copy) (t : List Byte) (i j : Nat) : Int :=
  signedOf (mapField t i 16 16) 16 + j * mapField t i 48 8 + signedOf (bits c.regs.sta.toNat (8 * i) 8) 8 * mapField t i 56 8

/-- Source address of byte `i` of row `r`; none where a mapped copy fills with zero (R258, R279). -/
def copySrc (c : Copy) (r i : Nat) : Option Word :=
  match c.tmap with
  | none => some (c.regs.src + BitVec.ofNat 64 r * c.regs.sta + BitVec.ofNat 64 i)
  | some t =>
    let e := mapE t
    let c0 := mapCoord c t 0 (i / e)
    let c1 := mapCoord c t 1 (r % mapCnt t 1)
    let c2 := mapCoord c t 2 (r / mapCnt t 1 % mapCnt t 2)
    let c3 := mapCoord c t 3 (r / (mapCnt t 1 * mapCnt t 2))
    let inside (x : Int) (d : Nat) : Bool := decide (0 ≤ x) && decide (x < mapField t d 0 16)
    if inside c0 0 && inside c1 1 && inside c2 2 && inside c3 3 then
      some (c.regs.src + BitVec.ofNat 64 (c0.toNat * e + c1.toNat * mapField t 1 64 48 + c2.toNat * mapField t 2 64 48 + c3.toNat * mapField t 3 64 48 + i % e))
    else none

/-- Destination of byte `i` of row `r` from a base address (R258). -/
def copyDst (c : Copy) (base : Word) (r i : Nat) : Word :=
  let e := flTr c.regs.flags
  if e = 1 ∨ e = 2 then base + BitVec.ofNat 64 (i / e) * c.regs.stb + BitVec.ofNat 64 (r * e + i % e)
  else base + BitVec.ofNat 64 r * c.regs.stb + BitVec.ofNat 64 i

/-- Rows and byte indexes of a copy, in order. -/
def copyBytes (c : Copy) : List (Nat × Nat) := (List.range (copyRows c)).flatMap fun r => (List.range (copyRowLen c)).map fun i => (r, i)

/-- Those of beat `k`. -/
def beatBytes (c : Copy) (k : Nat) : List (Nat × Nat) :=
  let r := k / max 1 (copyRowBeats c)
  let off := k % max 1 (copyRowBeats c) * 64
  (List.range (min 64 (copyRowLen c - off))).map fun i => (r, off + i)

/-- The unit and pool offset that an address names for unit `u`. -/
def poolPlace (u : Nat) (a : Word) : Option (Nat × Nat) :=
  match place (isCompute u) a.toNat with
  | .priv off => some (u, off)
  | .pool w off => some (w, off)
  | _ => none

/-! ### Destinations (R244, R260, R261) -/

/-- Cores that a multicast set names (R261). -/
def setTiles (x : Nat) : List Nat :=
  (List.range 8).flatMap fun y => ((List.range 8).filter fun t => decide (bits x 6 3 ≤ t ∧ t ≤ bits x 9 3 ∧ bits x 12 3 ≤ y ∧ y ≤ bits x 15 3)).map fun t =>
    bits x 18 3 * 64 + y * 8 + t
/-- Cores of a tile that CMASK names. -/
def tileCores (x tile : Nat) : List Nat := ((List.range 8).filter fun c => bitAt x (24 + c)).map fun c => tile * 8 + c

/-- The base of a copy's destination: for QA its slot's start, by the kind of alias that COPY_DST is, else COPY_DST (R260). -/
def slotBase (s : State) (c : Copy) (h q i : Nat) : Word :=
  let off := (quireOf s h q).base.toNat + 32 * (quireOf s h q).slotB.toNat * i
  BitVec.ofNat 64 (match place (isCompute h) c.regs.dst.toNat with | .priv _ => off | _ => coreBase h + off)
/-- The same for the slot that a copy has. QC and QA together: the bytes go to the slot's start, as QA has them, and are checked at COPY_DST, as QC has it. (Log 66: DESIGN CHOICE) -/
def copyBase (s : State) (c : Copy) : Word :=
  match c.slot with
  | some (h, q, i) => if flQa c.regs.flags then slotBase s c h q i else c.regs.dst
  | none => c.regs.dst

/-- A copy of unit `w` writes the pool of unit `u`: one of a multicast's cores, or that of any destination byte. -/
def copyInto (s : State) (w : Nat) (c : Copy) (u : Nat) : Bool :=
  if flMc c.regs.flags && isCompute w then ((setTiles c.regs.map.toNat).flatMap (tileCores c.regs.map.toNat)).contains u
  else ((c.regs.dst :: (copyBytes c).map fun (r, i) => copyDst c (copyBase s c) r i).any fun a => match poolPlace w a with | some (v, _) => v == u | none => false)

end Sys2Proof.Machine
end

