-- ==== Sys2Proof/Machine/Slots.lean ====
section
/-! DEFINITION. Slots (R90, R93 to R102, R109, R270, R374): switch points, loading, selection and write-back, bind records, partition maps,
and the partition word of a pool (R243 to R245). -/

namespace Sys2Proof.Machine

/-! ### Switch points (R99) -/

/-- A stop or a halt group holds the core. -/
def haltedCore (c : Core) : Bool := c.haltStop || c.haltGroup

/-- The core is at a switch point (R99): no fixed-latency result is outstanding, DLY and SC have elapsed, and no WAIT or answer holds issue. (Log 20: DEDUCED) -/
def atSwitch (now : Nat) (c : Core) : Bool :=
  c.released && (haltedCore c || (decide (c.nextIssue ≤ now) && (c.issuing.isNone || (c.ctx.pend.isEmpty && (c.holdSince.isNone || c.holdSwitch)))))

/-- Slot `i` of a core. -/
def slotOf (c : Core) (i : Nat) : Slot := c.slots.getD i {}

/-- The context of slot `i`, which is the core's own while it issues from the slot. -/
def slotCtx (c : Core) (i : Nat) : Ctx := if c.issuing = some (BitVec.ofNat 3 i) ∧ i < 8 then c.ctx else (slotOf c i).ctx

/-! ### Loading (R44, R98, R374) -/

/-- Messages of an image's mailbox area, in order (R373). -/
def areaMessages (m : List Host.Cell) (key head cnt : Nat) : List (BitVec 128) :=
  (List.range cnt).map fun i => BitVec.ofNat 128 (getLe m (key + 0x600 + 16 * ((head + i) % 32)) 16)

/-- Messages of the issuing context that wait in its image's mailbox area: they arrived by a handle of a slot that it has left (R373). -/
def waitingArea (s : State) : List (BitVec 128) :=
  match devKey s (me s).toNat with
  | some key => areaMessages s.mem key s.core.ctx.ctl.mbaHead.toNat s.core.ctx.ctl.mbaCnt.toNat
  | none => []

/-- The messages that the issuing context can receive: its slot mailbox, then those that wait in the area (R374, R388). (Log 60: DEDUCED) -/
def inbox (s : State) : List (BitVec 128) := s.core.ctx.mailbox ++ waitingArea s

/-- The context after the first of those messages has been taken. (Log 60: DEDUCED) -/
def takeInbox (s : State) : State :=
  match s.core.ctx.mailbox with
  | _ :: ms => setCtx s { s.core.ctx with mailbox := ms }
  | [] => setCtx (touchPage false (me s).toNat s) { s.core.ctx with mailbox := (waitingArea s).tail, ctl := { s.core.ctx.ctl with mbaCnt := 0#6 } }

/-- Writes messages into an image's mailbox area from MBA_HEAD (R373, R374). -/
def putArea (m : List Host.Cell) (key head : Nat) : List (BitVec 128) → List Host.Cell
  | [] => m
  | x :: xs => putArea (setLe m (key + 0x600 + 16 * (head % 32)) 16 x.toNat) key (head + 1) xs

/-- The registers of a first run (R44, R343); g10 of a spawned child, whose record has JOB and STRIDE 0, holds what SPAWN wrote into the image. (Log 14: DEDUCED) -/
def firstRegs (r : Rec) (record : BitVec 56) (a2 : Word) : RegSet :=
  { g := (((Vector.replicate 32 0#64).set 3 (record.setWidth 64)).set 8 (r.arg.setWidth 64)).set 9 (r.narg.setWidth 64)
      |>.set 10 (if r.job = 0#56 ∧ r.stride = 0#12 then a2 else r.stride.setWidth 64)
    m := (Vector.replicate 8 0#32).set 0 (BitVec.allOnes 32) }

/-- A continuation that has not run: NEW, or STOPPED from NEW (R44). -/
def unstarted (r : Rec) : Bool := r.state == .new || (r.state == .stopped && r.pre == .new)

/-- The context that a record and its image hold. An image that cannot be placed reads as zeros, and every line is read at the load. (Log 9: DESIGN CHOICE, 14: DEDUCED, 72: DESIGN CHOICE) -/
def loadCtx (s : State) (record : BitVec 56) : Ctx :=
  let x := devGet s record.toNat 64
  let r := recOf x
  let key := (devKey s r.chrys.toNat).getD 0
  let m := if (devKey s r.chrys.toNat).isSome then s.mem else []
  let a := tabGet {} s.asides r.chrys.toNat
  let ctl := loadCtl m key (recOwner x)
  { regs := if unstarted r then firstRegs r record (BitVec.ofNat 64 (getLe m (key + 80) 8)) else loadRegs m key
    ctl := { ctl with mbaCnt := 0#6 }, rcd := r, codePc := recPc x, window := loadWindow m key
    mailbox := areaMessages m key ctl.mbaHead.toNat ctl.mbaCnt.toNat
    why := a.why, uncov := a.uncov, blockedAt := a.blockedAt, accepted := a.accepted }

/-- A STOPPED continuation without FSTOP returns to PRE (R44). -/
def releaseCtx (c : Ctx) : Ctx :=
  if c.rcd.state = .stopped ∧ c.rcd.fstop = false then { c with rcd := { c.rcd with state := c.rcd.pre } } else c

/-- The core maps the PC of the context it loads: the trap that RESOLVE names for it, if any (R109). -/
def loadTrap (k : Core) (c : Ctx) (s : State) : Option Cause :=
  match resolve { s with core := { k with ctx := c } } (c.codePc.setWidth 64) with
  | .ok _ => none
  | .error e => some e

/-- A loaded context that takes the trap of R109 before it issues anything: it stands at the handler, or is STOPPED with FSTOP where it was in steward mode (R357, R365). (Log 58: DEDUCED) -/
def trapLoaded (k : Core) (e : Cause) (c : Ctx) : Ctx :=
  if c.ctl.steward then { c with rcd := { c.rcd with state := .stopped, pre := .running, fstop := true } }
  else { handlerCtx { async := false, reason := 0#8, code := e.1 } e.2 c.codePc {} c with codePc := (segOf k 15#4).base ++ 0#12 }

/-- The context of slot `i` maps its PC as it is loaded (R109); a fault in steward mode writes a FAULT event (R365). (Log 58: DEDUCED) -/
def mapLoaded (u i : Nat) (s : State) : State :=
  let k := getCore s u
  let sl := slotOf k i
  match loadTrap k sl.ctx s with
  | none => s
  | some e =>
    if sl.ctx.rcd.fstop then s
    else
      let s1 := endRegion sl.ctx.rcd.chrys.toNat (setCore s u (setSlot k i { sl with ctx := trapLoaded k e sl.ctx }))
      if sl.ctx.ctl.steward then writeEventTo sl.part (eventOf (slotKind u 7) 0 sl.cont (coreNumber u) i (e.1.setWidth 32)) s1 else s1

/-- A slot whose continuation is found in a final state as it is loaded goes EMPTY with its ENDED event (R98). -/
def emptyEnded (u i : Nat) (s : State) : State :=
  let sl := slotOf (getCore s u) i
  emptySlot u i (writeEventTo sl.part (eventOf (slotKind u 5) 0 sl.cont (coreNumber u) i sl.tag) s)

/-- Loads a BOUND slot (R98): the record and image are read, the PC is mapped; a continuation that was ended while it was bound leaves the slot at once. -/
def loadSlot (u i : Nat) (s : State) : State :=
  let sl := slotOf (getCore s u) i
  let c := loadCtx s sl.cont
  let c1 := if haltedCore (getCore s u) then c else releaseCtx c
  let s1 := touchPage false c.rcd.chrys.toNat (touchPage false sl.cont.toNat { s with asides := tabSet {} s.asides c.rcd.chrys.toNat {} })
  let s2 := modCore s1 u fun k => setSlot k i { sl with sst := .loaded, ctx := c1 }
  let s3 := writeEventTo sl.part (eventOf (slotKind u 3) 0 sl.cont (coreNumber u) i sl.tag) s2
  if isFinal c.rcd.state then emptyEnded u i s3 else mapLoaded u i s3

/-- SLOT_LOAD (R98): at a switch point, a BOUND slot is loaded. -/
def execSlotLoad (u slot : Nat) (s : State) : Out :=
  if slot < 8 ∧ atSwitch s.gtc (getCore s u) ∧ (slotOf (getCore s u) slot).sst = .bound then .next (loadSlot u slot s) else .next s

/-! ### Selection (R44, R100, R109) -/

/-- A slot that the core may issue from. -/
def selectable (c : Core) (i : Nat) : Bool :=
  let st := (slotCtx c i).rcd.state
  (slotOf c i).sst == .loaded && (st == .new || st == .ready || st == .running)

/-- The better of two slots: higher priority, then the earlier turn. -/
def betterSlot (c : Core) (i j : Nat) : Nat :=
  let a := slotOf c i
  let b := slotOf c j
  if a.prio.toNat < b.prio.toNat then j else if b.prio.toNat < a.prio.toNat then i else if b.turn < a.turn then j else i

/-- The slot that R100 takes from those of a list. -/
def bestSlot (c : Core) : List Nat → Option Nat
  | [] => none
  | i :: is => if selectable c i then (match bestSlot c is with | some j => some (betterSlot c i j) | none => some i) else bestSlot c is

/-- The slot that the core should switch to now: nothing issues, or a slot of higher priority is selectable (R100). The slot that a stop or a halt found issuing goes on where
none of higher priority is selectable: R100 has no re-selection for it. -/
def wantSlot (c : Core) : Option Nat :=
  match c.issuing with
  | none => match bestSlot c (List.range 8), c.resume with
    | some i, some j => some (if selectable c j.toNat && !decide ((slotOf c j.toNat).prio.toNat < (slotOf c i).prio.toNat) then j.toNat else i)
    | b, _ => b
  | some j => match bestSlot c (List.range 8) with
    | some i => if (slotOf c j.toNat).prio.toNat < (slotOf c i).prio.toNat ∨ selectable c j.toNat = false then some i else none
    | none => none

/-- SLICE of the partition that a unit lies in; a fabric channel core has none. -/
def sliceOf (s : State) (u : Nat) : Nat :=
  match partOf s u with
  | some p => (getPart s p).slice.toNat
  | none => 0

/-- The slot of equal priority that takes over at the end of the slice (R100), whose cycles are counted from the selection: the 4 of the switch are among them. (Log 13: DEDUCED) -/
def sliceSlot (s : State) (u : Nat) : Option Nat :=
  let c := getCore s u
  match c.issuing with
  | none => none
  | some j =>
    if sliceOf s u = 0 ∨ s.gtc < c.selectedAt + sliceOf s u then none
    else bestSlot c ((List.range 8).filter fun i => i ≠ j.toNat && (slotOf c i).prio == (slotOf c j.toNat).prio)

/-- The issuing slot is switched away from: RUNNING becomes READY and it goes to the end of its level (R44, R100). -/
def switchAway (s : State) : State :=
  match s.core.issuing with
  | none => s
  | some _ => leaveToEnd (setCtx (endRegion (me s).toNat s) { s.core.ctx with rcd := { s.core.ctx.rcd with state := if s.core.ctx.rcd.state = .running then .ready else s.core.ctx.rcd.state } })

/-- A dealt or spawned continuation is no longer NEW (R40). -/
def notFresh (chrys : BitVec 56) (s : State) : State :=
  setHub s { s.hub with conts := s.hub.conts.map fun (k : Cont) => if k.chrys = chrys then { k with fresh := false } else k }

/-- The selected slot maps its PC, or takes the trap that RESOLVE names, at that instruction (R109). -/
def mapPc (i : Nat) (s : State) : State :=
  let pc := s.core.ctx.codePc
  match resolve s (pc.setWidth 64) with
  | .ok p => setCtx s { s.core.ctx with pc := p }
  | .error c =>
    let s1 := takeTrapAt pc c s
    if steward s then { s1 with core := setSlot s1.core i { slotOf s1.core i with ctx := { (slotOf s1.core i).ctx with codePc := pc } } } else s1

/-- A continuation that is RUNNING in a slot the core does not issue from becomes READY as the core selects another slot (R44). -/
def demoteSlot (sl : Slot) : Slot :=
  if sl.ctx.rcd.state = .running then { sl with ctx := { sl.ctx with rcd := { sl.ctx.rcd with state := .ready } } } else sl

/-- The cycle from which a core issues from slot `i`: a switch costs 4 issue cycles, but the slot that a stop found issuing resumes as it stood (R99, R183). -/
def switchTime (now : Nat) (i : Nat) (c : Core) : Nat := if c.resume = some (BitVec.ofNat 3 i) then max now c.nextIssue else now + 4

/-- The cycle from which the slice of slot `i` counts: a slot that goes on after a stop has issued for as long as it had (R100). -/
def sliceStart (now : Nat) (i : Nat) (c : Core) : Nat := if c.resume = some (BitVec.ofNat 3 i) then now - c.ranFor else now

/-- The core in focus selects slot `i` (R99, R100). (Log 13: DEDUCED) -/
def selectSlot (i : Nat) (s : State) : State :=
  let s1 := switchAway s
  let c := (slotOf s1.core i).ctx
  let s2 := if c.rcd.state = .new then notFresh c.rcd.chrys s1 else s1
  let k := { s2.core with slots := s2.core.slots.map demoteSlot, issuing := some (BitVec.ofNat 3 i), ctx := { c with rcd := { c.rcd with state := .running } }, nextIssue := switchTime s2.gtc i s.core,
                          selectedAt := sliceStart s2.gtc i s.core, holdSince := none, holdSwitch := false, resume := none, accepted := c.accepted, answer := none, asked := none }
  mapPc i { s2 with core := k }

/-- SLOT_SELECT (R100): at a switch point the core selects by priority and round-robin. (Log 13: DEDUCED) -/
def execSlotSelect (u : Nat) (s : State) : Out :=
  let c := getCore s u
  if atSwitch s.gtc c ∧ haltedCore c = false then
    match wantSlot c with
    | some i => .next (focus (selectSlot i (focus s u)) s.cur)
    | none => .next s
  else .next s

/-- SLICE_EXPIRY (R100): the issuing slot has issued for SLICE cycles and another of equal priority is selectable. -/
def execSliceExpiry (u : Nat) (s : State) : Out :=
  let c := getCore s u
  if atSwitch s.gtc c ∧ haltedCore c = false then
    match sliceSlot s u with
    | some i => .next (focus (selectSlot i (focus s u)) s.cur)
    | none => .next s
  else .next s

/-! ### Write-back (R98, R374) -/

/-- Writes a context back to its image and record: the mailbox's messages move into the area ahead of those that have arrived there since. -/
def writeBack (c : Ctx) (s : State) : State :=
  let st := if c.rcd.state = .running then .ready else c.rcd.state
  match devKey s c.rcd.chrys.toNat with
  | none => putRecord (putCtxImage s c.rcd.chrys c) { c with rcd := { c.rcd with state := st } }
  | some key =>
    let msgs := c.mailbox ++ areaMessages s.mem key c.ctl.mbaHead.toNat c.ctl.mbaCnt.toNat
    let c1 := { c with mailbox := [], rcd := { c.rcd with state := st }, ctl := { c.ctl with mbaCnt := BitVec.ofNat 6 msgs.length } }
    putRecord (putCtxImage { s with mem := putArea s.mem key c.ctl.mbaHead.toNat msgs } c.rcd.chrys c1) c1

/-- Writes slot `i` of the core in focus back, which ends its sync region (R321); the slot goes EMPTY, or BOUND where a record waits for that (R97). -/
def evictSlot (i : Nat) (s : State) : State :=
  let s1 := if s.core.issuing = some (BitVec.ofNat 3 i) then leaveSlot s else s
  let sl := slotOf s1.core i
  let s2 := endRegion sl.ctx.rcd.chrys.toNat (writeBack (flush sl.ctx) s1)
  emptySlot s2.cur i (writeEventTo sl.part (eventOf (slotKind s.cur 4) 0 sl.cont (coreNumber s.cur) i sl.evTag) s2)

/-- EVICT_WRITEBACK (R98): at a switch point an EVICTING slot is written back. -/
def execEvictWriteback (u slot : Nat) (s : State) : Out :=
  if slot < 8 ∧ atSwitch s.gtc (getCore s u) ∧ (slotOf (getCore s u) slot).sst = .evicting then .next (focus (evictSlot slot (focus s u)) s.cur) else .next s

/-! ### Bind records (R95 to R97, R270) -/

/-- Physical address of record `i` of a partition's bind ring, or its channel bind ring. -/
def bindAddr (p : BitVec 3) (ch : Bool) (i : Nat) : Nat :=
  (if ch then 0x1000001900000 else 0x1000001080000) + p.toNat * 0x1000 + 16 * (i % 256)

/-- Fields of a bind record (R95). -/
def bindCont (x : Nat) : BitVec 56 := BitVec.ofNat 56 (bits x 72 50 * 64)
def bindSlotNo (x : Nat) : Nat := bits x 49 3
def bindTag (x : Nat) : BitVec 32 := BitVec.ofNat 32 (bits x 0 32)

/-- The unit that CORE names in a compute or a channel ring; none where no such core exists. -/
def bindUnit (ch : Bool) (x : Nat) : Option Nat :=
  let n := bits x 52 12
  if ch then (if n < 272 then some (4096 + n) else none) else some n

/-- BADCORE: the core is in reset (R428) or not in the ring's partition; a fabric channel core accepts any ring (R97, R270). -/
def badCore (s : State) (p : BitVec 3) (u : Nat) : Bool := !(getCore s u).released || (!isFabric u && partOf s u != some p)

/-- BADREC (R97). -/
def badRecord (s : State) (ch : Bool) (u : Nat) (cont : BitVec 56) : Bool :=
  let x := devGet s cont.toNat 64
  let r := recOf x
  let hw := devGet s (r.chrys.toNat + 0x5F8) 8
  (devKey s cont.toNat).isNone || decide (8 ≤ bits x 56 4) || r.rclass == 3#2 || isFinal r.state
    || (match regionAt s cont.toNat with | some id => (region s id).creator != 0#12 | none => true)
    || r.ch != ch || (bitAt hw 11 && (bits hw 13 12 != coreNumber u || bitAt hw 12 != ch))
    || (isFabric u && recOwner x != 0#12)

/-- Pinning slot `i` of a core would leave fewer than half of the register file partition's lines unpinned (R97, R288). -/
def noRoom (u : Nat) (c : Core) (i : Nat) : Bool :=
  let lines := c.rf.toNat * 256 - (if isCompute u then 64 else 0)
  let pinned := 64 * (((List.range 8).filter fun j => j ≠ i && (slotOf c j).pin).length + 1)
  decide (2 * (lines - pinned) < lines)

/-- The record fields of a slot's occupant. -/
def occupantRec (s : State) (c : Core) (i : Nat) : Rec :=
  if (slotOf c i).sst = .bound then recOf (devGet s (slotOf c i).cont.toNat 64) else (slotCtx c i).rcd

/-- The check of R97 that refuses a record first; 0 where it is accepted. -/
def bindError (s : State) (p : BitVec 3) (ch : Bool) (x : Nat) : Nat :=
  match bindUnit ch x with
  | none => 1
  | some u =>
    let c := getCore s u
    let sl := slotOf c (bindSlotNo x)
    let start := bitAt x 43
    let evict := bitAt x 44
    if badCore s p u then 1
    else if start && !evict && sl.sst != .empty then 2
    else if start && evict && sl.sst == .empty then 3
    else if !start && (sl.sst == .empty || sl.cont != bindCont x) then 3
    else if start && (boundAt s (bindCont x)).isSome then 6
    else if start && badRecord s ch u (bindCont x) then 4
    else if !start && !evict && bitAt x 42 && !(occupantRec s c (bindSlotNo x)).fstop then 7
    else if bitAt x 45 && (start || !evict) && noRoom u c (bindSlotNo x) then 5
    else 0

/-- PRIO of a continuation record (R42). -/
def putPrio (cont : BitVec 56) (p : BitVec 2) (s : State) : State :=
  let x := devGet s (cont.toNat + 7) 1
  devPut s (cont.toNat + 7) 1 (x % 16 + p.toNat * 16 + x / 64 * 64)

/-- The incoming continuation of a START record, its record's PRIO replaced where PRIOV says so (R95, R97). -/
def incoming (p : BitVec 3) (x : Nat) (s : State) : Incoming × State :=
  let cont := bindCont x
  let pr := if bitAt x 46 then BitVec.ofNat 2 (bits x 47 2) else (recOf (devGet s cont.toNat 64)).prio
  ({ cont := cont, pin := bitAt x 45, prio := pr, tag := bindTag x, part := p }, if bitAt x 46 then putPrio cont pr s else s)

/-- EVICT of slot `i` (R98): a BOUND occupant leaves at once; a LOADED one is written back at the core's next switch point. -/
def evictRecord (u i : Nat) (tag : BitVec 32) (after : Option Incoming) (s : State) : State :=
  let sl := slotOf (getCore s u) i
  if sl.sst = .bound then
    let s1 := modCore s u fun c => setSlot c i { sl with after := after }
    emptySlot u i (writeEventTo sl.part (eventOf (slotKind u 4) 0 sl.cont (coreNumber u) i tag) s1)
  else modCore s u fun c => setSlot c i { sl with sst := .evicting, evTag := tag, after := after }

/-- A record without START and EVICT (R97). -/
def modifyRecord (u i : Nat) (x : Nat) (s : State) : State :=
  let pr := BitVec.ofNat 2 (bits x 47 2)
  let sl := slotOf (getCore s u) i
  let s1 := modCore s u fun c => setSlot c i { sl with pin := bitAt x 45, prio := if bitAt x 46 then pr else sl.prio }
  let s2 := if bitAt x 46 then putPrio sl.cont pr s1 else s1
  let f (c : Ctx) : Ctx :=
    let r := if bitAt x 46 then { c.rcd with prio := pr } else c.rcd
    { c with rcd := if bitAt x 42 && r.fstop then { r with fstop := false, state := r.pre } else r }
  if sl.sst = .bound then
    if bitAt x 42 then touchCtx s2 (recOf (devGet s sl.cont.toNat 64)).chrys f else s2
  else touchCtx s2 (slotCtx (getCore s u) i).rcd.chrys f

/-- The action of an accepted record (R97). -/
def bindAct (p : BitVec 3) (u : Nat) (x : Nat) (s : State) : State :=
  let i := bindSlotNo x
  if bitAt x 43 then
    let (y, s1) := incoming p x s
    if bitAt x 44 then evictRecord u i (bindTag x) (some y) s1 else bindSlot u i y s1
  else if bitAt x 44 then evictRecord u i (bindTag x) none s
  else modifyRecord u i x s

/-- Advances the head of a bind ring. -/
def takeRecord (p : BitVec 3) (ch : Bool) (s : State) : State :=
  let y := getPart s p
  setPart s p (if ch then { y with cbindHead := y.cbindHead + 1#32 } else { y with bindHead := y.bindHead + 1#32 })

/-- Records of a bind ring not yet taken. -/
def ringHolds (y : Part) (ch : Bool) : Bool := if ch then y.cbindHead != y.cbindTail else y.bindHead != y.bindTail

/-- Some slot of the unit is not EMPTY. -/
def occupied (s : State) (u : Nat) : Bool := (getCore s u).slots.toList.any fun sl => sl.sst != .empty

/-- H0 does not bind yet: a START whose continuation is of a virtual device that is not resident, since the outgoing one's queue state is to be written out first (R83), or whose core
waits to apply the word that H0 has written for it (R91, R243). (Log 45: DESIGN CHOICE) -/
def startWaits (s : State) (ch : Bool) (x : Nat) : Bool :=
  bitAt x 43 && match s.hub.conts.find? fun k => k.record == bindCont x with
    | some k =>
      let d := vdevOf s k.vdev
      d.live && (!d.resident || (match bindUnit ch x with | some u => (getCore s u).pw.pend && !occupied s u | none => false))
    | none => false

/-- The next record of a ring that dispatch may take: one that H0 binds already, not while the event ring is full (R101), nor while an eviction of the same core is under way. Records are taken strictly in
ring order, so that one for such a core holds up those for other cores, which R96 lets take effect in any order. (Log 68: DESIGN CHOICE) -/
def nextRecord (s : State) (p : BitVec 3) (ch : Bool) : Option Nat :=
  let y := getPart s p
  let x := getLe s.mem (bindAddr p ch (if ch then y.cbindHead.toNat else y.bindHead.toNat)) 16
  let busy := match bindUnit ch x with | some u => (getCore s u).slots.toList.any fun sl => sl.sst == .evicting | none => false
  if ringHolds y ch && !ringFull y && !busy && !startWaits s ch x then some x else none

/-- The pages that the checks of a bind record have read: a START's record, and, where that is accepted, its image; a MODIFY's record where the occupant is BOUND (R52). -/
def touchChecked (x e : Nat) (s : State) : State :=
  let a := (bindCont x).toNat
  let s1 := touchPage false a s
  if bitAt x 43 then
    (if e = 0 ∨ e = 5 then touchPage false (recOf (devGet s a 64)).chrys.toNat s1 else if e = 4 then s1 else s)
  else if bitAt x 44 = false ∧ bitAt x 42 = true ∧ (e = 0 ∨ e = 7 ∨ e = 5) then s1 else s

/-- Dispatch takes the next record of a ring if its START and EVICT bits are as given; REFUSED where a check fails (R96, R97, R101). A record that takes effect ends an IDLE (R192). -/
def takeBind (p : Nat) (ch start evict : Bool) (s : State) : State :=
  if 8 ≤ p then s
  else
    let q := BitVec.ofNat 3 p
    match nextRecord s q ch with
    | none => s
    | some x =>
      if bitAt x 43 != start || bitAt x 44 != evict then s
      else
        let e := bindError s q ch x
        let s1 := touchChecked x e (takeRecord q ch s)
        if e ≠ 0 then writeEvent q (eventOf (if ch then 10 else 2) e (bindCont x) (bits x 52 12) (bindSlotNo x) (bindTag x)) s1
        else match bindUnit ch x with
          | some u => modCore (bindAct q u x s1) u wakeIdle
          | none => s1

/-- BIND_START (R97). (Log 12: DEDUCED) -/
def execBindStart (p : Nat) (ch : Bool) (s : State) : Out := .next (takeBind p ch true false s)
/-- BIND_EVICT (R97). -/
def execBindEvict (p : Nat) (ch : Bool) (s : State) : Out := .next (takeBind p ch false true s)
/-- BIND_EVICT_START (R97). -/
def execBindEvictStart (p : Nat) (ch : Bool) (s : State) : Out := .next (takeBind p ch true true s)
/-- BIND_MODIFY (R97). -/
def execBindModify (p : Nat) (ch : Bool) (s : State) : Out := .next (takeBind p ch false false s)

/-! ### Partition maps (R90) -/

/-- Some slot of a core in a quad of the mask is not EMPTY. -/
def quadsOccupied (s : State) (m : BitVec 32) : Bool := (liveUnits s).any fun u => !isFabric u && m.getLsbD (quadOf u) && occupied s u

/-- The partition counts as resident (R90). -/
def residentPart (s : State) (p : BitVec 3) : Bool :=
  quadsOccupied s (getPart s p).map || ringHolds (getPart s p) false || ringHolds (getPart s p) true

/-- PART_MAP_WRITE (R90): the new map, or OVLP where it would share a quad, or the partition or an added quad is occupied. -/
def execPartMapWrite (p : Nat) (x : BitVec 32) (s : State) : Out :=
  if 8 ≤ p then .next s
  else
    let q := BitVec.ofNat 3 p
    let shares := (List.range 8).any fun i => i ≠ p && (getPart s (BitVec.ofNat 3 i)).map &&& x != 0#32
    if shares || residentPart s q || quadsOccupied s (x &&& ~~~(getPart s q).map) then .next (setHub s { s.hub with ovlp := true })
    else .next (setPart s q { getPart s q with map := x })

/-! ### The partition word (R243 to R245) -/

/-- A copy of any core writes the pool of unit `u`. -/
def copiesInto (s : State) (u : Nat) : Bool := (liveUnits s).any fun w => (getCore s w).copies.any fun c => copyInto s w c u

/-- Engine work whose destination lies in the pool is outstanding, so a PART_WORD write waits (R244 step 1). (Log 39: DEDUCED) -/
def partWaits (s : State) (u : Nat) : Bool := copiesInto s u || !(getCore s u).galley.entries.isEmpty || galleysInto s u || stackInto s u || !(tableEntries s u).isEmpty

/-- R243 lets the word be applied to a unit. -/
def partOk (u : Nat) (x : BitVec 13) : Bool :=
  let rf := (x.extractLsb' 8 5).toNat
  let acc := (x.extractLsb' 0 5).toNat
  decide (1 ≤ rf ∧ rf ≤ 16 ∧ acc ≤ 24 ∧ rf + acc + 1 ≤ poolUnits u) && (isCompute u || acc == 0)

/-- Writes the images of a core's loaded contexts, a write-back that records which tokens were not quiescent (R139, R244 step 2). -/
def writeLines (u : Nat) (s : State) : State :=
  (List.range 8).foldl (fun s i =>
    let c := slotCtx (getCore s u) i
    if (slotOf (getCore s u) i).sst = .loaded ∨ (slotOf (getCore s u) i).sst = .evicting then putOuts (putLines c s) c
    else s) s

/-- Sets a span of storage to 0. -/
def clearSpan (m : List Host.Cell) (a n : Nat) : List Host.Cell := m.filter fun c => !(decide (a ≤ c.1) && decide (c.1 < a + n))

/-- Applies a partition word (R244). (Log 39: DEDUCED) -/
def applyPart (u : Nat) (x : BitVec 13) (s : State) : State :=
  let s1 := modCore (writeLines u s) u fun c =>
    { c with rf := x.extractLsb' 8 5, acc := x.extractLsb' 0 5, tags := [], scales := [], quires := Vector.replicate 16 {}, freed := [] }
  { s1 with mem := clearSpan s1.mem (coreBase u) (accEnd u (getCore s1 u)) }

/-- PW_SET_WRITE (R245). -/
def execPwSetWrite (u : Nat) (x : BitVec 13) (s : State) : Out :=
  .next (modCore s u fun c => { c with pw := { pend := true, bad := false, value := x } })

/-- PW_SET_APPLY (R245): at a switch point with every slot EMPTY, once the work into the pool is done. -/
def execPwSetApply (u : Nat) (s : State) : Out :=
  let c := getCore s u
  if c.pw.pend && atSwitch s.gtc c && !occupied s u then
    if !partOk u c.pw.value then .next (modCore s u fun c => { c with pw := { c.pw with pend := false, bad := true } })
    else if partWaits s u then .next s
    else .next (modCore (applyPart u c.pw.value s) u fun c => { c with pw := { c.pw with pend := false } })
  else .next s

end Sys2Proof.Machine
end

