-- ==== Sys2Proof/Machine/Stops.lean ====
section
/-! DEFINITION. Synchronised stops (R375 to R380), virtual time (R382), the watchdog (R384) and halt groups (R386, R387). -/

namespace Sys2Proof.Machine

/-! ### Local time (R21, R22) -/

/-- The GTC copy of a unit: at most 2 cycles from any other (R21). (Log 6: DESIGN CHOICE) -/
def localGtc (s : State) (u : Nat) : Nat := s.gtc + (Config.gtcSkew s.hub.boot.powerUps u s.gtc).toNat % 3

/-! ### Halting a core (R376, R378, R387) -/

/-- A continuation becomes STOPPED with PRE (R44); one that is stopped already, or ended, keeps its state. -/
def stopCtx (c : Ctx) : Ctx :=
  match c.rcd.state with
  | .new | .ready | .running | .waiting => { c with rcd := { c.rcd with state := .stopped, pre := c.rcd.state, fstop := false } }
  | _ => c

/-- An answer of another agent that the instruction of the issuing slot waits for: an AMO's or an accepted RDROP's (R338, R339). -/
def issueAwaits (c : Core) : Bool := c.amo.isSome || c.accepted

/-- An RDROP of a context still waits for an acknowledgement. -/
def dropPending (s : State) (h : BitVec 56) : Bool :=
  s.hub.shoots.any fun x => match x.for_ with
    | .rdrop _ c => c == h
    | _ => false

/-- A slot holds a context that left the core in an accepted RDROP whose acknowledgements are awaited. -/
def slotAwaits (s : State) (c : Core) (i : Nat) : Bool :=
  (slotOf c i).sst == .loaded && c.issuing != some (BitVec.ofNat 3 i) && (slotOf c i).ctx.accepted && dropPending s (slotOf c i).ctx.rcd.chrys

/-- An answer of another agent that an instruction of unit `u` waits for: an AMO's or an accepted RDROP's, of whichever slot (R338, R339). -/
def awaitsAnswer (s : State) (u : Nat) : Bool :=
  let c := getCore s u
  issueAwaits c || (List.range 8).any (slotAwaits s c)

/-- An accepted RDROP that a context was switched away from completes where its answers have come: g[d] := 0, and the PC after it (R339). -/
def finishAccepted (u : Nat) (s : State) (c : Ctx) : Ctx :=
  let f := focus s u
  let f1 := { f with core := { f.core with ctx := c } }
  if !c.accepted then c
  else match resolve f1 (c.codePc.setWidth 64) with
    | .error _ => c
    | .ok p => match decodeWord (parcelAt f1 (p + 2#16) ++ parcelAt f1 p) with
      | some (.rdrop _ _ _ d) =>
        let c1 := seqFlow { addEnergy (ctxPutG c d 0#64) (chargeOf s 0 1) with pc := p } (p + 4#16)
        { c1 with codePc := codeVa f1 c1.pc, accepted := false }
      | _ => c

/-- The REPLAY that a core holds on is broken off; it is issued again afterwards (R378). -/
def cancelReplay (c : Core) : Core :=
  { c with log := c.log.map fun e => e.map fun (x : LogEntry) => { x with replaying := false } }

/-- Slot `i`'s continuation becomes STOPPED. -/
def stopSlot (u : Nat) (s : State) (i : Nat) : State :=
  let sl := slotOf (getCore s u) i
  match sl.sst with
  | .empty => s
  | .bound => touchCtx s (recOf (devGet s sl.cont.toNat 64)).chrys stopCtx
  | _ => endRegion sl.ctx.rcd.chrys.toNat (modCore s u fun c => setSlot c i { sl with ctx := stopCtx (finishAccepted u s sl.ctx) })

/-- The issuing slot of a core stops issuing: fixed-latency writes are done, the PC stands at the instruction (R376, R378). It resumes without the cost of a switch. -/
def stopIssue (u : Nat) (s : State) : State :=
  let f := focus s u
  if f.core.issuing.isSome then
    focus (leaveSlot (endRegion (me f).toNat (setCtx { f with core := { cancelReplay f.core with resume := f.core.issuing, ranFor := s.gtc - f.core.selectedAt } } (stopCtx (flush f.core.ctx))))) s.cur
  else s

/-- Every continuation bound to the unit's core becomes STOPPED. -/
def haltCore (u : Nat) (s : State) : State := (List.range 8).foldl (stopSlot u) (stopIssue u s)

/-- Slot `i`'s STOPPED continuation returns to PRE (R44). -/
def releaseSlotCtx (u : Nat) (s : State) (i : Nat) : State :=
  let sl := slotOf (getCore s u) i
  match sl.sst with
  | .empty => s
  | .bound => touchCtx s (recOf (devGet s sl.cont.toNat 64)).chrys releaseCtx
  | _ => modCore s u fun c => setSlot c i { sl with ctx := releaseCtx sl.ctx }

/-- A core that no stop and no halt group holds any more resumes (R380, R387). -/
def resumeCore (u : Nat) (s : State) : State :=
  if haltedCore (getCore s u) then s
  else (List.range 8).foldl (releaseSlotCtx u) (modCore s u fun c => { c with nextIssue := max c.nextIssue (s.gtc + 1) })

/-! ### The synchronised stop (R375 to R379) -/

/-- Units of a partition (R90, R375). -/
def partUnits (s : State) (p : BitVec 3) : List Nat := (List.range 4352).filter fun u => (getPart s p).map.getLsbD (quadOf u)

/-- A continuation belongs to queue `q` of virtual device `v`. -/
def inQueue (v : Nat) (q : BitVec 8) (k : Cont) : Bool := k.vdev == v && k.queue == q

/-- STATE of a continuation, in its slot or in its record. -/
def contState (s : State) (k : Cont) : ContState :=
  match findCtx s k.chrys with
  | some (_, c) => c.rcd.state
  | none => (recOf (devGet s k.record.toNat 64)).state

/-- Ends a continuation wherever it stands. -/
def endCont (st : ContState) (s : State) (k : Cont) : State :=
  match boundAt s k.record with
  | some (u, i) => endSlot u i st s
  | none => endAbsent k st s

/-- Undealt records of RUNNING cards, and whole PENDING cards, of a queue are added to LOST (R88 step 2). -/
def loseCard (v : Nat) (q : BitVec 8) (s : State) (i : Nat) : State :=
  match cardAt s i with
  | none => s
  | some c =>
    if c.vdev ≠ v ∨ c.queue ≠ q then s
    else if c.st = .pending then cancelCard i s
    else if c.st = .running ∧ c.dealt < cardCount c.bits then
      modCard i (fun c => { c with dealt := cardCount c.bits }) (endRecords i (cardCount c.bits - c.dealt) false false s)
    else s

/-- Step 2 of R88: nothing more is dealt of a queue, and what is still NEW is CANCELLED. -/
def stopDealing (v : Nat) (q : BitVec 8) (s : State) : State :=
  let s1 := (List.range s.hub.cards.length).foldl (loseCard v q) s
  (s1.hub.conts.filter fun k => inQueue v q k && contState s1 k == .new).foldl (endCont .cancelled) s1

/-- A continuation belongs to queue `q` of the virtual device resident in partition `p`. -/
def ofQueue (s : State) (p : BitVec 3) (q : BitVec 8) (k : Cont) : Bool :=
  k.queue == q && (vdevOf s k.vdev).part == p && (vdevOf s k.vdev).resident

/-- Ends the continuation of slot `i` where it belongs to the torn queue (R379). -/
def tearSlot (u : Nat) (p : BitVec 3) (q : BitVec 8) (s : State) (i : Nat) : State :=
  let sl := slotOf (getCore s u) i
  if sl.sst = .empty then s
  else
    let chrys := if sl.sst = .bound then (recOf (devGet s sl.cont.toNat 64)).chrys else sl.ctx.rcd.chrys
    match contAt s chrys with
    | some k => if ofQueue s p q k then endSlot u i (tearState (startedIn s sl)) s else s
    | none => s

/-- Ends the queue's continuations that occupy no slot (R379). -/
def tearAbsent (p : BitVec 3) (q : BitVec 8) (s : State) : State :=
  (s.hub.conts.filter fun k => ofQueue s p q k && (boundAt s k.record).isNone).foldl (fun s k =>
    endAbsent k (tearState (startedRec (recOf (devGet s k.record.toNat 64)))) s) s

/-- VTIME of a partition at local GTC `g` (R382). -/
def vtime (x : Part) (g : Nat) : Word := if x.vtGtc.toNat ≤ g then x.vtBase + BitVec.ofNat 64 ((g - x.vtGtc.toNat) * 5 / 6) else x.vtBase

/-- V_stop of the partition's resident virtual devices (R383). -/
def noteVStop (p : BitVec 3) (s : State) : State :=
  let t := vtime (getPart s p) ((getPart s p).stopGtc.toNat + 2)
  setHub s { s.hub with vdevs := s.hub.vdevs.map fun (v, x) => (v, if x.part = p ∧ x.resident = true then { x with vStop := t, stopGtc := (getPart s p).stopGtc.toNat } else x) }

/-- Every core of the partition has halted: HALTED := 1, ARMED := 0, and the dealer tears what occupies no slot (R377, R379). -/
def allHalted (p : BitVec 3) (s : State) : State :=
  let x := getPart s p
  if !x.halted && !(partUnits s p).isEmpty && (partUnits s p).all (fun u => (getCore s u).haltStop) then
    let s1 := noteVStop p (setPart s p { x with halted := true, armed := false })
    match x.tear with
    | some q => tearAbsent p q s1
    | none => s1
  else s

/-- The stop has reached the core: STOP_AT is set, local time is there, and no answer is awaited (R376). (Log 6: DESIGN CHOICE) -/
def stopDue (s : State) (u : Nat) : Bool :=
  let c := getCore s u
  !c.haltStop && c.stopAt != 0#64 && decide (c.stopAt.toNat ≤ localGtc s u) && !awaitsAnswer s u

/-- SYNC_STOP_HALT (R376, R379). -/
def execSyncStopHalt (u : Nat) (s : State) : Out :=
  if stopDue s u then
    let s1 := modCore (haltCore u s) u fun c => { c with haltStop := true }
    match partOf s u with
    | none => .next s1
    | some p =>
      let s2 := match (getPart s p).tear with
        | some q => (List.range 8).foldl (tearSlot u p q) s1
        | none => s1
      .next (allHalted p s2)
  else .next s

/-- ARM (R376): refused with LATE under a lead of less than 4,096, ignored while ARMED or HALTED. (Log 38: DEDUCED) -/
def execStopArm (p : Nat) (tear : Bool) (q : BitVec 8) (s : State) : Out :=
  if 8 ≤ p then .next s
  else
    let p := BitVec.ofNat 3 p
    let x := getPart s p
    if x.armed || x.halted then .next s
    else if (x.stopGtc - BitVec.ofNat 64 s.gtc).toInt < 4096 then .next (setPart s p { x with late := true })
    else
      let s1 := setPart s p { x with late := false, armed := true, tear := if tear then some q else none }
      .next ((partUnits s p).foldl (fun s u => modCore s u fun c => { c with stopAt := x.stopGtc }) s1)

/-- CANCEL (R376): disarms every core that has not halted; ignored once HALTED is 1. (Log 38: DEDUCED) -/
def execStopCancel (p : Nat) (s : State) : Out :=
  if 8 ≤ p then .next s
  else
    let p := BitVec.ofNat 3 p
    let x := getPart s p
    if x.halted then .next s
    else .next ((partUnits s p).foldl (fun s u => modCore s u fun c => if c.haltStop then c else { c with stopAt := 0#64 }) (setPart s p { x with armed := false, tear := none }))

/-! ### The sweep (R377) -/

/-- A continuation is STOPPED, wherever its lines lie. -/
def isStopped (s : State) (chrys : BitVec 56) : Bool := match anyCtx s chrys with | some c => c.rcd.state == .stopped | none => false

/-- Contexts of the engine work that unit `u` has queued or running: copies, galley entries, table requests, stack commands. -/
def engineCtxs (s : State) (u : Nat) : List (BitVec 56) :=
  ((getCore s u).copies.filter fun c => !c.ended).map (·.ctx) ++ (getCore s u).galley.entries.map (·.ctx) ++ (tableEntries s u).map (·.ctx)
    ++ (stackEntries s u).filterMap fun e => e.by_.map (·.2)

/-- An engine still has work of a STOPPED continuation of the partition. -/
def engineBusy (s : State) (p : BitVec 3) : Bool := (partUnits s p).any fun u => (engineCtxs s u).any (isStopped s)

/-- Moves a core's outstanding requests into the save buffers. -/
def sweepCore (sp : Spill) (c : Core) : Core :=
  { c with log := c.log.map fun e => e.map fun (x : LogEntry) => if x.held.isNone && x.swept.isNone then { x with swept := some sp } else x
           journal := c.journal.map fun e => e.map fun (x : JnlEntry) => if x.held.isNone && x.swept.isNone then { x with swept := some sp } else x }

/-- SWEEP_COMPLETE (R377): the colour's core-originated packets are in the spill area, and SWEPT := 1. (Log 38: DEDUCED) -/
def execSweepComplete (p : Nat) (s : State) : Out :=
  if 8 ≤ p then .next s
  else
    let q := BitVec.ofNat 3 p
    let x := getPart s q
    if x.halted && !x.swept && !engineBusy s q then
      let sp : Spill := (x.spill, x.colour)
      let s1 := (partUnits s q).foldl (fun s u => modCore s u (sweepCore sp)) s
      let s2 := { s1 with net := s1.net.map fun (m : NetMsg) => if m.colour = x.colour ∧ m.sender.isSome ∧ m.swept.isNone then { m with swept := some sp } else m }
      .next (setPart s2 q { x with swept := true })
    else .next s

/-! ### RESUME (R380) -/

/-- The image that a message's handle names holds no live continuation (R264, R373). -/
def deadHandle (s : State) (h : Word) : Bool := imageRecord s (BitVec.ofNat 56 (h.toNat % 2 ^ 44 * 4096)) == 0#56

/-- Packets of a core reinjected from a spill area; with `drop`, those of ended continuations are discarded. -/
def reinjectCore (sp : Spill) (drop : Bool) (c : Core) : Core :=
  let gone (x : BitVec 56) : Bool := drop && (deadOf x).isSome
  { c with
    log := c.log.map fun e => match e with
      | some x => if x.swept = some sp then (if gone x.ctx then none else some { x with swept := none }) else e
      | none => none
    journal := c.journal.map fun e => match e with
      | some x => if x.swept = some sp then (if gone x.ctx then none else some { x with swept := none }) else e
      | none => none }

/-- A swept message that DROP discards: its source has ended, or the image that its handle names holds no live continuation. SENDG's message names no image. -/
def droppedMsg (s : State) (m : NetMsg) : Bool := (deadOf m.src).isSome || (m.group.isNone && deadHandle s m.handle)

/-- Discarded completion messages count in their queues' dropped counts (R88). -/
def countDiscarded (ms : List NetMsg) (s : State) : State :=
  ms.foldl (fun s m => match m.ofQueue with | some (v, q) => countDropped v q 1 s | none => s) s

/-- Reinjects the packets of a spill area, ahead of new traffic (R380 step 1). -/
def reinject (sp : Spill) (drop : Bool) (s0 : State) : State :=
  let mine := s0.net.filter fun m => m.swept == some sp
  let kept := if drop then mine.filter fun m => !droppedMsg s0 m else mine
  let rest := s0.net.filter fun m => m.swept != some sp
  let s := if drop then countDiscarded (mine.filter (droppedMsg s0)) s0 else s0
  { s with core := reinjectCore sp drop s.core, others := s.others.map fun (u, c) => (u, reinjectCore sp drop c)
           net := (kept.map fun (m : NetMsg) => { m with swept := none }) ++ rest }

/-- The length of a pause in nanoseconds (R383). -/
def pauseOf (now stop : Nat) : Nat := (now - stop) * 5 / 6

/-- Virtual time of a partition whose resident virtual device resumes at GTC `now`, as H0 writes it (R382, R383). (Log 61: DESIGN CHOICE) -/
def resumeTime (s : State) (p : BitVec 3) (x : Part) : Part :=
  match s.hub.vdevs.find? fun e => e.2.live && e.2.part == p && e.2.resident with
  | none => x
  | some (_, d) =>
    if d.ran then
      { x with vtGtc := BitVec.ofNat 64 s.gtc, vtBase := d.vStop + 1#64 + (if x.vtWall then BitVec.ofNat 64 (pauseOf s.gtc d.stopGtc) else 0#64) }
    else { x with vtGtc := BitVec.ofNat 64 s.gtc, vtBase := 0#64 }

/-- The resident virtual device of a partition has run. -/
def noteRan (p : BitVec 3) (s : State) : State :=
  setHub s { s.hub with vdevs := s.hub.vdevs.map fun (v, d) => (v, if d.part = p ∧ d.resident = true then { d with ran := true } else d) }

/-- RESUME (R380): ignored unless SWEPT. H0 writes the partition's virtual time before it (R383). (Log 38: DEDUCED, 61: DESIGN CHOICE) -/
def execStopResume (p : Nat) (drop : Bool) (col : BitVec 6) (s : State) : Out :=
  if 8 ≤ p then .next s
  else
    let q := BitVec.ofNat 3 p
    let x := getPart s q
    if !x.swept then .next s
    else
      let s1 := noteRan q (setPart (reinject (x.spill, col) drop s) q (resumeTime s q { x with halted := false, swept := false, tear := none }))
      .next ((partUnits s q).foldl (fun s u => resumeCore u (modCore s u fun c => { c with stopAt := 0#64, haltStop := false })) s1)

/-! ### Halt groups (R386, R387) -/

/-- HG_CTL of group `g`. -/
def haltGroupOf (s : State) (g : Nat) : HaltGroup := tabGet {} s.hub.groups64 g
/-- Replaces HG_CTL of group `g`. -/
def setHaltGroup (g : Nat) (x : HaltGroup) (s : State) : State := setHub s { s.hub with groups64 := tabSet {} s.hub.groups64 g x }

/-- Core-originated packets of a colour, as its counter shows them: messages, and loads, stores and AMOs in flight (R375). -/
def coreInFlight (c : Core) : Nat :=
  (c.log.toList.countP fun e => match e with | some x => (x.held.isNone || x.replaying) && x.swept.isNone | none => false)
    + (c.journal.toList.countP fun e => match e with | some x => x.held.isNone && x.swept.isNone | none => false) + boolNat c.amo.isSome

/-- COLOUR of a unit's partition; 0 for a unit in none. -/
def unitColour (s : State) (u : Nat) : BitVec 6 := match partOf s u with | some p => (getPart s p).colour | none => 0#6

/-- Colour counter `c` (R375). -/
def colourCount (s : State) (c : BitVec 6) : Nat :=
  (s.net.countP fun m => m.sender.isSome && m.colour == c && m.swept.isNone)
    + ((liveUnits s).filter fun u => unitColour s u == c).foldl (fun n u => n + coreInFlight (getCore s u)) 0

/-- STOP_STA of a partition (R375). -/
def stopSta (s : State) (p : BitVec 3) : Word :=
  let x := getPart s p
  let pending := if x.armed then (partUnits s p).countP fun u => (getCore s u).stopAt != 0#64 && !(getCore s u).haltStop else 0
  BitVec.ofNat 64 (pending % 2 ^ 13 + boolNat x.late * 2 ^ 60 + boolNat x.swept * 2 ^ 61 + boolNat x.halted * 2 ^ 62 + boolNat x.armed * 2 ^ 63)

/-- Units that HG_OF makes members of group `g`. -/
def groupMembers (s : State) (g : Nat) : List Nat := (s.hub.hgOf.filter fun e => e.2 == some (BitVec.ofNat 6 g)).map (·.1)

/-- A halt group holds the core, once no answer is awaited. -/
def groupHaltCore (u : Nat) (s : State) : State :=
  if awaitsAnswer s u then modCore s u fun c => { c with haltReq := true }
  else modCore (haltCore u s) u fun c => { c with haltGroup := true, haltReq := false }

/-- Halts group `g`, then the groups that the chain of cross-triggers names, each once (R387). -/
def haltChain (g : Nat) (s : State) : Nat → State
  | 0 => s
  | n + 1 =>
    let x := haltGroupOf s g
    let s1 := (groupMembers s g).foldl (fun s u => groupHaltCore u s) (setHaltGroup g { x with halted := true } s)
    let h := x.xg.toNat % 64
    if x.xv && !(haltGroupOf s1 h).halted then haltChain h s1 n else s1

/-- HG_HALT (R387). -/
def execHgHalt (g : Nat) (s : State) : Out := if g < 64 then .next (haltChain g s 64) else .next s

/-- HG_RESUME (R387). -/
def execHgResume (g : Nat) (s : State) : Out :=
  if 64 ≤ g then .next s
  else
    let s1 := setHaltGroup g { haltGroupOf s g with halted := false } s
    .next ((groupMembers s g).foldl (fun s u => resumeCore u (modCore s u fun c => { c with haltGroup := false, haltReq := false })) s1)

/-- The armed halt group that a unit belongs to (R191). -/
def armedGroup (s : State) (u : Nat) : Option Nat :=
  match tabGet none s.hub.hgOf u with
  | some g => if (haltGroupOf s g.toNat).armed then some g.toNat else none
  | none => none

/-! ### The watchdog (R384) -/

/-- A queue's continuation occupies a LOADED slot in state NEW, READY or RUNNING. -/
def queueActive (s : State) (v : Nat) (q : BitVec 8) : Bool :=
  (liveUnits s).any fun u => (List.range 8).any fun i => selectable (getCore s u) i &&
    (match contAt s (slotCtx (getCore s u) i).rcd.chrys with | some k => k.vdev == v && k.queue == q | none => false)

/-- A core of the partition is halted. -/
def partHalted (s : State) (p : BitVec 3) : Bool := (liveUnits s).any fun u => partOf s u == some p && haltedCore (getCore s u)

/-- The queue runs (R384). -/
def queueRuns (s : State) (v : Nat) (q : BitVec 8) : Bool :=
  (vdevOf s v).resident && queueActive s v q && !partHalted s (vdevOf s v).part

/-- LAST := GTC where a queue starts to run. -/
def noteRuns (s : State) : State :=
  let f (k : Nat) (x : Queue) : Queue :=
    let r := queueRuns s (k / 256) (BitVec.ofNat 8 k)
    { x with wdRuns := r, wdLast := if r && !x.wdRuns then s.gtc else x.wdLast }
  setHub s { s.hub with queues := s.hub.queues.map fun (k, x) => (k, f k x) }

/-- A queue has run for its interval without progress (R384). -/
def watchdogDue (s : State) (v : Nat) (q : BitVec 8) : Bool :=
  let x := queueOf s v q
  x.ivl != 0#32 && x.wdRuns && queueRuns s v q && decide (x.wdLast + x.ivl.toNat * 1200 ≤ s.gtc)

/-- A reset begins: the queue is RESETTING and nothing more of it is dealt (R80, R88 steps 1 and 2); the compositor takes the further steps of R385. (Log 62: DESIGN CHOICE) -/
def beginReset (v : Nat) (q : BitVec 8) (s : State) : State :=
  if (queueOf s v q).st = .open_ ∨ (queueOf s v q).st = .draining then
    let s1 := stopDealing v q (setQueue v q { queueOf s v q with st := .resetting } s)
    setHub s1 { s1.hub with jobs := s1.hub.jobs ++ [.reset v q .arm] }
  else s

/-- WATCHDOG_EXPIRY (R80, R384, R391): the event, and the queue's reset begins. -/
def execWatchdogExpiry (v q : Nat) (s : State) : Out :=
  let q := BitVec.ofNat 8 q
  if watchdogDue s v q then
    let k := 256 * v + q.toNat
    let s1 := setHub s { s.hub with queues := tabSet {} s.hub.queues k { queueOf s v q with wdLast := s.gtc } }
    .next (beginReset v q (writeEvent ((queueOf s v q).part.setWidth 3) (eventOf 8 0 0#56 0 0 (BitVec.ofNat 32 k)) s1))
  else .next s

end Sys2Proof.Machine
end

