-- ==== Sys2Proof/Machine/Copies.lean ====
section
/-! DEFINITION. The copy engine (R208, R247, R256 to R263, R277 to R279, R419): launching a copy, its beats, the slots of QA copies, and its completion. -/

namespace Sys2Proof.Machine

/-! ### Handles and messages (R263, R264) -/

/-- The mailbox handle of slot `i` of unit `u` for a chrysalis address (R264). -/
def handleOf (u i : Nat) (chrys : BitVec 56) : Word :=
  BitVec.ofNat 64 (chrys.toNat / 4096 + coreNumber u * 2 ^ 44 + i % 8 * 2 ^ 56 + boolNat (!isCompute u) * 2 ^ 59)

/-- The issuing context's own handle. -/
def ownHandle (s : State) : Word := handleOf s.cur (s.core.issuing.getD 0#3).toNat (me s)

/-- The colour that a unit's packets carry (R375). -/
def colourOf (s : State) (u : Nat) : BitVec 6 :=
  match partOf s u with
  | some p => (getPart s p).colour
  | none => 0#6

/-- A completion message (R263): KIND 1 DONE, 2 TILE, 3 FREE. -/
def completionBody (kind : Nat) (tid status : BitVec 8) (bytes tile : Nat) : BitVec 128 :=
  BitVec.ofNat 128 (tid.toNat + kind * 2 ^ 8 + status.toNat * 2 ^ 16 + bytes % 2 ^ 32 * 2 ^ 32 + tile % 512 * 2 ^ 96)

/-- Puts a message on its way. -/
def sendNet (m : NetMsg) (s : State) : State := { s with net := s.net ++ [m] }

/-! ### Formats (R51, R206 to R208, R247) -/

/-- FMT and BLK at an address: a page's, or a pool region's tag. -/
def formatAt (s : State) (u : Nat) (a : Word) : Option (BitVec 4 × BitVec 2) :=
  match poolPlace u a with
  | some (w, off) => some (tabGet (0#4, 0#2) (getCore s w).tags (off / 4096))
  | none => match place (isCompute u) a.toNat with
    | .heap => (walk s a.toNat).map fun l => (leafFmt l, leafBlk l)
    | _ => none

/-- Width in bits of an FMT's elements; RAW counts bytes. -/
def fmtWidth (f : BitVec 4) : Nat := if f = 0#4 then 8 else elemWidth (f - 1#4)

/-- Elements of a 4 KiB granule (R206). -/
def fmtPerGranule (f : BitVec 4) : Nat := if fmtWidth f = 6 then 5120 else 4096 * 8 / max 1 (fmtWidth f)

/-- Element that holds byte `o` of a granule (R206). -/
def fmtElemAt (f : BitVec 4) (o : Nat) : Nat :=
  if fmtWidth f = 6 then o / 32 * 40 + min 39 (o % 32 * 8 / 6) else o * 8 / max 1 (fmtWidth f)

/-- Elements of a block (R207). -/
def blkElems (b : BitVec 2) : Nat := 16 * 2 ^ b.toNat

/-- Block of a granule that holds byte `o`. -/
def blockAt (f : BitVec 4) (b : BitVec 2) (o : Nat) : Nat := fmtElemAt f o / blkElems b

/-- 4 KiB granules of a page that come before an address (R51). -/
def granuleInPage (l : Leaf) (a : Nat) : Nat :=
  match l.level with
  | 0 => if bitAt l.entry 2 then a / 4096 % 16 else 0
  | 1 => a / 4096 % 512
  | _ => a / 4096 % 2 ^ 18

/-- The scale byte of the block that holds an address: a sidecar's, or the page's (R51, R208). -/
def scaleAt (s : State) (u : Nat) (a : Word) : Byte :=
  match formatAt s u a with
  | none => 0#8
  | some (f, b) =>
    let j := blockAt f b (a.toNat % 4096)
    match poolPlace u a with
    | some (w, off) => tabGet 0#8 (getCore s w).scales (256 * (off / 4096) + j)
    | none => match walk s a.toNat with
      | some l => getByte s.mem (leafScale l + granuleInPage l a.toNat * (fmtPerGranule f / blkElems b) + j)
      | none => 0#8

/-- Writes a region's tag. -/
def setTag (w off : Nat) (t : BitVec 4 × BitVec 2) (s : State) : State :=
  modCore s w fun c => { c with tags := tabSet (0#4, 0#2) c.tags (off / 4096) t }

/-- Writes a region's scale byte of block `j`. -/
def setScale (w off j : Nat) (x : Byte) (s : State) : State :=
  modCore s w fun c => { c with scales := tabSet 0#8 c.scales (256 * (off / 4096) + j) x }

/-- FMT of what a mapped copy reads; RAW where it reads nothing (R279). -/
def mapFormat (s : State) (u : Nat) (c : Copy) : BitVec 4 :=
  match (copyBytes c).findSome? fun (r, i) => (copySrc c r i).bind (formatAt s u) with
  | some (f, _) => f
  | none => 0#4

/-- The tag that a written byte's region takes (R247, R279). -/
def copyTag (s : State) (u : Nat) (c : Copy) (src : Option Word) : BitVec 4 × BitVec 2 :=
  if flTagset c.regs.flags then (flFmt c.regs.flags, flBlk c.regs.flags)
  else if c.tmap.isSome then (mapFormat s u c, 0#2)
  else (src.bind (formatAt s u)).getD (0#4, 0#2)

/-- The scale that a written byte's block takes (R208, R247): that of its source's block. Where TAGSET gives the destination elements of another width, so that its blocks are
cut otherwise, the last byte written of a block decides. (Log 66: DESIGN CHOICE) -/
def copyScale (s : State) (u : Nat) (src : Option Word) : Byte :=
  match src.bind (formatAt s u) with
  | some (_, b) => if b = 0#2 then 0#8 else match src with | some a => scaleAt s u a | none => 0#8
  | none => 0#8

/-! ### The checks made before the first beat (R258) -/

/-- The home pool of COPY_DST. -/
def copyHome (u : Nat) (c : Copy) : Option Nat := (poolPlace u c.regs.dst).map (·.1)

/-- COPY_MAP's set is invalid (R261). -/
def badSet (s : State) (u : Nat) (steward : Bool) (x : Nat) : Bool :=
  bits x 24 8 == 0 || decide (bits x 9 3 < bits x 6 3) || decide (bits x 15 3 < bits x 12 3)
    || (!steward && (setTiles x).any fun t => partOf s (t * 8) != partOf s u)

/-- Every byte's source and destination address. -/
def copyAddrs (c : Copy) (base : Word) : List (Option Word × Word) := (copyBytes c).map fun (r, i) => (copySrc c r i, copyDst c base r i)

/-- The addresses that a copy's checks are about: those of its bytes; of a TAGSET copy of no bytes COPY_DST; and of a QA copy, whose bytes go to its slot, COPY_DST for every byte
(R247, R258, R260). -/
def copyChecked (c : Copy) : List (Option Word × Word) :=
  if copyRowLen c = 0 then [(none, c.regs.dst)]
  else if flQa c.regs.flags && !flQc c.regs.flags then (copyAddrs c c.regs.dst).map fun a => (a.1, c.regs.dst)
  else copyAddrs c c.regs.dst

/-- An address fails R58 step 1, or lies in the heap. -/
def addrBad (u : Nat) (a : Word) : Bool := place (isCompute u) a.toNat == .bad
def addrHeap (u : Nat) (a : Word) : Bool := place (isCompute u) a.toNat == .heap

/-- BADSHAPE (R258, R277). -/
def badShape (s : State) (u : Nat) (c : Copy) : Bool :=
  let f := c.regs.flags
  let ads := copyChecked c
  flTr f == 3 || (flTr f != 0 && c.regs.len.toNat % flTr f != 0)
    || (isCompute u && flMc f && (badSet s u c.steward c.regs.map.toNat || ads.any fun a => decide (0x80000 ≤ a.2.toNat)))
    || (!isCompute u && (flMc f || (mapUsed u c && (c.tmap.isNone || flTr f != 0))))
    || ads.any (fun a => (match a.1 with | some x => addrBad u x | none => false) || (!flMc f && addrBad u a.2))

/-- A source with BLK nonzero, unmapped, does not keep its place modulo 4,096 from base `b` on (R208). -/
def badPlace (s : State) (u : Nat) (c : Copy) (b : Word) : Bool :=
  c.tmap.isNone && (copyAddrs c b).any fun a => match a.1.bind (formatAt s u) with
    | some (_, k) => k != 0#2 && (a.1.getD 0#64).toNat % 4096 != a.2.toNat % 4096
    | none => false

/-- FORMAT (R208, R247, R258), but for the place that a block-scaled source must keep. (Log 66: DESIGN CHOICE) -/
def badFormat (s : State) (u : Nat) (c : Copy) : Bool :=
  let f := c.regs.flags
  (flTagset f && decide (14 ≤ (flFmt f).toNat)) ||
  match c.tmap with
  | none => (copyAddrs c c.regs.dst).any fun a => match a.1.bind (formatAt s u) with
      | some (_, b) => b != 0#2 && (flTr f != 0 || (flTagset f && flBlk f != b))
      | none => false
  | some t => (copyAddrs c c.regs.dst).any fun a => match a.1.bind (formatAt s u) with
      | some (g, b) => b != 0#2 || g == 12#4 || g == 13#4 || (g != 0#4 && fmtWidth g != 8 * mapE t) || g != mapFormat s u c
          || (flTagset f && flBlk f != b && b != 0#2)
      | none => false

/-- QUIRE (R258 to R260): a QC copy without its slot around every destination byte, or a QA copy of an unconfigured quire or past its slot. -/
def badQuire (s : State) (u : Nat) (c : Copy) : Bool :=
  let f := c.regs.flags
  if flQc f then
    match c.slot with
    | none => true
    | some (h, q, i) =>
      let x := quireOf s h q
      let lo := x.base.toNat + 32 * x.slotB.toNat * i
      (copyChecked c).any fun a => match poolPlace u a.2 with
        | some (w, off) => w != h || decide (off < lo) || decide (lo + 32 * x.slotB.toNat ≤ off)
        | none => true
  else if flQa f then
    match copyHome u c with
    | none => true
    | some h =>
      let x := quireOf s h (flQnum f)
      !x.cfg || (copyAddrs c 0#64).any fun a => decide (32 * x.slotB.toNat ≤ a.2.toNat)
  else false

/-- A copy of no bytes at all, of which nothing is checked. -/
def copyEmpty (u : Nat) (c : Copy) : Bool := copyBeats c == 0 && !(mapUsed u c && c.tmap.isNone)

/-- The checks before those of the formats: BADSHAPE for a multicast of a channel core, NO_EXTERNAL_PATH, and BADSHAPE. -/
def shapeStatus (s : State) (u : Nat) (c : Copy) : Option (BitVec 8) :=
  let f := c.regs.flags
  if !isCompute u && flMc f then some 6#8
  else if copyEmpty u c then none
  else if isCompute u && (copyChecked c).any (fun a => (match a.1 with | some x => addrHeap u x | none => false) || (!flMc f && addrHeap u a.2)) then some 1#8
  else if badShape s u c then some 6#8
  else none

/-- Marks the pages of a list of addresses accessed (R52); `p` is the page marked last. -/
def touchEach (p : Nat) : List Word → State → State
  | [], s => s
  | a :: rest, s => if a.toNat / 4096 = p then touchEach p rest s else touchEach (a.toNat / 4096) rest (touchPage false a.toNat s)

/-- The check of the formats translates the pages of a channel core's sources (R52, R208, R258). -/
def readFormats (u : Nat) (c : Copy) (s : State) : State :=
  if isCompute u || (shapeStatus s u c).isSome || copyEmpty u c then s else touchEach 0 ((copyAddrs c c.regs.dst).filterMap (·.1)) s

/-- The status that stops a copy before it writes anything. -/
def startStatus (s : State) (u : Nat) (c : Copy) : Option (BitVec 8) :=
  let f := c.regs.flags
  let qa := flQa f && !flQc f
  if (shapeStatus s u c).isSome then shapeStatus s u c
  else if copyEmpty u c then none
  else if badFormat s u c || (!qa && badPlace s u c c.regs.dst) then some 5#8
  else if badQuire s u c then some 9#8
  else if qa && (match copyHome u c with | some h => (quireOf s h (flQnum f)).retired | none => false) then some 7#8
  else none

/-! ### Launching (R257) -/

/-- The lowest free id above the last one allocated, modulo 256. -/
def nextTid (c : Core) : Option (BitVec 8) :=
  ((List.range 256).map fun i => c.lastTid + BitVec.ofNat 8 (i + 1)).find? fun t => !c.copies.any fun x => x.tid == t

/-- The slot that a QC copy of the issuing context is open on from its launch (R259). -/
def launchSlot (s : State) (c : Copy) : Option (Nat × Nat × Nat) :=
  if flQc c.regs.flags then
    (copyHome s.cur c).bind fun h => (heldSlot (quireOf s h (flQnum c.regs.flags)) (me s) .reserved).map fun i => (h, flQnum c.regs.flags, i)
  else none

/-- Opens or closes a copy on a quire slot (R252, R259). -/
def openSlot (x : Nat × Nat × Nat) (s : State) : State :=
  let q := quireOf s x.1 x.2.1
  setQuire x.1 x.2.1 (setSlotAt q x.2.2 { slotAt q x.2.2 with open_ := (slotAt q x.2.2).open_ + 1 }) s
def closeSlot (x : Nat × Nat × Nat) (s : State) : State :=
  let q := quireOf s x.1 x.2.1
  setQuire x.1 x.2.1 (fillSlot (setSlotAt q x.2.2 { slotAt q x.2.2 with open_ := (slotAt q x.2.2).open_ - 1 }) x.2.2) s

/-- The 64 bytes of the tensor map that COPY_MAP names; none where it is misaligned or outside the scratchpad (R277). -/
def readMap (s : State) : Option (List Byte) :=
  let a := s.core.ctx.ctl.copy.map.toNat
  if onCompute s ∨ a = 0 ∨ a % 64 ≠ 0 ∨ scratchSize s.cur s.core < a + 64 then none else some (getBytes s.mem (poolKey s.cur a) 64)

/-- Virtual device and queue of a context. -/
def queueOfCtx (s : State) (chrys : BitVec 56) : Option (Nat × BitVec 8) := (contAt s chrys).map fun k => (k.vdev, k.queue)

/-- The copy that the issuing context launches. -/
def newCopy (tid : BitVec 8) (t : Option TokenName) (s : State) : Copy :=
  { tid := tid, regs := s.core.ctx.ctl.copy, owner := acting s, ctx := me s, record := s.core.ctx.ctl.record, steward := steward s, token := t
    tmap := readMap s, launchedAt := s.gtc, eng := s.core.engSeq, handle := ownHandle s, ofQueue := queueOfCtx s (me s) }

/-- The detector's name of an engine operation: kind of queue, unit and number. -/
def engineAgent (kind u eng : Nat) : Nat := 2 ^ 60 + ((kind * 2 ^ 13 + u) * 2 ^ 40 + eng)

/-- An engine's access to a storage key, as the detector sees it (R320). -/
def engineAccess (agent u key : Nat) (write : Bool) : OpenAccess := { agent := agent, granule := key / 32, write := write, priv := false, unit := u }

/-- The read of a copy's tensor map at its launch, as the detector sees it: a copy whose read races ends with status 10 (R277, R319). -/
def readMapAccess (c : Copy) (s : State) : Option (BitVec 8) × State :=
  if c.tmap.isNone then (none, s)
  else
    let k := poolKey s.cur c.regs.map.toNat
    let one (x : Option (BitVec 8) × State) (a : Nat) : Option (BitVec 8) × State :=
      match recordAccess (engineAccess (engineAgent 0 s.cur c.eng) s.cur a false) x.2 with
      | none => (some 10#8, x.2)
      | some s1 => (x.1, s1)
    one (one (none, s) k) (k + 32)

/-- Launches a copy, and writes its transfer id to g[d] at latency 2 (R257). -/
def launchCopy (d : Reg) (t : Option TokenName) (s : State) : Out :=
  match nextTid s.core with
  | none => .next (hold false s)
  | some tid => checked [] (some (.g d, 2)) s fun s =>
    let c := newCopy tid t s
    let (st, s0) := readMapAccess c s
    let c1 := { c with slot := launchSlot s c, status := st, started := st.isSome }
    let s1 := match t with | some t => issueToken t s0 | none => s0
    let s2 := match c1.slot with | some x => openSlot x s1 | none => s1
    let s3 := { s2 with core := { s2.core with copies := s2.core.copies ++ [c1], lastTid := tid, engSeq := s2.core.engSeq + 1 } }
    .next (retire 0#2 (putGLater 2 d (tid.setWidth 64) (syncPoint s3)))

/-- CRD gd, COPY_GO (R257): behind an LDAQ it holds (R332); the token is checked first. -/
def copyGo (d : Reg) (s : State) : Out :=
  afterAcquire s fun s =>
    if flKen s.core.ctx.ctl.copy.flags then
      withToken (flK s.core.ctx.ctl.copy.flags) s fun t => guardToken t s fun s => launchCopy d (some t) s
    else launchCopy d none s

/-- COPY_GO (R257). -/
def execCopyGo (d : Reg) (s : State) : Out := copyGo d s

/-! ### Beats (R258, R261) -/

/-- The copy at the head of a core's copy queue: the first that has not ended (R262). -/
def headCopy (c : Core) : Option Copy := c.copies.find? fun x => !x.ended

/-- Replaces a copy by its transfer id. -/
def putCopy (u : Nat) (x : Copy) (s : State) : State := modCore s u fun c => { c with copies := c.copies.map fun (y : Copy) => if y.tid = x.tid then x else y }

/-- An engine's access to one byte by an agent at place `w`: rights, place, the host's answer where it lies in the host window, and the race detector (R58, R59, R273, R319). -/
def engineByteAt (agent u w : Nat) (o : BitVec 12) (a : Nat) (write : Bool) (s : State) : Except Refuse (Nat × State) :=
  match agentCheck s o (isCompute u) a (if write then .W else .I) with
  | .error r => .error r
  | .ok _ => match reach s u a with
    | .error r => .error r
    | .ok key => match recordAccess (engineAccess agent w key write) s with
      | none => .error .race
      | some s1 => .ok (key, s1)

/-- The same by an agent at the unit itself. -/
def engineByte (agent u : Nat) (o : BitVec 12) (a : Nat) (write : Bool) (s : State) : Except Refuse (Nat × State) := engineByteAt agent u u o a write s

/-- What a refused access of an engine to one byte leaves: a page that was translated is marked accessed (R52, R69). -/
def refusedByte (u : Nat) (o : BitVec 12) (a : Nat) (write : Bool) (s : State) : State :=
  match agentCheck s o (isCompute u) a (if write then .W else .I) with
  | .error _ => lockHeap a s
  | .ok _ => touchPage false a s

/-- A copied byte: its value, the tag and scale it brings, its destination key and, in a pool, the unit and offset. -/
structure CopyByte where
  key   : Nat
  val   : Byte
  dst   : Word
  tag   : BitVec 4 × BitVec 2
  scale : Byte

/-- Reads the bytes of a beat and places their destinations, or finds the status of its refusal; the state carries the detector's notes and the pages' bits. -/
def gatherBeat (u : Nat) (c : Copy) (base : Word) : List (Nat × Nat) → State → Except (BitVec 8) (List CopyByte) × State
  | [], s => (.ok [], s)
  | (r, i) :: rest, s =>
    let ag := engineAgent 0 u c.eng
    let src := copySrc c r i
    let got : Except (BitVec 8) Byte × State := match src with
      | none => (.ok 0#8, s)
      | some a => match engineByte ag u c.owner a.toNat false s with
        | .error e => (.error (statusOf e), refusedByte u c.owner a.toNat false s)
        | .ok (k, s1) => (.ok (getByte s.mem k), touchPage false a.toNat s1)
    match got with
    | (.error e, s1) => (.error e, s1)
    | (.ok b, s1) =>
      let d := copyDst c base r i
      match engineByte ag u c.owner d.toNat true s1 with
      | .error e => (.error (statusOf e), refusedByte u c.owner d.toNat true s1)
      | .ok (k, s2) => match gatherBeat u c base rest s2 with
        | (.error e, s3) => (.error e, s3)
        | (.ok bs, s3) => (.ok ({ key := k, val := b, dst := d, tag := copyTag s u c src, scale := copyScale s u src } :: bs), s3)

/-- A destination byte lies in a released ring (R419). -/
def releasedByte (s : State) (u : Nat) (b : CopyByte) : Bool :=
  match poolPlace u b.dst with
  | some (w, off) => (getCore s w).freed.any fun r => decide (r.1 ≤ off) && decide (off < r.2)
  | none => false

/-- Writes one byte with its region's tag and the scale of the block whose elements it holds bits of (R208, R247); bytes 30 and 31 of 40 six-bit elements hold none (R206). -/
def putCopyByte (u : Nat) (s : State) (b : CopyByte) : State :=
  let s1 := touchPage true b.dst.toNat { s with mem := setByte s.mem b.key b.val }
  match poolPlace u b.dst with
  | some (w, off) =>
    let s2 := setTag w off b.tag s1
    if b.tag.2 = 0#2 ∨ (fmtWidth b.tag.1 = 6 ∧ 30 ≤ off % 32) then s2 else setScale w off (blockAt b.tag.1 b.tag.2 (off % 4096)) b.scale s2
  | none => s1

/-- Performs beat `k` of a copy at a base address: no status, or that of its refusal, and the state. (Log 26: DEDUCED) -/
def oneBeat (u : Nat) (c : Copy) (base : Word) (k : Nat) (s : State) : Option (BitVec 8) × State :=
  match gatherBeat u c base (beatBytes c k) s with
  | (.error e, s1) => (some e, s1)
  | (.ok bs, s1) =>
    if c.slot.isNone && bs.any (releasedByte s1 u) then (some 7#8, s1)
    else (none, bs.foldl (putCopyByte u) s1)

/-- The one beat of a TAGSET copy of no bytes: it writes the tag of the region that holds COPY_DST (R247). -/
def tagBeat (u : Nat) (c : Copy) (base : Word) (s : State) : Option (BitVec 8) × State :=
  match engineByte (engineAgent 0 u c.eng) u c.owner base.toNat true s with
  | .error e => (some (statusOf e), refusedByte u c.owner base.toNat true s)
  | .ok (_, s1) => match poolPlace u base with
    | some (w, off) => (none, setTag w off (flFmt c.regs.flags, flBlk c.regs.flags) s1)
    | none => (none, touchPage false base.toNat s1)

/-- One beat at a base address. -/
def beatAt (u : Nat) (c : Copy) (base : Word) (k : Nat) (s : State) : Option (BitVec 8) × State :=
  if copyRowLen c = 0 then tagBeat u c base s else oneBeat u c base k s

/-- One beat at every named core of a tile whose pool has refused none yet; each pool is checked separately (R261). The bytes are those written at every named core.
(Log 26: DEDUCED) -/
def tileBeat (u : Nat) (c : Copy) (k n : Nat) : List Nat → CopyTile → State → CopyTile × State
  | [], t, s => ({ t with bytes := if t.refused.isEmpty then t.bytes + n else t.bytes }, s)
  | w :: ws, t, s =>
    if t.refused.contains w then tileBeat u c k n ws t s
    else match beatAt u c (BitVec.ofNat 64 (coreBase w) + c.regs.dst) k s with
      | (some e, s1) => tileBeat u c k n ws { t with status := if t.status = 0#8 then e else t.status, refused := w :: t.refused } s1
      | (none, s1) => tileBeat u c k n ws t (chargeTo c.ctx 4 n s1)

/-- One beat at every tile of a multicast. -/
def setBeat (u : Nat) (c : Copy) (k n : Nat) : List CopyTile → State → List CopyTile × State
  | [], s => ([], s)
  | t :: ts, s =>
    let (t1, s1) := tileBeat u c k n (tileCores c.regs.map.toNat t.tile) t s
    let (ts1, s2) := setBeat u c k n ts s1
    (t1 :: ts1, s2)

/-- Every tile's router has room for a multicast's combining entry (R261). -/
def combineFree (s : State) (c : Copy) : Bool := (setTiles c.regs.map.toNat).all fun t => decide ((tabGet {} s.tiles t).combine.length < 16)

/-- Opens the combining entries. -/
def openCombine (c : Copy) (s : State) : State :=
  let n := ((List.range 8).filter fun i => bitAt c.regs.map.toNat (24 + i)).length
  (setTiles c.regs.map.toNat).foldl (fun s t =>
    let x := tabGet {} s.tiles t
    { s with tiles := tabSet {} s.tiles t { x with combine := x.combine ++ [{ handle := c.handle, tid := c.tid, expect := n, ofQueue := c.ofQueue }] } }) s

/-- A multicast's tiles as it starts. -/
def newTiles (c : Copy) (st : BitVec 8) : List CopyTile := (setTiles c.regs.map.toNat).map fun t => { tile := t, status := st }

/-- Starts the copy at the head of the engine: the checks of R258, behind fences and, for a multicast, free combining entries. -/
def startCopy (u : Nat) (c : Copy) (s : State) : State :=
  if c.started || fenced s u 0 c.eng then s
  else
    let mc := flMc c.regs.flags && isCompute u
    let s := readFormats u c s
    match startStatus s u c with
    | some e => putCopy u { c with started := true, status := some e, tiles := if mc && !badSet s u c.steward c.regs.map.toNat then newTiles c e else [] } s
    | none =>
      if mc then (if combineFree s c then openCombine c (putCopy u { c with started := true, tiles := newTiles c 0#8 } s) else s)
      else putCopy u { c with started := true } s

/-- The next beat of a started copy. -/
def stepCopy (u : Nat) (c : Copy) (s : State) : State :=
  if !c.started || c.status.isSome || decide (copyBeats c ≤ c.beats) || (flQa c.regs.flags && c.slot.isNone) then s
  else
    let n := if copyRowLen c = 0 then 0 else (beatBytes c c.beats).length
    if flMc c.regs.flags && isCompute u then
      let (ts, s1) := setBeat u c c.beats n c.tiles s
      putCopy u { c with tiles := ts, beats := c.beats + 1 } s1
    else match beatAt u c (copyBase s c) c.beats s with
      | (some e, s1) => putCopy u { c with status := some e } s1
      | (none, s1) => chargeTo c.ctx 4 n (putCopy u { c with beats := c.beats + 1, bytes := c.bytes + n } s1)

/-- COPY_BEAT (R258): the engine performs one beat of its head copy, after starting it. (Log 52: DEDUCED) -/
def execCopyBeat (u : Nat) (s : State) : Out :=
  match headCopy (getCore s u) with
  | none => .next s
  | some c =>
    let s1 := startCopy u c s
    match headCopy (getCore s1 u) with
    | none => .next s1
    | some c1 => .next (stepCopy u c1 s1)

/-- QA_SLOT_RESERVE (R260): a started QA copy at the head of the engine takes the next slot when one can be reserved (R248); the place that a block-scaled source must keep is
that slot's (R208). -/
def execQaSlotReserve (u : Nat) (s : State) : Out :=
  match headCopy (getCore s u) with
  | none => .next s
  | some c =>
    let s1 := startCopy u c s
    match headCopy (getCore s1 u) with
    | none => .next s1
    | some c1 =>
      match (if flQa c1.regs.flags && !flQc c1.regs.flags && c1.started && c1.status.isNone && c1.slot.isNone then copyHome u c1 else none) with
      | none => .next s1
      | some h =>
        let q := flQnum c1.regs.flags
        let x := quireOf s1 h q
        if x.retired then .next (putCopy u { c1 with status := some 7#8 } s1)
        else if !x.cfg then .next (putCopy u { c1 with status := some 9#8 } s1)
        else if !canReserve x then .next s1
        else if badPlace s1 u c1 (slotBase s1 c1 h q x.res) then .next (putCopy u { c1 with status := some 5#8 } s1)
        else .next (openSlot (h, q, x.res) (putCopy u { c1 with slot := some (h, q, x.res) } (setQuire h q (reserveSlot x none) s1)))

/-! ### Completion (R257, R261, R263) -/

/-- The copy's bytes have all been performed or refused. -/
def copyOver (c : Copy) : Bool := c.started && (c.status.isSome || decide (copyBeats c ≤ c.beats))

/-- A completion message of a copy. -/
def copyMessage (u : Nat) (c : Copy) (body : BitVec 128) (s : State) : State :=
  sendNet { handle := c.handle, body := body, sender := none, colour := colourOf s u, ofQueue := c.ofQueue, copyOf := some (u, c.tid) } s

/-- TILE_COMPLETION (R261): the named cores of tile `tile` of unit `u`'s multicast have had their bytes performed or refused, and its router sends the TILE message, a release of
what the copy has written (R314). -/
def execTileCompletion (u tile : Nat) (s : State) : Out :=
  match headCopy (getCore s u) with
  | none => .next s
  | some c => match c.tiles.find? fun t => t.tile == tile && !t.sent with
    | none => .next s
    | some t =>
      if copyOver c || (tileCores c.regs.map.toNat tile).all t.refused.contains then
        .next (copyMessage u c (completionBody 2 c.tid t.status t.bytes tile)
          (endRegion (engineAgent 0 u c.eng) <| putCopy u { c with tiles := c.tiles.map fun (x : CopyTile) => if x.tile = tile then { x with sent := true } else x } s))
      else .next s

/-- Messages of a copy are still on their way. -/
def messagesOut (s : State) (u : Nat) (tid : BitVec 8) : Bool := s.net.any fun m => m.copyOf == some (u, tid)

/-- An ended copy whose messages have been delivered is no longer in flight (R257). (Log 26: DEDUCED) -/
def reapCopy (u : Nat) (tid : BitVec 8) (s : State) : State :=
  if messagesOut s u tid then s
  else modCore s u fun c => { c with copies := c.copies.filter fun x => !(x.tid == tid && x.ended) }

/-- Closes a QC copy on its slot; publishes the slot that a QA copy reserved (R259, R260). -/
def leaveCopySlot (c : Copy) (s : State) : State :=
  match c.slot with
  | none => s
  | some x =>
    let s1 := closeSlot x s
    if flQa c.regs.flags && !flQc c.regs.flags then setQuire x.1 x.2.1 (publishSlot (quireOf s1 x.1 x.2.1) x.2.2) s1 else s1

/-- COPY_COMPLETION (R263): the head copy of unit `u` ends; its token posts and its DONE message is sent. -/
def execCopyCompletion (u : Nat) (s : State) : Out :=
  match headCopy (getCore s u) with
  | none => .next s
  | some c0 =>
    let s0 := startCopy u c0 s
    match headCopy (getCore s0 u) with
    | none => .next s0
    | some c =>
      if !copyOver c || c.tiles.any (fun t => !t.sent) then .next s0
      else
        let s1 := endRegion (engineAgent 0 u c.eng) (leaveCopySlot c (putCopy u { c with ended := true } s0))
        let s2 := match c.token with | some t => postTo c.ctx t s1 | none => s1
        let s3 := if flMsg c.regs.flags && c.tiles.isEmpty then copyMessage u c (completionBody 1 c.tid (c.status.getD 0#8) c.bytes 0) s2 else s2
        .next (reapCopy u c.tid s3)

end Sys2Proof.Machine
end

