-- ==== Sys2Proof/Machine/Deadlock.lean ====
section
/-! DEFINITION. QUEUE_DEADLOCK (R254): a consumer group whose members are all blocked in QRES for 4,096 cycles. -/

namespace Sys2Proof.Machine

/-- A quire that a QRES names: home and number, for a core that holds issue on it. -/
def qresHeld (s : State) (u : Nat) (c : Core) : Option (Nat × Nat) :=
  match decodeWord c.ir with
  | some (.qres _ q a _) => (quireHome { s with cur := u, core := c } a).map fun h => (h, q.toNat)
  | _ => none

/-- The quire on which a context is blocked in QRES, or WAITING from it. -/
def blockedOn (s : State) (chrys : BitVec 56) : Option (Nat × Nat) :=
  match anyCtx s chrys with
  | none => none
  | some c =>
    if c.rcd.state = .waiting then (match c.why with | .quireFree h q => some (h, q) | _ => none)
    else if c.blockedAt.isSome && c.rcd.state == .running then
      match (liveUnits s).find? fun u => issues (getCore s u) chrys && (getCore s u).holdSince.isSome with
      | some u => qresHeld s u (getCore s u)
      | none => none
    else none

/-- An open or queued copy names the quire (R254, R259, R260). -/
def copyNames (s : State) (h q : Nat) : Bool :=
  (liveUnits s).any fun u => (getCore s u).copies.any fun c =>
    !c.ended && (flQc c.regs.flags || flQa c.regs.flags) && flQnum c.regs.flags == q && copyHome u c == some h

/-- A member's wait counts: its quire's CGRP is the group, and no copy names it. -/
def stuckMember (s : State) (g : BitVec 8) (chrys : BitVec 56) : Bool :=
  match blockedOn s chrys with
  | some (h, q) => (quireOf s h q).cgrp == g.setWidth 9 && !copyNames s h q
  | none => false

/-- Notes since when every member of each group has been stuck. -/
def noteStuck (s : State) : State :=
  let f (k : Nat) (x : Group) : Group :=
    let b := !x.live.isEmpty && x.live.all (stuckMember s (BitVec.ofNat 8 k))
    { x with stuck := if b then some (x.stuck.getD s.gtc) else none }
  setHub s { s.hub with groups := s.hub.groups.map fun (k, x) => (k, f k x) }

/-- The member's QRES takes the trap when it issues. -/
def deadlockMember (s : State) (chrys : BitVec 56) : State :=
  match blockedOn s chrys with
  | none => s
  | some (_, q) => touchCtx s chrys fun c =>
    { c with why := .deadlocked q, rcd := { c.rcd with state := if c.rcd.state = .waiting then .ready else c.rcd.state } }

/-- The group has been stuck for 4,096 cycles. -/
def deadlockDue (now : Nat) (x : Group) : Bool := match x.stuck with | some t => decide (t + 4096 ≤ now) | none => false

/-- Traps the members of group `k` = 256 × launch + group where its time is up. -/
def deadlockGroup (s : State) (k : Nat) : State :=
  let x := tabGet {} s.hub.groups k
  if deadlockDue s.gtc x then
    x.live.foldl deadlockMember (setHub s { s.hub with groups := tabSet {} s.hub.groups k { x with stuck := none } })
  else s

/-- Every group whose time is up in this cycle. -/
def deadlockAll (s : State) : State := (s.hub.groups.map (·.1)).foldl deadlockGroup s

/-- QUEUE_DEADLOCK (R254). -/
def execQueueDeadlock (lnch grp : Nat) (s : State) : Out := .next (deadlockGroup s (256 * lnch + grp % 256))

end Sys2Proof.Machine
end

