-- ==== Sys2Proof/Machine/Control.lean ====
section
/-! DEFINITION. Control flow and loops (R173 to R182), pacing and tokens (R183 to R186), control registers (R187, R188), TRAP, ERET, BRK, IDLE, REPLAY (R189 to R193),
their compact forms (R194), the core's own traps (R108, R118, R369) and the issue cycle (R21, R422). -/

namespace Sys2Proof.Machine

/-! ### Jumps and branches (R173 to R176) -/

/-- A target at a signed offset in parcels from the PC. -/
def relTarget {n : Nat} (s : State) (off : BitVec n) : BitVec 16 := s.core.ctx.pc + off.signExtend 16 * 2#16

/-- A transfer to `x` with a link in g[d]: the trap of the target comes before that of the link's write, as the pseudocode has them (R173, R360). -/
def jumpLink (sc : BitVec 2) (x : BitVec 16) (d : Reg) (link : Word) (s : State) : Out :=
  match fetchTrap s x with
  | some c => trapAs c s
  | none => checked [] (some (.g d, 1)) s fun s => jumpTo sc x (putG d link) s

/-- JAL (R173). -/
def execJal (off : BitVec 20) (d : Reg) (s : State) : Out := jumpLink 0#2 (relTarget s off) d ((s.core.ctx.pc + 4#16).setWidth 64) s

/-- JALR and C.JR, C.JALR: a jump to the IMA x, with a link `size` bytes on (R174, R194). -/
def jumpReg (sc : BitVec 2) (size : Nat) (x : Word) (d : Reg) (s : State) : Out :=
  if x.extractLsb' 16 48 ≠ 0#48 ∨ x.getLsbD 0 then trap 2#8 x s
  else jumpLink sc (x.setWidth 16) d ((s.core.ctx.pc + BitVec.ofNat 16 size).setWidth 64) s

/-- JALR (R174). -/
def execJalr (sc : BitVec 2) (imm : BitVec 10) (a d : Reg) (s : State) : Out :=
  checked [.g a] none s fun s => jumpReg sc 4 (rdG s a + imm.signExtend 64) d s

/-- A branch on two registers (R175, R176). -/
def branch (cond : Word → Word → Bool) (sc : BitVec 2) (imm : BitVec 10) (b a : Reg) (s : State) : Out :=
  checked [.g a, .g b] none s fun s => if cond (rdG s a) (rdG s b) then jumpTo sc (relTarget s imm) id s else .next (retire sc s)

def execBeq (sc : BitVec 2) (imm : BitVec 10) (b a : Reg) (s : State) : Out := branch (fun x y => x == y) sc imm b a s
def execBne (sc : BitVec 2) (imm : BitVec 10) (b a : Reg) (s : State) : Out := branch (fun x y => x != y) sc imm b a s
def execBlt (sc : BitVec 2) (imm : BitVec 10) (b a : Reg) (s : State) : Out := branch (fun x y => x.slt y) sc imm b a s
def execBge (sc : BitVec 2) (imm : BitVec 10) (b a : Reg) (s : State) : Out := branch (fun x y => !x.slt y) sc imm b a s
def execBltn (sc : BitVec 2) (imm : BitVec 10) (b a : Reg) (s : State) : Out := branch (fun x y => x.ult y) sc imm b a s
def execBgen (sc : BitVec 2) (imm : BitVec 10) (b a : Reg) (s : State) : Out := branch (fun x y => !x.ult y) sc imm b a s

/-! ### Loops (R177 to R181) -/

/-- A loop level of LV, or none for LV = 3. -/
def levelOf (lv : BitVec 2) : Option (Fin 3) := if h : lv.toNat < 3 then some ⟨lv.toNat, h⟩ else none

/-- Sets level N (R178). -/
def setLevel (n : Fin 3) (cnt : BitVec 32) (l : LoopLevel) (s : State) : State :=
  setRegs s { s.core.ctx.regs with lc := s.core.ctx.regs.lc.set n cnt, loops := s.core.ctx.regs.loops.set n l }

/-- The effect of LOOP, LOOPI and LOOPM from the count n (R178). -/
def loopOp (sc : BitVec 2) (len : BitVec 10) (lv : BitVec 2) (cnt : BitVec 32) (s : State) : Out :=
  match levelOf lv with
  | none => illegal s
  | some n =>
    let start := s.core.ctx.pc + 4#16
    let stop := start + len.setWidth 16 * 2#16
    if cnt = 0#32 then jumpTo sc stop (setLevel n 0#32 { s.core.ctx.regs.loops[n] with active := false }) s
    else .next (retire sc (setLevel n cnt { start := start, stop := stop, active := true } s))

/-- LOOP: n := MIN(g[a], 2^32 − 1). -/
def execLoopG (sc : BitVec 2) (len : BitVec 10) (a : Reg) (lv : BitVec 2) (s : State) : Out :=
  match levelOf lv with
  | none => illegal s
  | some _ => checked [.g a] none s fun s => loopOp sc len lv (BitVec.ofNat 32 (min (rdG s a).toNat (2 ^ 32 - 1))) s
/-- LOOPI: n := CNT. -/
def execLoopi (sc : BitVec 2) (len : BitVec 10) (cnt : BitVec 8) (lv : BitVec 2) (s : State) : Out := loopOp sc len lv (cnt.setWidth 32) s
/-- LOOPM: n := mh0, bytes 0 to 3 of the head message; 0 if the mailbox is empty (R126). -/
def execLoopm (sc : BitVec 2) (len : BitVec 10) (lv : BitVec 2) (s : State) : Out := loopOp sc len lv ((inbox s).headD 0#128 |>.setWidth 32) s

/-- LBRK (R181). (Log 19: DEDUCED) -/
def execLbrk (sc : BitVec 2) (lv : BitVec 2) (s : State) : Out :=
  match levelOf lv with
  | none => illegal s
  | some n => if s.core.ctx.regs.loops[n].active then jumpTo sc s.core.ctx.regs.loops[n].stop id s else .next (retire sc s)

/-! ### DLY, WAIT, TKRD, TKSET (R183 to R186) -/

/-- DLY n (R183). -/
def execDly (sc : BitVec 2) (imm : BitVec 10) (s : State) : Out := .next (retireBy 4 0 (imm.toNat + sc.toNat) s)

/-- An uncovered destination that a satisfied WAIT k, n covers (R132). -/
def coveredBy (t : TokenName) (n : BitVec 16) (e : Uncovered) : Bool := e.token == t && e.done && decide ((n - e.ordinal).toNat < 2 ^ 15)

/-- WAIT is satisfied: it covers the operations up to ordinal n, and acquires (R132, R328). -/
def waitDone (sc : BitVec 2) (t : TokenName) (n : BitVec 16) (s : State) : State :=
  retire sc (syncPoint (setCtx s { s.core.ctx with uncov := s.core.ctx.uncov.filter fun e => !coveredBy t n e }))

/-- TRAP_VAL of UNDER_WAIT KIND 3 (R136). -/
def kind3 (t : TokenName) : Word := BitVec.ofNat 64 (3 * 2 ^ 12 + t.num.toNat * 2 ^ 8 + boolNat t.handler * 2 ^ 7)

/-- The effect of WAIT (R184): it holds issue until REACHED; no switch point (R134). -/
def waitOp (sc : BitVec 2) (bank : BitVec 1) (k : BitVec 4) (n : BitVec 16) (s : State) : Out :=
  match tokenBank s bank k with
  | none => illegal s
  | some t =>
    if reached s.core.ctx t n then .next (waitDone sc t n s)
    else
      let ahead := (n - (ctxToken s.core.ctx t).issued).toNat
      if s.core.ctx.ctl.chkEn ∧ 1 ≤ ahead ∧ ahead < 2 ^ 15 then trap 9#8 (kind3 t) s else .next (hold false s)

def execWaitImm (sc : BitVec 2) (imm : BitVec 15) (bank : BitVec 1) (k : BitVec 4) (s : State) : Out := waitOp sc bank k (imm.setWidth 16) s
def execWaitReg (sc : BitVec 2) (bank : BitVec 1) (k : BitVec 4) (a : Reg) (s : State) : Out :=
  match tokenBank s bank k with
  | none => illegal s
  | some _ => checked [.g a] none s fun s => waitOp sc bank k ((rdG s a).setWidth 16) s

/-- TKRD (R185). -/
def execTkrd (sc : BitVec 2) (bank : BitVec 1) (k : BitVec 4) (d : Reg) (s : State) : Out :=
  match tokenBank s bank k with
  | none => illegal s
  | some t => checked [] (some (.g d, 2)) s fun s =>
    let x := ctxToken s.core.ctx t
    .next (retire sc (putGLater 2 d ((x.issued ++ x.count).setWidth 64) s))

/-- The effect of TKSET (R186); uncovered destinations keep their distance from the count. -/
def tksetOp (sc : BitVec 2) (bank : BitVec 1) (k : BitVec 4) (n : BitVec 16) (s : State) : Out :=
  match tokenBank s bank k with
  | none => illegal s
  | some t =>
    let x := ctxToken s.core.ctx t
    if outstanding x then trap 11#8 (tokenNo t) s
    else
      let c := ctxSetToken s.core.ctx t { count := n, issued := n }
      .next (retire sc (setCtx s { c with uncov := c.uncov.map fun (e : Uncovered) => if e.token = t then { e with ordinal := e.ordinal + (n - x.count) } else e }))

def execTksetImm (sc : BitVec 2) (imm : BitVec 15) (bank : BitVec 1) (k : BitVec 4) (s : State) : Out := tksetOp sc bank k (imm.setWidth 16) s
def execTksetReg (sc : BitVec 2) (bank : BitVec 1) (k : BitVec 4) (a : Reg) (s : State) : Out :=
  match tokenBank s bank k with
  | none => illegal s
  | some _ => checked [.g a] none s fun s => tksetOp sc bank k ((rdG s a).setWidth 16) s

/-! ### Control registers (R187, R188) -/

/-- How a control register may be accessed (R188). -/
inductive CrClass where
  | unassigned | readOnly | readWrite
  /-- R outside steward mode, RW in it. -/
  | stewardWrite
  /-- "none" outside steward mode, RW in it. -/
  | stewardOnly
  deriving DecidableEq, Repr

/-- The class of a CRN (R188). -/
def crClass (crn : BitVec 12) : CrClass :=
  match crn.toNat with
  | 0x000 | 0x006 | 0x008 | 0x020 | 0x021 => .readWrite
  | 0x001 | 0x002 | 0x003 | 0x004 | 0x009 | 0x00A | 0x00B | 0x018 => .readOnly
  | 0x005 | 0x007 => .stewardWrite
  | 0x010 | 0x011 | 0x012 | 0x013 | 0x014 | 0x015 | 0x016 | 0x017 => .readWrite
  | 0x040 | 0x041 | 0x042 | 0x043 | 0x044 => .stewardOnly
  | _ => .unassigned

/-- The GTC that CRD shows: the core's copy, never less than it has shown (R22). (Log 6: DESIGN CHOICE) -/
def shownGtc (s : State) : Nat := max s.core.gtcSeen (localGtc s s.cur)

/-- VTIME (R382). -/
def vtimeOf (s : State) : Word :=
  match partOf s s.cur with
  | some p => vtime (getPart s p) (shownGtc s)
  | none => Config.vtimeOutside s.freeCtr

/-- TRAP_CAUSE as a control register (R361). -/
def causeWord (c : TrapCause) : Word := BitVec.ofNat 64 (c.code.toNat + c.reason.toNat * 2 ^ 8 + boolNat c.async * 2 ^ 63)
/-- TRAP_JNL as a control register (R364). -/
def jnlWord (j : TrapJnl) : Word := BitVec.ofNat 64 (j.entry.toNat + boolNat j.log * 2 ^ 5 + boolNat j.valid * 2 ^ 6)

/-- A control register's value (R188); COPY_GO is no stored value. -/
def crValue (s : State) (crn : BitVec 12) : Word :=
  let c := s.core.ctx.ctl
  match crn.toNat with
  | 0x000 => c.owner.setWidth 64
  | 0x001 => BitVec.ofNat 64 (coreId s.cur)
  | 0x002 => BitVec.ofNat 64 (coreBase s.cur)
  | 0x003 => BitVec.ofNat 64 (shownGtc s)
  | 0x004 => vtimeOf s
  | 0x005 => BitVec.ofNat 64 (energyWord c)
  | 0x006 => BitVec.ofNat 64 (boolNat c.chkEn)
  | 0x007 => BitVec.ofNat 64 (s.core.acc.toNat + s.core.rf.toNat * 2 ^ 8)
  | 0x008 => c.fpFlags.setWidth 64
  | 0x009 => s.core.ctx.regs.lc[0].setWidth 64
  | 0x00A => s.core.ctx.regs.lc[1].setWidth 64
  | 0x00B => s.core.ctx.regs.lc[2].setWidth 64
  | 0x010 => c.copy.src
  | 0x011 => c.copy.dst
  | 0x012 => c.copy.len.setWidth 64
  | 0x013 => c.copy.sta
  | 0x014 => c.copy.stb
  | 0x015 => c.copy.shape.setWidth 64
  | 0x016 => c.copy.map
  | 0x017 => c.copy.flags.setWidth 64
  | 0x020 => c.fitAbs.setWidth 64
  | 0x021 => c.fitRel.setWidth 64
  | 0x040 => c.trapPc.setWidth 64
  | 0x041 => causeWord c.cause
  | 0x042 => c.trapVal
  | 0x043 => jnlWord c.jnl
  | 0x044 => s.core.stopAt
  | _ => 0#64

/-- The access check of R187: an unassigned CRN, then a register that does not exist outside steward mode, then a write of an R register. -/
def crCheck (s : State) (crn : BitVec 12) (write : Bool) : Option Cause :=
  match crClass crn with
  | .unassigned => some (1#8, s.core.ir.setWidth 64)
  | .readOnly => if write then some (1#8, s.core.ir.setWidth 64) else none
  | .readWrite => none
  | .stewardWrite => if write && !steward s then some (1#8, s.core.ir.setWidth 64) else none
  | .stewardOnly => if steward s then none else some (3#8, crn.setWidth 64)

/-- CRD (R187). -/
def execCrd (crn : BitVec 12) (d : Reg) (s : State) : Out :=
  match crCheck s crn false with
  | some c => trapAs c s
  | none =>
    if crn = 0x018#12 then copyGo d s
    else checked [] (some (.g d, 2)) s fun s =>
      let s1 := if crn = 3#12 ∨ crn = 4#12 then nextFree { s with core := { s.core with gtcSeen := shownGtc s } } else s
      .next (retire 0#2 (putGLater 2 d (crValue s crn) s1))

/-! ### Writes of control registers -/

/-- A write of OWNER with ID t takes effect (R61). -/
def ownerAllowed (s : State) (t : BitVec 12) : Bool :=
  let c := s.core.ctx.ctl.owner
  if steward s then t == 0#12 || (ownerDesc s t).valid
  else if t = c then true
  else if c = 0#12 then (ownerDesc s t).valid
  else t != 0#12 && (ownerDesc s t).valid &&
    (match findRange s c (codeVa s s.core.ctx.pc).toNat with
     | some e => (entryCheck s e .E).isNone && (region s e.region).creator == t
     | none => false)

/-- A write of OWNER (R61, R62). -/
def writeOwner (x : Word) (s : State) : Out :=
  let t := x.setWidth 12
  if ownerAllowed s t then .next (retire 0#2 (setCtl s { s.core.ctx.ctl with owner := t })) else trap 3#8 (t.setWidth 64) s

/-- A write of PART_WORD (R243, R244): it waits for the engine work into the pool. -/
def writePartWord (x : Word) (s : State) : Out :=
  let w := x.setWidth 13
  if !partOk s.cur w then .next (retire 0#2 s)
  else if partWaits s s.cur then .next (hold false s)
  else .next (retire 0#2 (applyPart s.cur w s))

/-- A write of STOP_AT (R376). -/
def writeStopAt (x : Word) (s : State) : Out := .next (retire 0#2 { s with core := { s.core with stopAt := x } })

/-- A write of ENERGY: COUNT and SAT are written and FRAC is cleared; the charges made in this cycle are added to the written value (R187, R421). -/
def writeEnergy (x : Word) (s : State) : Out :=
  let c := s.core.ctx
  .next (retire 0#2 (setCtx s (addEnergy { c with recent := 0, ctl := { c.ctl with energy := (x.extractLsb' 0 48).toNat * 4096, energySat := x.getLsbD 48 } } c.recent)))

/-- COPY_FLAGS without its reserved bit 11 (R256). -/
def maskFlags (x : Word) : BitVec 23 := x.setWidth 23 &&& ~~~(1#23 <<< 11)

/-- COPY_MAP as it is written: on a compute core it holds the set of R261, without its reserved bits; a channel core keeps it whole (R187, R277). -/
def maskMap (comp : Bool) (x : Word) : Word := if comp then x &&& 0xF8FF1FFFC0#64 else x

/-- A plain register's new value in the control state of a context on a compute core, or on a channel core. -/
def ctlWrite (comp : Bool) (c : Ctl) (crn : BitVec 12) (x : Word) : Ctl :=
  match crn.toNat with
  | 0x006 => { c with chkEn := x.getLsbD 0 }
  | 0x008 => { c with fpFlags := x.setWidth 5 }
  | 0x010 => { c with copy := { c.copy with src := x } }
  | 0x011 => { c with copy := { c.copy with dst := x } }
  | 0x012 => { c with copy := { c.copy with len := x.setWidth 24 } }
  | 0x013 => { c with copy := { c.copy with sta := x } }
  | 0x014 => { c with copy := { c.copy with stb := x } }
  | 0x015 => { c with copy := { c.copy with shape := x.setWidth 16 } }
  | 0x016 => { c with copy := { c.copy with map := maskMap comp x } }
  | 0x017 => { c with copy := { c.copy with flags := maskFlags x } }
  | 0x020 => { c with fitAbs := x.setWidth 32 }
  | 0x021 => { c with fitRel := x.setWidth 32 }
  | 0x040 => { c with trapPc := x.setWidth 56 }
  | 0x041 => { c with cause := { async := x.getLsbD 63, reason := x.extractLsb' 8 8, code := x.setWidth 8 } }
  | 0x042 => { c with trapVal := x }
  | 0x043 => { c with jnl := { valid := x.getLsbD 6, log := x.getLsbD 5, entry := x.setWidth 5 } }
  | _ => c

/-- The write of a control register whose access is allowed. -/
def crPut (crn : BitVec 12) (x : Word) (s : State) : Out :=
  match crn.toNat with
  | 0x000 => writeOwner x s
  | 0x005 => writeEnergy x s
  | 0x007 => writePartWord x s
  | 0x044 => writeStopAt x s
  | _ => .next (retire 0#2 (setCtl s (ctlWrite (isCompute s.cur) s.core.ctx.ctl crn x)))

/-- CWR, CSET and CCLR (R187): `f` gives the new value from the old one and g[a]. -/
def crWrite (f : Word → Word → Word) (crn : BitVec 12) (a : Reg) (s : State) : Out :=
  match crCheck s crn true with
  | some c => trapAs c s
  | none => checked [.g a] none s fun s => crPut crn (f (crValue s crn) (rdG s a)) s

def execCwr (crn : BitVec 12) (a : Reg) (s : State) : Out := crWrite (fun _ y => y) crn a s
def execCset (crn : BitVec 12) (a : Reg) (s : State) : Out := crWrite (fun x y => x ||| y) crn a s
def execCclr (crn : BitVec 12) (a : Reg) (s : State) : Out := crWrite (fun x y => x &&& ~~~y) crn a s

/-- OWNER_WRITE (R61): the core in focus writes OWNER. -/
def execOwnerWrite (x : Word) (s : State) : Out := writeOwner x s
/-- PART_WORD_WRITE (R244): the core in focus, in steward mode, writes PART_WORD. -/
def execPartWordWrite (x : Word) (s : State) : Out := if steward s then writePartWord x s else illegal s
/-- STOP_AT_WRITE (R376): the core in focus, in steward mode, writes STOP_AT. -/
def execStopAtWrite (x : Word) (s : State) : Out := if steward s then writeStopAt x s else trap 3#8 0x044#64 s
/-- ENERGY_WRITE (R421): the core in focus, in steward mode, writes ENERGY. -/
def execEnergyWrite (x : Word) (s : State) : Out := if steward s then writeEnergy x s else illegal s

/-! ### TRAP, ERET, BRK, IDLE, REPLAY (R189 to R193) -/

/-- TRAP (R189): the exact SOFTWARE trap, with TRAP_PC the next instruction. -/
def execTrapI (_sc : BitVec 2) (code : BitVec 10) (s : State) : Out :=
  .next (takeTrapAt (codeVa s s.core.ctx.pc + 4#56) (13#8, code.setWidth 64) (charge 0 1 s))

/-- ERET (R190, R359); illegal outside steward mode (R118). -/
def execEret (sc : BitVec 2) (s : State) : Out := if steward s then .next (returnFromTrap sc s) else illegal s

/-- BRK (R191): it halts the core's armed halt group, or raises BREAKPOINT. -/
def execBrk (sc : BitVec 2) (code : BitVec 10) (s : State) : Out :=
  match armedGroup s s.cur with
  | some g => .next (haltChain g (retire sc s) 64)
  | none => .next (takeTrapAt (codeVa s s.core.ctx.pc + 4#56) (14#8, code.setWidth 64) (charge 0 1 s))

/-- IDLE (R192): it waits for the fixed-latency writes, and then issues nothing until an event of R192 has come or it ends without a visible cause, as a free value says;
while it idles its core is at a switch point. (Log 53: DESIGN CHOICE) -/
def execIdle (sc : BitVec 2) (s : State) : Out :=
  let c := s.core.ctx
  if !c.pend.isEmpty then .next (hold true s)
  else if c.idle = some true then .next (retire sc (setCtx s { c with idle := none }))
  else if Config.idleEnds s.freeCtr then .next (retire sc (setCtx (nextFree s) { c with idle := none }))
  else .next (hold true (setCtx (nextFree s) { c with idle := some false }))

/-- REPLAY's record after a refusal at issue (R371). -/
def replayRefused (n : BitVec 4) (e : LogEntry) (r : Refuse) (s : State) : State :=
  let e1 := { e with reason := causeOf r }
  modCtx (setLog s.cur n.toNat (some e1) s) e.ctx fun c => setWindowBytes c 0x20 (recordBytes (logRecord e1))

/-- REPLAY (R193): re-issues a held load for its logged owner and holds until it completes or is refused. -/
def execReplay (sc : BitVec 2) (entry : BitVec 4) (s : State) : Out :=
  if steward s then
    match s.core.log[entry.toNat]'(entry.isLt) with
    | none => illegal s
    | some e =>
      if e.held.isNone then illegal s
      else if e.replaying then .next (hold false s)
      else match check s e.owner e.ea (2 ^ e.sizeLog) .I with
        | .error r => .next (retire sc (replayRefused entry e r (checkFill s e.owner e.ea (2 ^ e.sizeLog) .I)))
        | .ok (st, s1) => .next (hold false (setLog s1.cur entry.toNat (some { e with replaying := true, replaySc := sc, stamp := st }) s1))
  else illegal s

/-! ### Compact control (R115, R194) -/

def execCDly (imm : BitVec 8) (s : State) : Out := .next (retireBy 2 0 imm.toNat s)
def execCJr (r : BitVec 3) (s : State) : Out := checked [.g (cReg r)] none s fun s => jumpReg 0#2 2 (rdG s (cReg r)) 0#5 s
def execCJalr (r : BitVec 3) (s : State) : Out := checked [.g (cReg r)] none s fun s => jumpReg 0#2 2 (rdG s (cReg r)) 1#5 s

/-- C.BEQZ and C.BNEZ. -/
def branchC (cond : Word → Bool) (r : BitVec 3) (off : BitVec 8) (s : State) : Out :=
  checked [.g (cReg r)] none s fun s => if cond (rdG s (cReg r)) then jumpTo 0#2 (relTarget s off) id s else .next (retireC s)

def execCBeqz (r : BitVec 3) (off : BitVec 8) (s : State) : Out := branchC (fun x => x == 0#64) r off s
def execCBnez (r : BitVec 3) (off : BitVec 8) (s : State) : Out := branchC (fun x => x != 0#64) r off s
def execCJ (off : BitVec 11) (s : State) : Out := jumpTo 0#2 (relTarget s off) id s

/-! ### Traps of the core itself -/

/-- ILLEGAL_INSTRUCTION (R118): the core meets an encoding that is not an assigned instruction. -/
def execIllegalInstruction (word : BitVec 32) (s : State) : Out := .next (takeTrap (1#8, word.setWidth 64) s)

/-- NOT_LANDED_FETCH (R108): the instruction at the PC cannot be fetched. -/
def execNotLandedFetch (s : State) : Out :=
  match fetchTrap s s.core.ctx.pc with
  | some c => .next (takeTrap c s)
  | none => .next s

/-- A pending asynchronous trap of the unit may be taken now (R369). -/
def asyncDue (c : Core) : Option PendTrap :=
  if c.issuing.isSome && !c.ctx.ctl.steward && !issueAwaits c && !haltedCore c then firstTrap (pendTraps c c.ctx.rcd.chrys) else none

/-- ASYNC_TRAP (R369). -/
def execAsyncTrap (u : Nat) (s : State) : Out :=
  match asyncDue (getCore s u) with
  | some t => let f := focus s u; .next (focus (takeAsync t (setCtx f (endIdle f f.core.ctx))) s.cur)
  | none => .next s

/-! ### The issue cycle (R21, R128, R168, R422) -/

/-- Static energy of a cycle: each LOADED slot takes an equal share (R422). -/
def chargeStatic (w : Nat) (c : Core) : Core :=
  let n := (c.slots.toList.filter fun sl => sl.sst == .loaded).length
  if n = 0 ∨ w / n = 0 then c
  else
    let c1 := { c with slots := c.slots.map fun (sl : Slot) => if sl.sst = .loaded then { sl with ctx := addEnergy sl.ctx (w / n) } else sl }
    match c.issuing with
    | some i => if (slotOf c i.toNat).sst = .loaded then { c1 with ctx := addEnergy c1.ctx (w / n) } else c1
    | none => c1

/-- A new cycle begins: no charge has been made in it (R421). -/
def clearRecent (c : Core) : Core :=
  { c with ctx := { c.ctx with recent := 0 }, slots := c.slots.map fun (sl : Slot) => { sl with ctx := { sl.ctx with recent := 0 } } }

/-- One core in the cycle that begins at GTC `now`; the static energy is that of the cycle that ends. -/
def cycleCore (a : Acct) (now u : Nat) (c : Core) : Core :=
  let c1 := clearRecent (chargeStatic (if isCompute u then a.sw.toNat else a.swc.toNat) c)
  { c1 with ctx := settle now c1.ctx }

/-- A divide completes no later than 40 cycles after it issued (R168). -/
def lateDivide (now : Nat) (c : Core) : Option Divide := c.divs.find? fun d => decide (d.issuedAt + 40 ≤ now)

/-- Completes the divides of unit `u` that may wait no longer; at most `n`. -/
def finishDivides (u : Nat) (s : State) : Nat → State
  | 0 => s
  | n + 1 => match lateDivide s.gtc (getCore s u) with
    | none => s
    | some v =>
      let s1 := modCore s u fun c => { c with divs := c.divs.erase v }
      finishDivides u (touchCtx s1 v.ctx fun c => ctxPost (ctxUncovDone (ctxPutG c v.dest v.result) v.token (.g v.dest)) v.token) n

/-- Watchdogs that expire in this cycle (R384). -/
def watchAll (s : State) : State :=
  s.hub.queues.foldl (fun s x => match execWatchdogExpiry (x.1 / 256) (x.1 % 256) s with | .next t => t | _ => s) s

end Sys2Proof.Machine
end

