-- ==== Sys2Proof/Machine/Flags.lean ====
section
/-! DEFINITION. The sticky floating-point flags of R200, which are the machine's only condition flags, and how they combine. -/

namespace Sys2Proof.Machine

/-- FP_FLAGS bits [4:0]: TS NV OF UF NX (R200). -/
abbrev FpFlags := BitVec 5

def flagNX : FpFlags := 1#5
def flagUF : FpFlags := 2#5
def flagOF : FpFlags := 4#5
def flagNV : FpFlags := 8#5
def flagTS : FpFlags := 16#5

/-- A flag where a condition holds. -/
def flagIf (c : Bool) (f : FpFlags) : FpFlags := if c then f else 0#5

/-- The flags that any of several lanes raises (R200). -/
def flagsAny (fs : List FpFlags) : FpFlags := fs.foldl (· ||| ·) 0#5

/-- Overflow is always inexact. -/
def flagsOverflow : FpFlags := flagOF ||| flagNX

/-- UF only where the result is also inexact (R200); `tiny` is judged after rounding. -/
def flagsRounded (inexact tiny : Bool) : FpFlags := flagIf inexact flagNX ||| flagIf (inexact && tiny) flagUF

/-- The flags of a table and of an engine, which have no TS: NV OF UF NX (R238). -/
def engineFlags (f : FpFlags) : BitVec 4 := f.extractLsb' 0 4

end Sys2Proof.Machine
end

