-- ==== Sys2Proof/Machine/Numbers.lean ====
section
/-! DEFINITION. Numbers to the last bit: exact values, .bf16, .f32 and A96, tapered formats, ROUND, SAT and the conversions of R214 (R195 to R214). -/

namespace Sys2Proof.Machine

/-! ### Exact values -/

/-- An exact value: a NaN, signalling or quiet; NaR; an infinity; or (−1)^neg × m × 2^e, where m = 0 is a signed zero. -/
inductive Num where
  | nan (signalling : Bool)
  | nar
  | inf (neg : Bool)
  | fin (neg : Bool) (m : Nat) (e : Int)
  deriving DecidableEq, Repr, Inhabited

/-- +0. -/
def Num.zero : Num := .fin false 0 0

/-- An integer as an exact value. -/
def numOfInt (x : Int) : Num := .fin (decide (x < 0)) x.natAbs 0

/-- A NaN or NaR. -/
def isNanNum : Num → Bool
  | .nan _ => true
  | .nar => true
  | _ => false

/-- A signalling NaN. -/
def isSignalling : Num → Bool
  | .nan s => s
  | _ => false

/-- m × 2^(e − lo) as an integer, for a lower exponent `lo` ≤ e. -/
def alignTo (m : Nat) (e lo : Int) : Nat := m * 2 ^ (e - lo).toNat

/-- Compares m1 × 2^e1 with m2 × 2^e2. -/
def magLt (m1 : Nat) (e1 : Int) (m2 : Nat) (e2 : Int) : Bool := decide (alignTo m1 e1 (min e1 e2) < alignTo m2 e2 (min e1 e2))

/-- Two magnitudes are equal. -/
def magEq (m1 : Nat) (e1 : Int) (m2 : Nat) (e2 : Int) : Bool := alignTo m1 e1 (min e1 e2) == alignTo m2 e2 (min e1 e2)

/-- Negates a value; a NaN and NaR have no sign. -/
def negNum : Num → Num
  | .inf n => .inf (!n)
  | .fin n m e => .fin (!n) m e
  | x => x

/-- |x|. -/
def absNum : Num → Num
  | .inf _ => .inf false
  | .fin _ m e => .fin false m e
  | x => x

/-- Multiplies by 2^s exactly (R207). -/
def scaleNum (s : Int) : Num → Num
  | .fin n m e => .fin n m (e + s)
  | x => x

/-- An exact product and whether it is an invalid operation: ∞ × 0 or a signalling NaN (R198, R222, R223). -/
def mulNum (x y : Num) : Num × Bool :=
  match x, y with
  | .fin a m e, .fin b n f => (.fin (a != b) (m * n) (e + f), false)
  | .inf a, .fin b n _ => if n = 0 then (.nan false, true) else (.inf (a != b), false)
  | .fin a m _, .inf b => if m = 0 then (.nan false, true) else (.inf (a != b), false)
  | .inf a, .inf b => (.inf (a != b), false)
  | x, y => (.nan false, isSignalling x || isSignalling y)

/-- Lowest exponent among finite terms. -/
def lowExp : List Num → Int → Int
  | [], lo => lo
  | .fin _ _ e :: xs, lo => lowExp xs (min e lo)
  | _ :: xs, lo => lowExp xs lo

/-- The signed sum of finite terms at exponent `lo`. -/
def sumAt (lo : Int) : List Num → Int
  | [] => 0
  | .fin n m e :: xs => (if n then - (alignTo m e lo : Int) else (alignTo m e lo : Int)) + sumAt lo xs
  | _ :: xs => sumAt lo xs

/-- A negative zero. -/
def isNegZero : Num → Bool
  | .fin n m _ => n && m == 0
  | _ => false

/-- The sign of a term. -/
def negOf : Num → Bool
  | .fin n _ _ => n
  | .inf n => n
  | _ => false

/-- An infinity. -/
def isInfNum : Num → Bool
  | .inf _ => true
  | _ => false

/-- An exact sum and whether it is an invalid operation (R199, R222): a NaN term; infinities of both signs; otherwise the sum.
An exact zero is −0 where every term is −0, and otherwise −0 under .rdn and +0 under every other mode. -/
def sumNum (rm : BitVec 2) (xs : List Num) : Num × Bool :=
  if xs.any isNanNum then (.nan false, xs.any isSignalling)
  else
    let infs := xs.filter isInfNum
    match infs with
    | [] =>
      let lo := lowExp xs (match xs with | .fin _ _ e :: _ => e | _ => 0)
      let t := sumAt lo xs
      if t = 0 then (.fin (if xs.all isNegZero then !xs.isEmpty else if xs.all (fun x => !negOf x) then false else rm == 3#2) 0 0, false)
      else (.fin (decide (t < 0)) t.natAbs lo, false)
    | i :: rest => if rest.all fun x => negOf x == negOf i then (.inf (negOf i), false) else (.nan false, true)

/-! ### Rounding an exact magnitude -/

/-- Whether a rounding mode rounds up a magnitude whose remainder is `rem` of `full`; `odd` is the kept value's last bit (R199). -/
def roundsUp (rm : BitVec 2) (neg odd : Bool) (rem full : Nat) : Bool :=
  match rm.toNat with
  | 0 => decide (full < 2 * rem) || (decide (2 * rem = full) && odd)
  | 1 => false
  | 2 => decide (rem ≠ 0) && !neg
  | _ => decide (rem ≠ 0) && neg

/-- m × 2^e rounded to a multiple of 2^q: the multiple, and whether it is inexact. -/
def roundAt (rm : BitVec 2) (neg : Bool) (m : Nat) (e q : Int) : Nat × Bool :=
  if q ≤ e then (m * 2 ^ (e - q).toNat, false)
  else
    let full := 2 ^ (q - e).toNat
    let k := m / full
    let rem := m % full
    (if roundsUp rm neg (k % 2 == 1) rem full then k + 1 else k, decide (rem ≠ 0))

/-- A binary format: precision, least normal exponent and greatest exponent. -/
structure BinFmt where
  prec : Nat
  emin : Int
  emax : Int

/-- .bf16, .f32 (R197) and A96 (R210). -/
def fmtBf16 : BinFmt := { prec := 8, emin := -126, emax := 127 }
def fmtF32 : BinFmt := { prec := 24, emin := -126, emax := 127 }
def fmtA96 : BinFmt := { prec := 80, emin := -16382, emax := 16383 }

/-- A magnitude rounded to a format: k × 2^q, or an overflow; and its flags. -/
def roundMag (f : BinFmt) (rm : BitVec 2) (neg : Bool) (m : Nat) (e : Int) : Option (Nat × Int) × FpFlags :=
  let top := e + (Nat.log2 m : Int)
  let q := max (top - (f.prec - 1 : Nat)) (f.emin - (f.prec - 1 : Nat))
  let (k, inexact) := roundAt rm neg m e q
  -- tiny after rounding: with an unbounded exponent the result still lies below the least normal
  let free := roundAt rm neg m e (top - (f.prec - 1 : Nat))
  let tiny := magLt free.1 (top - (f.prec - 1 : Nat)) 1 f.emin
  if magLt k q 1 (f.emax + 1) then (some (k, q), flagsRounded inexact tiny) else (none, flagsOverflow)

/-- Overflow gives infinity rather than the largest finite value (R199). -/
def overflowInf (rm : BitVec 2) (neg : Bool) : Bool :=
  match rm.toNat with
  | 0 => true
  | 1 => false
  | 2 => !neg
  | _ => neg

/-! ### .bf16 and .f32 words -/

/-- Exponent and fraction fields of k × 2^q in a format with 8 exponent bits (R197). -/
def packFields (frac : Nat) (k : Nat) (q : Int) : Nat :=
  if k < 2 ^ frac then k
  else if k = 2 ^ (frac + 1) then (q + 1 + frac + 127).toNat * 2 ^ frac
  else (q + frac + 127).toNat * 2 ^ frac + (k - 2 ^ frac)

/-- ROUND to a float format with `frac` fraction bits: the word and its flags (R197 to R200). -/
def roundFloat (f : BinFmt) (frac : Nat) (rm : BitVec 2) (x : Num) : Nat × FpFlags :=
  let sign (n : Bool) : Nat := if n then 2 ^ (frac + 8) else 0
  match x with
  | .nan s => (255 * 2 ^ frac + 2 ^ (frac - 1), flagIf s flagNV)
  | .nar => (255 * 2 ^ frac + 2 ^ (frac - 1), 0#5)
  | .inf n => (sign n + 255 * 2 ^ frac, 0#5)
  | .fin n m e =>
    if m = 0 then (sign n, 0#5)
    else match roundMag f rm n m e with
      | (some (k, q), fl) => (sign n + packFields frac k q, fl)
      | (none, fl) => (sign n + (if overflowInf rm n then 255 * 2 ^ frac else 255 * 2 ^ frac - 1), fl)

/-- The value of a float word with `frac` fraction bits (R197). -/
def floatNum (frac : Nat) (x : Nat) : Num :=
  let f := x % 2 ^ frac
  let ex := x / 2 ^ frac % 256
  let n := x / 2 ^ (frac + 8) % 2 == 1
  if ex = 255 then (if f = 0 then .inf n else .nan (decide (f < 2 ^ (frac - 1))))
  else if ex = 0 then .fin n f (-126 - frac)
  else .fin n (2 ^ frac + f) ((ex : Int) - 127 - frac)

/-! ### Tapered words (R202 to R205) -/

/-- Width and es of a tapered type code (R202). -/
def taperBits (t : BitVec 4) : Nat := elemWidth t
def taperEs (t : BitVec 4) : Nat := if t = 12#4 then 0 else 1

/-- The low `n` bits of a word, most significant first. -/
def bitsDown (n x : Nat) : List Bool := (List.range n).map fun i => x / 2 ^ (n - 1 - i) % 2 == 1

/-- The number that bits, most significant first, write. -/
def ofBits (bs : List Bool) : Nat := bs.foldl (fun a b => 2 * a + (if b then 1 else 0)) 0

/-- Value of a positive tapered pattern of `n` bits: its significand and exponent (R202 steps 3 to 6). -/
def taperMag (n es w : Nat) : Nat × Int :=
  let bs := bitsDown (n - 1) w
  let first := bs.headD false
  let r := (bs.takeWhile (· == first)).length
  let k : Int := if first then (r : Int) - 1 else - (r : Int)
  let rest := bs.drop (r + 1)
  let ebits := rest.take es
  let e := ofBits ebits * 2 ^ (es - ebits.length)
  let fb := rest.drop es
  (2 ^ fb.length + ofBits fb, k * 2 ^ es + e - fb.length)

/-- The value of a tapered word (R202). -/
def taperNum (t : BitVec 4) (w : Nat) : Num :=
  let n := taperBits t
  if w = 0 then Num.zero
  else if w = 2 ^ (n - 1) then .nar
  else if w < 2 ^ (n - 1) then let v := taperMag n (taperEs t) w; .fin false v.1 v.2
  else let v := taperMag n (taperEs t) (2 ^ n - w); .fin true v.1 v.2

/-- The largest positive pattern whose value is at most m × 2^e, found bit by bit from bit `i` − 1 down. -/
def taperBelow (n es m : Nat) (e : Int) : Nat → Nat → Nat
  | 0, p => p
  | i + 1, p =>
    let v := taperMag n es (p + 2 ^ i)
    taperBelow n es m e i (if magLt m e v.1 v.2 then p else p + 2 ^ i)

/-- The pattern that a magnitude above minpos and below maxpos rounds to (R205). -/
def taperNear (n es : Nat) (rm : BitVec 2) (neg : Bool) (m : Nat) (e : Int) : Nat :=
  let p := taperBelow n es m e (n - 1) 0
  let v := taperMag n es p
  if magEq m e v.1 v.2 then p
  else
    let mid := taperMag (n + 1) es (2 * p + 1)
    match rm.toNat with
    | 0 => if magLt mid.1 mid.2 m e || (magEq mid.1 mid.2 m e && p % 2 == 1) then p + 1 else p
    | 1 => p
    | 2 => if neg then p else p + 1
    | _ => if neg then p + 1 else p

/-- ROUND to a tapered type (R205). -/
def roundTaper (t : BitVec 4) (rm : BitVec 2) (x : Num) : Nat × FpFlags :=
  let n := taperBits t
  let es := taperEs t
  match x with
  | .nar => (2 ^ (n - 1), 0#5)
  | .nan _ => (2 ^ (n - 1), flagNV)
  | .inf _ => (2 ^ (n - 1), flagNV)
  | .fin neg m e =>
    if m = 0 then (0, 0#5)
    else
      let maxp := 2 ^ (n - 1) - 1
      let hi := taperMag n es maxp
      let lo := taperMag n es 1
      let p := if !magLt m e hi.1 hi.2 then maxp else if !magLt lo.1 lo.2 m e then 1 else taperNear n es rm neg m e
      let v := taperMag n es p
      let ts := magLt hi.1 hi.2 m e || magLt m e lo.1 lo.2
      (if neg then 2 ^ n - p else p, flagIf ts flagTS ||| flagIf (!magEq m e v.1 v.2) flagNX)

/-! ### Integers -/

/-- The signed or unsigned value of an integer lane (R196). -/
def intOf (signed : Bool) (w x : Nat) : Int := if signed && x / 2 ^ (w - 1) % 2 == 1 then (x : Int) - 2 ^ w else x

/-- The pattern of an integer modulo 2^w. -/
def wrapInt (w : Nat) (x : Int) : Nat := (x % (2 ^ w : Int)).toNat

/-- SAT (R119). -/
def satInt (signed : Bool) (w : Nat) (x : Int) : Int :=
  if signed then max (-(2 ^ (w - 1) : Int)) (min x (2 ^ (w - 1) - 1)) else max 0 (min x (2 ^ w - 1))

/-- x rounded to an integer under rm: the integer and whether it is inexact. -/
def roundToInt (rm : BitVec 2) (neg : Bool) (m : Nat) (e : Int) : Int × Bool :=
  let (k, ix) := roundAt rm neg m e 0
  (if neg then -(k : Int) else k, ix)

/-- A float or tapered value to an integer type (R214). -/
def numToInt (t : BitVec 4) (rm : BitVec 2) (x : Num) : Nat × FpFlags :=
  let w := elemWidth t
  let sg := elemIsSigned t
  match x with
  | .nan _ => (0, flagNV)
  | .nar => (0, flagNV)
  | .inf n => (wrapInt w (satInt sg w (if n then -(2 ^ w : Int) else 2 ^ w)), flagNV)
  | .fin n m e =>
    let (k, ix) := roundToInt rm n m e
    let s := satInt sg w k
    (wrapInt w s, if s = k then flagIf ix flagNX else flagNV)

/-! ### Elements -/

/-- The value of an element of a type (ELEM of R119). -/
def elemNum (t : BitVec 4) (x : Nat) : Num :=
  if elemIsInt t then numOfInt (intOf (elemIsSigned t) (elemWidth t) x)
  else if t = 8#4 then floatNum 7 x
  else if t = 9#4 then floatNum 23 x
  else taperNum t x

/-- ROUND(x, t, rm) for a float or tapered type (R119). -/
def roundNum (t : BitVec 4) (rm : BitVec 2) (x : Num) : Nat × FpFlags :=
  if t = 8#4 then roundFloat fmtBf16 7 rm x
  else if t = 9#4 then roundFloat fmtF32 23 rm x
  else if elemIsTapered t then roundTaper t rm x
  else numToInt t rm x

/-- A NaN element becomes canonical, with NV for a signalling NaN; every other element is unchanged (R198, R214). -/
def canonElem (t : BitVec 4) (x : Nat) : Nat × FpFlags :=
  if elemIsFloat t && isNanNum (elemNum t x) then roundNum t 0#2 (elemNum t x) else (x, 0#5)

/-- The conversion of an element from type `src` to type `t` (R214). -/
def convElem (t src : BitVec 4) (rm : BitVec 2) (x : Nat) : Nat × FpFlags :=
  if t = src then canonElem t x
  else if elemIsInt t && elemIsInt src then
    (wrapInt (elemWidth t) (satInt (elemIsSigned t) (elemWidth t) (intOf (elemIsSigned src) (elemWidth src) x)), 0#5)
  else roundNum t rm (elemNum src x)

/-! ### A96 (R210, R211) -/

/-- The value of an A96 word of a form that R210 lists; NaN for any other. -/
def a96Listed (x : BitVec 96) : Num :=
  let s := x.getLsbD 95
  let e : Nat := x.toNat / 2 ^ 80 % 2 ^ 15
  let m : Nat := x.toNat % 2 ^ 80
  if e = 0x7FFF then (if m = 2 ^ 79 then .inf s else .nan false)
  else if e = 0 then (if m < 2 ^ 79 then .fin s m (-16461) else .nan false)
  else if m < 2 ^ 79 then .nan false
  else .fin s m ((e : Int) - 16462)

/-- The value of an A96 word. A word with E = 0 and M[79] = 1 is in no row of R210: a free value stands for it. -/
def a96Num (x : BitVec 96) : Num :=
  if x.toNat / 2 ^ 79 % 2 ^ 16 = 1 then a96Listed (Config.a96Unlisted x) else a96Listed x

/-- The canonical NaN of A96. -/
def a96NaN : BitVec 96 := BitVec.ofNat 96 (0x7FFF * 2 ^ 80 + 0xC0000000000000000000)

/-- +0 in A96. -/
def a96Zero : BitVec 96 := 0#96

/-- A value rounded to A96 under RNE. -/
def roundA96 (x : Num) : BitVec 96 :=
  let sign (n : Bool) : Nat := if n then 2 ^ 95 else 0
  match x with
  | .nan _ => a96NaN
  | .nar => a96NaN
  | .inf n => BitVec.ofNat 96 (sign n + 0x7FFF * 2 ^ 80 + 2 ^ 79)
  | .fin n m e =>
    if m = 0 then BitVec.ofNat 96 (sign n)
    else match (roundMag fmtA96 0#2 n m e).1 with
      | none => BitVec.ofNat 96 (sign n + 0x7FFF * 2 ^ 80 + 2 ^ 79)
      | some (k, q) =>
        if k < 2 ^ 79 then BitVec.ofNat 96 (sign n + k)
        else if k = 2 ^ 80 then BitVec.ofNat 96 (sign n + (q + 1 + 16462).toNat * 2 ^ 80 + 2 ^ 79)
        else BitVec.ofNat 96 (sign n + (q + 16462).toNat * 2 ^ 80 + k)

/-- An A96 addition under RNE; an exact zero sum is +0 unless both addends are −0 (R211). -/
def addA96 (x y : BitVec 96) : BitVec 96 := roundA96 (sumNum 0#2 [a96Num x, a96Num y]).1

end Sys2Proof.Machine
end

