-- ==== Sys2Proof/Machine/Vector.lean ====
section
/-! DEFINITION. The packed vector unit: lanes, VAR, VFM, VMS and VRD with QRED (R113, R213 to R217, R221 to R232). -/

namespace Sys2Proof.Machine

/-! ### Lanes -/

/-- Lane `i` of a register as its pattern (R215). -/
def laneOf (x : Vec) (t : BitVec 4) (i : Nat) : Nat := bits x.toNat (elemWidth t * i) (elemWidth t)

/-- All lanes of a type. -/
def lanesOf (x : Vec) (t : BitVec 4) : List Nat := (List.range (elemLanes t)).map (laneOf x t)

/-- Patterns side by side, lane 0 lowest. -/
def packNat (w : Nat) : List Nat → Nat
  | [] => 0
  | x :: xs => x % 2 ^ w + packNat w xs * 2 ^ w

/-- A register of lanes; bits above the last lane are 0 (R206). -/
def packLanes (t : BitVec 4) (xs : List Nat) : Vec := BitVec.ofNat 256 (packNat (elemWidth t) xs)

/-- A lane's result and the flags it raises. -/
abbrev LaneRes := Nat × FpFlags

/-- A register of lane results, and the flags that any lane raised (R200). -/
def packRes (t : BitVec 4) (xs : List LaneRes) : Vec × FpFlags := (packLanes t (xs.map (·.1)), flagsAny (xs.map (·.2)))

/-! ### Instruction shapes -/

/-- RM of an instruction that rounds, else .rne (R113). -/
def rmOf (rounds : Bool) (sc : BitVec 2) : BitVec 2 := if rounds then sc else 0#2
/-- SC of an instruction that does not round, else 0 (R113). -/
def scOf (rounds : Bool) (sc : BitVec 2) : BitVec 2 := if rounds then 0#2 else sc

/-- Latency of VAR and VFM, and of VCMP, on a type (R128). -/
def varLat (t : BitVec 4) : Nat := if elemIsFloat t then 4 else 2

/-- A vector instruction that writes v[d] at a latency, with flags; illegal on a type it does not take (R118, R216). -/
def vecOp (legal : Bool) (sc : BitVec 2) (lat : Nat) (reads : List Dest) (d : Reg) (f : State → Vec × FpFlags) (s : State) : Out :=
  if !legal then illegal s
  else checked reads (some (.v d, lat)) s fun s =>
    let r := f s
    .next (retireV sc (flagsLater lat r.2 (putVLater lat d r.1 s)))

/-- Lane-wise results from v[a] and v[b]. -/
def zipLanes (t : BitVec 4) (x y : Vec) (f : Nat → Nat → LaneRes) : Vec × FpFlags :=
  packRes t ((List.range (elemLanes t)).map fun i => f (laneOf x t i) (laneOf y t i))

/-! ### Operations on lanes -/

/-- A wrapped integer result (R196). -/
def intRes (t : BitVec 4) (x : Int) : LaneRes := (wrapInt (elemWidth t) x, 0#5)
/-- A lane's integer value. -/
def laneInt (t : BitVec 4) (x : Nat) : Int := intOf (elemIsSigned t) (elemWidth t) x

/-- A rounded float result, with NV for an invalid operation (R198, R222). -/
def floatRes (t : BitVec 4) (rm : BitVec 2) (x : Num × Bool) : LaneRes :=
  let r := roundNum t rm x.1
  (r.1, r.2 ||| flagIf x.2 flagNV)

/-- x + y (R221). -/
def addLane (t : BitVec 4) (rm : BitVec 2) (x y : Nat) : LaneRes :=
  if elemIsInt t then intRes t (laneInt t x + laneInt t y) else floatRes t rm (sumNum rm [elemNum t x, elemNum t y])
/-- x − y. -/
def subLane (t : BitVec 4) (rm : BitVec 2) (x y : Nat) : LaneRes :=
  if elemIsInt t then intRes t (laneInt t x - laneInt t y) else floatRes t rm (sumNum rm [elemNum t x, negNum (elemNum t y)])
/-- x × y. -/
def mulLane (t : BitVec 4) (rm : BitVec 2) (x y : Nat) : LaneRes :=
  if elemIsInt t then intRes t (laneInt t x * laneInt t y) else floatRes t rm (mulNum (elemNum t x) (elemNum t y))
/-- |x − y| (R221). -/
def abdLane (t : BitVec 4) (x y : Nat) : LaneRes :=
  if elemIsInt t then intRes t (laneInt t x - laneInt t y).natAbs
  else let r := sumNum 0#2 [elemNum t x, negNum (elemNum t y)]; floatRes t 0#2 (absNum r.1, r.2)

/-- x < y of exact values other than NaN; zeros of both signs are equal. -/
def numLt (x y : Num) : Bool :=
  match x, y with
  | .inf true, .inf true => false
  | .inf true, _ => true
  | _, .inf true => false
  | .inf false, _ => false
  | _, .inf false => true
  | .fin a m e, .fin b n f =>
    let lo := min e f
    decide ((if a then -(alignTo m e lo : Int) else (alignTo m e lo : Int)) < (if b then -(alignTo n f lo : Int) else (alignTo n f lo : Int)))
  | _, _ => false

/-- x before y in the order in which −0 is less than +0 (R222). -/
def numBefore (x y : Num) : Bool := numLt x y || (!numLt y x && negOf x && !negOf y)

/-- The smaller or the larger of two lanes (R221, R222). -/
def pickLane (larger : Bool) (t : BitVec 4) (x y : Nat) : LaneRes :=
  if elemIsInt t then (if decide (laneInt t x < laneInt t y) != larger then x else y, 0#5)
  else
    let a := elemNum t x
    let b := elemNum t y
    if isNanNum a || isNanNum b then ((roundNum t 0#2 (.nan false)).1, flagIf (isSignalling a || isSignalling b) flagNV)
    else (if numBefore a b != larger then x else y, 0#5)

/-- A bitwise lane operation. -/
def bitLane (f : Nat → Nat → Nat) (x y : Nat) : LaneRes := (f x y, 0#5)

/-- VSHL, VSHR and VSAR: s is y as an unsigned number (R221). -/
def shlLane (t : BitVec 4) (x y : Nat) : LaneRes := (if elemWidth t ≤ y then 0 else x * 2 ^ y % 2 ^ elemWidth t, 0#5)
def shrLane (t : BitVec 4) (x y : Nat) : LaneRes := (if elemWidth t ≤ y then 0 else x / 2 ^ y, 0#5)
def sarLane (t : BitVec 4) (x y : Nat) : LaneRes := (wrapInt (elemWidth t) (intOf true (elemWidth t) x / 2 ^ min y (elemWidth t)), 0#5)

/-- VADDS and VSUBS (R221). -/
def satLane (t : BitVec 4) (x : Int) : LaneRes := (wrapInt (elemWidth t) (satInt (elemIsSigned t) (elemWidth t) x), 0#5)

/-! ### VAR (R221, R222) -/

/-- A VAR instruction. -/
def varOp (legal rounds : Bool) (sc : BitVec 2) (t : BitVec 4) (b a d : Reg) (f : BitVec 2 → Nat → Nat → LaneRes) (s : State) : Out :=
  vecOp legal (scOf rounds sc) (varLat t) [.v a, .v b] d (fun s => zipLanes t (rdV s a) (rdV s b) (f (rmOf rounds sc))) s

def execVadd (sc : BitVec 2) (t : BitVec 4) (b a d : Reg) (s : State) : Out := varOp (elemArith t) (elemIsFloat t) sc t b a d (addLane t) s
def execVsub (sc : BitVec 2) (t : BitVec 4) (b a d : Reg) (s : State) : Out := varOp (elemArith t) (elemIsFloat t) sc t b a d (subLane t) s
def execVmul (sc : BitVec 2) (t : BitVec 4) (b a d : Reg) (s : State) : Out := varOp (elemArith t) (elemIsFloat t) sc t b a d (mulLane t) s
def execVmin (sc : BitVec 2) (t : BitVec 4) (b a d : Reg) (s : State) : Out := varOp (elemArith t) false sc t b a d (fun _ => pickLane false t) s
def execVmax (sc : BitVec 2) (t : BitVec 4) (b a d : Reg) (s : State) : Out := varOp (elemArith t) false sc t b a d (fun _ => pickLane true t) s
def execVand (sc : BitVec 2) (t : BitVec 4) (b a d : Reg) (s : State) : Out := varOp (elemBitwise t) false sc t b a d (fun _ => bitLane (· &&& ·)) s
def execVor (sc : BitVec 2) (t : BitVec 4) (b a d : Reg) (s : State) : Out := varOp (elemBitwise t) false sc t b a d (fun _ => bitLane (· ||| ·)) s
def execVxor (sc : BitVec 2) (t : BitVec 4) (b a d : Reg) (s : State) : Out := varOp (elemBitwise t) false sc t b a d (fun _ => bitLane (· ^^^ ·)) s
def execVshl (sc : BitVec 2) (t : BitVec 4) (b a d : Reg) (s : State) : Out := varOp (elemBitwise t) false sc t b a d (fun _ => shlLane t) s
def execVshr (sc : BitVec 2) (t : BitVec 4) (b a d : Reg) (s : State) : Out := varOp (elemBitwise t) false sc t b a d (fun _ => shrLane t) s
def execVsar (sc : BitVec 2) (t : BitVec 4) (b a d : Reg) (s : State) : Out := varOp (elemBitwise t) false sc t b a d (fun _ => sarLane t) s
def execVabd (sc : BitVec 2) (t : BitVec 4) (b a d : Reg) (s : State) : Out := varOp (elemArith t) false sc t b a d (fun _ => abdLane t) s
def execVadds (sc : BitVec 2) (t : BitVec 4) (b a d : Reg) (s : State) : Out :=
  varOp (elemBitwise t) false sc t b a d (fun _ x y => satLane t (laneInt t x + laneInt t y)) s
def execVsubs (sc : BitVec 2) (t : BitVec 4) (b a d : Reg) (s : State) : Out :=
  varOp (elemBitwise t) false sc t b a d (fun _ x y => satLane t (laneInt t x - laneInt t y)) s

/-! ### VFM (R223, R224) -/

/-- p + z of an exact product and a term, each perhaps negated, rounded once (R223). -/
def fmaLane (negP negZ : Bool) (t : BitVec 4) (rm : BitVec 2) (x y z : Nat) : LaneRes :=
  if elemIsInt t then
    let p := laneInt t x * laneInt t y
    intRes t ((if negP then -p else p) + (if negZ then -laneInt t z else laneInt t z))
  else
    let p := mulNum (elemNum t x) (elemNum t y)
    let r := sumNum rm [if negP then negNum p.1 else p.1, if negZ then negNum (elemNum t z) else elemNum t z]
    floatRes t rm (r.1, p.2 || r.2)

/-- VFMA, VFMS and VFNMA. -/
def fmaOp (negP negZ : Bool) (sc : BitVec 2) (t : BitVec 4) (b a d : Reg) (s : State) : Out :=
  vecOp (elemArith t) (scOf (elemIsFloat t) sc) (varLat t) [.v a, .v b, .v d] d (fun s =>
    packRes t ((List.range (elemLanes t)).map fun i =>
      fmaLane negP negZ t (rmOf (elemIsFloat t) sc) (laneOf (rdV s a) t i) (laneOf (rdV s b) t i) (laneOf (rdV s d) t i))) s

def execVfma (sc : BitVec 2) (t : BitVec 4) (b a d : Reg) (s : State) : Out := fmaOp false false sc t b a d s
def execVfms (sc : BitVec 2) (t : BitVec 4) (b a d : Reg) (s : State) : Out := fmaOp false true sc t b a d s
def execVfnma (sc : BitVec 2) (t : BitVec 4) (b a d : Reg) (s : State) : Out := fmaOp true false sc t b a d s

/-- Result lane of VDOT2: z of type `w` plus two products of lanes of type `t` (R224). -/
def dotLane (t w : BitVec 4) (rm : BitVec 2) (z x0 y0 x1 y1 : Nat) : LaneRes :=
  if elemIsInt t then intRes w (laneInt w z + laneInt t x0 * laneInt t y0 + laneInt t x1 * laneInt t y1)
  else
    let p := mulNum (elemNum t x0) (elemNum t y0)
    let q := mulNum (elemNum t x1) (elemNum t y1)
    let r := sumNum rm [elemNum w z, p.1, q.1]
    floatRes w rm (r.1, p.2 || q.2 || r.2)

/-- The lanes of type `w` of VDOT2; lanes above the results keep their value. -/
def dotRes (t : BitVec 4) (rm : BitVec 2) (x y z : Vec) : Vec × FpFlags :=
  let w := elemWide t
  packRes w ((List.range (elemLanes w)).map fun i =>
    if i < elemLanes t / 2 then dotLane t w rm (laneOf z w i) (laneOf x t (2 * i)) (laneOf y t (2 * i)) (laneOf x t (2 * i + 1)) (laneOf y t (2 * i + 1))
    else (laneOf z w i, 0#5))

def execVdot2 (sc : BitVec 2) (t : BitVec 4) (b a d : Reg) (s : State) : Out :=
  vecOp (elemDot t) (scOf (elemIsFloat t) sc) (varLat t) [.v a, .v b, .v d] d (fun s => dotRes t (rmOf (elemIsFloat t) sc) (rdV s a) (rdV s b) (rdV s d)) s

/-- A lane of VMULW (R224). -/
def mulwLane (t : BitVec 4) (x y : Nat) : LaneRes :=
  let w := elemWide t
  if elemIsInt t then intRes w (laneInt t x * laneInt t y) else floatRes w 0#2 (mulNum (elemNum t x) (elemNum t y))

def execVmulw (sc : BitVec 2) (t : BitVec 4) (b a d : Reg) (s : State) : Out :=
  vecOp (elemMulw t) sc (varLat t) [.v a, .v b] d (fun s =>
    packRes (elemWide t) ((List.range (elemLanes t / 2)).map fun i => mulwLane t (laneOf (rdV s a) t i) (laneOf (rdV s b) t i))) s

/-! ### VCMP, VSEL, VMSK (R225, R226) -/

/-- A comparison: whether it holds, and its flags (R225). -/
def cmpLane (cc : BitVec 2) (t : BitVec 4) (x y : Nat) : Bool × FpFlags :=
  if elemIsInt t then
    let a := laneInt t x
    let b := laneInt t y
    (match cc.toNat with | 0 => a == b | 1 => a != b | 2 => decide (a < b) | _ => decide (a ≤ b), 0#5)
  else
    let a := elemNum t x
    let b := elemNum t y
    if isNanNum a || isNanNum b then
      (cc == 1#2, flagIf (decide (2 ≤ cc.toNat) || isSignalling a || isSignalling b) flagNV)
    else
      let lt := numLt a b
      let gt := numLt b a
      (match cc.toNat with | 0 => !lt && !gt | 1 => lt || gt | 2 => lt | _ => !gt, 0#5)

/-- Lane-size tag of a type: log2 of N ÷ 8 (R217). -/
def tagOf (t : BitVec 4) : BitVec 2 := BitVec.ofNat 2 (Nat.log2 (elemWidth t / 8))

/-- Mask bits from lane conditions; bits L to 31 are 0. -/
def maskOf (xs : List Bool) : BitVec 32 := BitVec.ofNat 32 (packNat 1 (xs.map boolNat))

def execVcmp (sc : BitVec 2) (t : BitVec 4) (b a : Reg) (cc : BitVec 2) (m : BitVec 3) (s : State) : Out :=
  if !elemArith t then illegal s
  else checked [.v a, .v b] (some (.m m, varLat t)) s fun s =>
    let rs := (List.range (elemLanes t)).map fun i => cmpLane cc t (laneOf (rdV s a) t i) (laneOf (rdV s b) t i)
    .next (retireV sc (flagsLater (varLat t) (flagsAny (rs.map (·.2))) (putMLater (varLat t) m (maskOf (rs.map (·.1))) (tagOf t) s)))

def execVsel (sc : BitVec 2) (t : BitVec 4) (m : BitVec 3) (a d : Reg) (s : State) : Out :=
  vecOp (elemArith t) sc 2 [.v a, .m m, .v d] d (fun s =>
    (packLanes t ((List.range (elemLanes t)).map fun i => if (rdM s m).getLsbD i then laneOf (rdV s a) t i else laneOf (rdV s d) t i), 0#5)) s

def execVmsk (sc : BitVec 2) (t : BitVec 4) (a : Reg) (m : BitVec 3) (s : State) : Out :=
  if !elemArith t then illegal s
  else checked [.g a] (some (.m m, 2)) s fun s =>
    let n := min (rdG s a).toNat (elemLanes t)
    .next (retireV sc (putMLater 2 m (BitVec.ofNat 32 (2 ^ n - 1)) (tagOf t) s))

/-! ### VCVT (R214, R227) -/

/-- The lanes of a conversion; those above the source's lanes are 0. -/
def cvtRes (t src : BitVec 4) (rm : BitVec 2) (x : Vec) : Vec × FpFlags :=
  packRes t ((List.range (min (elemLanes src) (elemLanes t))).map fun i => convElem t src rm (laneOf x src i))

def execVcvt (sc : BitVec 2) (t src : BitVec 4) (a d : Reg) (s : State) : Out :=
  vecOp (elemIsAssigned t && elemIsAssigned src) 0#2 3 [.v a] d (fun s => cvtRes t src sc (rdV s a)) s

/-! ### Lane moves (R228, R229) -/

def execVbcast (sc : BitVec 2) (t : BitVec 4) (a d : Reg) (s : State) : Out :=
  vecOp (elemArith t) sc 2 [.g a] d (fun s => (packLanes t (List.replicate (elemLanes t) (rdG s a).toNat), 0#5)) s

def execVperm (sc : BitVec 2) (t : BitVec 4) (b a d : Reg) (s : State) : Out :=
  vecOp (elemArith t) sc 2 [.v a, .v b] d (fun s =>
    (packLanes t ((List.range (elemLanes t)).map fun i => laneOf (rdV s a) t (laneOf (rdV s b) t i % elemLanes t)), 0#5)) s

/-- A lane sign-extended for .iN, else zero-extended (R228). -/
def extLane (t : BitVec 4) (x : Nat) : Word := BitVec.ofInt 64 (laneInt t x)

def execVext (sc : BitVec 2) (t : BitVec 4) (lane a d : Reg) (s : State) : Out :=
  if !elemArith t || decide (elemLanes t ≤ lane.toNat) then illegal s
  else checked [.v a] (some (.g d, 2)) s fun s =>
    let x := laneOf (rdV s a) t lane.toNat
    .next (retireV sc (putGLater 2 d (if elemIsInt t then extLane t x else BitVec.ofNat 64 x) s))

def execVins (sc : BitVec 2) (t : BitVec 4) (lane a d : Reg) (s : State) : Out :=
  vecOp (elemArith t && decide (lane.toNat < elemLanes t)) sc 2 [.g a, .v d] d (fun s =>
    (packLanes t ((List.range (elemLanes t)).map fun i => if i = lane.toNat then (rdG s a).toNat else laneOf (rdV s d) t i), 0#5)) s

/-- A lane of VABS, or of VNEG with `neg` (R229). -/
def signLane (neg : Bool) (t : BitVec 4) (x : Nat) : LaneRes :=
  if elemIsInt t then (if neg then intRes t (-laneInt t x) else if elemIsSigned t then intRes t (laneInt t x).natAbs else (x, 0#5))
  else if isNanNum (elemNum t x) then canonElem t x
  else
    let h := 2 ^ (elemWidth t - 1)
    (if neg then (x + h) % (2 * h) else x % h, 0#5)

/-- VABS and VNEG. -/
def signOp (neg : Bool) (sc : BitVec 2) (t : BitVec 4) (a d : Reg) (s : State) : Out :=
  vecOp (elemArith t) sc 2 [.v a] d (fun s => packRes t ((lanesOf (rdV s a) t).map (signLane neg t))) s

def execVabs (sc : BitVec 2) (t : BitVec 4) (a d : Reg) (s : State) : Out := signOp false sc t a d s
def execVneg (sc : BitVec 2) (t : BitVec 4) (a d : Reg) (s : State) : Out := signOp true sc t a d s
def execVmov (sc : BitVec 2) (t : BitVec 4) (a d : Reg) (s : State) : Out := vecOp (elemArith t) sc 2 [.v a] d (fun s => (rdV s a, 0#5)) s

/-! ### Reductions (R213, R230) -/

/-- One level of the tree: element i is lane 2i op lane 2i + 1. -/
def pairUp (op : Nat → Nat → LaneRes) : List Nat → List Nat × FpFlags
  | x :: y :: rest =>
    let r := op x y
    let p := pairUp op rest
    (r.1 :: p.1, r.2 ||| p.2)
  | xs => (xs, 0#5)

/-- The tree over 2^n lanes. -/
def treeRed (op : Nat → Nat → LaneRes) : Nat → List Nat → LaneRes
  | 0, xs => (xs.headD 0, 0#5)
  | n + 1, xs =>
    let p := pairUp op xs
    let r := treeRed op n p.1
    (r.1, p.2 ||| r.2)

/-- Levels of VRED's tree: log2 of the lanes. -/
def treeLevels (t : BitVec 4) : Nat := Nat.log2 (elemLanes t)

/-- Inclusive prefixes from a running value. (Log 21: DEDUCED) -/
def scanFrom (op : Nat → Nat → LaneRes) (acc : Nat) : List Nat → List LaneRes
  | [] => []
  | x :: xs =>
    let r := op acc x
    r :: scanFrom op r.1 xs

/-- VSCAN's lanes; lane 0's result is lane 0, a NaN made canonical (R198). -/
def scanLanes (op : Nat → Nat → LaneRes) (t : BitVec 4) : List Nat → List LaneRes
  | [] => []
  | x :: xs => canonElem t x :: scanFrom op x xs

/-- VRED. -/
def redOp (rounds : Bool) (sc : BitVec 2) (t : BitVec 4) (a d : Reg) (op : BitVec 2 → Nat → Nat → LaneRes) (s : State) : Out :=
  vecOp (elemArith t) (scOf rounds sc) 6 [.v a] d (fun s => packRes t [treeRed (op (rmOf rounds sc)) (treeLevels t) (lanesOf (rdV s a) t)]) s

/-- VSCAN. -/
def scanOp (rounds : Bool) (sc : BitVec 2) (t : BitVec 4) (a d : Reg) (op : BitVec 2 → Nat → Nat → LaneRes) (s : State) : Out :=
  vecOp (elemArith t) (scOf rounds sc) 6 [.v a] d (fun s => packRes t (scanLanes (op (rmOf rounds sc)) t (lanesOf (rdV s a) t))) s

def execVredAdd (sc : BitVec 2) (t : BitVec 4) (a d : Reg) (s : State) : Out := redOp (elemIsFloat t) sc t a d (addLane t) s
def execVredMin (sc : BitVec 2) (t : BitVec 4) (a d : Reg) (s : State) : Out := redOp false sc t a d (fun _ => pickLane false t) s
def execVredMax (sc : BitVec 2) (t : BitVec 4) (a d : Reg) (s : State) : Out := redOp false sc t a d (fun _ => pickLane true t) s
def execVscanAdd (sc : BitVec 2) (t : BitVec 4) (a d : Reg) (s : State) : Out := scanOp (elemIsFloat t) sc t a d (addLane t) s
def execVscanMin (sc : BitVec 2) (t : BitVec 4) (a d : Reg) (s : State) : Out := scanOp false sc t a d (fun _ => pickLane false t) s
def execVscanMax (sc : BitVec 2) (t : BitVec 4) (a d : Reg) (s : State) : Out := scanOp false sc t a d (fun _ => pickLane true t) s

/-! ### QRED (R231, R232) -/

/-- Elements of a type at a storage key. -/
def elemsAt (m : List Host.Cell) (key w n : Nat) : List Nat := (List.range n).map fun i => getLe m (key + w * i) w

/-- Adds the sums of the blocks of 16 elements to a running sum, in order; a short block is padded with 0 (R231). -/
def blockSums (op : Nat → Nat → LaneRes) : Nat → LaneRes → List Nat → LaneRes
  | 0, acc, _ => acc
  | n + 1, acc, xs =>
    if xs.isEmpty then acc
    else
      let b := xs.take 16
      let r := treeRed op 4 (b ++ List.replicate (16 - b.length) 0)
      let t := op acc.1 r.1
      blockSums op n (t.1, acc.2 ||| r.2 ||| t.2) (xs.drop 16)

/-- v[d] := x by an instruction that holds issue until its result is written (R129). -/
def putVNow (d : Reg) (x : Vec) (s : State) : State :=
  let stale (p : Nat × Pending) : Bool := match p.2 with | .writeV r _ => r == d && decide (p.1 ≤ s.gtc + 1) | _ => false
  setCtx s (ctxPutV { s.core.ctx with pend := s.core.ctx.pend.filter fun p => !stale p } d x)

/-- One slot of the reduction: slot `i` is acquired, read and released, and v[d] and g[a] are written together; the bytes read are charged (R422).
TRAP_VAL of a race is the pool offset of the slot's first byte, as no operand of QRED is an address (R360). (Log 28: DEDUCED) -/
def qredSlot (rm sc : BitVec 2) (t : BitVec 4) (q : BitVec 4) (a d : Reg) (x : Quire) (s : State) : Out :=
  let i := x.acq
  let off := x.base.toNat + 32 * x.slotB.toNat * i
  let w := elemWidth t / 8
  let e := 32 * x.slotB.toNat / w
  let n := min (rdG s a).toNat e
  let s1 := syncPoint s
  match readGranules (poolKey s.cur off) ((n * w + 31) / 32) s1 with
  | none => trap 17#8 (BitVec.ofNat 64 off) s
  | some s2 =>
    let r := blockSums (addLane t rm) (n / 16 + 1) (laneOf (rdV s d) t 0, 0#5) (elemsAt s.mem (poolKey s.cur off) w n)
    let v := packLanes t (r.1 :: (lanesOf (rdV s d) t).tail)
    let s3 := charge 3 (n * w) (syncPoint (quireDone (setQuire s.cur q.toNat (releaseSlot (acquireSlot x (me s)) i) s2)))
    let s4 := putG a (rdG s a - BitVec.ofNat 64 n) (putVNow d v s3)
    let s5 := setCtl s4 { s4.core.ctx.ctl with fpFlags := s4.core.ctx.ctl.fpFlags ||| r.2 }
    .next (if n < (rdG s a).toNat then hold true s5 else retireV sc s5)

/-- QRED: one slot for each issue, holding while g[a] > 0 (R231, R232). (Log 28: DEDUCED) -/
def execQred (sc : BitVec 2) (t : BitVec 4) (q : BitVec 4) (a d : Reg) (s : State) : Out :=
  if !elemArith t then illegal s
  else afterAcquire s fun s => checked [.g a, .v d] none s fun s =>
    if rdG s a = 0#64 then .next (retireV (scOf (elemIsFloat t) sc) s)
    else
      let x := quireOf s s.cur q.toNat
      match quireChecks s x q (some x.cgrp) with
      | some c => trapAs c s
      | none =>
        if x.retired then trap 15#8 1#64 s
        else if (heldSlot x (me s) .acquired).isSome then trap 15#8 3#64 s
        else if !canAcquire x then quireWait s
        else afterAll s fun s => checked [] (some (.v d, 1)) s fun s => checked [] (some (.g a, 1)) s fun s => qredSlot (rmOf (elemIsFloat t) sc) (scOf (elemIsFloat t) sc) t q a d x s

end Sys2Proof.Machine
end

