-- ==== Sys2Proof/Machine/Tables.lean ====
section
/-! DEFINITION. The table engine (R233 to R240): TLOAD, TEVAL, TSTAT and the requests performed at the head of a tile's queue. -/

namespace Sys2Proof.Machine

/-! ### Tables and the queue -/

/-- Tile `n`. -/
def tileAt (s : State) (n : Nat) : Tile := tabGet {} s.tiles n
/-- Replaces tile `n`. -/
def setTile (n : Nat) (x : Tile) (s : State) : State := { s with tiles := tabSet {} s.tiles n x }

/-- Table `n` of a tile. -/
def tableOf (x : Tile) (n : BitVec 3) : Table := x.tables[n.toNat]'(n.isLt)
/-- Replaces table `n` of a tile. -/
def setTable (x : Tile) (n : BitVec 3) (t : Table) : Tile := { x with tables := x.tables.set n.toNat t n.isLt }

/-- The protection check of R233. -/
def tableRefused (s : State) (t : Table) : Bool := !steward s && t.st != .empty && t.owner != acting s

/-- A table instruction holds issue: the queue of 32 is full, or a QFNC orders the request behind work not complete (R239, R331). -/
def tableHolds (s : State) : Bool := decide (32 ≤ (tileAt s (tileOf s.cur)).tq.length) || fenced s s.cur 3 s.core.engSeq

/-- Puts a request into the queue: by arrival, and within a cycle by core number (R239). -/
def queueReq (r : TableReq) : List TableReq → List TableReq
  | [] => [r]
  | q :: qs => if r.num < q.num ∨ (r.num = q.num ∧ r.unit < q.unit) then r :: q :: qs else q :: queueReq r qs

/-- Accepts a request of the issuing context. -/
def acceptReq (r : TableReq) (f : Tile → Tile) (s : State) : State :=
  let n := tileOf s.cur
  let x := f (tileAt s n)
  let s1 := setTile n { x with tq := queueReq r x.tq } s
  syncPoint { s1 with core := { s1.core with engSeq := s1.core.engSeq + 1 } }

/-- What TLOAD and TEVAL share: legal on compute cores alone (R216), the token, the wait for room, the protection check (R233). -/
def tableIssue (n : BitVec 3) (k : BitVec 4) (reads : List Dest) (s : State) (f : TokenName → State → Out) : Out :=
  if !onCompute s then illegal s
  else withToken k s fun t => afterAcquire s fun s =>
    if tableHolds s then .next (hold true s)
    else checked reads none s fun s =>
      if tableRefused s (tableOf (tileAt s (tileOf s.cur)) n) then trap 3#8 (n.setWidth 64) s else f t s

/-! ### TLOAD, TEVAL, TSTAT -/

/-- A request of the issuing context. -/
def newReq (n : BitVec 3) (t : TokenName) (s : State) : TableReq :=
  { num := s.gtc, unit := s.cur, ctx := me s, owner := acting s, table := n, token := t, eng := s.core.engSeq }

/-- TLOAD (R236). -/
def execTload (sc : BitVec 2) (k : BitVec 4) (a : Reg) (n : BitVec 3) (s : State) : Out :=
  tableIssue n k [.g a] s fun t s =>
    if a = 0#5 then guardToken t s fun s => .next (retire sc (acceptReq (newReq n t s) id (issueToken t s)))
    else
      let x := rdG s a
      if x.toNat % 64 ≠ 0 then trap 2#8 x s
      else match check s (acting s) x 64 .I with
        | .error r => trap (causeOf r) x (checkFill s (acting s) x 64 .I)
        | .ok (st, s1) => guardToken t s1 fun s =>
          let load (y : Tile) : Tile := setTable y n { tableOf y n with st := .loading, owner := acting s }
          .next (retire sc (acceptReq { newReq n t s with addr := some x, stamp := st } load (issueToken t s)))

/-- TEVAL (R237). -/
def execTeval (sc : BitVec 2) (k : BitVec 4) (p : BitVec 1) (n : BitVec 3) (a d : Reg) (s : State) : Out :=
  tableIssue n k [.v a] s fun t s => guardToken t s fun s =>
    let s1 := addUncovered (.v d) t none (issueToken t s)
    .next (retire sc (acceptReq { newReq n t s with eval := some (d, rdV s a, p = 1#1) } id s1))

/-- The code of a table's state (R238). -/
def tabCode : TabState → Nat
  | .empty => 0 | .loading => 1 | .ready => 2

/-- TSTAT's value (R238). -/
def tableStatus (s : State) (n : BitVec 3) : Word :=
  let x := tileAt s (tileOf s.cur)
  let t := tableOf x n
  let seen := steward s || t.owner == acting s || t.owner == 0#12
  let nseg := match t.image with | some i => if t.st = .ready then i.segs.length else 0 | none => 0
  BitVec.ofNat 64 (tabCode t.st * 2 ^ 62 + x.tq.length * 2 ^ 16 +
    (if seen then t.err.toNat * 2 ^ 59 + t.owner.toNat * 2 ^ 36 + t.flags.toNat * 2 ^ 32 + nseg else 0))

/-- TSTAT (R238). -/
def execTstat (sc : BitVec 2) (n : BitVec 3) (d : Reg) (s : State) : Out :=
  if !onCompute s then illegal s
  else afterAcquire s fun s => checked [] (some (.g d, 2)) s fun s => .next (retire sc (putGLater 2 d (tableStatus s n) s))

/-! ### Evaluation (R235) -/

/-- A .f32 word's value. -/
def f32Num (x : BitVec 32) : Num := floatNum 23 x.toNat

/-- A magnitude's integer part. -/
def floorNat (m : Nat) (e : Int) : Nat := if 0 ≤ e then m * 2 ^ e.toNat else m / 2 ^ (-e).toNat

/-- u of R235 clamped to 0 and NSEG. -/
def clampU (nseg : Nat) (u : Num) : Num :=
  match u with
  | .fin neg m e => if neg then Num.zero else if magLt nseg 0 m e then .fin false nseg 0 else .fin false m e
  | .inf neg => if neg then Num.zero else .fin false nseg 0
  | x => x

/-- j and f of R235. -/
def splitU (nseg : Nat) (u : Num) : Nat × Num :=
  match u with
  | .fin _ m e =>
    let j := min (floorNat m e) (nseg - 1)
    let lo := min e 0
    (j, .fin false (alignTo m e lo - alignTo j 0 lo) lo)
  | x => (0, x)

/-- A fused multiply-add rounded to a float type under .rne, with the flags it meets. -/
def fmaNum (t : BitVec 4) (x y z : Num) : Nat × FpFlags :=
  let p := mulNum x y
  let r := sumNum 0#2 [p.1, z]
  floatRes t 0#2 (r.1, p.2 || r.2)

/-- One lane of type `t` through a table's contents (R235). -/
def evalLane (img : TabImage) (t : BitVec 4) (x : Nat) : LaneRes :=
  let v := elemNum t x
  if isNanNum v then ((roundNum t 0#2 (.nan false)).1, flagNV)
  else
    let n := img.segs.length
    let u := clampU n (mulNum (sumNum 0#2 [v, negNum (f32Num img.lo)]).1 (f32Num img.scale)).1
    let (j, f) := splitU n u
    let c := img.segs.getD j (0, 0, 0)
    let p := fmaNum 9#4 (f32Num c.2.2) f (f32Num c.2.1)
    let y := fmaNum t (elemNum 9#4 p.1) f (f32Num c.1)
    (y.1, p.2 ||| y.2)

/-- The lanes of a request; without contents every lane is the canonical NaN and NV is set (R237). -/
def evalLanes (img : Option TabImage) (t : BitVec 4) (x : Vec) : Vec × FpFlags :=
  match img with
  | some i => packRes t ((lanesOf x t).map (evalLane i t))
  | none => (packLanes t (List.replicate (elemLanes t) (roundNum t 0#2 (.nan false)).1), flagNV)

/-! ### At the head of the queue (R236, R239) -/

/-- ERR of a refused read (R236). -/
def tableErr : Refuse → BitVec 3
  | .translation => 1#3 | .protection => 2#3 | .stale => 3#3 | .address => 5#3 | .race => 6#3 | .noExternal => 1#3

/-- Reads `n` units of 16 bytes for a request, in order, as numbers; the first refusal decides. -/
def readUnits (r : TableReq) (a : Nat) : Nat → State → Except Refuse (List Nat) × State
  | 0, s => (.ok [], s)
  | n + 1, s => match engineByte (engineAgent 3 r.unit r.eng) r.unit r.owner a false s with
    | .error e => (.error e, refusedByte r.unit r.owner a false s)
    | .ok (k, s1) => match readUnits r (a + 16) n (touchPage false a s1) with
      | (.error e, s2) => (.error e, s2)
      | (.ok xs, s2) => (.ok (getLe s.mem k 16 :: xs), s2)

/-- A finite .f32 word. -/
def f32Finite (x : BitVec 32) : Bool := x.extractLsb' 23 8 != 255#8

/-- The limits of a header (R234). -/
def headerOk (h : Nat) : Bool :=
  let n := bits h 0 10
  let sc := BitVec.ofNat 32 (bits h 64 32)
  decide (1 ≤ n ∧ n ≤ 512) && f32Finite (BitVec.ofNat 32 (bits h 32 32)) && f32Finite sc && !sc.msb && sc != 0#32

/-- The contents that an image at `a` holds, or ERR (R236). -/
def readImage (r : TableReq) (a : Nat) (s : State) : Except (BitVec 3) TabImage × State :=
  match readUnits r a 4 s with
  | (.error e, s1) => (.error (tableErr e), s1)
  | (.ok hs, s1) =>
    let h := hs.headD 0
    if !headerOk h then (.error 4#3, s1)
    else match readUnits r (a + 64) (bits h 0 10) s1 with
      | (.error e, s2) => (.error (tableErr e), s2)
      | (.ok xs, s2) => (.ok { lo := BitVec.ofNat 32 (bits h 32 32), scale := BitVec.ofNat 32 (bits h 64 32)
                               segs := xs.map fun x => (BitVec.ofNat 32 (bits x 0 32), BitVec.ofNat 32 (bits x 32 32), BitVec.ofNat 32 (bits x 64 32)) }, s2)

/-- A loading TLOAD of the table waits behind the head. -/
def laterLoad (x : Tile) (n : BitVec 3) : Bool := x.tq.any fun r => r.table == n && r.addr.isSome

/-- A skipped request: a loading TLOAD gives STATE and OWNER back to what the requests before it left (R236). -/
def skipReq (r : TableReq) (x : Tile) : Tile :=
  let t := tableOf x r.table
  if r.addr.isSome && !laterLoad x r.table then
    setTable x r.table (if t.image.isSome then { t with st := .ready, owner := t.loadedBy } else { t with st := .empty, owner := 0 })
  else x

/-- The change that a TLOAD at the head makes to its table. -/
def loadTable (r : TableReq) (t : Table) (s : State) : Table × State :=
  match r.addr with
  | none => ({}, s)
  | some a => match readImage r a.toNat s with
    | (.error e, s1) => ({ t with st := .empty, err := e, image := none }, s1)
    | (.ok i, s1) => ({ t with st := .ready, err := 0, flags := 0, image := some i, loadedBy := r.owner }, s1)

/-- Removes the head of a tile's queue. -/
def dropHead (tile : Nat) (f : Tile → Tile) (s : State) : State :=
  let x := tileAt s tile
  setTile tile (f { x with tq := x.tq.tail }) s

/-- TLOAD_PERFORM (R236): a TLOAD at the head of the tile's queue is performed, or skipped where its continuation has ended (R239). (Log 23: DEDUCED) -/
def execTloadPerform (tile : Nat) (s : State) : Out :=
  match (tileAt s tile).tq with
  | [] => .next s
  | r :: _ =>
    if r.eval.isSome then .next s
    else if (deadOf r.ctx).isSome then .next (dropHead tile (skipReq r) s)
    else
      let (t, s1) := loadTable r (tableOf (tileAt s tile) r.table) s
      let s2 := endRegion (engineAgent 3 r.unit r.eng) (dropHead tile (fun x => setTable x r.table t) s1)
      .next (postTo r.ctx r.token (chargeTo r.ctx 2 1 s2))

/-- TEVAL_PERFORM (R237): a TEVAL at the head is evaluated, v[d] is written whole and then its token posts. (Log 23: DEDUCED) -/
def execTevalPerform (tile : Nat) (s : State) : Out :=
  match (tileAt s tile).tq with
  | [] => .next s
  | r :: _ => match r.eval with
    | none => .next s
    | some (d, x, wide) =>
      if (deadOf r.ctx).isSome then .next (dropHead tile (skipReq r) s)
      else
        let t := if wide then 9#4 else 8#4
        let y := tableOf (tileAt s tile) r.table
        let v := evalLanes y.image t x
        let s1 := dropHead tile (fun z => setTable z r.table { y with flags := y.flags ||| engineFlags v.2 }) s
        .next (touchCtx (chargeTo r.ctx 2 1 s1) r.ctx fun c => ctxPost (ctxUncovDone (ctxPutV c d v.1) r.token (.v d)) r.token)

end Sys2Proof.Machine
end

