-- ==== Sys2Proof/Machine/Messages.lean ====
section
/-! DEFINITION. Messages (R264 to R268, R373): SEND, SENDG, RCV, WFM, MBCNT, delivery and combined buffer-free answers. -/

namespace Sys2Proof.Machine

/-! ### Handles and sets (R261, R264) -/

def handleTag (h : Word) : BitVec 44 := h.extractLsb' 0 44
def handleSlot (h : Word) : Nat := (h.extractLsb' 56 3).toNat
def handleCmb (h : Word) : Bool := h.msb

/-- The unit that a handle's CH and CORE name; none where CORE is out of range (R264, R265). -/
def handleUnit (h : Word) : Option Nat :=
  let n := (h.extractLsb' 44 12).toNat
  if h.getLsbD 59 then (if n < 272 then some (4096 + n) else none) else some n

/-- A unit lies in the sender's partition; a fabric channel core lies in every one (R265). -/
def samePart (s : State) (u w : Nat) : Bool := isFabric u || isFabric w || partOf s u == partOf s w

/-- The checks of SEND on its handle (R265). -/
def sendCheck (s : State) (h : Word) : Except Cause Nat :=
  match handleUnit h with
  | none => .error (2#8, h)
  | some u =>
    if h.extractLsb' 60 3 ≠ 0#3 then .error (2#8, h)
    else if !steward s && !samePart s s.cur u then .error (3#8, h)
    else .ok u

/-- Cores that a set names (R261). -/
def setCores (x : Nat) : List Nat := (setTiles x).flatMap (tileCores x)

/-- The checks of SENDG on its set: reserved bits and an empty set raise ADDRESS, a core outside the partition PROTECTION (R261, R265). -/
def setCheck (s : State) (x : Word) : Except Cause (List Nat) :=
  let n := x.toNat
  if bits n 40 24 ≠ 0 ∨ bits n 32 3 ≠ 0 ∨ bits n 21 3 ≠ 0 ∨ bits n 0 6 ≠ 0 ∨ bits n 24 8 = 0 ∨ bits n 9 3 < bits n 6 3 ∨ bits n 15 3 < bits n 12 3 then
    .error (2#8, x)
  else if !steward s && (setCores n).any (fun u => !samePart s s.cur u) then .error (3#8, x)
  else .ok (setCores n)

/-! ### SEND and SENDG (R265) -/

/-- Send entries of a core that are taken (R265). -/
def sendEntries (s : State) (u : Nat) : Nat := ((s.net.filter fun m => m.sender == some u).map (·.entry)).dedup.length

/-- A message from the issuing context's core. -/
def coreMessage (h : Word) (x : Vec) (s : State) : NetMsg :=
  { handle := h, body := x.setWidth 128, sender := some s.cur, entry := s.core.sendSeq, colour := colourOf s s.cur, src := me s }

/-- The end of SEND and SENDG: a release, one send entry, and the messages on their way. -/
def sendOut (sc : BitVec 2) (ms : List NetMsg) (s : State) : Out :=
  afterAll s fun s =>
    if 8 ≤ sendEntries s s.cur then .next (hold true s)
    else
      let s1 := syncPoint { s with core := { s.core with sendSeq := s.core.sendSeq + 1 } }
      .next (retire sc { s1 with net := s1.net ++ ms })

/-- SEND (R265). (Log 24: DEDUCED) -/
def execSend (sc : BitVec 2) (_sco : BitVec 3) (b a : Reg) (s : State) : Out :=
  behindLdaq true s fun s => checked [.g a, .v b] none s fun s =>
    match sendCheck s (rdG s a) with
    | .error c => trapAs c s
    | .ok _ => sendOut sc [coreMessage (rdG s a) (rdV s b) s] s

/-- The launch and group that GIDX selects of the issuing context (R261, R266). -/
def gidxGroup (s : State) (i : Nat) : Option (Nat × BitVec 8) :=
  match (recGroups s.core.ctx.rcd)[i]?, contAt s (me s) with
  | some g, some k => some (k.launch, g)
  | _, _ => none

/-- SENDG (R261, R265, R266): one message for the slot SLOT of each core of the set. (Log 24: DEDUCED) -/
def execSendg (sc : BitVec 2) (_sco : BitVec 3) (b a : Reg) (s : State) : Out :=
  behindLdaq true s fun s => checked [.g a, .v b] none s fun s =>
    match setCheck s (rdG s a) with
    | .error c => trapAs c s
    | .ok us =>
      let x := (rdG s a).toNat
      let one (u : Nat) : NetMsg :=
        { coreMessage (BitVec.ofNat 64 (u * 2 ^ 44 + bits x 35 3 * 2 ^ 56)) (rdV s b) s with group := some (gidxGroup s (bits x 38 2)) }
      sendOut sc (us.map one) s

/-! ### RCV, WFM, MBCNT (R265, R267) -/

/-- RCV (R267): an acquire; on an empty mailbox it holds issue at a switch point. -/
def execRcv (sc : BitVec 2) (d : Reg) (s : State) : Out :=
  afterAcquire s fun s => checked [] (some (.v d, 1)) s fun s =>
    match inbox s with
    | [] => .next (hold true s)
    | m :: _ => .next (retire sc (syncPoint (putVNow d (m.setWidth 256) (takeInbox s))))

/-- WFM (R267): with no message the slot suspends, to continue after it. -/
def execWfm (sc : BitVec 2) (s : State) : Out :=
  afterAcquire s fun s =>
    let s1 := retire sc (progress (me s) s)
    .next (if (inbox s).isEmpty then suspend .message s1 else s1)

/-- MBCNT (R265). -/
def execMbcnt (sc : BitVec 2) (n d : Reg) (s : State) : Out :=
  if 2 < n.toNat then illegal s
  else afterAcquire s fun s => checked [] (some (.g d, 2)) s fun s =>
    let x : Word := match n.toNat with
      | 0 => BitVec.ofNat 64 (inbox s).length
      | 1 => ownHandle s
      | _ => s.core.dropped.setWidth 64
    .next (retire sc (putGLater 2 d x s))

/-! ### Delivery (R266, R373) -/

/-- A message reaches a context: the WAKE latch, and the wake of a WFM or SUSP (R348, R373). -/
def messageWake (c : Ctx) : Ctx :=
  ctxWake (fun w => w == .message || w == .suspended) { c with ctl := { c.ctl with wake := true } }

/-- Messages that a context's slot mailbox and area hold. -/
def messagesHeld (c : Ctx) : Nat := c.mailbox.length + c.ctl.mbaCnt.toNat

/-- What becomes of a message at its destination: delivered, dropped, or waiting because 32 are held. -/
inductive Fate where
  | done (s : State)
  | dropped
  | waits

/-- Delivery to the slot mailbox of a LOADED context of unit `u`; it ends an IDLE there (R192). (Log 25: DEDUCED) -/
def toMailbox (u : Nat) (chrys : BitVec 56) (c : Ctx) (body : BitVec 128) (s : State) : Fate :=
  if 32 ≤ messagesHeld c then .waits
  else .done (touchCtx (modCore s u wakeIdle) chrys fun c => messageWake { c with mailbox := c.mailbox ++ [body] })

/-- Delivery to the mailbox area of the image, wherever its lines lie (R373). -/
def toArea (chrys : BitVec 56) (body : BitVec 128) (s : State) : Fate :=
  if imageRecord s chrys = 0#56 then .dropped
  else match anyCtx s chrys, devKey s chrys.toNat with
    | some c, some key =>
      if 32 ≤ messagesHeld c then .waits
      else
        let s1 := touchPage true chrys.toNat { s with mem := putArea s.mem key (c.ctl.mbaHead.toNat + c.ctl.mbaCnt.toNat) [body] }
        .done (touchCtx s1 chrys fun c => messageWake { c with ctl := { c.ctl with mbaCnt := c.ctl.mbaCnt + 1#6 } })
    | _, _ => .dropped

/-- The chrysalis address of the continuation bound in slot `i` of a core. -/
def slotChrys (s : State) (c : Core) (i : Nat) : Option (BitVec 56) :=
  match (slotOf c i).sst with
  | .empty => none
  | .bound => some (recOf (devGet s (slotOf c i).cont.toNat 64)).chrys
  | _ => some (slotCtx c i).rcd.chrys

/-- Delivery by a handle (R373). -/
def deliverTag (u i : Nat) (tag : BitVec 44) (body : BitVec 128) (s : State) : Fate :=
  let chrys : BitVec 56 := tag ++ 0#12
  let c := getCore s u
  if (slotOf c i).sst == .loaded && slotChrys s c i == some chrys then toMailbox u chrys (slotCtx c i) body s else toArea chrys body s

/-- Delivery to the slot's continuation where it names the group (R266). -/
def deliverGroup (u i : Nat) (g : Option (Nat × BitVec 8)) (body : BitVec 128) (s : State) : Fate :=
  let c := getCore s u
  match slotChrys s c i, g with
  | some chrys, some (l, x) =>
    let r := if (slotOf c i).sst = .bound then recOf (devGet s (slotOf c i).cont.toNat 64) else (slotCtx c i).rcd
    let named := (recGroups r).contains x && (match contAt s chrys with | some k => k.launch == l | none => false)
    if !named then .dropped
    else if (slotOf c i).sst = .loaded then toMailbox u chrys (slotCtx c i) body s else toArea chrys body s
  | _, _ => .dropped

/-- An earlier message of the same sender, or the same engine, to the same handle is still on its way (R266). -/
def behindMessage (net : List NetMsg) (i : Nat) (m : NetMsg) : Bool :=
  (net.take i).any fun x => x.handle == m.handle && x.sender == m.sender && x.copyOf.map (·.1) == m.copyOf.map (·.1)

/-- The combining entry of the sender's tile that an answer matches (R268). -/
def combineOf (s : State) (m : NetMsg) : Option (Nat × Combine) :=
  match m.sender with
  | none => none
  | some u =>
    if isFabric u || !handleCmb m.handle then none
    else ((tileAt s (tileOf u)).combine.find? fun e => e.handle == (m.handle.setWidth 63).setWidth 64 && e.tid == m.body.setWidth 8).map fun e => (tileOf u, e)

/-- Takes message `i` off the network; a copy whose messages have all been delivered is over (R257). -/
def takeMessage (i : Nat) (m : NetMsg) (s : State) : State :=
  let s1 := { s with net := s.net.eraseIdx i }
  match m.copyOf with
  | some (u, tid) => reapCopy u tid s1
  | none => s1

/-- A message that no continuation receives is dropped and counted at the core, a completion message in its queue's count as well (R88, R266, R373). -/
def dropMessage (u : Nat) (m : NetMsg) (s : State) : State :=
  let s1 := countMessages u 1 s
  match m.ofQueue with
  | some (v, q) => countDropped v q 1 s1
  | none => s1

/-- The image whose RECORD decides on a message that finds no LOADED slot is accessed, whatever becomes of the message (R52, R373). -/
def touchArea (m : NetMsg) (u : Nat) (s : State) : State :=
  let c := getCore s u
  let i := handleSlot m.handle
  match m.group with
  | none => if (slotOf c i).sst == .loaded && slotChrys s c i == some (handleTag m.handle ++ 0#12) then s else touchPage false (handleTag m.handle ++ 0#12 : BitVec 56).toNat s
  | some _ => s

/-- MESSAGE_DELIVERY (R266, R373): message `i` of those on their way arrives. -/
def execMessageDelivery (i : Nat) (s : State) : Out :=
  match s.net[i]? with
  | none => .next s
  | some m =>
    if m.swept.isSome || behindMessage s.net i m || (combineOf s m).isSome then .next s
    else match handleUnit m.handle with
      | none => .next (takeMessage i m s)
      | some u =>
        let r := match m.group with
          | some g => deliverGroup u (handleSlot m.handle) g m.body s
          | none => deliverTag u (handleSlot m.handle) (handleTag m.handle) m.body s
        match r with
        | .waits => .next (touchArea m u s)
        | .dropped => .next (takeMessage i m (dropMessage u m (touchArea m u s)))
        | .done s1 => .next (takeMessage i m s1)

/-- The answer is counted; the last one closes the entry and sends FREE (R268). -/
def combineAnswer (tile : Nat) (e : Combine) (colour : BitVec 6) (s : State) : State :=
  let x := tileAt s tile
  if e.count + 1 < e.expect then setTile tile { x with combine := x.combine.map fun (y : Combine) => if y = e then { e with count := e.count + 1 } else y } s
  else
    sendNet { handle := e.handle, body := completionBody 3 e.tid 0#8 (e.count + 1) tile, sender := none, colour := colour, ofQueue := e.ofQueue }
      (setTile tile { x with combine := x.combine.erase e } s)

/-- BUFFER_FREE_ANSWER (R268): message `i` meets the combining entry of its sender's tile. -/
def execBufferFreeAnswer (i : Nat) (s : State) : Out :=
  match s.net[i]? with
  | none => .next s
  | some m =>
    if m.swept.isSome then .next s
    else match combineOf s m with
      | none => .next s
      | some (tile, e) => .next (combineAnswer tile e m.colour (takeMessage i m s))

end Sys2Proof.Machine
end

