-- ==== Sys2Proof/Machine/Press.lean ====
section
/-! DEFINITION. Presses (R287 to R308): appending entries, leases, the surge arbiter and the governor, the checks at an entry's start,
block-slices, accumulate units, PZERO, PDRAIN and completion. -/

namespace Sys2Proof.Machine

/-- The press cycle (R20). (Log 30: DEDUCED) -/
def pressCycle (s : State) : Nat := s.gtc / 2

/-- A wide press stands in a tile of even x (R15, R287). -/
def widePress (tile : Nat) : Bool := tile % 2 == 0

/-! ### Appending an entry (R296) -/

/-- Appends an entry to the galley of the core in focus (R288, R289, R296). -/
def appendEntry (op : BitVec 3) (t : Option TokenName) (d : Nat) (s : State) : State :=
  let g := s.core.galley
  let kt := match t with | some t => t.num | none => 0#4
  let e : PressEntry := { desc := withHeader d g.next (acting s) op kt, seqNo := g.next, owner := acting s, op := op, token := t, ctx := me s, eng := s.core.engSeq }
  syncPoint { s with core := { s.core with galley := { g with next := g.next + 1#32, entries := g.entries ++ [e] }, engSeq := s.core.engSeq + 1 } }

/-- The descriptor of a press instruction is read, and its entry appended (R296). -/
def pressRead (op : BitVec 3) (t : Option TokenName) (sc : BitVec 2) (ea : Word) (s : State) : Out :=
  withDescriptor ea 64 64 s fun d s => .next (retire sc (appendEntry op t d (match t with | some t => issueToken t s | none => s)))

/-- A press instruction's effect once its token is known to be legal: the descriptor's address, room in the galley, the token, the descriptor (R296). -/
def pressAppend (op : BitVec 3) (t : Option TokenName) (sc : BitVec 2) (a : Reg) (s : State) : Out :=
  afterAcquire s fun s => checked [.g a] none s fun s =>
    if badDescriptor (rdG s a) 64 64 s then trap 2#8 (rdG s a) s
    else if 64 ≤ s.core.galley.entries.length then .next (hold true s)
    else match t with
      | some k => guardToken k s (pressRead op t sc (rdG s a))
      | none => pressRead op t sc (rdG s a) s

/-- A press instruction with a token; illegal on channel cores (R269, R288). -/
def pressToken (op : BitVec 3) (sc : BitVec 2) (k : BitVec 4) (a : Reg) (s : State) : Out :=
  if !onCompute s then illegal s else withToken k s fun t => pressAppend op (some t) sc a s

def execPmac (sc : BitVec 2) (k : BitVec 4) (a : Reg) (s : State) : Out := pressToken 0#3 sc k a s
def execPmacs (sc : BitVec 2) (k : BitVec 4) (a : Reg) (s : State) : Out := pressToken 1#3 sc k a s
def execPzero (sc : BitVec 2) (a : Reg) (s : State) : Out := if !onCompute s then illegal s else pressAppend 2#3 none sc a s
def execPdrain (sc : BitVec 2) (k : BitVec 4) (a : Reg) (s : State) : Out := pressToken 3#3 sc k a s

/-! ### Leases (R305) -/

/-- A core's galley holds an entry; a head that a QFNC fences counts as none (R331). -/
def galleyReady (s : State) (u : Nat) : Bool :=
  match (getCore s u).galley.entries with
  | [] => false
  | e :: _ => !fenced s u 1 e.eng

/-- The lease of a tile has ended: 16 entries started, 8,192 press cycles and no entry running, or no entry left. -/
def leaseOver (s : State) (tile : Nat) (h : BitVec 3) : Bool :=
  let x := tileAt s tile
  decide (16 ≤ x.leaseStarts) || (x.run.isNone && (decide (x.leaseAt + 8192 ≤ pressCycle s) || !galleyReady s (tile * 8 + h.toNat)))

/-- The core that holds the tile's lease now. -/
def leaseHolder (s : State) (tile : Nat) : Option (BitVec 3) :=
  match (tileAt s tile).lease with
  | some h => if leaseOver s tile h then none else some h
  | none => none

/-- LEASE_GRANT (R305): with no lease in force, the first galley after the last holder, wrapping, that holds an entry. -/
def execLeaseGrant (tile : Nat) (s : State) : Out :=
  if (leaseHolder s tile).isSome then .next s
  else
    let x := tileAt s tile
    match ((List.range 8).map fun i => x.lastHolder + BitVec.ofNat 3 (i + 1)).find? fun h => galleyReady s (tile * 8 + h.toNat) with
    | none => .next s
    | some h => .next (setTile tile { x with lease := some h, lastHolder := h, leaseStarts := 0, leaseAt := pressCycle s } s)

/-- LEASE_TIMEOUT (R305): a lease that has ended is given up. -/
def execLeaseTimeout (tile : Nat) (s : State) : Out :=
  let x := tileAt s tile
  if x.lease.isSome && (leaseHolder s tile).isNone then .next (setTile tile { x with lease := none } s) else .next s

/-! ### PSTAT and PSYNC (R302) -/

/-- The status word of a core's galley (R302). -/
def galleyStatus (s : State) (u : Nat) : Word :=
  let g := (getCore s u).galley
  BitVec.ofNat 64 (g.done.toNat + boolNat (leaseHolder s (tileOf u) == some (BitVec.ofNat 3 u)) * 2 ^ 39 + g.entries.length * 2 ^ 40
    + g.flags.toNat * 2 ^ 51 + g.err.toNat * 2 ^ 56)

/-- PSTAT (R302). -/
def execPstat (sc : BitVec 2) (d : Reg) (s : State) : Out :=
  if !onCompute s then illegal s
  else afterAcquire s fun s => checked [] (some (.g d, 2)) s fun s =>
    let s1 := putGLater 2 d (galleyStatus s s.cur) s
    .next (retire sc { s1 with core := { s1.core with galley := { s1.core.galley with err := 0, flags := 0 } } })

/-- PSYNC (R302): it holds while any entry that was appended before it is in the galley; entries join only by issue, so until the galley is empty. -/
def execPsync (sc : BitVec 2) (s : State) : Out :=
  if !onCompute s then illegal s
  else afterAcquire s fun s => if s.core.galley.entries.isEmpty then .next (retire sc (syncPoint s)) else .next (hold true s)

/-! ### Operand layout (R206, R290 to R292, R300) -/

/-- Byte offset, bit shift and width of element `p` of a row that starts at a unit boundary (R206). -/
def elemPlace (fmt : BitVec 4) (p : Nat) : Nat × Nat × Nat :=
  match fmt.toNat with
  | 12 => (32 * (p / 40) + 6 * (p % 40) / 8, 6 * (p % 40) % 8, 6)
  | 13 => (p / 2, 4 * (p % 2), 4)
  | _ => (p * fmtWidth fmt / 8, 0, fmtWidth fmt)

/-- Bytes from a row's start to the end of element `p`. -/
def elemEnd (fmt : BitVec 4) (p : Nat) : Nat :=
  let (o, sh, w) := elemPlace fmt p
  o + (sh + w + 7) / 8

/-- Kept values of a group of four: c of R292. -/
def keptPer (x : BitVec 512) : Nat := if pdSp x = 1 then 2 else 1

/-- A matrix in a pool: unit, first byte, stride, rows, and bytes of a row. -/
structure Matrix where
  unit   : Nat
  off    : Nat
  stride : Nat
  rows   : Nat
  span   : Nat

/-- FMT of the region that holds the first byte of a record's matrix. -/
def recordFmt (s : State) (u : Nat) (r : BitVec 64) : BitVec 4 := (tabGet (0#4, 0#2) (getCore s (arUnit u r)).tags (arOffset r / 4096)).1

/-- The matrix that a record names, of `rows` rows and `span` bytes each. -/
def matrixOf (u : Nat) (r : BitVec 64) (rows span : Nat) : Matrix := { unit := arUnit u r, off := arOffset r, stride := arStride r, rows := rows, span := span }

/-- A of PMAC and PMACS (R291, R292). -/
def matrixA (s : State) (u : Nat) (e : PressEntry) : Matrix :=
  let x := e.desc
  let n := if e.op = 1#3 then keptPer x * pdK x / 4 else pdK x
  matrixOf u (pdRecord x 0) (pdM x) (elemEnd (recordFmt s u (pdRecord x 0)) (n - 1))

/-- B (R291). -/
def matrixB (s : State) (u : Nat) (e : PressEntry) : Matrix :=
  let x := e.desc
  let r := pdRecord x 1
  if arT r then matrixOf u r (pdN x) (elemEnd (recordFmt s u r) (pdK x - 1)) else matrixOf u r (pdK x) (elemEnd (recordFmt s u r) (pdN x - 1))

/-- S (R292): two bits for each kept value. -/
def matrixS (u : Nat) (e : PressEntry) : Matrix := matrixOf u (pdRecord e.desc 2) (pdM e.desc) ((keptPer e.desc * pdK e.desc + 15) / 16)

/-- D (R300): whole 32-byte units for .t6 and .t4. -/
def matrixD (u : Nat) (e : PressEntry) : Matrix :=
  let t := pdType e.desc
  let n := pdN e.desc
  matrixOf u (pdRecord e.desc 3) (pdM e.desc) (if elemWidth t < 8 then 32 * ((n + elemLanes t - 1) / elemLanes t) else n * (elemWidth t / 8))

/-- PMAC or PMACS. -/
def isMac (e : PressEntry) : Bool := e.op == 0#3 || e.op == 1#3

/-- Storage key of an accumulator: element `i` of the block that member `w` holds (R293). -/
def accKey (s : State) (w : Nat) (x : BitVec 512) (i : Nat) : Nat := poolKey w (scratchSize w (getCore s w) + pdAcco x + 16 * i)

/-- Rows and columns of block `b`, with its first row and column (R293). -/
def blockShape (x : BitVec 512) (b : Nat) : Nat × Nat × Nat × Nat :=
  let bi := b / max 1 (pdBlockCols x)
  let bj := b % max 1 (pdBlockCols x)
  (128 * bi, 128 * bj, min 128 (pdM x - 128 * bi), min 128 (pdN x - 128 * bj))

/-! ### The checks at an entry's start (R295, R301) -/

/-- A range that an entry touches: unit, offset, bytes, the rights it needs, and whether it lies in the accumulator partition. -/
structure PressRange where
  unit   : Nat
  off    : Nat
  len    : Nat
  rights : List Right
  acc    : Bool

/-- The rows of a matrix as ranges. -/
def rowRanges (m : Matrix) (r : Right) : List PressRange :=
  (List.range m.rows).map fun i => { unit := m.unit, off := m.off + i * m.stride, len := m.span, rights := [r], acc := false }

/-- The rights that an entry needs over its accumulators (R295). -/
def accRights (e : PressEntry) : List Right :=
  if isMac e then (if pdZa e.desc then [.W] else [.I, .W]) else if e.op = 2#3 then [.W] else if pdClr e.desc then [.I, .W] else [.I]

/-- Every range that an entry touches. -/
def pressRanges (s : State) (u : Nat) (e : PressEntry) : List PressRange :=
  let x := e.desc
  let ops := if isMac e then rowRanges (matrixA s u e) .I ++ rowRanges (matrixB s u e) .I ++ (if e.op = 1#3 then rowRanges (matrixS u e) .I else [])
    else if e.op = 3#3 then rowRanges (matrixD u e) .W else []
  ops ++ ((pdMembers u x).zip (List.range (pdBlocks x))).map fun (w, b) =>
    let (_, _, rows, cols) := blockShape x b
    { unit := w, off := scratchSize w (getCore s w) + pdAcco x, len := 16 * rows * cols, rights := accRights e, acc := true }

/-- A range lies in the part of the pool that it must lie in (R295). -/
def rangeInside (s : State) (r : PressRange) : Bool :=
  let c := getCore s r.unit
  decide (r.off + r.len ≤ (if r.acc then accEnd r.unit c else scratchSize r.unit c))

/-- R58 on every granule of a range, through the global alias: the refusals and the stamps. -/
def rangeChecks (s : State) (o : BitVec 12) (r : PressRange) : List (Except Refuse Stamp) :=
  let a := poolKey r.unit r.off
  (List.range ((a + r.len - 1) / 4096 + 1 - a / 4096)).flatMap fun i => r.rights.map fun n => agentCheck s o true ((a / 4096 + i) * 4096) n

/-- A refusal other than STALE. -/
def isProt : Except Refuse Stamp → Bool
  | .error .stale => false
  | .error _ => true
  | .ok _ => false

/-- A STALE refusal. -/
def isStale : Except Refuse Stamp → Bool
  | .error .stale => true
  | _ => false

/-- BADSHAPE (R301). -/
def badPress (u : Nat) (e : PressEntry) : Bool :=
  let x := e.desc
  let used : List Nat := if e.op = 0#3 then [0, 1] else if e.op = 1#3 then [0, 1, 2] else if e.op = 3#3 then [3] else []
  decide (pdM x = 0 ∨ 512 < pdM x ∨ pdN x = 0 ∨ 1024 < pdN x) || (isMac e && pdK x == 0)
    || (e.op == 3#3 && !(decide (8 ≤ (pdType x).toNat ∧ (pdType x).toNat ≤ 12)))
    || (e.op == 1#3 && (pdSp x == 0 || pdSp x == 3 || pdK x % 4 != 0))
    || used.any (fun i => let n := if i = 2 then 64 else 32; arOffset (pdRecord x i) % n != 0 || arStride (pdRecord x i) % n != 0)
    || (pdTmask x == 0#4) != (pdCmask x == 0#8) || decide ((pdMembers u x).length < pdBlocks x) || decide (pdAcco x % 16 ≠ 0)

/-- A press takes a format (R287). -/
def pressTakes (tile : Nat) (fmt : BitVec 4) : Bool := if widePress tile then fmt == 9#4 || fmt == 11#4 else fmt == 12#4 || fmt == 13#4

/-- FMT of every pool region that a matrix touches. -/
def matrixFmts (s : State) (m : Matrix) : List (BitVec 4) :=
  (List.range m.rows).flatMap fun i =>
    let o := m.off + i * m.stride
    (List.range (min ((o + m.span - 1) / 4096 + 1) 128 - o / 4096)).map fun g => (tabGet (0#4, 0#2) (getCore s m.unit).tags (o / 4096 + g)).1

/-- FORMAT (R287, R291, R301). -/
def badPressFormat (s : State) (u : Nat) (e : PressEntry) : Bool :=
  let bad (r : BitVec 64) (m : Matrix) : Bool := !pressTakes (tileOf u) (recordFmt s u r) || (matrixFmts s m).any fun f => f != recordFmt s u r
  isMac e && (bad (pdRecord e.desc 0) (matrixA s u e) || bad (pdRecord e.desc 1) (matrixB s u e))

/-- The status that an entry meets at its start; none where it passes, with the stamps of its checks (R301). -/
def pressStatus (s : State) (u : Nat) (e : PressEntry) : Except (BitVec 8) (List (BitVec 20 × BitVec 16)) :=
  if badPress u e then .error 6#8
  else if badPressFormat s u e then .error 5#8
  else
    let rs := pressRanges s u e
    let cs := rs.flatMap (rangeChecks s e.owner)
    if rs.any (fun r => !rangeInside s r) || cs.any isProt then .error 3#8
    else if cs.any isStale then .error 4#8
    else if (deadOf e.ctx).isSome then .error 8#8
    else .ok (cs.filterMap fun c => match c with | .ok (some x) => some x | _ => none).dedup

/-! ### Elements (R207, R209) -/

/-- The 4 KiB region's element number of element `p` of a row that starts at offset `o`. -/
def regionElem (fmt : BitVec 4) (o p : Nat) : Nat :=
  let b := o + (elemPlace fmt p).1
  match fmt.toNat with
  | 12 => (b / 32 * 32 % 4096) / 32 * 40 + p % 40
  | 13 => b % 4096 * 2 + p % 2
  | _ => b % 4096 * 8 / max 1 (fmtWidth fmt)

/-- The decoded value of element `p` of a row at pool offset `o` of unit `w`: its value under FMT times its block's 2^s; a void block reads NaN (R207, R209). -/
def pressElem (s : State) (w : Nat) (fmt : BitVec 4) (o p : Nat) : Num :=
  let (b, sh, n) := elemPlace fmt p
  let x := elemNum (fmt - 1#4) (getLe s.mem (poolKey w (o + b)) 2 / 2 ^ sh % 2 ^ n)
  let c := getCore s w
  let blk := (tabGet (0#4, 0#2) c.tags ((o + b) / 4096)).2
  if blk = 0#2 then x
  else
    let sc := tabGet 0#8 c.scales (256 * ((o + b) / 4096) + regionElem fmt o p / blkElems blk)
    if sc = 0x80#8 then .nan false else scaleNum sc.toInt x

/-- Element `p` of stored row `i` of a matrix. -/
def matElem (s : State) (m : Matrix) (fmt : BitVec 4) (i p : Nat) : Num := pressElem s m.unit fmt (m.off + i * m.stride) p

/-- B(q, j). -/
def elemB (s : State) (u : Nat) (e : PressEntry) (q j : Nat) : Num :=
  let r := pdRecord e.desc 1
  if arT r then matElem s (matrixB s u e) (recordFmt s u r) j q else matElem s (matrixB s u e) (recordFmt s u r) q j

/-- The index of kept value `v` of row `i` (R292). -/
def keptIndex (s : State) (u : Nat) (e : PressEntry) (i v : Nat) : Nat :=
  let m := matrixS u e
  (getByte s.mem (poolKey m.unit (m.off + i * m.stride + v / 4))).toNat / 4 ^ (v % 4) % 4

/-- A 2-of-4 group whose indices do not increase (R292, R298). -/
def badGroup (s : State) (u : Nat) (e : PressEntry) (i g : Nat) : Bool := pdSp e.desc == 1 && decide (keptIndex s u e i (2 * g + 1) ≤ keptIndex s u e i (2 * g))

/-- A(i, q), or the kept value of row `i` at place `q`; none where no kept value has it (R291, R298). -/
def elemA (s : State) (u : Nat) (e : PressEntry) (i q : Nat) : Option Num :=
  let f := recordFmt s u (pdRecord e.desc 0)
  if e.op = 0#3 then some (matElem s (matrixA s u e) f i q)
  else
    let c := keptPer e.desc
    (((List.range c).map fun j => c * (q / 4) + j).find? fun v => keptIndex s u e i v == q % 4).map fun v => matElem s (matrixA s u e) f i v

/-! ### A block-slice (R212, R297, R298) -/

/-- One level of the tree: neighbours added and rounded to A96. -/
def pairSums : List Num → List Num
  | x :: y :: r => a96Num (roundA96 (sumNum 0#2 [x, y]).1) :: pairSums r
  | xs => xs

/-- p[7][0] of 128 products. -/
def sliceTree (ps : List Num) : BitVec 96 := roundA96 ((pairSums (pairSums (pairSums (pairSums (pairSums (pairSums (pairSums ps))))))).headD Num.zero)

/-- The slice sum of an element from the row of A and the column of B, padded with +0 to 128 products. -/
def sliceSum (as : List (Option Num)) (bs : List Num) : BitVec 96 :=
  let ps := (as.zip bs).map fun (a, b) => match a with | some x => (mulNum x b).1 | none => Num.zero
  sliceTree (ps ++ List.replicate (128 - ps.length) Num.zero)

/-- Places q of slice `j`. -/
def slicePlaces (x : BitVec 512) (j : Nat) : List Nat := (List.range (min 128 (pdK x - 128 * j))).map fun i => 128 * j + i

/-- Metadata of slice `j` for the rows of a block is ill formed (R298). -/
def badSlice (s : State) (u : Nat) (e : PressEntry) (b j : Nat) : Bool :=
  let (r0, _, rows, _) := blockShape e.desc b
  e.op == 1#3 && (List.range rows).any fun i => (List.range (min 128 (pdK e.desc - 128 * j) / 4)).any fun g => badGroup s u e (r0 + i) (32 * j + g)

/-- The slice sums of block `b` and slice `j`, by row and column, on their way to member `w`'s accumulators. -/
def sliceSums (s : State) (u : Nat) (e : PressEntry) (w b j : Nat) : List SliceSum :=
  let (r0, c0, rows, cols) := blockShape e.desc b
  let qs := slicePlaces e.desc j
  let bcols := (List.range cols).map fun c => qs.map fun q => elemB s u e q (c0 + c)
  (List.range rows).flatMap fun r =>
    let as := qs.map fun q => elemA s u e (r0 + r) q
    ((List.range cols).zip bcols).map fun (c, bs) =>
      { src := tileOf u, addr := accKey s w e.desc (r * cols + c), sum := sliceSum as bs, zero := pdZa e.desc && j == 0 }

/-- Records an engine's access to the granules from storage key `key` on, `n` of them; none where a race is raised (R319, R320). -/
def recordSpan (agent u : Nat) (write : Bool) (key : Nat) : Nat → State → Option State
  | 0, s => some s
  | n + 1, s => match recordAccess (engineAccess agent u key write) s with
    | none => none
    | some s1 => recordSpan agent u write (key + 32) n s1

/-- Records a list of ranges. -/
def recordRanges (agent u : Nat) (write : Bool) : List PressRange → State → Option State
  | [], s => some s
  | r :: rs, s =>
    let k := poolKey r.unit r.off
    match recordSpan agent u write (k / 32 * 32) ((k + r.len - 1) / 32 + 1 - k / 32) s with
    | none => none
    | some s1 => recordRanges agent u write rs s1

/-- Records what an entry reads, then what it writes (R320). -/
def recordEntry (u : Nat) (e : PressEntry) (s : State) : Option State :=
  let ag := engineAgent 1 u e.eng
  let rs := pressRanges s u e
  match recordRanges ag u false (rs.filter fun r => r.rights.contains .I) s with
  | none => none
  | some s1 => recordRanges ag u true (rs.filter fun r => r.rights.contains .W) s1

/-! ### PZERO and PDRAIN (R299, R300) -/

/-- The accumulator of element (i, j) of the result (R293). -/
def resultKey (s : State) (u : Nat) (x : BitVec 512) (i j : Nat) : Nat :=
  let b := i / 128 * pdBlockCols x + j / 128
  let w := (pdMembers u x).getD b u
  accKey s w x (i % 128 * min 128 (pdN x - 128 * (j / 128)) + j % 128)

/-- Elements (i, j) of the result. -/
def resultElems (x : BitVec 512) : List (Nat × Nat) := (List.range (pdM x)).flatMap fun i => (List.range (pdN x)).map fun j => (i, j)

/-- Writes +0 to every accumulator of the result. -/
def zeroResult (u : Nat) (x : BitVec 512) (s : State) : State :=
  (resultElems x).foldl (fun s (i, j) => { s with mem := setLe s.mem (resultKey s u x i j) 16 0 }) s

/-- Row `i` of PDRAIN's result: its patterns and the flags they raise. -/
def drainRow (s : State) (u : Nat) (x : BitVec 512) (i : Nat) : List (Nat × FpFlags) :=
  (List.range (pdN x)).map fun j => roundNum (pdType x) (pdRm x) (a96Num (BitVec.ofNat 96 (getLe s.mem (resultKey s u x i j) 12)))

/-- Bytes of a row of patterns: the elements' own for whole-byte types, whole 32-byte units for .t6 and .t4. -/
def drainBytes (t : BitVec 4) (span : Nat) (xs : List Nat) : List Byte :=
  if elemWidth t < 8 then
    (List.range (span / 32)).flatMap fun k => leBytes 32 (packLanes t ((xs.drop (k * elemLanes t)).take (elemLanes t))).toNat
  else xs.flatMap (leBytes (elemWidth t / 8))

/-- PDRAIN's effect, with the flags of its roundings. -/
def drainResult (u : Nat) (e : PressEntry) (s : State) : State × FpFlags :=
  let x := e.desc
  let m := matrixD u e
  let rows := (List.range (pdM x)).map fun i => (i, drainRow s u x i)
  let s1 := rows.foldl (fun s (i, r) => { s with mem := setBytes s.mem (poolKey m.unit (m.off + i * m.stride)) (drainBytes (pdType x) m.span (r.map (·.1))) }) s
  (if pdClr x then zeroResult u x s1 else s1, flagsAny (rows.map fun r => flagsAny (r.2.map (·.2))))

/-- Performs a PZERO or PDRAIN that has passed its checks: the state and its status. -/
def performWhole (u : Nat) (e : PressEntry) (s : State) : State × BitVec 8 :=
  match recordEntry u e s with
  | none => (s, 10#8)
  | some s1 =>
    if e.op = 2#3 then (zeroResult u e.desc s1, 0#8)
    else
      let (s2, f) := drainResult u e s1
      (modCore s2 u fun c => { c with galley := { c.galley with flags := c.galley.flags ||| f } }, 0#8)

/-! ### Starting an entry (R301, R305, R306, R308) -/

/-- Slice sums of a tile's press are still on their way to an accumulate unit. -/
def sumsOut (s : State) (tile : Nat) : Bool := s.tiles.any fun t => t.2.sums.any fun x => x.src == tile

/-- The press has worked in this press cycle or the one before, so going on is no press start (R306). -/
def keepsGoing (s : State) (tile : Nat) : Bool :=
  match (tileAt s tile).lastWork with
  | some w => decide (pressCycle s ≤ w + 1) && !(tileAt s tile).gated
  | none => false

/-- The governor's limit for a press in a window (R307). -/
def dutyLimit (s : State) (tile : Nat) : Nat :=
  let d := tabGet {} s.dies (dieOfTile tile)
  16 * (if widePress tile then d.wideDuty else d.narrowDuty).toNat

/-- The press asks the surge arbiter for a start, unless the governor has stopped it for this window (R306, R307). -/
def askStart (tile : Nat) (s : State) : State :=
  let x := tileAt s tile
  if x.gated || x.request.isSome then s else setTile tile { x with request := some (pressCycle s) } s

/-- Puts a run on a tile's press. -/
def setRun (tile : Nat) (r : Option PressRun) (s : State) : State := setTile tile { tileAt s tile with run := r } s

/-- Keeps the stamps of the head entry's checks with it (R304, R308). -/
def stampHead (u : Nat) (st : List (BitVec 20 × BitVec 16)) (s : State) : State :=
  modCore s u fun c => match c.galley.entries with
    | e :: es => { c with galley := { c.galley with entries := { e with stamps := st } :: es } }
    | [] => c

/-- PRESS_ENTRY_START (R301): the head of the leased galley starts once its predecessors' writes are performed. PZERO and PDRAIN are performed here. (Log 30: DEDUCED) -/
def execPressEntryStart (tile : Nat) (s : State) : Out :=
  let x := tileAt s tile
  match leaseHolder s tile with
  | none => .next s
  | some h =>
    let u := tile * 8 + h.toNat
    match (getCore s u).galley.entries with
    | [] => .next s
    | e :: _ =>
      if x.run.isSome || sumsOut s tile || fenced s u 1 e.eng then .next s
      else
        let s1 := setTile tile { x with leaseStarts := x.leaseStarts + 1 } s
        let r : PressRun := { core := u, since := pressCycle s }
        match pressStatus s u e with
        | .error st => .next (setRun tile (some { r with status := some st }) s1)
        | .ok stamps =>
          let s2 := stampHead u stamps s1
          if isMac e then
            match recordEntry u e s2 with
            | none => .next (setRun tile (some { r with status := some 10#8 }) s2)
            | some s3 =>
              if keepsGoing s tile then .next (setRun tile (some { r with admitted := true }) s3)
              else .next (askStart tile (setRun tile (some r) s3))
          else
            let (s3, st) := performWhole u e s2
            .next (setRun tile (some { r with status := some st }) s3)

/-! ### The surge arbiter and the governor (R306, R307) -/

/-- Tiles of a die whose requests are the oldest. -/
def firstRequests (s : State) (die : Nat) : List Nat :=
  let rs := (List.range 64).filterMap fun i => ((tileAt s (die * 64 + i)).request).map fun c => (die * 64 + i, c)
  let lo := rs.foldl (fun m r => min m r.2) (rs.headD (0, 0)).2
  (rs.filter fun r => r.2 == lo).map (·.1)

/-- The partition of a tile, 8 for none. -/
def tilePart (s : State) (tile : Nat) : Nat := match partOf s (tile * 8) with | some p => p.toNat | none => 8

/-- The tile whose start is admitted next: round-robin across partitions, increasing tile order within one (R306). -/
def nextAdmitted (s : State) (die : Nat) : Option Nat :=
  let ts := firstRequests s die
  let last := (tabGet {} s.dies die).lastPart
  ((List.range 9).map fun i => (last + 1 + i) % 9).findSome? fun p => ts.find? fun t => tilePart s t == p

/-- PRESS_START_ADMIT (R306): at most 4 starts of a die in any window of 8 press cycles. (Log 30: DEDUCED) -/
def execPressStartAdmit (tile : Nat) (s : State) : Out :=
  let die := dieOfTile tile
  let d := tabGet {} s.dies die
  let now := pressCycle s
  let recent := d.starts.filter fun c => decide (now < c + 8)
  let x := tileAt s tile
  match x.run with
  | none => .next s
  | some r =>
    if x.request.isNone || x.gated || decide (4 ≤ recent.length) || nextAdmitted s die != some tile then .next s
    else
      let s1 := { s with dies := tabSet {} s.dies die { d with starts := recent ++ [now], lastPart := tilePart s tile } }
      .next (setTile tile { x with request := none, run := some { r with admitted := true, since := now } } s1)

/-- Every press that the governor stopped may start again, and asks for it. -/
def openWindow (s : State) : State :=
  (s.tiles.map (·.1)).foldl (fun s t =>
    let s1 := setTile t { tileAt s t with windowUse := 0, gated := false } s
    match (tileAt s1 t).run with
    | some r => if r.status.isNone && !r.admitted then askStart t s1 else s1
    | none => s1) s

/-- GOVERNOR_WINDOW (R307): 256 press cycles after the last window began, a new one begins. -/
def execGovernorWindow (s : State) : Out :=
  if pressCycle s < s.hub.govAt + 256 then .next s else .next (openWindow (setHub s { s.hub with govAt := pressCycle s }))

/-! ### Block-slices (R297, R303, R304) -/

/-- The shootdown of a revocation, which alone ends a press entry (R63, R304). -/
def isRevocation (x : Shoot) : Bool := match x.for_ with | .rdrop _ _ => false | _ => true

/-- A shootdown in progress names a region that the entry's checks named: the status it ends with (R304). -/
def shotStatus (s : State) (e : PressEntry) : Option (BitVec 8) :=
  (s.hub.shoots.find? fun x => isRevocation x && e.stamps.any fun st => st.1 == x.region).map fun x => if x.freed then 4#8 else 3#8

/-- What ends a running entry at a block-slice boundary. -/
def boundaryStatus (s : State) (e : PressEntry) : Option (BitVec 8) :=
  match shotStatus s e with
  | some st => some st
  | none => if (deadOf e.ctx).isSome then some 8#8 else none

/-- Slices of an entry. -/
def pdSlices (x : BitVec 512) : Nat := (pdK x + 127) / 128

/-- The run after its block-slice: the next slice of the block, then the next block. -/
def nextSlice (x : BitVec 512) (r : PressRun) : PressRun := if r.slice + 1 < pdSlices x then { r with slice := r.slice + 1 } else { r with slice := 0, block := r.block + 1 }

/-- Energy class of a press (R422). -/
def pressClass (tile : Nat) : Nat := if widePress tile then 5 else 6

/-- Press cycles that the work in progress has taken. -/
def workCycles (s : State) (r : PressRun) : Nat := max 1 (pressCycle s - r.since)

/-- Sends slice sums to the accumulate unit of the member's tile. -/
def sendSums (w : Nat) (xs : List SliceSum) (s : State) : State :=
  let t := tileAt s (tileOf w)
  setTile (tileOf w) { t with sums := t.sums ++ xs } s

/-- The press's cycles and the governor's count after a block-slice; at its limit the press stops (R307). -/
def afterSlice (tile : Nat) (e : PressEntry) (r : PressRun) (st : Option (BitVec 8)) (s : State) : State :=
  let n := workCycles s r
  let x := tileAt s tile
  let gate := decide (dutyLimit s tile ≤ x.windowUse + n)
  let r1 := { r with status := st, since := pressCycle s, admitted := !gate }
  chargeTo e.ctx (pressClass tile) n
    (setTile tile { x with windowUse := x.windowUse + n, gated := gate, lastWork := some (pressCycle s), run := some r1 } s)

/-- BLOCK_SLICE (R297, R298): the running entry's next block-slice is done; its sums go to the accumulate unit, and its boundary follows. (Log 30: DEDUCED) -/
def execBlockSlice (tile : Nat) (s : State) : Out :=
  match (tileAt s tile).run with
  | none => .next s
  | some r =>
    match (getCore s r.core).galley.entries with
    | [] => .next s
    | e :: _ =>
      if r.status.isSome || !r.admitted || !isMac e || decide (pdBlocks e.desc ≤ r.block) then .next s
      else if badSlice s r.core e r.block r.slice then .next (afterSlice tile e r (some 6#8) s)
      else
        let w := (pdMembers r.core e.desc).getD r.block r.core
        let s1 := sendSums w (sliceSums s r.core e w r.block r.slice) s
        let r1 := nextSlice e.desc r
        .next (afterSlice tile e r1 (if pdBlocks e.desc ≤ r1.block then none else boundaryStatus s1 e) s1)

/-- SLICE_SUM_ACCUMULATE (R294): the tile's accumulate unit adds the sum that reached it first. -/
def execSliceSumAccumulate (tile : Nat) (s : State) : Out :=
  let x := tileAt s tile
  match x.sums with
  | [] => .next s
  | y :: ys =>
    let old := if y.zero then a96Zero else BitVec.ofNat 96 (getLe s.mem y.addr 12)
    .next (setTile tile { x with sums := ys } { s with mem := setLe s.mem y.addr 16 (addA96 old y.sum).toNat })

/-- PRESS_SHOOTDOWN (R304): the running entry whose checks named the region ends at its block-slice boundary, and the press acknowledges. -/
def execPressShootdown (tile rgn : Nat) (s : State) : Out :=
  match (tileAt s tile).run with
  | none => .next s
  | some r =>
    match (getCore s r.core).galley.entries, s.hub.shoots.find? (fun x => isRevocation x && x.region.toNat == rgn) with
    | e :: _, some x =>
      if r.status.isNone && e.stamps.any (fun st => st.1 == x.region) then .next (setRun tile (some { r with status := some (if x.freed then 4#8 else 3#8) }) s) else .next s
    | _, _ => .next s

/-! ### Completion (R302) -/

/-- The status with which a running entry can end now. -/
def endStatus (e : PressEntry) (r : PressRun) : Option (BitVec 8) :=
  match r.status with
  | some st => some st
  | none => if isMac e && decide (pdBlocks e.desc ≤ r.block) then some 0#8 else none

/-- The galley after its head has ended with a status. -/
def popEntry (e : PressEntry) (st : BitVec 8) (g : Galley) : Galley :=
  { g with done := e.seqNo, entries := g.entries.tail, err := if g.err = 0#8 ∧ st ≠ 0#8 ∧ st ≠ 8#8 then st else g.err }

/-- PRESS_ENTRY_COMPLETE (R302, R308): after its writes, the accumulate units' additions included, the entry ends: DONE, ERR and its token. -/
def execPressEntryComplete (tile : Nat) (s : State) : Out :=
  match (tileAt s tile).run with
  | none => .next s
  | some r =>
    match (getCore s r.core).galley.entries with
    | [] => .next s
    | e :: _ =>
      match endStatus e r with
      | none => .next s
      | some st =>
        if sumsOut s tile then .next s
        else
          let s1 := modCore s r.core fun c => { c with galley := popEntry e st c.galley }
          let s2 := setTile tile { tileAt s1 tile with run := none, request := none } s1
          let s3 := if isMac e then s2 else chargeTo e.ctx (pressClass tile) (workCycles s r) s2
          let s4 := endRegion (engineAgent 1 r.core e.eng) s3
          .next (match e.token with | some t => postTo e.ctx t s4 | none => s4)

end Sys2Proof.Machine
end

