-- ==== Sys2Proof/Machine/Stack.lean ====
section
/-! DEFINITION. Channels and stacks (R271 to R275, R280 to R286): heap accesses of channel cores, hints, stack commands and the hart port. -/

namespace Sys2Proof.Machine

/-! ### XLD, XST, XLDV, XSTV (R118, R271) -/

/-- The no-external-path trap of EXT on a compute core (R118). -/
def noExternal (s : State) : Out := trap 6#8 (s.core.ir.setWidth 64) s

/-- An address in the shared heap. -/
def inHeap (ea : Word) : Bool := place true ea.toNat == .heap

/-- A heap load of a channel core: the address fault of R271, then the equivalent's effect. -/
def heapLoad (f : LoadForm) (a : Reg) (ea : Word) (fin : State → State) (s : State) : Out :=
  if onCompute s then noExternal s
  else if (tokenOf s f.k).isNone then illegal s
  else afterAcquire s fun s => checked [.g a] none s fun s => if inHeap ea then loadOp f ea fin s else trap 2#8 ea s

/-- A heap store of a channel core. -/
def heapStore (f : StoreForm) (reads : List Dest) (ea : Word) (fin : State → State) (s : State) : Out :=
  if onCompute s then noExternal s
  else afterAcquire s fun s => checked reads none s fun s => if inHeap ea then storeOp f ea fin s else trap 2#8 ea s

def execXld (sc : BitVec 2) (k : BitVec 4) (imm : BitVec 6) (a d : Reg) (s : State) : Out :=
  heapLoad { sizeLog := 3, kind := .scalar true, vec := false, dest := d, k := k, base := rdG s a } a (eaOf s a imm 8) (retire sc) s
def execXst (sc : BitVec 2) (imm : BitVec 10) (b a : Reg) (s : State) : Out :=
  heapStore (scalarForm 3 (rdG s b)) [.g a, .g b] (eaOf s a imm 8) (retire sc) s
def execXldv (sc : BitVec 2) (k : BitVec 4) (imm : BitVec 6) (a d : Reg) (s : State) : Out :=
  heapLoad { sizeLog := 5, kind := .vec, vec := true, dest := d, k := k, base := rdG s a } a (eaOf s a imm 32) (retire sc) s
def execXstv (sc : BitVec 2) (imm : BitVec 10) (b a : Reg) (s : State) : Out :=
  heapStore (vecForm (rdV s b) fun _ => true) [.g a, .v b] (eaOf s a imm 32) (retire sc) s

/-! ### Hints (R275) -/

/-- The hint ring has no room, or its n is outside 6 to 15. -/
def hintFull (h : Hints) : Bool := decide (h.log.toNat < 6) || decide (2 ^ h.log.toNat ≤ (h.tail - h.head).toNat)

/-- A hint record (R275). -/
def hintRecord (owner : BitVec 12) (va n : Nat) (hot : Bool) : Nat := boolNat hot + min n (2 ^ 32 - 1) * 2 ^ 40 + va / 4096 % 2 ^ 44 * 2 ^ 72 + owner.toNat * 2 ^ 116

/-- Appends a record and raises H0's interrupt, or counts the hint as dropped. -/
def putHint (x : Nat) (s : State) : State :=
  let h := s.hub.hints
  if hintFull h then setHub s { s.hub with hints := { h with drop := h.drop + 1#64 } }
  else
    let a := h.base.toNat * 4096 + 16 * (h.tail.toNat % 2 ^ h.log.toNat)
    { s with mem := setLe s.mem a 16 x, hub := { s.hub with hints := { h with tail := h.tail + 1#32 }, irq := s.hub.irq ||| 1#4 } }

/-- XHINT (R275): it neither traps nor holds on a channel core. -/
def execXhint (sc : BitVec 2) (b a : Reg) (hot : BitVec 1) (s : State) : Out :=
  if onCompute s then noExternal s
  else
    let x := (rdG s a).toNat
    let n := (rdG s b).toNat
    if n = 0 ∨ place true x ≠ .heap ∨ 0x00F0000000000000 < x + n then .next (retire sc s)
    else match check s (acting s) (rdG s a) n .I with
      | .error _ => .next (retire sc (checkFill s (acting s) (rdG s a) n .I))
      | .ok (_, s1) => .next (retire sc (putHint (hintRecord (acting s) x ((x + n - 1) / 4096 + 1 - x / 4096) (hot == 1#1)) s1))

/-- Sends a value that a hart or host reads. -/
def answerRead (addr : Nat) (x : Word) (s : State) : State := setHub s { s.hub with out := s.hub.out ++ [.readValue addr x] }

/-- HINT_DROP_READ (R275): returns and clears the count. -/
def execHintDropRead (s : State) : Out :=
  .next (answerRead 0x1000000300018 s.hub.hints.drop (setHub s { s.hub with hints := { s.hub.hints with drop := 0#64 } }))

/-! ### Galleys and head operands (R280 to R283) -/

/-- Galley `n`: stack × 32 + channel. -/
def stackGalley (s : State) (n : Nat) : StackGalley := tabGet {} s.galleys n
/-- Replaces galley `n`. -/
def setStackGalley (n : Nat) (g : StackGalley) (s : State) : State := { s with galleys := tabSet {} s.galleys n g }

/-- Physical address of a heap address; none where it is no heap address or does not translate. -/
def heapPa (s : State) (va : Nat) : Option Nat := if place true va = .heap then (walk s va).map (·.pa) else none

/-- The galley of a heap address's channel (R103, R280). -/
def headGalley (s : State) (va : Nat) : Option Nat := ((heapPa s va).bind stackOf).map fun (st, ch) => st * 32 + ch

/-- The head operand and its right (R283). -/
def stackHead (s : State) (op : BitVec 3) (x : BitVec 512) : Nat × Right :=
  match op.toNat with
  | 0 => (sdSrcB x, .I)
  | 1 => (sdDst x, .W)
  | 2 => if (match heapPa s (sdSrcA x) with | some p => inHostWindow p | none => false) then (sdDst x, .W) else (sdSrcA x, .I)
  | _ => (sdSrcA x, .I)

/-! ### Issue (R282, R285) -/

/-- The checks of a head operand: rights, translation, stack memory; the galley it selects (R282). -/
def headCheck (s : State) (h : Nat) (r : Right) : Except Cause (Nat × State) :=
  let ea := BitVec.ofNat 64 h
  match check s (acting s) ea 1 r with
  | .error e => .error (causeOf e, ea)
  | .ok (_, s1) =>
    if place (onCompute s) h = .heap then
      (if (walk s1 h).isNone then .error (5#8, ea) else match headGalley s1 h with | some g => .ok (g, touchPage false h s1) | none => .error (2#8, ea))
    else .error (2#8, ea)

/-- Appends an entry to galley `n` with its next number (R280). -/
def appendStack (n : Nat) (e : StackEntry) (s : State) : State :=
  let g := stackGalley s n
  setStackGalley n { g with next := g.next + 1#32, entries := g.entries ++ [{ e with seqNo := g.next }] } s

/-- The entry of the issuing context. -/
def newStackEntry (op : BitVec 3) (t : Option TokenName) (d : BitVec 512) (s : State) : StackEntry :=
  { desc := d, op := op, seqNo := 0#32, owner := acting s, by_ := some (s.cur, me s), token := t, eng := s.core.engSeq }

/-- Accepts a command of the issuing context. -/
def acceptStack (n : Nat) (op : BitVec 3) (t : Option TokenName) (d : BitVec 512) (sc : BitVec 2) (s : State) : Out :=
  let s1 := appendStack n (newStackEntry op t d s) s
  .next (retire sc (syncPoint { s1 with core := { s1.core with engSeq := s1.core.engSeq + 1 } }))

/-- A stack command at issue (R282); behind a QFNC it holds (R331). -/
def stackIssue (op : BitVec 3) (sc : BitVec 2) (k : BitVec 4) (a : Reg) (s : State) : Out :=
  withToken k s fun t => afterAcquire s fun s => checked [.g a] none s fun s =>
    withDescriptor (rdG s a) 64 64 s fun d s1 =>
      let x := BitVec.ofNat 512 d
      let (h, r) := stackHead s1 op x
      match headCheck s1 h r with
      | .error c => trapAs c (checkFill s1 (acting s1) (BitVec.ofNat 64 h) 1 r)
      | .ok (n, s2) =>
        if 64 ≤ (stackGalley s2 n).entries.length ∨ fenced s2 s2.cur 2 s2.core.engSeq then .next (hold true s)
        else if sdTok x then guardToken t s2 fun s => acceptStack n op (some t) x sc (issueToken t s)
        else acceptStack n op none x sc s2

def execSegmv (sc : BitVec 2) (k : BitVec 4) (a : Reg) (s : State) : Out := stackIssue 0#3 sc k a s
def execSefil (sc : BitVec 2) (k : BitVec 4) (a : Reg) (s : State) : Out := stackIssue 1#3 sc k a s
def execSecpy (sc : BitVec 2) (k : BitVec 4) (a : Reg) (s : State) : Out := stackIssue 2#3 sc k a s
def execSecmp (sc : BitVec 2) (k : BitVec 4) (a : Reg) (s : State) : Out := stackIssue 3#3 sc k a s
def execSered (sc : BitVec 2) (k : BitVec 4) (a : Reg) (s : State) : Out := stackIssue 4#3 sc k a s

/-- DONE and NEXT of a galley (R285). -/
def stackStatus (g : StackGalley) : Word := g.done ++ g.next

/-- SESTAT (R285). The answer arrives within the step. (Log 29: DEDUCED) -/
def execSestat (sc : BitVec 2) (a d : Reg) (s : State) : Out :=
  afterAcquire s fun s => checked [.g a] none s fun s =>
    match headCheck s (rdG s a).toNat .I with
    | .error c => trapAs c (checkFill s (acting s) (rdG s a) 1 .I)
    | .ok (n, s1) => checked [] (some (.g d, 1)) s1 fun s1 => .next (retire sc (putG d (stackStatus (stackGalley s1 n)) s1))

/-! ### Operands of a command (R283) -/

/-- The place of an entry's agent: the issuing core, or HD0 for a hart's command (R311). -/
def entryPlace (e : StackEntry) : Nat := match e.by_ with | some (u, _) => u | none => hubUnit

/-- Physical addresses of the granules of a span; a granule outside the heap gives none, one that does not translate an inner none. -/
def spanPas (s : State) (a n : Nat) : List (Option (Option Nat)) :=
  (List.range ((a + n - 1) / 4096 + 1 - a / 4096)).map fun i =>
    let g := max a ((a / 4096 + i) * 4096)
    if place true g = .heap then some ((walk s g).map (·.pa)) else none

/-- Every granule of a span lies in the stack memory of one stack (R283); one that does not translate is refused when it is accessed. -/
def isStackSpan (s : State) (a n : Nat) : Bool :=
  let gs := spanPas s a n
  let st := gs.filterMap fun g => g.bind fun p => p.map fun p => (stackOf p).map (·.1)
  n == 0 || (gs.all (·.isSome) && st.all fun x => x.isSome && x == st.headD none)

/-- Every granule of an operand of rows lies in the stack memory of one stack (R283). -/
def isStackRows (s : State) (a stride n rows : Nat) : Bool :=
  let gs := (List.range rows).flatMap fun i => spanPas s (a + i * stride) n
  let st := gs.filterMap fun g => g.bind fun p => p.map fun p => (stackOf p).map (·.1)
  n == 0 || (gs.all (·.isSome) && st.all fun x => x.isSome && x == st.headD none)

/-- A span lies wholly in the host window. -/
def isHostSpan (s : State) (a n : Nat) : Bool :=
  n == 0 || (spanPas s a n).all fun g => match g with | some (some p) => inHostWindow p | _ => false

/-- A pool address: a private alias of the issuer, or a global alias; a hart gives global aliases alone (R283, R284). -/
def isPoolSpan (e : StackEntry) (a n : Nat) : Bool :=
  (List.range (n / 4096 + 2)).all fun i =>
    let b := min (a + 4096 * i) (a + n - 1)
    match place (isCompute (entryUnit e)) b with
    | .priv _ => e.by_.isSome
    | .pool _ _ => true
    | _ => false

/-- Reads `n` bytes from `a` for an entry, byte by byte; a refusal comes with the number of bytes read before it. -/
def readSpan (ag : Nat) (e : StackEntry) (a : Nat) : Nat → State → Except (Refuse × Nat) (List Byte) × State
  | 0, s => (.ok [], s)
  | n + 1, s => match engineByteAt ag (entryUnit e) (entryPlace e) e.owner a false s with
    | .error r => (.error (r, 0), refusedByte (entryUnit e) e.owner a false s)
    | .ok (k, s1) => match readSpan ag e (a + 1) n (touchPage false a s1) with
      | (.error (r, m), s2) => (.error (r, m + 1), s2)
      | (.ok bs, s2) => (.ok (getByte s.mem k :: bs), s2)

/-- Writes bytes from `a` for an entry; those before a refusal stay written, and their number comes with it (R284). -/
def writeSpan (ag : Nat) (e : StackEntry) (a : Nat) : List Byte → State → Option (Refuse × Nat) × State
  | [], s => (none, s)
  | b :: bs, s => match engineByteAt ag (entryUnit e) (entryPlace e) e.owner a true s with
    | .error r => (some (r, 0), refusedByte (entryUnit e) e.owner a true s)
    | .ok (k, s1) => match writeSpan ag e (a + 1) bs (touchPage true a { s1 with mem := setByte s1.mem k b }) with
      | (some (r, m), s2) => (some (r, m + 1), s2)
      | (none, s2) => (none, s2)

/-- 64-byte beats of a span (R422 class 7). -/
def beatsOf (a n : Nat) : Nat := if n = 0 then 0 else (a + n - 1) / 64 + 1 - a / 64

/-! ### Decoding operands (R207, R209) -/

/-- Element `p` of an operand whose bytes have been read: its decoded value, with its block's scale (R207). -/
def readElem (s : State) (u : Nat) (a : Nat) (fmt : BitVec 4) (bs : List Byte) (p : Nat) : Num :=
  let (o, sh, w) := elemPlace fmt p
  let x := elemNum (fmt - 1#4) (leNat ((bs.drop o).take 9) / 2 ^ sh % 2 ^ w)
  let va := BitVec.ofNat 64 (a + o)
  match formatAt s u va with
  | some (_, b) =>
    if b = 0#2 then x
    else
      let sc := scaleAt s u va
      if sc = 0x80#8 then .nan false else scaleNum sc.toInt x
  | none => x

/-- Every granule of an operand carries FMT `f`, and no integer FMT a BLK (R209); one that has no format is refused when it is accessed. -/
def oneFormat (s : State) (u : Nat) (f : BitVec 4) (a n : Nat) : Bool :=
  (List.range ((a + n - 1) / 4096 + 1 - a / 4096)).all fun i =>
    match formatAt s u (BitVec.ofNat 64 (max a ((a / 4096 + i) * 4096))) with
    | some (g, b) => g == f && (b == 0#2 || decide (9 ≤ g.toNat))
    | none => true

/-- FMT at an address, RAW where there is none. -/
def fmtAt (s : State) (u : Nat) (a : Nat) : BitVec 4 := match formatAt s u (BitVec.ofNat 64 a) with | some (f, _) => f | none => 0#4

/-- The address has a format to read: it is a pool's, or a page that translates. -/
def hasFormat (s : State) (u : Nat) (a : Nat) : Bool := (formatAt s u (BitVec.ofNat 64 a)).isSome

/-! ### What a command does (R283): its status, flags and beats -/

/-- How a command has ended. -/
structure StackEnd where
  status : BitVec 8
  flags  : FpFlags := 0#5
  beats  : Nat := 0

/-- The end of a command whose read from `a` is refused, `beats` having been read before it (R422). -/
def endedBy (beats a : Nat) (r : Refuse × Nat) : StackEnd := { status := statusOf r.1, beats := beats + beatsOf a r.2 }

/-- The end after the last write, of `n` bytes from `a`: the beats charged are those read and those written (R422). -/
def afterWrite (f : FpFlags) (beats a n : Nat) (r : Option (Refuse × Nat) × State) : StackEnd × State :=
  match r.1 with
  | some e => ({ status := statusOf e.1, flags := f, beats := beats + beatsOf a e.2 }, r.2)
  | none => ({ status := 0#8, flags := f, beats := beats + beatsOf a n }, r.2)

/-- Sums `xs` slice by slice into A96 from `acc` (R212). -/
def accSlices (acc : BitVec 96) (xs : List Num) : Nat → BitVec 96
  | 0 => acc
  | n + 1 =>
    let ps := xs.take 128
    accSlices (addA96 acc (sliceTree (ps ++ List.replicate (128 - ps.length) Num.zero))) (xs.drop 128) n

/-- The sum of R212 from +0. -/
def sumSlices (xs : List Num) : BitVec 96 := accSlices a96Zero xs ((xs.length + 127) / 128)

/-- Reads rows of `n` bytes at a stride; a refusal comes with the beats read before it. -/
def readRows (ag : Nat) (e : StackEntry) (a stride n : Nat) : Nat → State → Except (Refuse × Nat) (List (List Byte)) × State
  | 0, s => (.ok [], s)
  | k + 1, s => match readSpan ag e a n s with
    | (.error (r, m), s1) => (.error (r, beatsOf a m), s1)
    | (.ok bs, s1) => match readRows ag e (a + stride) stride n k s1 with
      | (.error (r, m), s2) => (.error (r, m + beatsOf a n), s2)
      | (.ok rs, s2) => (.ok (bs :: rs), s2)

/-- SEGMV's products of row `i`. -/
def gemvRow (s : State) (u : Nat) (x : BitVec 512) (fa fb : BitVec 4) (as bs : List Byte) (i : Nat) : List Num :=
  (List.range (sdCols x)).map fun q => (mulNum (readElem s u (sdSrcA x) fa as q) (readElem s u (sdSrcB x + i * sdBstr x) fb bs q)).1

/-- Formats that SEGMV takes. -/
def gemvFmt (f : BitVec 4) : Bool := f == 9#4 || f == 11#4

/-- SEGMV (R283). -/
def runSegmv (ag : Nat) (e : StackEntry) (s : State) : StackEnd × State :=
  let x := e.desc
  let u := entryUnit e
  let t := sdType x
  let fa := fmtAt s u (sdSrcA x)
  let fb := fmtAt s u (sdSrcB x)
  let na := sdCols x * (fmtWidth fa / 8)
  let nb := sdCols x * (fmtWidth fb / 8)
  let rows := List.range (sdRows x)
  let out := sdRows x * (elemWidth t / 8)
  if sdRows x = 0 ∨ 2 ^ 20 < sdRows x ∨ sdCols x = 0 ∨ t.toNat < 8 ∨ 10 < t.toNat then ({ status := 6#8 }, s)
  else if !isPoolSpan e (sdSrcA x) (max 1 na) || !isPoolSpan e (sdDst x) out || !isStackRows s (sdSrcB x) (sdBstr x) nb (sdRows x) then ({ status := 6#8 }, s)
  else if (hasFormat s u (sdSrcA x) && !(gemvFmt fa && oneFormat s u fa (sdSrcA x) na))
      || (hasFormat s u (sdSrcB x) && !(gemvFmt fb && rows.all fun i => oneFormat s u fb (sdSrcB x + i * sdBstr x) nb)) then ({ status := 5#8 }, s)
  else match readSpan ag e (sdSrcA x) (max 1 na) s with
    | (.error r, s1) => (endedBy 0 (sdSrcA x) r, s1)
    | (.ok as, s1) => match readRows ag e (sdSrcB x) (sdBstr x) (max 1 nb) (sdRows x) s1 with
      | (.error (r, m), s2) => ({ status := statusOf r, beats := beatsOf (sdSrcA x) na + m }, s2)
      | (.ok bs, s2) =>
        let ys := (rows.zip bs).map fun (i, b) => roundNum t (sdRm x) (a96Num (sumSlices (gemvRow s u x fa fb as b i)))
        let beats := beatsOf (sdSrcA x) na + (rows.map fun i => beatsOf (sdSrcB x + i * sdBstr x) nb).sum
        afterWrite (flagsAny (ys.map (·.2))) beats (sdDst x) out (writeSpan ag e (sdDst x) (ys.flatMap fun y => leBytes (elemWidth t / 8) y.1) s2)

/-- LEN is a multiple of 64, up to 2^32 (R281). -/
def badLen (x : BitVec 512) : Bool := sdLen x % 64 != 0 || decide (2 ^ 32 < sdLen x)

/-- SEFIL (R283). -/
def runSefil (ag : Nat) (e : StackEntry) (s : State) : StackEnd × State :=
  let x := e.desc
  if badLen x || sdDst x % 64 != 0 || !isStackSpan s (sdDst x) (sdLen x) then ({ status := 6#8 }, s)
  else afterWrite 0#5 0 (sdDst x) (sdLen x) (writeSpan ag e (sdDst x) ((List.range (sdLen x)).map fun j => byteOf (sdValue x).toNat (j % 8)) s)

/-- SECPY (R283): every byte is read before any is written. -/
def runSecpy (ag : Nat) (e : StackEntry) (s : State) : StackEnd × State :=
  let x := e.desc
  let n := sdLen x
  let ok (a : Nat) : Bool := isStackSpan s a n || isHostSpan s a n
  if badLen x || sdDst x % 64 != 0 || sdSrcA x % 64 != 0 || !ok (sdSrcA x) || !ok (sdDst x)
      || (n != 0 && isHostSpan s (sdSrcA x) n && isHostSpan s (sdDst x) n) then ({ status := 6#8 }, s)
  else match readSpan ag e (sdSrcA x) n s with
    | (.error r, s1) => (endedBy 0 (sdSrcA x) r, s1)
    | (.ok bs, s1) => afterWrite 0#5 (beatsOf (sdSrcA x) n) (sdDst x) n (writeSpan ag e (sdDst x) bs s1)

/-- Offset of the first differing byte. -/
def firstDiff (as bs : List Byte) : Nat := match ((as.zip bs).map fun p => p.1 != p.2).findIdx? id with | some i => i | none => 2 ^ 64 - 1

/-- SECMP (R283). -/
def runSecmp (ag : Nat) (e : StackEntry) (s : State) : StackEnd × State :=
  let x := e.desc
  let n := sdLen x
  if badLen x || sdDst x % 8 != 0 || !isPoolSpan e (sdDst x) 8 || !isStackSpan s (sdSrcA x) n || !isStackSpan s (sdSrcB x) n then ({ status := 6#8 }, s)
  else match readSpan ag e (sdSrcA x) n s with
    | (.error r, s1) => (endedBy 0 (sdSrcA x) r, s1)
    | (.ok as, s1) => match readSpan ag e (sdSrcB x) n s1 with
      | (.error r, s2) => (endedBy (beatsOf (sdSrcA x) n) (sdSrcB x) r, s2)
      | (.ok bs, s2) => afterWrite 0#5 (beatsOf (sdSrcA x) n + beatsOf (sdSrcB x) n) (sdDst x) 8 (writeSpan ag e (sdDst x) (leBytes 8 (firstDiff as bs)) s2)

/-- The exact minimum or maximum of values; a NaN or NaR gives NaN (R222, R283). -/
def pickNum (larger : Bool) : List Num → Num
  | [] => .nan false
  | [x] => if isNanNum x then .nan false else x
  | x :: xs =>
    let y := pickNum larger xs
    if isNanNum x || isNanNum y then .nan false else if numBefore x y != larger then x else y

/-- The exact sum, minimum or maximum of integers. -/
def pickInt (rop : BitVec 2) (xs : List Int) : Int :=
  if rop = 0#2 then xs.sum else if rop = 1#2 then xs.tail.foldl min (xs.headD 0) else xs.tail.foldl max (xs.headD 0)

/-- SERED's result pattern and flags. -/
def seredValue (s : State) (u : Nat) (x : BitVec 512) (f : BitVec 4) (bs : List Byte) : Nat × FpFlags :=
  let t := sdType x
  let n := List.range (sdRows x)
  if f.toNat ≤ 8 then
    let e := f - 1#4
    let w := elemWidth e / 8
    let v := pickInt (sdRop x) (n.map fun i => intOf (elemIsSigned e) (elemWidth e) (leNat ((bs.drop (w * i)).take w)))
    (wrapInt (elemWidth t) (satInt (elemIsSigned t) (elemWidth t) v), 0#5)
  else
    let xs := n.map fun i => readElem s u (sdSrcA x) f bs i
    roundNum t (sdRm x) (if sdRop x = 0#2 then a96Num (sumSlices xs) else pickNum (sdRop x == 2#2) xs)

/-- The bytes of one element, in place of the `old` bytes at its address: a .t6 or .t4 element takes its own bits alone (R206). -/
def oneElem (t : BitVec 4) (y : Nat) (old : Byte) : List Byte :=
  let w := elemWidth t
  if w < 8 then [BitVec.ofNat 8 (old.toNat / 2 ^ w * 2 ^ w + y)] else leBytes (w / 8) y

/-- TYPE matches the source kind (R284). -/
def seredType (f t : BitVec 4) : Bool := if f.toNat ≤ 8 then elemIsInt t else elemIsFloat t || elemIsTapered t

/-- SERED (R283). -/
def runSered (ag : Nat) (e : StackEntry) (s : State) : StackEnd × State :=
  let x := e.desc
  let u := entryUnit e
  let f := fmtAt s u (sdSrcA x)
  let n := elemEnd f (sdRows x - 1)
  let m := max 1 (elemWidth (sdType x) / 8)
  let known := hasFormat s u (sdSrcA x)
  if sdRows x = 0 ∨ 2 ^ 20 < sdRows x ∨ sdRop x = 3#2 ∨ 12 < (sdType x).toNat ∨ isPoolSpan e (sdDst x) m = false then ({ status := 6#8 }, s)
  else if !isStackSpan s (sdSrcA x) (if known then n else 1) then ({ status := 6#8 }, s)
  else if known && (f == 0#4 || decide (14 ≤ f.toNat) || !oneFormat s u f (sdSrcA x) n) then ({ status := 5#8 }, s)
  else if known && !seredType f (sdType x) then ({ status := 6#8 }, s)
  else match readSpan ag e (sdSrcA x) (max 1 n) s with
    | (.error r, s1) => (endedBy 0 (sdSrcA x) r, s1)
    | (.ok bs, s1) =>
      let y := seredValue s u x f bs
      let old := match locate s u (sdDst x) with | .ok k => getByte s.mem k | .error _ => 0#8
      afterWrite y.2 (beatsOf (sdSrcA x) n) (sdDst x) m (writeSpan ag e (sdDst x) (oneElem (sdType x) y.1 old) s1)

/-- A command's whole work; a CWA that is not 8-byte aligned is a field outside R281 (R284). -/
def runStack (ag : Nat) (e : StackEntry) (s : State) : StackEnd × State :=
  if sdCwa e.desc % 8 ≠ 0 then ({ status := 6#8 }, s)
  else match e.op.toNat with
    | 0 => runSegmv ag e s
    | 1 => runSefil ag e s
    | 2 => runSecpy ag e s
    | 3 => runSecmp ag e s
    | _ => runSered ag e s

/-! ### Start and completion (R284, R286) -/

/-- The issuing continuation has ended. -/
def stackDead (e : StackEntry) : Bool := match e.by_ with | some (_, c) => (deadOf c).isSome | none => false

/-- The detector's name of a stack command: its galley and number. -/
def stackAgent (n : Nat) (e : StackEntry) : Nat := engineAgent 2 n e.seqNo.toNat

/-- A command that names the head channel of another galley, which only the hart port can give (R284). -/
def wrongGalley (s : State) (n : Nat) (e : StackEntry) : Bool := e.by_.isNone && headGalley s (stackHead s e.op e.desc).1 != some n

/-- Replaces the head of a galley. -/
def setHead (n : Nat) (e : StackEntry) (s : State) : State :=
  let g := stackGalley s n
  setStackGalley n { g with entries := e :: g.entries.tail } s

/-- STACK_COMMAND_START (R283): the galley's head starts, its predecessors being complete; the command's accesses are all made here. (Log 31: DEDUCED) -/
def execStackCommandStart (ch : Nat) (s : State) : Out :=
  match (stackGalley s ch).entries with
  | [] => .next s
  | e :: _ =>
    if e.started then .next s
    else if stackDead e then .next (setHead ch { e with started := true, status := 8#8 } s)
    else if wrongGalley s ch e then .next (setHead ch { e with started := true, status := 6#8 } s)
    else
      let (r, s1) := runStack (stackAgent ch e) e s
      .next (setHead ch { e with started := true, status := r.status, flags := r.flags, beats := r.beats } s1)

/-- The completion record (R284). -/
def completionRecord (e : StackEntry) : Nat := e.flags.toNat * 2 ^ 8 + e.status.toNat * 2 ^ 16 + e.seqNo.toNat * 2 ^ 32

/-- Writes the completion record with release at .sys; a write that is refused is dropped (R284). -/
def putCompletion (e : StackEntry) (s : State) : State :=
  let a := sdCwa e.desc
  let u := entryUnit e
  if a = 0 ∨ a % 8 ≠ 0 ∨ (e.by_.isNone ∧ a < 0x80000) then s
  else match agentCheck s e.owner (isCompute u) a .W with
    | .error _ => s
    | .ok _ => match reach s u a with
      | .error _ => s
      | .ok k => touchPage true a { s with mem := setLe s.mem k 8 (completionRecord e) }

/-- STACK_COMMAND_COMPLETE (R284): the record, DONE and the token. (Log 31: DEDUCED) -/
def execStackCommandComplete (ch : Nat) (s : State) : Out :=
  match (stackGalley s ch).entries with
  | [] => .next s
  | e :: _ =>
    if !e.started then .next s
    else
      let s1 := putCompletion e (endRegion (stackAgent ch e) s)
      let g := stackGalley s1 ch
      let s2 := setStackGalley ch { g with done := e.seqNo, entries := g.entries.tail } s1
      match e.by_ with
      | none => .next s2
      | some (_, c) =>
        let s3 := chargeTo c 7 e.beats s2
        .next (match e.token with | some t => postTo c t s3 | none => s3)

/-! ### The hart port (R284) -/

/-- A GO: an entry of owner 0 from DESC. A write to a full galley waits, so it does nothing yet. (Log 31: DEDUCED) -/
def stackGo (ch : Nat) (op : BitVec 3) (s : State) : Out :=
  let g := stackGalley s ch
  if 256 ≤ ch ∨ 64 ≤ g.entries.length then .next s
  else .next (appendStack ch { desc := g.desc, op := op, seqNo := 0#32, owner := 0#12, by_ := none, token := none } s)

def execGoSegmv (ch : Nat) (s : State) : Out := stackGo ch 0#3 s
def execGoSefil (ch : Nat) (s : State) : Out := stackGo ch 1#3 s
def execGoSecpy (ch : Nat) (s : State) : Out := stackGo ch 2#3 s
def execGoSecmp (ch : Nat) (s : State) : Out := stackGo ch 3#3 s
def execGoSered (ch : Nat) (s : State) : Out := stackGo ch 4#3 s

end Sys2Proof.Machine
end

