-- ==== Sys2Proof/Machine/Cards.lean ====
section
/-! DEFINITION. Accepting job cards (R38, R39, R46, R81, R347): the dealer's checks, the group engine's, and the statuses it writes. -/

namespace Sys2Proof.Machine

/-- The owner `o` may enter `t` as R39 and R79 ask: it is `t`, or `t` is an owner other than the steward and `o` holds a current entry with E in a region that `t` created (R61). -/
def mayEnter (s : State) (o t : BitVec 12) : Bool :=
  o == t || (t != 0#12 && (ownerDesc s t).valid && (rangeTable s o).any fun e => (entryCheck s e .E).isNone && (region s e.region).creator == t)

/-- A completion word reference names a word of a queue of the virtual device (R31, R39). -/
def cwExists (s : State) (v : Nat) (ref : BitVec 32) : Bool :=
  let q := queueOf s v (ref.extractLsb' 24 8)
  q.st != .none && decide ((ref.extractLsb' 0 24).toNat < q.cwCap.toNat)

/-- The completion word that a card names exists and is EMPTY; one that cannot be read is taken as not EMPTY. (Log 65: DESIGN CHOICE) -/
def cwEmpty (s : State) (v : Nat) (ref : BitVec 32) : Bool :=
  !cwNone ref && cwExists s v ref && (match cwRead s v ref with | some x => cwStatus x == 0 | none => false)

/-- Reading the completion word that a card names accesses its page (R52). -/
def touchCw (v : Nat) (ref : BitVec 32) (s : State) : State :=
  if cwNone ref || !cwExists s v ref || (cwRead s v ref).isNone then s else touchPage false (cwAddr s v ref) s

/-- The checks of R39 on a card of queue `q`, whose groups index launch `l`; true where it passes. -/
def cardOk (s : State) (v : Nat) (q : Queue) (l : Nat) (x : BitVec 512) : Bool :=
  let gs := cardGroupList x
  let deps := (List.range (min 4 (cardNdep x))).map fun i => (cardDep x i).extractLsb' 0 32
  !(cardCh x && partCores s (q.part.setWidth 3) true == 0)
    && cardBaseArg x % 8 == 0
    && (cardCount x == 0 || (decide (8 ≤ cardStride x) && cardStride x % 8 == 0))
    && (cardAff x == 0xFF || decide (8 * cardAff x + 8 ≤ cardStride x))
    && decide (cardNgrp x ≤ 4) && decide (cardNdep x ≤ 4)
    && decide gs.Nodup
    && gs.all (fun g => (groupOf s l g).valid)
    && deps.all (fun d => !cwNone d && cwExists s v d)
    && (cwNone (cardCw x) || cwEmpty s v (cardCw x))
    && mayEnter s q.owner (cardOwner x)

/-- What the dealer decides for a card (R34, R38, R39, R81). -/
inductive Verdict where
  /-- REFUSED; the word is written where it existed and was EMPTY at the check. -/
  | refuse (write : Bool)
  /-- A dependence has failed already. -/
  | cancel
  /-- RUNNING, or DONE with no records. -/
  | start
  | pending
  deriving DecidableEq, Repr

/-- REFUSED for a card, with the state of its word at the check (R39). (Log 65: DESIGN CHOICE) -/
def refusal (s : State) (v : Nat) (x : BitVec 512) : Verdict := .refuse (cwEmpty s v (cardCw x))

/-- A card joins the dealer's list as PENDING. -/
def addCard (v : Nat) (q : BitVec 8) (l : Nat) (addr : BitVec 56) (x : BitVec 512) (s : State) : State :=
  let c : Card := { vdev := v, queue := q, launch := l, addr := addr, bits := x }
  let s1 := touchDeps s c
  setHub s1 { s1.hub with cards := s1.hub.cards ++ [noteCard s c] }

/-- The verdict on a card that passes the checks, by its dependences as they are now (R37, R38). -/
def verdictOf (c : Card) : Verdict := if c.depBad ≠ 0#4 then .cancel else if depsMet c then .start else .pending

/-- Writes the status that the dealer has decided for a card, which is number `i` where it was accepted: CANCELLED, RUNNING or DONE, PENDING, or REFUSED (R34, R38, R39). -/
def settleCard (v : Nat) (x : BitVec 512) (i : Nat) (d : Verdict) (s : State) : State :=
  match d with
  | .refuse w => if w then noteDeps (cwUpdate v (cardCw x) (fun w => cwNat 6 (cwLost w) (cwDone w)) s) else s
  | .cancel => cancelCard i s
  | .start => startCard i s
  | .pending => if cwNone (cardCw x) then s else noteDeps (cwUpdate v (cardCw x) (fun w => cwNat 1 (cwLost w) (cwDone w)) s)

/-- The code of card `i`'s status (R33). -/
def cardStatus (s : State) (i : Nat) : Nat := match cardAt s i with | some c => cardCode c.st | none => 6

/-! ### LAUNCH's two passes (R46, R81) -/

/-- Group `a` nests in group `b` over a list of group sets. -/
def nestsIn (sets : List (List (BitVec 8))) (a b : BitVec 8) : Bool :=
  a != b && sets.any (fun g => g.contains a) && sets.all (fun g => !g.contains a || g.contains b) && sets.any fun g => g.contains b && !g.contains a

/-- Two groups of the sets nest (R46). -/
def setsNest (sets : List (List (BitVec 8))) : Bool := sets.flatten.any fun a => sets.flatten.any fun b => nestsIn sets a b

/-- Bytes 0 to 63 of the card at an address, read for the queue's owner; none where the read is refused (R450). -/
def readCard (s : State) (q : Queue) (n : Nat) : Option (BitVec 56 × BitVec 512) :=
  let a := q.cardBase.toNat + 64 * (n % 2 ^ q.capLog.toNat)
  (hubRead s q.owner a 64).map fun x => (BitVec.ofNat 56 a, BitVec.ofNat 512 x)

/-- The cards that pass a LAUNCH's checks join the dealer's list, in order and before any status is written (R81); the checks have read each card and its word (R52). -/
def joinCards (v : Nat) (q : BitVec 8) (l : Nat) (cs : List (Option (BitVec 56 × BitVec 512) × Verdict)) (s : State) : State :=
  cs.foldl (fun s c => match c with
    | (some (a, x), .refuse _) => touchCw v (cardCw x) (touchPage false a.toNat s)
    | (some (a, x), _) => noteSet l (cardGroupList x) (addCard v q l a x (touchCw v (cardCw x) (touchPage false a.toNat s)))
    | (none, _) => s) s

/-- Writes the statuses of a launch's cards in order, HEAD rising after each (R81): each card with its address where it could be read, and its verdict; `i` is the number of
the next accepted one. -/
def writeCards (v : Nat) (q : BitVec 8) (i : Nat) : List (Option (BitVec 56 × BitVec 512) × Verdict) → State → State
  | [], s => s
  | (c, d) :: cs, s =>
    let s1 := match c with
      | none => s
      | some (_, x) => settleCard v x i d s
    let y := queueOf s1 v q
    let n := match d with | .refuse _ => i | _ => i + 1
    writeCards v q n cs (setQueue v q { y with head := y.head + 1#32 } s1)

/-! ### DEAL (R347) -/

/-- The queue that a record's CWREF names (R342, R347). -/
def recQueue (r : Rec) : BitVec 8 := r.cwref.extractLsb' 24 8

/-- DEAL's additions to R39: the issuer's own OPEN queue, groups among the issuer's, and the group engine (R46, R347). -/
def dealOk (s : State) (r : Rec) (k : Cont) (x : BitVec 512) : Bool :=
  (cardCw x).extractLsb' 24 8 == recQueue r && (queueOf s k.vdev (recQueue r)).st == .open_
    && (cardGroupList x).all (fun g => (recGroups r).contains g) && !wouldNest (launchOf s k.launch) (cardGroupList x)

/-- The dealer's decision on a card read for the issuer: its status, and the state after (R39, R347). -/
def dealCard (r : Rec) (k : Cont) (addr : BitVec 56) (x : BitVec 512) (s0 : State) : Nat × State :=
  let q := recQueue r
  let s := touchCw k.vdev (cardCw x) s0
  let i := s.hub.cards.length
  if cardOk s k.vdev (queueOf s k.vdev q) k.launch x && dealOk s r k x then
    let s1 := noteSet k.launch (cardGroupList x) (addCard k.vdev q k.launch addr x s)
    let s2 := settleCard k.vdev x i (match cardAt s1 i with | some c => verdictOf c | none => .pending) s1
    (cardStatus s2 i, s2)
  else (6, settleCard k.vdev x i (refusal s k.vdev x) s)

/-- The card at `a` as the dealer reads it for the issuing context; a private alias denotes its pool (R347, R358). -/
def dealRead (s : State) (a : Nat) : Option (BitVec 512) :=
  match place (onCompute s) a with
  | .priv off => if off + 64 ≤ scratchSize s.cur s.core then some (BitVec.ofNat 512 (getLe s.mem (poolKey s.cur off) 64)) else none
  | _ => (hubRead s (acting s) a 64).map (BitVec.ofNat 512)

end Sys2Proof.Machine
end

