-- ==== Sys2Proof/Machine/Tasks.lean ====
section
/-! DEFINITION. Instructions that make and join work (R339 to R349): SPAWN, DEAL, SUSP, EXIT, GBAR, GRANK. -/

namespace Sys2Proof.Machine

/-! ### SPAWN (R340 to R343) -/

/-- Fields of a spawn descriptor (R341). -/
def spPc (d : Nat) : BitVec 56 := BitVec.ofNat 56 (bits d 0 56)
def spArg (d : Nat) : BitVec 56 := BitVec.ofNat 56 (bits d 64 56)
def spNarg (d : Nat) : BitVec 28 := BitVec.ofNat 28 (bits d 128 28)
def spGmask (d : Nat) : BitVec 4 := BitVec.ofNat 4 (bits d 160 4)
def spPrio (d : Nat) : BitVec 2 := BitVec.ofNat 2 (bits d 164 2)
def spPriov (d : Nat) : Bool := bitAt d 166
def spAffinity (d : Nat) : BitVec 56 := BitVec.ofNat 56 (bits d 192 56)

/-- The spawner's groups that GMASK names, in increasing i (R343). -/
def childGroups (r : Rec) (m : BitVec 4) : List (BitVec 8) := ((List.range 4).filter fun i => m.getLsbD i).map fun i => r.groups.extractLsb' (8 * i) 8

/-- GMASK names a group that the issuer has not (R342). -/
def badGmask (r : Rec) (m : BitVec 4) : Bool := (List.range 4).any fun i => m.getLsbD i && decide (r.ngrp.toNat ≤ i)

/-- Groups as a record holds them. -/
def packGroups : List (BitVec 8) → BitVec 32
  | [] => 0#32
  | g :: gs => (packGroups gs <<< 8) ||| g.setWidth 32

/-- The child's record (R343). -/
def childRec (s : State) (d : Nat) : Rec :=
  let r := s.core.ctx.rcd
  let gs := childGroups r (spGmask d)
  { cwref := r.cwref &&& 0xFF000000#32, ch := r.ch, narg := spNarg d, groups := packGroups gs, affinity := spAffinity d, ngrp := BitVec.ofNat 3 gs.length
    arg := spArg d, rclass := r.rclass, prio := if spPriov d then spPrio d else (issuingSlot s).prio }

/-- The issuer's queue runs work (R342). -/
def queueRunning (q : Queue) : Bool := q.st == .open_ || q.st == .draining

/-- Completes a SPAWN or DEAL with its result. -/
def taskDone (sc : BitVec 2) (d : Reg) (x : Word) (s : State) : Out := .next (retire sc (putG d x (syncPoint s)))

/-- Creates the child of a spawn descriptor (R342, R343); a2 of its first run is the spawner's mailbox handle. -/
def spawnChild (k : Cont) (p : BitVec 3) (record chrys : BitVec 56) (d : Nat) (s : State) : State :=
  let r := childRec s d
  let s1 := createCont p record chrys r (acting s) (spPc d) k.vdev (recQueue s.core.ctx.rcd) k.launch none s
  noteSet k.launch (recGroups r) (devPut s1 (chrys.toNat + 80) 8 (ownHandle s).toNat)

/-- SPAWN after its checks and its release. -/
def spawnNow (sc : BitVec 2) (r : Reg) (d : Nat) (s : State) : Out :=
  match contAt s (me s) with
  | none => taskDone sc r 1#64 s
  | some k =>
    let p := (vdevOf s k.vdev).part
    if !queueRunning (queueOf s k.vdev (recQueue s.core.ctx.rcd)) then taskDone sc r 1#64 s
    else match spawnEntry s p with
      | none => taskDone sc r 0#64 s
      | some (record, chrys) =>
        if wouldNest (launchOf s k.launch) (childGroups s.core.ctx.rcd (spGmask d)) then taskDone sc r 2#64 s
        else if ringFull (getPart s p) then .next (hold true s)
        else taskDone sc r (record.setWidth 64) (spawnChild k p record chrys d s)

/-- SPAWN (R342). (Log 35: DESIGN CHOICE) -/
def execSpawn (sc : BitVec 2) (a d : Reg) (s : State) : Out :=
  checked [.g a] none s fun s =>
    behindLdaq true s fun s => withDescriptor (rdG s a) 32 32 s fun x s1 =>
      if (spPc x).getLsbD 0 then trap 2#8 ((spPc x).setWidth 64) s1
      else if badGmask s1.core.ctx.rcd (spGmask x) then trap 16#8 ((spGmask x).setWidth 64) s1
      else afterAll s1 fun s => checked [] (some (.g d, 1)) s (spawnNow sc d x)

/-! ### DEAL (R347) -/

/-- DEAL after its release: the dealer reads the card and decides. -/
def dealNow (sc : BitVec 2) (d : Reg) (a : Word) (s : State) : Out :=
  match contAt s (me s), dealRead s a.toNat with
  | some k, some x =>
    let (st, s1) := dealCard s.core.ctx.rcd k (a.setWidth 56) x (touchPage false a.toNat s)
    taskDone sc d (BitVec.ofNat 64 st) s1
  | _, _ => taskDone sc d 6#64 s

/-- DEAL (R347). (Log 29: DEDUCED, 35: DESIGN CHOICE) -/
def execDeal (sc : BitVec 2) (a d : Reg) (s : State) : Out :=
  checked [.g a] none s fun s =>
    let x := rdG s a
    if x.extractLsb' 56 8 ≠ 0#8 ∨ x.toNat % 64 ≠ 0 then trap 2#8 x s
    else afterAll s fun s => checked [] (some (.g d, 1)) s (dealNow sc d x)

/-! ### SUSP (R348) -/

/-- SUSP (R348); illegal in steward mode (R339). -/
def execSusp (sc : BitVec 2) (s : State) : Out :=
  if steward s then illegal s
  else
    let s1 := retire sc (progress (me s) s)
    if s.core.ctx.ctl.wake then .next (setCtl s1 { s1.core.ctx.ctl with wake := false }) else .next (suspend .suspended s1)

/-! ### GBAR and GRANK (R345, R346) -/

/-- The launch whose groups a context's record indexes. -/
def launchOfCtx (s : State) (chrys : BitVec 56) : Nat := match contAt s chrys with | some k => k.launch | none => s.hub.launches.length

/-- The group id that index `n` names in the issuer's record. -/
def groupId (s : State) (n : BitVec 2) : BitVec 8 := s.core.ctx.rcd.groups.extractLsb' (8 * n.toNat) 8

/-- The arrival, after the release (R345). -/
def arriveNow (sc : BitVec 2) (n : BitVec 2) (s : State) : Out :=
  let l := launchOfCtx s (me s)
  let g := groupId s n
  let x := groupOf s l g
  let s1 := syncPoint (setGroup l g { x with arrived := x.arrived ++ [me s] } (retire sc s))
  if genComplete s1 l g then .next (completeGen l g s1) else .next (suspend .barrier s1)

/-- GBAR and EXIT are progress of their queue when they issue; a cycle in which one goes on holding is not (R384). -/
def issueProgress (s : State) : State := if s.core.holdSince.isSome then s else progress (me s) s

/-- GBAR (R345); illegal in steward mode (R339). (Log 35: DESIGN CHOICE) -/
def execGbar (sc : BitVec 2) (n : BitVec 2) (s : State) : Out :=
  if steward s then illegal s
  else if s.core.ctx.rcd.ngrp.toNat ≤ n.toNat then trap 16#8 (n.setWidth 64) s
  else afterAll (issueProgress s) (arriveNow sc n)

/-- GRANK (R346). -/
def execGrank (sc : BitVec 2) (n : BitVec 2) (d : Reg) (s : State) : Out :=
  if s.core.ctx.rcd.ngrp.toNat ≤ n.toNat then trap 16#8 (n.setWidth 64) s
  else checked [] (some (.g d, 2)) s fun s =>
    .next (retire sc (putGLater 2 d ((groupId s n ++ s.core.ctx.ctl.ranks[n.toNat]'(n.isLt)).setWidth 64) s))

/-! ### EXIT (R349) -/

/-- Every token of a context is quiescent. -/
def quiescent (c : Ctx) : Bool := !(c.regs.k.toList.any outstanding) && !(c.regs.hk.toList.any outstanding)

/-- A core still carries engine work or accesses of a context. -/
def coreBusyFor (h : BitVec 56) (c : Core) : Bool :=
  (c.copies.any fun x => x.ctx == h) || (c.galley.entries.any fun x => x.ctx == h) || c.log.toList.any (logWaits h) || c.journal.toList.any (jnlWaits h)

/-- The conditions of R349 that EXIT waits for. -/
def mayExit (s : State) : Bool :=
  let h := me s
  quiescent s.core.ctx && allPerformed s && !((liveUnits s).any fun u => coreBusyFor h (getCore s u))
    && !(s.galleys.any fun g => g.2.entries.any fun e => match e.by_ with | some (_, c) => c == h | none => false)
    && !(s.tiles.any fun t => t.2.tq.any fun r => r.ctx == h)

/-- EXIT's effects in order (R349, R416); the energy count takes no charge from the cycle in which its conditions hold (R417). -/
def exitNow (s : State) : State :=
  let i := (s.core.issuing.getD 0#3).toNat
  let s2 := leaveSlot { s with core := { s.core with ctx := flush s.core.ctx } }
  endSlot s2.cur i .exited { s2 with core := { s2.core with nextIssue := s.gtc + 1 } }

/-- EXIT (R349). -/
def execExitI (_sc : BitVec 2) (s : State) : Out := if mayExit s then .next (exitNow (issueProgress s)) else .next (hold true (issueProgress s))

end Sys2Proof.Machine
end

