-- ==== Sys2Proof/Machine/Fit.lean ====
section
/-! DEFINITION. The viceroy (R394 to R413): the network, training, comparison, entries and executions, FITB, FITE, FITK, FITQ, FITW, and the events that end
a training step and a substitution. -/

namespace Sys2Proof.Machine

/-! ### .f32 arithmetic under RNE (R396) -/

/-- ROUND_RNE to .f32; a NaN becomes canonical. -/
def f32Round (x : Num) : BitVec 32 := BitVec.ofNat 32 (roundFloat fmtF32 23 0#2 x).1
/-- x × y + z with one rounding. -/
def f32Fma (x y z : BitVec 32) : BitVec 32 := f32Round (sumNum 0#2 [(mulNum (f32Num x) (f32Num y)).1, f32Num z]).1
/-- x + y. -/
def f32Add (x y : BitVec 32) : BitVec 32 := f32Round (sumNum 0#2 [f32Num x, f32Num y]).1
/-- x − y. -/
def f32Sub (x y : BitVec 32) : BitVec 32 := f32Round (sumNum 0#2 [f32Num x, negNum (f32Num y)]).1

/-- A value above 0. -/
def numPos : Num → Bool
  | .inf n => !n
  | .fin n m _ => !n && m != 0
  | _ => false

/-- x × 2^−j ÷ b, close enough that ROUND gives the result of the exact quotient: 64 further bits, and a last bit that is 1 where the division leaves a rest. -/
def numDiv (j b : Nat) : Num → Num
  | .fin n m e => .fin n (2 * (m * 2 ^ 64 / b) + boolNat (m * 2 ^ 64 % b != 0)) (e - j - 65)
  | x => x

/-- |x| ≤ |y| for values other than NaN. -/
def magLe : Num → Num → Bool
  | _, .inf _ => true
  | .inf _, _ => false
  | .fin _ m e, .fin _ n f => !magLt n f m e
  | _, _ => false

/-! ### The signature record (R395) -/

def frNin (r : BitVec 192) : Nat := (r.extractLsb' 48 4).toNat
def frNout (r : BitVec 192) : Nat := (r.extractLsb' 52 3).toNat
def frH1 (r : BitVec 192) : Nat := (r.extractLsb' 88 6).toNat
def frH2 (r : BitVec 192) : Nat := (r.extractLsb' 94 6).toNat
def frB (r : BitVec 192) : Nat := (r.extractLsb' 128 7).toNat
def frV (r : BitVec 192) : Nat := (r.extractLsb' 136 7).toNat
def frS (r : BitVec 192) : Nat := (r.extractLsb' 144 4).toNat
def frF (r : BitVec 192) : Nat := (r.extractLsb' 148 4).toNat
def frJ (r : BitVec 192) : Nat := (r.extractLsb' 152 5).toNat
def frZi (r : BitVec 192) : Bool := r.getLsbD 157
/-- A signature: bits [127:0]. -/
def frSig (r : BitVec 192) : BitVec 128 := r.setWidth 128

/-- The register of a 6-bit code. -/
def fitReg (c : BitVec 6) : Dest := if c.getLsbD 5 then .v (c.setWidth 5) else .g (c.setWidth 5)
/-- Input registers IN0 to IN(NIN − 1). -/
def frIns (r : BitVec 192) : List Dest := (List.range (frNin r)).map fun k => fitReg (r.extractLsb' (6 * k) 6)
/-- Output registers OUT0 to OUT(NOUT − 1). -/
def frOuts (r : BitVec 192) : List Dest := (List.range (frNout r)).map fun k => fitReg (r.extractLsb' (64 + 6 * k) 6)

/-- A 64-byte record is ill-formed (R395). Only the outputs in use are held against g0 (DEDUCED: unused codes are 0). (Log 32: DEDUCED) -/
def illFormed (d : Nat) : Bool :=
  let r := BitVec.ofNat 192 d
  frNin r == 0 || decide (8 < frNin r) || frNout r == 0 || decide (4 < frNout r) || decide (32 < frH1 r) || decide (32 < frH2 r)
    || decide (frB r < 4) || decide (64 < frB r) || frV r == 0 || frF r == 0
    || (frH2 r != 0 && frH1 r == 0)
    || (frOuts r).contains (.g 0#5)
    || bits d 158 354 != 0 || bits d 143 1 != 0 || bits d 135 1 != 0 || bits d 100 28 != 0 || bits d 55 9 != 0

/-- Widths of the layers, the inputs' first (R396). -/
def frWidths (r : BitVec 192) : List Nat := [frNin r] ++ (if frH1 r = 0 then [] else [frH1 r]) ++ (if frH2 r = 0 then [] else [frH2 r]) ++ [frNout r]

/-! ### The network (R396, R397) -/

/-- A layer: a row of weights for each output, and the biases. -/
structure FitLayer where
  rows : List (List (BitVec 32))
  bias : List (BitVec 32)

/-- `n` rows of `w` words. -/
def takeRows (w : Nat) : Nat → List (BitVec 32) → List (List (BitVec 32))
  | 0, _ => []
  | n + 1, xs => xs.take w :: takeRows w n (xs.drop w)

/-- The layers of weights in image order (R408). -/
def layersOf : List Nat → List (BitVec 32) → List FitLayer
  | i :: o :: ws, xs => { rows := takeRows i o xs, bias := (xs.drop (i * o)).take o } :: layersOf (o :: ws) (xs.drop (i * o + o))
  | _, _ => []

/-- Weights in image order (R408). -/
def flattenLayers (ls : List FitLayer) : List (BitVec 32) := ls.flatMap fun l => l.rows.flatten ++ l.bias

/-- z of one output. -/
def fitDot (row a : List (BitVec 32)) (b : BitVec 32) : BitVec 32 := (row.zip a).foldl (fun z p => f32Fma p.1 p.2 z) b
/-- ReLU; a NaN stays. -/
def fitRelu (z : BitVec 32) : BitVec 32 := if isNanNum (f32Num z) || numPos (f32Num z) then z else 0#32
/-- z of a layer. -/
def layerZ (l : FitLayer) (a : List (BitVec 32)) : List (BitVec 32) := (l.rows.zip l.bias).map fun p => fitDot p.1 a p.2

/-- Every layer's inputs and z; the last layer's z is the network's answer. -/
def fitForward : List FitLayer → List (BitVec 32) → List (List (BitVec 32) × List (BitVec 32))
  | [], _ => []
  | l :: ls, a => (a, layerZ l a) :: fitForward ls ((layerZ l a).map fitRelu)

/-- The network's answer for inputs (R396). -/
def fitAnswer (r : BitVec 192) (w x : List (BitVec 32)) : List (BitVec 32) :=
  match (fitForward (layersOf (frWidths r) w) x).getLast? with
  | some p => p.2
  | none => []

/-- w[l][o][i] of R397 for ZI = 0. -/
def fitWeight (l o i : Nat) : BitVec 32 := f32Round (.fin (decide ((3 * o + 5 * i + l) % 8 < 4)) ((2 * ((3 * o + 5 * i + l) % 8) : Int) - 7).natAbs (-4))

/-- Initial weights of the layers from `l` on (R397). -/
def fitInit (zi : Bool) : List Nat → Nat → List (BitVec 32)
  | i :: o :: ws, l =>
    ((List.range o).flatMap fun y => (List.range i).map fun x => if zi then 0#32 else fitWeight l y x) ++ List.replicate o 0#32 ++ fitInit zi (o :: ws) (l + 1)
  | _, _ => []

/-- Number of weights and biases (R408). -/
def fitCount : List Nat → Nat
  | i :: o :: ws => i * o + o + fitCount (o :: ws)
  | _ => 0

/-! ### A training step (R398) -/

/-- d of every layer, from the layers, their z and the sample's outputs. -/
def fitDeltas : List FitLayer → List (List (BitVec 32)) → List (BitVec 32) → List (List (BitVec 32))
  | [_], [z], t => [(z.zip t).map fun p => f32Sub p.1 p.2]
  | _ :: l :: ls, z :: zs, t =>
    let ds := fitDeltas (l :: ls) zs t
    let dn := ds.headD []
    ((List.range z.length).map fun h =>
      if numPos (f32Num (z.getD h 0#32)) then (l.rows.zip dn).foldl (fun e p => f32Fma (p.1.getD h 0#32) p.2 e) 0#32 else 0#32) :: ds
  | _, _, _ => []

/-- Adds one sample's gradients to a layer's. -/
def addGrad (g : FitLayer) (a d : List (BitVec 32)) : FitLayer :=
  { rows := (g.rows.zip d).map fun p => (p.1.zip a).map fun q => f32Fma p.2 q.2 q.1
    bias := (g.bias.zip d).map fun p => f32Add p.2 p.1 }

/-- Adds one sample's gradients to every layer's. -/
def addSampleGrad (ls : List FitLayer) (gs : List FitLayer) (x t : List (BitVec 32)) : List FitLayer :=
  let f := fitForward ls x
  let ds := fitDeltas ls (f.map (·.2)) t
  (gs.zip (f.zip ds)).map fun p => addGrad p.1 p.2.1.1 p.2.2

/-- The new weights of a step on a buffer. -/
def fitStep (r : BitVec 192) (w : List (BitVec 32)) (buf : List (List (BitVec 32) × List (BitVec 32))) : List (BitVec 32) :=
  let ls := layersOf (frWidths r) w
  let zero := layersOf (frWidths r) (List.replicate w.length 0#32)
  let g := flattenLayers (buf.foldl (fun gs p => addSampleGrad ls gs p.1 p.2) zero)
  (w.zip g).map fun p => f32Sub p.1 (f32Round (numDiv (frJ r) (frB r) (f32Num p.2)))

/-! ### Comparison (R399) -/

/-- One threshold holds: e ≤ lim, where +∞ always does; a negative one only for e = 0. -/
def withinLimit (e lim : Num) : Bool :=
  match e, lim with
  | .fin _ 0 _, .fin _ _ _ => true
  | .fin _ 0 _, .inf _ => true
  | e, .inf false => !isNanNum e
  | e, .fin false m x => magLe e (.fin false m x)
  | _, _ => false

/-- The comparison of one output. -/
def outputPasses (abs rel y p : BitVec 32) : Bool :=
  let yn := f32Num y
  let pn := f32Num p
  let a := f32Num abs
  let r := f32Num rel
  if isNanNum yn || isNanNum pn || isNanNum a || isNanNum r then false
  else
    let e := absNum (sumNum 0#2 [pn, negNum yn]).1
    if isNanNum e then false
    else withinLimit e a && (match r with
      | .inf false => true
      | r => let lim := (mulNum r (absNum yn)).1; if isNanNum lim then e == .fin false 0 0 else withinLimit e lim)

/-- The comparison of true outputs with the network's answer. -/
def fitPasses (abs rel : BitVec 32) (y p : List (BitVec 32)) : Bool := (y.zip p).all fun q => outputPasses abs rel q.1 q.2

/-! ### Entries (R394, R400, R406) -/

/-- The viceroy of quad q. -/
def viceroyOf (s : State) (q : Nat) : Viceroy := tabGet {} s.quads q
/-- Replaces the viceroy of quad q. -/
def setViceroy (q : Nat) (v : Viceroy) (s : State) : State := { s with quads := tabSet {} s.quads q v }

/-- Entry `i`. -/
def fitAt (v : Viceroy) (i : Nat) : Option FitEntry := tabGet none v.entries i
/-- Replaces entry `i`. -/
def putFit (i : Nat) (e : FitEntry) (v : Viceroy) : Viceroy := { v with entries := tabSet none v.entries i (some e) }

/-- The entry of a key. -/
def findFit (v : Viceroy) (o : BitVec 12) (n : BitVec 4) : Option (Nat × FitEntry) :=
  (List.range 16).findSome? fun i => match fitAt v i with
    | some e => if e.owner = o ∧ e.n = n then some (i, e) else none
    | none => none

/-- The entry that a new key takes: the lowest-numbered free one, or else the lowest-numbered INVALID one (R400). -/
def spareFit (v : Viceroy) : Option Nat :=
  match (List.range 16).find? fun i => (fitAt v i).isNone with
  | some i => some i
  | none => (List.range 16).find? fun i => match fitAt v i with | some e => e.st == .invalid | none => false

/-- Takes entry `i` for a new key; executions of the key it held are gone. -/
def takeFit (i : Nat) (e : FitEntry) (v : Viceroy) : Viceroy := putFit i e { v with execs := v.execs.filter fun x => x.entry != some i }

/-- Makes entry `i` INVALID: the buffer is emptied, a running step abandoned and its open executions dropped (R400, R405). -/
def invalidFit (i : Nat) (v : Viceroy) : Viceroy :=
  match fitAt v i with
  | none => v
  | some e => if e.st = .invalid then v else putFit i { e with st := .invalid, buffer := [] } { v with execs := v.execs.filter fun x => x.entry != some i }

/-- Makes the entries that a condition names INVALID. -/
def invalidWhere (p : FitEntry → Bool) (v : Viceroy) : Viceroy :=
  (List.range 16).foldl (fun v i => match fitAt v i with | some e => if p e then invalidFit i v else v | none => v) v

/-- A shootdown of a region id reaches the viceroys (R406). -/
def shootFits (id : BitVec 20) (s : State) : State :=
  { s with quads := s.quads.map fun (q, v) => (q, invalidWhere (fun e => match e.image with | some (r, _) => r == id | none => false) v) }

/-- Code of page `base` is replaced in a core of quad q (R406). -/
def replaceCode (q : Nat) (base : BitVec 44) (s : State) : State :=
  let v := viceroyOf s q
  setViceroy q (invalidWhere (fun e => (match e.fba with | some a => a.extractLsb' 12 44 == base | none => false) || (e.fev && e.fea.extractLsb' 12 44 == base)) v) s

/-- A new entry (R397, R400). -/
def newFit (o : BitVec 12) (n : BitVec 4) (r : BitVec 192) (addr : Option (BitVec 56)) : FitEntry :=
  { owner := o, n := n, record := r, weights := fitInit (frZi r) (frWidths r) 1, fba := addr }

/-! ### Executions (R400, R403 to R405) -/

/-- Drops a context's open execution. -/
def dropExec (c : BitVec 56) (v : Viceroy) : Viceroy := { v with execs := v.execs.filter fun x => x.ctx != c }

/-- Opens an execution; where 256 are open the oldest is dropped. -/
def openExec (x : OpenExec) (v : Viceroy) : Viceroy := { v with execs := (if 256 ≤ v.execs.length then v.execs.drop 1 else v.execs) ++ [x] }

/-- What a viceroy answers to a FITB. -/
inductive FitReply where
  | wait
  | truePath
  | sub (y : List (BitVec 32)) (fea : BitVec 56)
  deriving DecidableEq, Repr

/-- The viceroy performs the request of a FITB (R400). -/
def askFit (o : BitVec 12) (n : BitVec 4) (r : BitVec 192) (x : List (BitVec 32)) (c addr : BitVec 56) (v0 : Viceroy) : FitReply × Viceroy :=
  let v := dropExec c v0
  let opened (i : Option Nat) (a : OpenAs) (v : Viceroy) : FitReply × Viceroy := (.truePath, openExec { ctx := c, entry := i, inputs := x, outs := frOuts r, as_ := a } v)
  match findFit v o n with
  | none => match spareFit v with
    | none => opened none .nothing v
    | some i => opened (some i) .sample (takeFit i (newFit o n r (some addr)) v)
  | some (i, e) =>
    if frSig e.record ≠ frSig r then opened (some i) .nothing (invalidFit i v)
    else
      let e1 := { e with fba := some (e.fba.getD addr) }
      let v1 := putFit i e1 v
      match e.st with
      | .collect => opened (some i) .sample v1
      | .fallback => opened (some i) .sample v1
      | .train => (.wait, v1)
      | .validate => opened (some i) (.compare .validate e.made) v1
      | .active =>
        let cnt := e.cnt + 1#32
        let v2 := putFit i { e1 with cnt := cnt } v
        if cnt.toNat % 2 ^ frS e.record = 0 then opened (some i) (.compare .active e.made) v2 else (.sub (fitAnswer e.record e.weights x) e.fea, v2)
      | .invalid => opened (some i) .nothing v1

/-- A sample reaches an entry in COLLECT or FALLBACK (R398, R400). -/
def addSample (x t : List (BitVec 32)) (e : FitEntry) : FitEntry :=
  if (x ++ t).all f32Finite then
    let b := e.buffer ++ [(x, t)]
    { e with buffer := b, st := if frB e.record ≤ b.length then .train else e.st }
  else e

/-- A comparison's effect on its entry (R400); true where the entry becomes INVALID. -/
def compareFit (pass : Bool) (x t : List (BitVec 32)) (e : FitEntry) : FitEntry × Bool :=
  match e.st, pass with
  | .validate, true => (if e.good + 1 < frV e.record then { e with good := e.good + 1 } else { e with st := .active, good := 0, cnt := 0#32 }, false)
  | .validate, false => (addSample x t { e with st := .collect, good := 0, buffer := [] }, false)
  | .active, false =>
    if e.fb + 1 < frF e.record then (addSample x t { e with st := .fallback, fb := e.fb + 1, buffer := [] }, false)
    else ({ e with fb := frF e.record }, true)
  | _, _ => (e, false)

/-- A true FITE that matches an open execution of entry `i` (R404). -/
def actFite (x : OpenExec) (i : Nat) (e : FitEntry) (t : List (BitVec 32)) (abs rel : BitVec 32) (v : Viceroy) : Viceroy :=
  match x.as_ with
  | .nothing => putFit i e v
  | .sample => putFit i (if e.st = .collect ∨ e.st = .fallback then addSample x.inputs t e else e) v
  | .compare st made =>
    if e.st ≠ st ∨ e.made ≠ made then putFit i e v
    else
      let (e1, gone) := compareFit (fitPasses abs rel t (fitAnswer e.record e.weights x.inputs)) x.inputs t e
      if gone then invalidFit i (putFit i e1 v) else putFit i e1 v

/-- A true FITE reaches the viceroy (R404). -/
def closeFit (c : BitVec 56) (t : List (BitVec 32)) (abs rel : BitVec 32) (addr : BitVec 56) (v : Viceroy) : Viceroy :=
  match v.execs.find? fun x => x.ctx == c with
  | none => v
  | some x =>
    let v1 := dropExec c v
    match x.entry with
    | none => v1
    | some i => match fitAt v1 i with
      | none => v1
      | some e => if e.fev ∧ e.fea ≠ addr then invalidFit i v1 else actFite x i { e with fea := addr, fev := true } t abs rel v1

/-! ### FITB, FITE, FITK -/

/-- Bits [31:0] of a register that a record names (R396). -/
def fitOperand (s : State) (d : Dest) : BitVec 32 :=
  match d with
  | .g r => (rdG s r).setWidth 32
  | .v r => (rdV s r).setWidth 32
  | .m _ => 0#32

/-- Changes the viceroy of the quad in focus. -/
def modViceroy (f : Viceroy → Viceroy) (s : State) : State := setViceroy (quadOf s.cur) (f (viceroyOf s (quadOf s.cur))) s

/-- The open-region state of R402. -/
def setOpen (fo fs : Bool) (n : BitVec 4) (s : State) : State := setCtl s { s.core.ctx.ctl with fo := fo, fs := fs, fn := n }

/-- Ends FITB on the true path: the token posts at cycle t + 1 (R403). -/
def fitTrue (sc : BitVec 2) (t : TokenName) (n : BitVec 4) (s : State) : Out := .next (retire sc (setOpen true false n (later 1 (.post t) (issueToken t s))))

/-- Ends FITB in substitution: the outputs are results of the token, and control passes to the FITE (R403). -/
def fitSub (sc : BitVec 2) (t : TokenName) (n : BitVec 4) (r : BitVec 192) (y : List (BitVec 32)) (fea : BitVec 56) (s : State) : Out :=
  match resolve s (fea.setWidth 64) with
  | .error c => trapAs c s
  | .ok p => jumpTo sc p (fun s =>
      let s1 := (frOuts r).foldl (fun s d => addUncovered d t none s) (issueToken t s)
      modViceroy (fun v => { v with substs := v.substs ++ [{ ctx := me s, token := t, outs := (frOuts r).zip y }] }) (setOpen true true n s1)) s

/-- FITB once its record and its inputs have been read and sent to the viceroy: while that has no answer, the instruction holds, and what it has sent stands (R403). -/
def fitAsk (sc : BitVec 2) (t : TokenName) (n : BitVec 4) (r : BitVec 192) (x : List (BitVec 32)) (s : State) : Out :=
  let (reply, v) := askFit s.core.ctx.ctl.owner n r x (me s) (codeVa s s.core.ctx.pc) (viceroyOf s (quadOf s.cur))
  let s1 := setViceroy (quadOf s.cur) v s
  match reply with
  | .wait => .next (hold true { s1 with core := { s1.core with asked := some (r, x) } })
  | .truePath => fitTrue sc t n s1
  | .sub y fea => fitSub sc t n r y fea s1

/-- FITB (R403). (Log 29: DEDUCED, 32: DEDUCED) -/
def execFitb (sc : BitVec 2) (k n : BitVec 4) (a : Reg) (s : State) : Out :=
  if steward s || !onCompute s then illegal s
  else withToken k s fun t => match s.core.asked with
    | some (r, x) => fitAsk sc t n r x s
    | none => checked [.g a] none s fun s =>
      withDescriptor (rdG s a) 64 64 s fun d s1 =>
        let r := BitVec.ofNat 192 d
        if illFormed d then trap 2#8 (rdG s a) s1
        else guardToken t s1 fun s => checked (frIns r) none s fun s => fitAsk sc t n r ((frIns r).map (fitOperand s)) s

/-- The output registers of the context's open true execution. -/
def openOuts (s : State) : List Dest :=
  match (viceroyOf s (quadOf s.cur)).execs.find? fun x => x.ctx == me s with
  | some x => x.outs
  | none => []

/-- FITE (R404). (Log 32: DEDUCED) -/
def execFite (sc : BitVec 2) (n : BitVec 4) (s : State) : Out :=
  let c := s.core.ctx.ctl
  if !onCompute s then illegal s
  else if c.fo = false then .next (retire sc s)
  else if c.fn ≠ n then illegal s
  else if c.fs then .next (retire sc (setOpen false false c.fn s))
  else checked (openOuts s) none s fun s =>
    .next (retire sc (setOpen false false c.fn (modViceroy (closeFit (me s) ((openOuts s).map (fitOperand s)) c.fitAbs c.fitRel (codeVa s s.core.ctx.pc)) s)))

/-- FITK (R407); in steward mode it acts for owner 0. -/
def execFitk (sc : BitVec 2) (n : BitVec 4) (s : State) : Out :=
  if !onCompute s then illegal s
  else .next (retire sc (modViceroy (fun v => match findFit v (acting s) n with | some (i, _) => invalidFit i v | none => v) s))

/-! ### Weight images (R408) -/

/-- The code of an entry's state (R400). -/
def fitCode : FitState → Nat
  | .collect => 0 | .train => 1 | .validate => 2 | .active => 3 | .fallback => 4 | .invalid => 5
/-- The state that FITW gives an entry: TRAIN becomes COLLECT (R410). -/
def fitRestored (n : Nat) : FitState :=
  match n with
  | 2 => .validate | 3 => .active | 4 => .fallback | 5 => .invalid | _ => .collect

/-- The image of an entry (R408). -/
def fitImage (e : FitEntry) : List Byte :=
  leBytes 64 e.record.toNat
    ++ leBytes 64 (fitCode e.st + e.fb % 16 * 2 ^ 4 + e.good % 256 * 2 ^ 8 + e.steps % 65536 * 2 ^ 16 + e.cnt.toNat * 2 ^ 32 + e.fea.toNat * 2 ^ 64 + boolNat e.fev * 2 ^ 183)
    ++ e.weights.flatMap fun w => leBytes 4 w.toNat

/-- Bytes of an image of a record (R408). -/
def fitSize (r : BitVec 192) : Nat := 128 + 4 * fitCount (frWidths r)

/-- The entry that an image restores over entry `old` (R410). -/
def restoreFit (old : FitEntry) (r : BitVec 192) (j : BitVec 5) (hdr : Nat) (w : List (BitVec 32)) (st : Stamp) : FitEntry :=
  { old with
    record := BitVec.ofNat 192 (r.toNat - frJ r * 2 ^ 152 + j.toNat * 2 ^ 152), weights := w, buffer := []
    fb := bits hdr 4 4, good := bits hdr 8 8, cnt := BitVec.ofNat 32 (bits hdr 32 32), steps := bits hdr 16 16
    fea := BitVec.ofNat 56 (bits hdr 64 56), fev := bitAt hdr 183, image := st, st := fitRestored (bits hdr 0 3) }

/-! ### FITQ and FITW (R409, R410) -/

/-- Where an image's byte lies: in the handler window of the issuing context, or at a storage key (R358, R409). -/
inductive ImageByte where
  | window (off : Nat)
  | mem (key : Nat)
  deriving DecidableEq, Repr

/-- The place of one byte; ADDRESS outside the own scratchpad, PROTECTION outside another pool's (R246, R409). -/
def imageByte (s : State) (a : Nat) : Except Refuse ImageByte :=
  match place true a with
  | .priv off =>
    if steward s ∧ off < 0x800 then .ok (.window off)
    else if off < scratchSize s.cur s.core then .ok (.mem (poolKey s.cur off)) else .error .address
  | .pool u off => if off < scratchSize u (getCore s u) then .ok (.mem (poolKey u off)) else .error .protection
  | _ => .error .address

/-- The places of `n` bytes. -/
def imagePlaces (s : State) (a : Nat) : Nat → Except Refuse (List ImageByte)
  | 0 => .ok []
  | n + 1 => match imageByte s a with
    | .error r => .error r
    | .ok b => match imagePlaces s (a + 1) n with
      | .error r => .error r
      | .ok bs => .ok (b :: bs)

/-- Records the accesses to an image with the race detector. -/
def recordImage (write priv : Bool) : List ImageByte → State → Option State
  | [], s => some s
  | .window _ :: bs, s => recordImage write priv bs s
  | .mem key :: bs, s => match recordAccess (myAccess s key write priv none) s with
    | none => none
    | some s1 => recordImage write priv bs s1

/-- An address within the private alias. -/
def isPriv (a : Nat) : Bool := decide (a < 0x80000)

/-- The state that a refused image access leaves (R60). -/
def imageFill (ea : Word) (n : Nat) (r : Right) (s : State) : State := if ea.toNat % 64 = 0 then checkFill s (acting s) ea n r else s

/-- The checks of an image of `n` bytes at g[a] (R409): its places, the stamp, and the state with the accesses recorded; or the exact trap. -/
def imageAccess (ea : Word) (n : Nat) (r : Right) (s : State) : Except Cause (List ImageByte × Stamp × State) :=
  if ea.toNat % 64 ≠ 0 then .error (2#8, ea)
  else match imageByte s ea.toNat with
    | .error .address => .error (2#8, ea)
    | _ => match check s (acting s) ea n r with
      | .error e => .error (causeOf e, ea)
      | .ok (st, s1) => match imagePlaces s1 ea.toNat n with
        | .error e => .error (causeOf e, ea)
        | .ok bs => match recordImage (r == .W) (isPriv ea.toNat) bs s1 with
          | none => .error (17#8, ea)
          | some s2 => .ok (bs, st, s2)

/-- One byte of an image. -/
def getImage (s : State) (b : ImageByte) : Byte :=
  match b with
  | .window off => windowByte s.core.ctx off
  | .mem key => getByte s.mem key

/-- Writes bytes of an image. -/
def putImage : List (ImageByte × Byte) → State → State
  | [], s => s
  | (.window off, x) :: bs, s => putImage bs (setCtx s (setWindowByte s.core.ctx off x))
  | (.mem key, x) :: bs, s => putImage bs { s with mem := setByte s.mem key x }

/-- g[a] is aligned and names a private alias in the scratchpad or a global alias (R409). -/
def imageAddr (s : State) (ea : Word) : Bool := ea.toNat % 64 == 0 && (match imageByte s ea.toNat with | .error .address => false | _ => true)

/-- FITQ (R409). (Log 32: DEDUCED) -/
def execFitq (sc : BitVec 2) (n : BitVec 4) (a d : Reg) (s : State) : Out :=
  if !onCompute s then illegal s
  else checked [.g a] (some (.g d, 2)) s fun s =>
    let ea := rdG s a
    if !imageAddr s ea then trap 2#8 ea s
    else match findFit (viceroyOf s (quadOf s.cur)) (acting s) n with
      | none => .next (retire sc (putGLater 2 d 0#64 s))
      | some (_, e) =>
        if e.st = .train then .next (hold true s)
        else afterOwn true ea (fitImage e).length s fun s => match imageAccess ea (fitImage e).length .W s with
          | .error c => trapAs c (imageFill ea (fitImage e).length .W s)
          | .ok (bs, _, s1) => .next (retire sc (putGLater 2 d (BitVec.ofNat 64 (fitImage e).length) (putImage (bs.zip (fitImage e)) s1)))

/-- FITW restores an entry (R410); where no entry can be taken, nothing is restored. -/
def fitRestore (o : BitVec 12) (n : BitVec 4) (r : BitVec 192) (j : BitVec 5) (hdr : Nat) (w : List (BitVec 32)) (st : Stamp) (v : Viceroy) : Viceroy :=
  let put (i : Nat) (old : FitEntry) (v : Viceroy) : Viceroy :=
    let v1 := putFit i (restoreFit old r j hdr w st) v
    if bits hdr 0 3 = 5 then { v1 with execs := v1.execs.filter fun x => x.entry != some i } else v1
  match findFit v o n with
  | some (i, e) => put i e v
  | none => match spareFit v with
    | none => v
    | some i => let e := newFit o n r none; put i e (takeFit i e v)

/-- FITW (R410). (Log 32: DEDUCED, 33: DESIGN CHOICE) -/
def execFitw (sc : BitVec 2) (n : BitVec 4) (a : Reg) (j : BitVec 5) (s : State) : Out :=
  if !onCompute s then illegal s
  else checked [.g a] none s fun s =>
    let ea := rdG s a
    afterOwn false ea 128 s fun s => match imageAccess ea 128 .I s with
    | .error c => trapAs c (imageFill ea 128 .I s)
    | .ok (bs, st, s1) =>
      let xs := bs.map (getImage s1)
      let d := leNat (xs.take 64)
      let hdr := leNat (xs.drop 64)
      let r := BitVec.ofNat 192 d
      if illFormed d ∨ 6 ≤ bits hdr 0 3 then trap 2#8 ea s1
      else afterOwn false ea (fitSize r) s1 fun s1 => match imageAccess ea (fitSize r) .I s1 with
        | .error c => trapAs c (imageFill ea (fitSize r) .I s1)
        | .ok (bs, _, s2) =>
          let ws := takeWords (fitCount (frWidths r)) ((bs.map (getImage s2)).drop 128)
          .next (retire sc (modViceroy (fitRestore (acting s2) n r j hdr ws st) s2))
where
  /-- `n` little-endian words of four bytes. -/
  takeWords : Nat → List Byte → List (BitVec 32)
    | 0, _ => []
    | n + 1, xs => BitVec.ofNat 32 (leNat (xs.take 4)) :: takeWords n (xs.drop 4)

/-! ### Events -/

/-- TRAINING_STEP (R398): the step of entry `e` of a quad's viceroy ends. -/
def execTrainingStep (quad e : Nat) (s : State) : Out :=
  let v := viceroyOf s quad
  match fitAt v e with
  | none => .next s
  | some x =>
    if x.st ≠ .train then .next s
    else
      .next (setViceroy quad (putFit e { x with weights := fitStep x.record x.weights x.buffer, buffer := [], st := .validate, good := 0,
                                                steps := min 65535 (x.steps + 1), made := x.made + 1 } v) s)

/-- A substituted output (R403): zero-extended into a g register, or lane 0 of a v register. -/
def putOutput (c : Ctx) (p : Dest × BitVec 32) : Ctx :=
  match p.1 with
  | .g r => ctxPutG c r (p.2.setWidth 64)
  | .v r => ctxPutV c r (BitVec.ofNat 256 ((ctxV c r).toNat / 2 ^ 32 * 2 ^ 32 + p.2.toNat))
  | .m _ => c

/-- SUBSTITUTION_OUTPUTS (R403): substitution `i` of a quad's viceroy writes its outputs and posts, wherever the context's lines lie (R138). -/
def execSubstitutionOutputs (quad i : Nat) (s : State) : Out :=
  let v := viceroyOf s quad
  match v.substs[i]? with
  | none => .next s
  | some x =>
    let s1 := setViceroy quad { v with substs := v.substs.eraseIdx i } s
    .next (touchCtx s1 x.ctx fun c => ctxPost (x.outs.foldl (fun c p => ctxUncovDone (putOutput c p) x.token p.1) c) x.token)

end Sys2Proof.Machine
end

