-- ==== Sys2Proof/Machine/Rights.lean ====
section
/-! DEFINITION. Rights (R63 to R70, R350 to R355, R425, R53): GRANT, REVOKE, RTEST, RDROP, shootdowns, the commands of RGN_CMD and XLT_INV. -/

namespace Sys2Proof.Machine

/-! ### Range tables -/

/-- The part of an entry from granule `lo` to `hi` − 1; none where it is empty. -/
def clipEntry (e : RangeEntry) (lo hi : Nat) : Option RangeEntry :=
  let a := max e.base lo
  let b := min (e.base + e.len) hi
  if a < b then some { e with base := a, len := b - a } else none

/-- Entries without the granules lo to hi − 1: entries are split where the range cuts them (R355). -/
def cutEntries (lo hi : Nat) (es : List RangeEntry) : List RangeEntry :=
  es.flatMap fun e => [clipEntry e 0 lo, clipEntry e hi (2 ^ 44)].filterMap id

/-- The pieces of entries inside the granules lo to hi − 1. -/
def insideEntries (lo hi : Nat) (es : List RangeEntry) : List RangeEntry := es.filterMap fun e => clipEntry e lo hi

/-- Inserts an entry by BASE (R56). -/
def insertEntry (e : RangeEntry) : List RangeEntry → List RangeEntry
  | [] => [e]
  | x :: xs => if e.base < x.base then e :: x :: xs else x :: insertEntry e xs

/-- Drops the PLB entries that a condition names, in every core (R60, R63). (Log 8: DEDUCED) -/
def dropPlb (p : PlbEntry → Bool) (s : State) : State :=
  let f (c : Core) : Core := { c with plb := c.plb.filter fun e => !p e }
  { s with core := f s.core, others := s.others.map fun (u, c) => (u, f c) }

/-- The shootdown of a region id reaches every PLB (R63) and every viceroy (R406). (Log 8: DEDUCED) -/
def shootPlb (id : BitVec 20) (s : State) : State := shootFits id (dropPlb (fun e => e.region == id) s)

/-- Owner `o`'s table becomes `es`: the entries over granules lo to hi − 1 that go are each a shootdown of their region (R60). -/
def removeEntries (o : BitVec 12) (lo hi : Nat) (es : List RangeEntry) (s : State) : State :=
  (((insideEntries lo hi (rangeTable s o)).map (·.region)).dedup).foldl (fun s id => shootPlb id s) (setRangeTable s o es)

/-! ### GRANT (R351, R352) -/

def grBase (d : Nat) : Nat := bits d 0 44
def grLen (d : Nat) : Nat := bits d 44 40
def grRights (d : Nat) : BitVec 5 := BitVec.ofNat 5 (bits d 84 5)
def grTarget (d : Nat) : BitVec 12 := BitVec.ofNat 12 (bits d 92 12)

/-- Every region outside FREE that a range of granules touches, by its entries from id `i` on. -/
def regionsIn (s : State) (lo hi : Nat) (i : Nat) : Nat → List (BitVec 20)
  | 0 => []
  | n + 1 =>
    let id := BitVec.ofNat 20 i
    let r := region s id
    let rest := regionsIn s lo hi (i + 1) n
    if r.st != .free && decide (r.base < hi) && decide (lo < r.base + r.len) then id :: rest else rest

/-- The one region that a range lies in; none where R350 calls it BADRANGE. -/
def grantRegion (s : State) (base len : Nat) : Option (BitVec 20) :=
  if len = 0 then none
  else match regionsIn s base (base + len) 0 (regionCap s) with
    | [id] =>
      let r := region s id
      if id ≠ 0#20 ∧ r.base ≤ base ∧ base + len ≤ r.base + r.len then some id else none
    | _ => none

/-- Current entries of owner `o` cover granules lo to hi − 1 with G and the rights given (R350); `es` is sorted. -/
def coversWith (s : State) (need : BitVec 5) (lo hi : Nat) : List RangeEntry → Bool
  | [] => decide (hi ≤ lo)
  | e :: es =>
    if hi ≤ lo then true
    else if e.base + e.len ≤ lo then coversWith s need lo hi es
    else decide (e.base ≤ lo) && (region s e.region).gen == e.gen && e.rights &&& need == need && coversWith s need (e.base + e.len) hi es

/-- Boundaries at which the rights of TARGET change inside a range, rising. -/
def cutPoints (lo hi : Nat) (es : List RangeEntry) : List Nat :=
  ((lo :: hi :: (insideEntries lo hi es).flatMap fun e => [e.base, e.base + e.len]).dedup).mergeSort (· ≤ ·)

/-- The new pieces between boundaries: RIGHTS with any current rights held there; equal neighbours are one entry. -/
def grantPieces (id : BitVec 20) (gen : BitVec 16) (rights : BitVec 5) (held : List RangeEntry) : List Nat → List RangeEntry
  | a :: b :: rest =>
    let have_ := (held.find? fun e => decide (e.base ≤ a) && decide (a < e.base + e.len) && e.region == id && e.gen == gen).map (·.rights)
    let r := rights ||| have_.getD 0#5
    match grantPieces id gen rights held (b :: rest) with
    | x :: xs => if x.rights = r then { x with base := a, len := x.base + x.len - a } :: xs else { region := id, gen := gen, rights := r, len := b - a, base := a } :: x :: xs
    | [] => [{ region := id, gen := gen, rights := r, len := b - a, base := a }]
  | _ => []

/-- GRANT's status, and TARGET's table where it is OK and changes (R350, R352). (Log 36: DEDUCED) -/
def grantDecide (s : State) (o : BitVec 12) (d : Nat) : Nat × Option (List RangeEntry) :=
  let lo := grBase d
  let hi := lo + grLen d
  let t := grTarget d
  match grantRegion s lo (grLen d) with
  | none => (4, none)
  | some id =>
    let r := region s id
    if !(ownerDesc s t).valid then (3, none)
    else if r.st != .live then (2, none)
    else if !coversWith s (grRights d ||| 8#5) lo hi (rangeTable s o) then (1, none)
    else if t = o then (0, none)
    else
      let es := rangeTable s t
      let new := (grantPieces id r.gen (grRights d) (insideEntries lo hi es) (cutPoints lo hi es)).foldl (fun l e => insertEntry e l) (cutEntries lo hi es)
      if (ownerDesc s t).cap < new.length then (5, none) else (0, some new)

/-- GRANT (R352). (Log 29: DEDUCED) -/
def execGrant (sc : BitVec 2) (a d : Reg) (s : State) : Out :=
  checked [.g a] none s fun s =>
    withDescriptor (rdG s a) 16 16 s fun x s1 =>
      let (st, new) := grantDecide s1 (acting s1) x
      let s2 := match new with
        | some es => removeEntries (grTarget x) (grBase x) (grBase x + grLen x) es s1
        | none => s1
      checked [] (some (.g d, 1)) s1 fun _ => .next (retire sc (putG d (BitVec.ofNat 64 st) s2))

/-! ### REVOKE and shootdowns (R63, R64, R353) -/

/-- A span of addresses touches a region. -/
def spanNames (s : State) (id : BitVec 20) (a n : Nat) : Bool :=
  let r := region s id
  decide (a / 4096 < r.base + r.len) && decide (r.base ≤ (a + n - 1) / 4096) && n != 0

/-- The spans that a stack command's operands name (R283). -/
def stackSpans (s : State) (e : StackEntry) : List (Nat × Nat) :=
  let x := e.desc
  let u := entryUnit e
  let w (a : Nat) : Nat := max 1 (fmtWidth (fmtAt s u a) / 8)
  match e.op.toNat with
  | 0 => (sdSrcA x, sdCols x * w (sdSrcA x)) :: (sdDst x, sdRows x * (elemWidth (sdType x) / 8))
      :: (List.range (sdRows x)).map fun i => (sdSrcB x + i * sdBstr x, sdCols x * w (sdSrcB x))
  | 1 => [(sdDst x, sdLen x)]
  | 2 => [(sdSrcA x, sdLen x), (sdDst x, sdLen x)]
  | 3 => [(sdSrcA x, sdLen x), (sdSrcB x, sdLen x), (sdDst x, 8)]
  | _ => [(sdSrcA x, elemEnd (fmtAt s u (sdSrcA x)) (sdRows x - 1)), (sdDst x, max 1 (elemWidth (sdType x) / 8))]

/-- A stack command names a region: an operand's span does, or its completion record's (R281, R283). -/
def stackNames (s : State) (id : BitVec 20) (e : StackEntry) : Bool :=
  (stackSpans s e).any (fun p => spanNames s id p.1 p.2) || (sdCwa e.desc != 0 && spanNames s id (sdCwa e.desc) 8)

/-- The bases from which a copy of unit `u` writes: those of a multicast's pools; every slot of its quire's ring for a QA copy that has none yet; else its own (R260, R261). -/
def copyBases (s : State) (u : Nat) (x : Copy) : List Word :=
  if flMc x.regs.flags && isCompute u then
    ((setTiles x.regs.map.toNat).flatMap (tileCores x.regs.map.toNat)).map fun w => BitVec.ofNat 64 (coreBase w) + x.regs.dst
  else if flQa x.regs.flags && !flQc x.regs.flags && x.slot.isNone then
    match copyHome u x with
    | some h => (List.range (nslot (quireOf s h (flQnum x.regs.flags)))).map (slotBase s x h (flQnum x.regs.flags))
    | none => []
  else [copyBase s x]

/-- A copy of unit `u` that has not ended names a region. -/
def copyTouches (s : State) (id : BitVec 20) (u : Nat) (x : Copy) : Bool :=
  !x.ended && x.status.isNone &&
    ((copyAddrs x 0#64).any (fun a => match a.1 with | some b => spanNames s id b.toNat 1 | none => false) ||
     (copyBases s u x).any fun b => (copyAddrs x b).any fun a => spanNames s id a.2.toNat 1)

/-- A galley entry of unit `u` names a region. -/
def pressNames (s : State) (id : BitVec 20) (u : Nat) (e : PressEntry) : Bool :=
  (pressRanges s u e).any fun r => spanNames s id (poolKey r.unit r.off) r.len

/-- The engine operations that name a region are marked as a generation of it passes: they are what INFLIGHT counts from then on (R67). -/
def markOld (id : BitVec 20) (s : State) : State :=
  let f (u : Nat) (c : Core) : Core :=
    { c with copies := c.copies.map fun (x : Copy) => if copyTouches s id u x then { x with old := id :: x.old } else x
             galley := { c.galley with entries := c.galley.entries.map fun (e : PressEntry) => if pressNames s id u e then { e with old := id :: e.old } else e } }
  { s with core := f s.cur s.core, others := s.others.map fun (u, c) => (u, f u c)
           galleys := s.galleys.map fun (n, (g : StackGalley)) => (n, { g with entries := g.entries.map fun (e : StackEntry) => if stackNames s id e then { e with old := id :: e.old } else e }) }


/-- A withdraw or a free takes effect: the generation, the state, the creator's own entries (R63). -/
def revokeRegion (id : BitVec 20) (free : Bool) (s : State) : State :=
  let r := region s id
  let s1 := setRegion (markOld id s) id { r with gen := r.gen + 1, st := if free then .revoking else r.st }
  if free then s1
  else setRangeTable s1 r.creator ((rangeTable s1 r.creator).map fun (e : RangeEntry) => if e.region = id ∧ e.gen = r.gen then { e with gen := r.gen + 1 } else e)

/-- Broadcasts a shootdown; it completes with SHOOTDOWN_COMPLETE. -/
def startShoot (id : BitVec 20) (freed : Bool) (w : ShootFor) (s : State) : State :=
  let s1 := shootPlb id s
  setHub s1 { s1.hub with shoots := s1.hub.shoots ++ [{ region := id, freed := freed, for_ := w }] }

/-- The status with which a REVOKE is refused, or the region it acts on (R353). -/
def revokeDecide (s : State) (o : BitVec 12) (va : Nat) (free : Bool) : Except Nat (BitVec 20) :=
  match regionAt s va with
  | none => .error 4
  | some id =>
    let r := region s id
    if id = 0#20 then .error 4
    else if o ≠ r.creator ∧ o ≠ 0#12 then .error 7
    else if r.st ≠ .live then .error 2
    else if free = false ∧ r.gen = 0xFFFE#16 then .error 6
    else .ok id

/-- AT_COMPLETION of a REVOKE: g[d] := status and the post. -/
def answerRevoke (ctx : BitVec 56) (d : Reg) (t : TokenName) (st : Word) (s : State) : State :=
  touchCtx s ctx fun c => ctxPost (ctxUncovDone (ctxPutG c d st) t (.g d)) t

/-- REVOKE (R353). -/
def execRevoke (sc : BitVec 2) (k : BitVec 4) (free : BitVec 1) (a d : Reg) (s : State) : Out :=
  withToken k s fun t => checked [.g a] none s fun s =>
    let x := rdG s a
    if x.extractLsb' 56 8 ≠ 0#8 then trap 2#8 x s
    else guardToken t s fun s =>
      let s1 := retire sc (syncPoint (addUncovered (.g d) t none (issueToken t s)))
      match revokeDecide s (acting s) x.toNat (free == 1#1) with
      | .error st => .next (answerRevoke (me s) d t (BitVec.ofNat 64 st) s1)
      | .ok id => .next (startShoot id (free == 1#1) (.revoke s.cur (me s) d t) (revokeRegion id (free == 1#1) s1))

/-- PLBs that still hold an entry for a region (R69). -/
def plbRefs (s : State) (id : BitVec 20) : Nat := (liveUnits s).countP fun u => (getCore s u).plb.any fun e => e.region == id

/-- A stamp names the region with a superseded generation. -/
def oldStamp (s : State) (id : BitVec 20) (st : Stamp) : Bool := match st with | some (i, g) => i == id && g != (region s id).gen | none => false

/-- Requests of unit `u` that carry an old generation of a region, and its engine operations that named it before its generation passed. -/
def unitInflight (s : State) (id : BitVec 20) (u : Nat) : Nat :=
  let c := getCore s u
  (c.log.toList.countP fun e => match e with | some x => x.held.isNone && oldStamp s id x.stamp | none => false)
    + (c.journal.toList.countP fun e => match e with | some x => x.held.isNone && oldStamp s id x.stamp | none => false)
    + (match c.amo with | some f => boolNat (oldStamp s id f.stamp) | none => 0)
    + (c.fetches.countP fun f => oldStamp s id f.stamp)
    + (c.copies.countP fun x => !x.ended && x.status.isNone && x.old.contains id)
    + (c.galley.entries.countP fun e => e.stamps.any (fun st => oldStamp s id (some st)) || e.old.contains id)

/-- INFLIGHT (R67). (Log 36: DEDUCED) -/
def inflight (s : State) (id : BitVec 20) : Nat :=
  ((liveUnits s).map (unitInflight s id)).sum + (s.galleys.map fun g => g.2.entries.countP fun e => e.old.contains id).sum
    + (s.tiles.map fun t => t.2.tq.countP fun r => oldStamp s id r.stamp).sum

/-- Sets RGN_STA for a finished command: ERR and, for a region command, the region's state and counts now (R69). (Log 64: DESIGN CHOICE) -/
def finishCmd (err : BitVec 3) (id : Option (BitVec 20)) (s : State) : State :=
  let r := match id with | some id => region s id | none => { st := .free, creator := 0#12, gen := 0#16, len := 0, base := 0 }
  let n (f : State → BitVec 20 → Nat) : BitVec 16 := match id with | some id => BitVec.ofNat 16 (min 0xFFFF (f s id)) | none => 0#16
  setHub s { s.hub with rights := { s.hub.rights with
    staDone := true, staErr := err, staState := BitVec.ofNat 2 (regionCode r.st), staGen := r.gen, staRefs := n plbRefs, staInfl := n inflight } }

/-- A press still runs an entry whose checks named a region: it acknowledges once that has ended (R304). -/
def pressHolds (s : State) (id : BitVec 20) : Bool :=
  s.tiles.any fun t => match t.2.run with
    | none => false
    | some r => (match (getCore s r.core).galley.entries with | e :: _ => e.stamps.any fun st => st.1 == id | [] => false)

/-- What a completed shootdown does for whoever waits for it. (Log 64: DESIGN CHOICE) -/
def endShoot (x : Shoot) (s : State) : State :=
  match x.for_ with
  | .revoke _ ctx d t => answerRevoke ctx d t 0#64 s
  | .rdrop _ _ => s
  | .rfree => finishCmd 0#3 (some x.region) s

/-- SHOOTDOWN_COMPLETE (R63): every receiver has acknowledged the region's oldest shootdown; a freed region becomes TOMBSTONE. (Log 8: DEDUCED) -/
def execShootdownComplete (rgn : Nat) (s : State) : Out :=
  match s.hub.shoots.find? fun x => x.region.toNat == rgn with
  | none => .next s
  | some x =>
    if isRevocation x && pressHolds s x.region then .next s
    else
      let s1 := setHub s { s.hub with shoots := s.hub.shoots.erase x }
      let s2 := if x.freed then setRegion s1 x.region { region s1 x.region with st := .tombstone } else s1
      .next (endShoot x s2)

/-! ### RTEST and RDROP (R354, R355) -/

/-- RTEST's value for a found entry. -/
def rtestWord (s : State) (e : RangeEntry) : Word :=
  let cur := (region s e.region).gen == e.gen
  BitVec.ofNat 64 (boolNat cur * 2 ^ 63 + boolNat (!cur) * 2 ^ 62 + e.rights.toNat * 2 ^ 56 + e.region.toNat * 2 ^ 32 + e.gen.toNat * 2 ^ 16)

/-- RTEST (R354). -/
def execRtest (sc : BitVec 2) (a d : Reg) (s : State) : Out :=
  checked [.g a] none s fun s =>
    let x := rdG s a
    if x.extractLsb' 56 8 ≠ 0#8 then trap 2#8 x s
    else checked [] (some (.g d, 1)) s fun s => match place (onCompute s) x.toNat with
      | .priv _ => .next (retire sc (putG d (BitVec.ofNat 64 (2 ^ 63 + 2 ^ 61 + 7 * 2 ^ 56)) s))
      | .bad => .next (retire sc (putG d 0#64 s))
      | _ => match plbLookup s s.core (acting s) x.toNat with
        | none => .next (retire sc (putG d 0#64 s))
        | some (e, c) => .next (retire sc (putG d (rtestWord s e) { s with core := c }))

/-- The entries that fit a range table of `cap`: a split that would take it past that leaves its upper part without an entry (R70, R355). (Log 36: DEDUCED) -/
def fitEntries (cap hi : Nat) (es : List RangeEntry) : List RangeEntry := if cap < es.length then es.filter fun e => e.base != hi else es

/-- RDROP once it is accepted: the owner's entries over the range go, and each affected region is shot down (R60, R355). -/
def dropRights (lo hi : Nat) (s : State) : State :=
  let o := acting s
  let es := rangeTable s o
  let ids := ((insideEntries lo hi es).map (·.region)).dedup
  let s1 := setRangeTable s o (fitEntries (ownerDesc s o).cap hi (cutEntries lo hi es))
  ids.foldl (fun s id => startShoot id false (.rdrop s.cur (me s)) s) s1

/-- RDROP (R355): once accepted it only waits for its acknowledgements (R339). (Log 36: DEDUCED) -/
def execRdrop (sc : BitVec 2) (b a d : Reg) (s : State) : Out :=
  if s.core.accepted then (if dropPending s (me s) then .next (hold true s) else .next (retire sc (putG d 0#64 s)))
  else checked [.g a, .g b] none s fun s =>
    let x := (rdG s a).toNat
    let n := (rdG s b).toNat
    if x % 4096 ≠ 0 ∨ n % 4096 ≠ 0 ∨ n = 0 then checked [] (some (.g d, 1)) s fun s => .next (retire sc (putG d 4#64 s))
    else
      let s1 := dropRights (x / 4096) ((x + n) / 4096) s
      if dropPending s1 (me s) then .next (hold true { s1 with core := { s1.core with accepted := true } })
      else checked [] (some (.g d, 1)) s fun _ => .next (retire sc (putG d 0#64 s1))

/-! ### RGN_CMD (R66 to R70, R425) -/

/-- A region command: BADID for an id at or above RGN_CAP. -/
def regionCmd (id : BitVec 20) (s : State) (f : State → State) : Out :=
  if s.hub.rights.rgnCap ≤ id.toNat then .next (finishCmd 1#3 none s) else .next (f s)

/-- QUERY (R67). -/
def execRegionQuery (id : BitVec 20) (s : State) : Out := regionCmd id s fun s => finishCmd 0#3 (some id) s

/-- Owners whose descriptors are valid. -/
def validOwners (s : State) : List (BitVec 12) := ((List.range 4096).map (BitVec.ofNat 12)).filter fun o => (ownerDesc s o).valid

/-- PURGE (R67): deletes every entry that names the region from every range table, and shoots it down (R60). -/
def execRegionPurge (id : BitVec 20) (s : State) : Out := regionCmd id s fun s =>
  let f (s : State) (o : BitVec 12) : State :=
    let es := rangeTable s o
    if es.any fun e => e.region == id then setRangeTable s o (es.filter fun e => e.region != id) else s
  finishCmd 0#3 (some id) (shootPlb id ((validOwners s).foldl f s))

/-- FREE (R68); of a region that is no TOMBSTONE it is BADSTATE. (Log 64: DESIGN CHOICE) -/
def execRegionFree (id : BitVec 20) (s : State) : Out := regionCmd id s fun s =>
  let r := region s id
  if r.st ≠ .tombstone then finishCmd 2#3 (some id) s
  else if plbRefs s id ≠ 0 ∨ inflight s id ≠ 0 ∨ ((validOwners s).any fun o => (rangeTable s o).any fun e => e.region == id) = true then finishCmd 4#3 (some id) s
  else finishCmd 0#3 (some id) (setRegion s id { r with st := .free })

/-- Granules lo to hi − 1 lie in the shared heap and the global alias ranges (R23, R66). -/
def inSpace (lo hi : Nat) : Bool :=
  (decide (0x80 ≤ lo) && decide (hi ≤ 0x00F0000080000)) ||
  (decide (0x00F8000000000 ≤ lo) && decide (hi ≤ 0x00F8000008000))

/-- ALLOC's refusal, in the order of R66; 0 where it is accepted. -/
def allocError (s : State) (id : BitVec 20) : Nat :=
  let r := region s id
  let base := s.hub.rights.arg0.toNat % 2 ^ 44
  let len := s.hub.rights.arg1.toNat % 2 ^ 40
  let o := s.hub.rights.arg1.extractLsb' 40 12
  if len = 0 ∨ inSpace base (base + len) = false then 1
  else if r.st ≠ .free then 2
  else if regionsIn s base (base + len) 0 (regionCap s) ≠ [] then 3
  else if 0xFFFE ≤ r.gen.toNat then 5
  else if !(ownerDesc s o).valid then 1
  else if (ownerDesc s o).cap ≤ (ownerDesc s o).count then 6
  else 0

/-- ALLOC (R66): the region LIVE at the next generation, whose change is a shootdown (R60), with full rights for its creator. -/
def execRegionAlloc (id : BitVec 20) (s : State) : Out := regionCmd id s fun s =>
  let err := allocError s id
  if err ≠ 0 then finishCmd (BitVec.ofNat 3 err) (some id) s
  else
    let base := s.hub.rights.arg0.toNat % 2 ^ 44
    let len := s.hub.rights.arg1.toNat % 2 ^ 40
    let o := s.hub.rights.arg1.extractLsb' 40 12
    let gen := (region s id).gen + 1
    let s1 := shootPlb id (setRegion s id { st := .live, creator := o, gen := gen, len := len, base := base })
    finishCmd 0#3 (some id) (setRangeTable s1 o (insertEntry { region := id, gen := gen, rights := 0x1F#5, len := len, base := base } (rangeTable s1 o)))

/-- RFREE (R425): a free REVOKE by the steward; DONE when every acknowledgement has arrived. -/
def execRegionRfree (id : BitVec 20) (s : State) : Out := regionCmd id s fun s =>
  if id = 0#20 then finishCmd 1#3 none s
  else if (region s id).st ≠ .live then finishCmd 2#3 (some id) s
  else
    let s1 := startShoot id true .rfree (revokeRegion id true s)
    setHub s1 { s1.hub with rights := { s1.hub.rights with staDone := false } }

/-- The owner that a continuation acts for now: of its context where it is loaded, else its record's. -/
def contOwner (s : State) (k : Cont) : BitVec 12 :=
  match findCtx s k.chrys with
  | some (_, c) => c.ctl.owner
  | none => recOwner (devGet s k.record.toNat 64)

/-- The continuation of slot `i` acts for an owner and has not ended. -/
def slotOwned (s : State) (o : BitVec 12) (c : Core) (i : Nat) : Bool :=
  match (slotOf c i).sst with
  | .empty => false
  | .bound => recOwner (devGet s (slotOf c i).cont.toNat 64) == o
  | _ => (slotCtx c i).ctl.owner == o && !(isFinal (slotCtx c i).rcd.state)

/-- A continuation of an owner is not in a final state: one that was dealt or spawned, or one that a slot holds (R70). (Log 35: DESIGN CHOICE) -/
def ownerBusy (s : State) (o : BitVec 12) : Bool :=
  (s.hub.conts.any fun k => contOwner s k == o) || (liveUnits s).any fun u => (List.range 8).any fun i => slotOwned s o (getCore s u) i

/-- OPURGE (R425). -/
def execOwnerPurge (o : BitVec 12) (s : State) : Out :=
  if ownerBusy s o then .next (finishCmd 4#3 none s)
  else .next (finishCmd 0#3 none (dropPlb (fun e => e.owner == o) (removeEntries o 0 (2 ^ 44) [] s)))

/-- OCREATE (R70). Any 16-byte-aligned address below 2^50 is taken for the table: the rule does not say how a physical address is held against a steward region. (Log 36: DEDUCED) -/
def execOwnerCreate (o : BitVec 12) (s : State) : Out :=
  let a := s.hub.rights.arg0.toNat
  let cap := s.hub.rights.arg1.toNat
  if o = 0#12 ∨ a % 16 ≠ 0 ∨ 2 ^ 50 ≤ a ∨ cap % 2 ^ 20 = 0 then .next (finishCmd 1#3 none s)
  else if (ownerDesc s o).valid then .next (finishCmd 2#3 none s)
  else .next (finishCmd 0#3 none (setOwnerDesc s o { valid := true, cap := cap % 2 ^ 20, count := 0, base := a }))

/-- ODEL (R70). -/
def execOwnerDelete (o : BitVec 12) (s : State) : Out :=
  let d := ownerDesc s o
  let made := (findRegion s fun r => r.st != .free && r.creator == o).isSome
  if o = 0#12 then .next (finishCmd 1#3 none s)
  else if !d.valid then .next (finishCmd 2#3 none s)
  else if d.count ≠ 0 ∨ made = true ∨ ownerBusy s o = true then .next (finishCmd 4#3 none s)
  else .next (finishCmd 0#3 none (setOwnerDesc s o { d with valid := false }))

/-! ### XLT_INV (R53, R69) -/

/-- XLT_INV (R53): BUSY until every agent has dropped the page's translation. The model's agents keep none, so nothing else changes. (Log 7: DESIGN CHOICE) -/
def execXltInv (_x : BitVec 64) (s : State) : Out := .next (setHub s { s.hub with rights := { s.hub.rights with xltBusy := true } })

/-- XLT_INV_COMPLETE (R53). (Log 7: DESIGN CHOICE) -/
def execXltInvComplete (s : State) : Out := .next (setHub s { s.hub with rights := { s.hub.rights with xltBusy := false } })

end Sys2Proof.Machine
end

