-- ==== Sys2Proof/Machine/Code.lean ====
section
/-! DEFINITION. Code in instruction memory (R107, R120 to R123): JF, JFR, CFETCH, CSEG, and the completion of a CFETCH. -/

namespace Sys2Proof.Machine

/-! ### JF and JFR (R121, R122) -/

/-- A jump to a code address, with the code address behind the instruction as the link (R121); the traps of the target come before that of the link's write (R360). -/
def jumpCode (sc : BitVec 2) (c : Word) (d : Reg) (s : State) : Out :=
  match resolve s c with
  | .error e => trapAs e s
  | .ok p => jumpLink sc p d (codeVa s s.core.ctx.pc + 4#56 |>.setWidth 64) s

/-- JF (R121). -/
def execJf (off : BitVec 17) (d : Reg) (s : State) : Out :=
  jumpCode 0#2 ((codeVa s s.core.ctx.pc).setWidth 64 + off.signExtend 64 * 2#64) d s

/-- JFR (R122). -/
def execJfr (sc : BitVec 2) (a d : Reg) (s : State) : Out :=
  checked [.g a] none s fun s => jumpCode sc (rdG s a) d s

/-! ### CFETCH (R120) -/

/-- The trap that CFETCH takes before its rights are checked. -/
def cfetchTrap (s : State) (seg : BitVec 4) (c : Word) : Option Cause :=
  if seg = 15#4 ∧ steward s = false then some (3#8, c)
  else if seg = segNo s.core.ctx.pc ∨ (segOf s.core seg).st = .loading then some (8#8, seg.setWidth 64)
  else if c.extractLsb' 56 8 ≠ 0#8 ∨ c.extractLsb' 0 12 ≠ 0#12 then some (2#8, c)
  else none

/-- Replacing a segment's code invalidates the fitted regions of the core's quad whose code lay in it (R406), and fetching a page invalidates those whose code lies in that
page (R415). A fabric channel core stands in no quad. (Log 34: DEDUCED) -/
def replacedSeg (g : Seg) (page : BitVec 44) (s : State) : State :=
  if isFabric s.cur = false then replaceCode (quadOf s.cur) page (if g.st = .landed then replaceCode (quadOf s.cur) g.base s else s) else s

/-- CFETCH once it may issue: the segment is LOADING and the read is on its way. -/
def cfetchNow (sc : BitVec 2) (t : TokenName) (seg : BitVec 4) (c : Word) (st : Stamp) (s : State) : Out :=
  let s1 := issueToken t (replacedSeg (segOf s.core seg) (c.extractLsb' 12 44) s)
  let f : Fetch := { seg := seg, addr := c, owner := acting s, ctx := me s, token := t, stamp := st }
  .next (retire sc { s1 with core := { setSeg s1.core seg { st := .loading, err := 0#4, base := c.extractLsb' 12 44 } with fetches := s1.core.fetches ++ [f] } })

/-- CFETCH (R120). (Log 34: DEDUCED) -/
def execCfetch (sc : BitVec 2) (k : BitVec 4) (seg : BitVec 4) (a : Reg) (s : State) : Out :=
  afterAcquire s fun s => withToken k s fun t => checked [.g a] none s fun s =>
    let c := rdG s a
    match cfetchTrap s seg c with
    | some e => trapAs e s
    | none => match check s (acting s) c 4096 .X with
      | .error e => trapAs (causeOf e, c) (checkFill s (acting s) c 4096 .X)
      | .ok (st, s1) => guardToken t s1 (cfetchNow sc t seg c st)

/-- ERR of the first refusal: translation, protection or stale pointer (R107). -/
def segErr : Refuse → BitVec 4
  | .translation => 1#4
  | .stale => 3#4
  | _ => 2#4

/-- Where a fetch's page lies, or the refusal that it meets. -/
def fetchKey (s : State) (u : Nat) (f : Fetch) : Except Refuse Nat :=
  match stampCheck s f.stamp with
  | some r => .error r
  | none => match reach s u f.addr.toNat with
    | .error r => .error r
    | .ok k => match locate s u (f.addr.toNat + 4095) with
      | .error r => .error r
      | .ok _ => .ok k

/-- A CFETCH's read of its page is an access of an agent of its own at the core (R311, R326). -/
def fetchRead (u : Nat) : OpenAccess := { hubOpen 3 0 false with unit := u }

/-- CFETCH_COMPLETION (R120): the segment lands or fails, and the token posts wherever the context's lines lie. -/
def execCfetchCompletion (u seg : Nat) (s : State) : Out :=
  match (getCore s u).fetches.find? fun f => f.seg.toNat == seg with
  | none => .next s
  | some f =>
    let g := segOf (getCore s u) f.seg
    let s1 := modCore s u fun c => { c with fetches := c.fetches.erase f }
    match fetchKey s u f with
    | .error r => .next (postTo f.ctx f.token (modCore (lockHeap f.addr.toNat s1) u fun c => setSeg c f.seg { g with st := .failed, err := segErr r }))
    | .ok k =>
      let s2 := touchPage false f.addr.toNat { noteSpan (fetchRead u) 4096 k s1 with mem := setBytes s1.mem (imemKey u (f.seg.toNat * 4096)) (getBytes s1.mem k 4096) }
      .next (postTo f.ctx f.token (modCore s2 u fun c => { setSeg c f.seg { g with st := .landed, err := 0#4 } with bootSeg := c.bootSeg && f.seg != 15#4 }))

/-! ### CSEG (R123) -/

/-- A segment's descriptor as a word (R107). -/
def segWord (g : Seg) : Word :=
  let st : BitVec 2 := match g.st with | .empty => 0#2 | .loading => 1#2 | .landed => 2#2 | .failed => 3#2
  BitVec.ofNat 64 (g.base.toNat * 2 ^ 12 + g.err.toNat * 2 ^ 56 + st.toNat * 2 ^ 62)

/-- CSEG and CSEG.inv (R123). -/
def execCseg (sc : BitVec 2) (inv : BitVec 1) (seg : BitVec 4) (d : Reg) (s : State) : Out :=
  checked [] (some (.g d, 2)) s fun s =>
    let g := segOf s.core seg
    let s1 := putGLater 2 d (segWord g) s
    if inv = 0#1 then .next (retire sc s1)
    else if seg = 15#4 ∧ steward s = false then trap 3#8 (seg.setWidth 64) s
    else if seg = segNo s.core.ctx.pc ∨ g.st = .loading then trap 8#8 (seg.setWidth 64) s
    else .next (retire sc { s1 with core := setSeg s1.core seg { g with st := .empty, err := 0#4 } })

end Sys2Proof.Machine
end

