-- ==== Sys2Proof/Machine/Host.lean ====
section
/-! DEFINITION. Hosts (R72 to R82, R86 to R92, R324, R325, R426, R435 to R438): command endpoints, sessions, the interface lock, launch queues, virtual devices, evidence, RMA. -/

namespace Sys2Proof.Machine

/-! ### Names for the cryptography of 26 -/

/-- A byte string cut or zero-padded to `n` bytes. -/
def sized (n : Nat) (x : List Byte) : List Byte := (x ++ List.replicate n 0#8).take n
/-- SHAKE256(x, n). -/
def shake (x : List Byte) (n : Nat) : List Byte := sized n (Config.shake256 x n)
/-- The 1,793-byte Falcon-1024 public key of a seed (R431). -/
def publicKey (seed : List Byte) : List Byte := sized 1793 (Config.falconPublic seed)
/-- The 1,280-byte signature of a message by the key of a seed (R431). -/
def sign (seed msg : List Byte) : List Byte := sized 1280 (Config.falconSign seed msg)
/-- The bytes of a text, for the constants of R429 and R440. -/
def textBytes (t : String) : List Byte := t.toList.map fun c => BitVec.ofNat 8 c.toNat

/-! ### Endpoints, sessions and responses (R74 to R77) -/

/-- Endpoint `ep`. -/
def endpointOf (s : State) (ep : Nat) : Endpoint := tabGet {} s.hub.eps ep
/-- Replaces an endpoint. -/
def setEndpoint (ep : Nat) (x : Endpoint) (s : State) : State := setHub s { s.hub with eps := tabSet {} s.hub.eps ep x }
/-- Replaces a virtual device. -/
def setVdev (v : Nat) (x : Vdev) (s : State) : State := setHub s { s.hub with vdevs := tabSet {} s.hub.vdevs v x }

/-- The owner that an endpoint's traffic acts for (R54, R74). -/
def endpointOwner (s : State) (ep : Nat) : BitVec 12 := if ep = 0 then 0#12 else (vdevOf s (ep - 1)).owner

/-- Adds to what the device sends out. -/
def emit (x : HostOut) (s : State) : State := setHub s { s.hub with out := s.hub.out ++ [x] }

/-- The 32-byte header of a command or response (R75). -/
def headerNat (session seqNo : BitVec 32) (arg1 arg0 : Word) (len : Nat) (queue status op ver : BitVec 8) : Nat :=
  ver.toNat + op.toNat * 2 ^ 8 + status.toNat * 2 ^ 32 + queue.toNat * 2 ^ 40 + len % 2 ^ 16 * 2 ^ 48 + arg0.toNat * 2 ^ 64 + arg1.toNat * 2 ^ 128 + seqNo.toNat * 2 ^ 192
    + session.toNat * 2 ^ 224

/-- A command as its packet carries it; STATUS is 0 (R75). -/
def commandBytes (c : HostCmd) : List Byte := leBytes 32 (headerNat c.session c.seqNo c.arg1 c.arg0 c.payload.length c.queue 0#8 c.op c.ver) ++ c.payload

/-- The command in a packet's bytes: its header and LEN bytes of payload; none where the packet is shorter than that, or longer than a Send may be (R72, R75). A packet with bytes
beyond those LEN is no command either, of which the spec says nothing. (Log 42: DEDUCED) -/
def commandOf (x : List Byte) : Option HostCmd :=
  let h := leNat (x.take 32)
  let n := bits h 48 16
  if x.length < 32 ∨ 4096 < x.length ∨ x.length ≠ 32 + n then none
  else some { session := BitVec.ofNat 32 (bits h 224 32), seqNo := BitVec.ofNat 32 (bits h 192 32), arg1 := BitVec.ofNat 64 (bits h 128 64), arg0 := BitVec.ofNat 64 (bits h 64 64)
              queue := BitVec.ofNat 8 (bits h 40 8), op := BitVec.ofNat 8 (bits h 8 8), ver := BitVec.ofNat 8 (bits h 0 8), payload := x.drop 32 }

/-- A response as its packet carries it, in format version 1 (R75); none for what is no response. -/
def responseBytes : HostOut → Option (List Byte)
  | .response _ session seqNo queue op status arg0 arg1 payload =>
    some (leBytes 32 (headerNat session seqNo arg1 arg0 payload.length queue status op 1#8) ++ payload)
  | _ => none

/-- A response, which echoes the command's SESSION, SEQ, QUEUE and OP (R75). -/
def respond (ep : Nat) (c : HostCmd) (status : BitVec 8) (arg0 arg1 : Word) (payload : List Byte) (s : State) : State :=
  emit (.response ep c.session c.seqNo c.queue c.op status arg0 arg1 payload) s

/-- A response with a status alone. -/
def answer (ep : Nat) (c : HostCmd) (status : BitVec 8) (s : State) : Out := .next (respond ep c status 0#64 0#64 [] s)

/-- The open session that a command names. -/
def sessionOf (x : Endpoint) (id : BitVec 32) : Option Session := x.sessions.find? fun y => y.id == id

/-- A command from a session is noted for the 30 s of R74. -/
def noteCommand (ep : Nat) (id : BitVec 32) (s : State) : State :=
  let x := endpointOf s ep
  setEndpoint ep { x with sessions := x.sessions.map fun (y : Session) => if y.id = id then { y with last := s.gtc } else y } s

/-- The session holds the endpoint's interface lock (R78). -/
def holdsLock (s : State) (x : Endpoint) (id : BitVec 32) : Bool :=
  match x.lock with
  | some (h, e) => h == id && decide (s.gtc < e)
  | none => false

/-- The endpoint accepts the command (R74). -/
def accepts (ep : Nat) (op : BitVec 8) : Bool :=
  if ep = 0 then op == 1#8 || op == 2#8 || op == 3#8 || op == 4#8 || op == 13#8 || op == 14#8 || op == 15#8
  else op != 14#8 && op != 15#8

/-- A Send carries at most 4,096 bytes, so a command has at most 4,064 of payload: no packet holds a longer one (R72, R75). -/
def fitsSend (c : HostCmd) : Bool := decide (c.payload.length ≤ 4064)

/-- What is common to all commands, in the order of R76: `k` carries out one that passes. One answered BADOP for its VER does not count among its session's commands for the 30 s
of R74, which the rule leaves open. (Log 42: DEDUCED) -/
def command (op : BitVec 8) (lock : Bool) (ep : Nat) (c : HostCmd) (s : State) (k : State → Out) : Out :=
  let x := endpointOf s ep
  if !x.live || c.op != op || !fitsSend c then .next s
  else if c.ver ≠ 1#8 then answer ep c 2#8 s
  else if op = 1#8 then k s
  else if (sessionOf x c.session).isNone then answer ep c 3#8 s
  else
    let s1 := noteCommand ep c.session s
    if !accepts ep op then answer ep c 8#8 s1
    else if lock && !holdsLock s x c.session then answer ep c 4#8 s1
    else k s1

/-- BADOP_COMMAND (R76): an OP that the table does not list, or a VER other than 1; it does not count for the 30 s of R74. (Log 42: DEDUCED) -/
def execBadopCommand (ep : Nat) (c : HostCmd) (s : State) : Out :=
  if (endpointOf s ep).live && fitsSend c && (c.ver != 1#8 || c.op == 0#8 || decide (15 < c.op.toNat)) then answer ep c 2#8 s else .next s

/-! ### OPEN, CLOSE, LOCK, UNLOCK -/

/-- A session id not 0 and not held by an open session: the proposed one, else the lowest that is free (R74). -/
def freeSession (x : Endpoint) (p : BitVec 32) : BitVec 32 :=
  let ok (i : BitVec 32) : Bool := i != 0#32 && (sessionOf x i).isNone
  if ok p then p else ((List.range 66).map (BitVec.ofNat 32)).find? ok |>.getD 1#32

/-- The key that authenticates an endpoint's OPEN (R91, R435). -/
def openKey (s : State) (ep : Nat) : List Byte := if ep = 0 then s.hub.boot.operatorKey else (vdevOf s (ep - 1)).key

/-- The device's own write of bytes. -/
def devPutBytes (s : State) (va : Nat) : List Byte → State
  | [] => s
  | b :: bs => devPutBytes (devPut s va 1 b.toNat) (va + 1) bs

/-- The certificate bundle and the log (R434). (Log 43: DESIGN CHOICE) -/
def bundle (s : State) : List Byte := s.hub.boot.certs ++ s.hub.boot.mlog.flatten

/-- H1 grants I over the bundle's region to the endpoint's owner (R434). (Log 43: DESIGN CHOICE) -/
def grantBundle (o : BitVec 12) (s : State) : State :=
  let s1 := devPutBytes s Config.certBundle.toNat (bundle s)
  match regionAt s1 Config.certBundle.toNat with
  | none => s1
  | some id =>
    let r := region s1 id
    match (grantDecide s1 0#12 (r.base + r.len * 2 ^ 44 + 2 ^ 84 + o.toNat * 2 ^ 92)).2 with
    | some es => removeEntries o r.base (r.base + r.len) es s1
    | none => s1

/-- A new session on an endpoint, once the OPEN is authentic (R435). -/
def openSession (ep : Nat) (c : HostCmd) (s : State) : State :=
  let x := endpointOf s ep
  let id := freeSession x (Config.sessionId s.freeCtr)
  let (ct, ss) := Config.mlkemEncaps (c.payload.take 1568) s.freeCtr
  let nonce := (c.payload.drop 1568).take 32
  let reply := sized 1568 ct ++ sign s.hub.boot.aliasSeed (c.payload ++ sized 1568 ct)
  let y : Session := { id := id, key := shake (ss ++ nonce ++ leBytes 4 id.toNat) 32, last := s.gtc }
  let s1 := grantBundle (endpointOwner s ep) (nextFree (setEndpoint ep { x with sessions := x.sessions ++ [y] } s))
  respond ep c 0#8 (id.setWidth 64) (BitVec.ofNat 64 s.gtc) reply s1

/-- OPEN (R76, R435). (Log 6: DESIGN CHOICE, 42: DEDUCED) -/
def execHostOpen (ep : Nat) (c : HostCmd) (s : State) : Out :=
  command 1#8 false ep c s fun s =>
    let ok := c.payload.length == 2880 && Config.falconVerify (openKey s ep) (c.payload.take 1600) (c.payload.drop 1600)
    if !ok then answer ep c 3#8 s
    else if 64 ≤ (endpointOf s ep).sessions.length then answer ep c 9#8 s
    else .next (openSession ep c s)

/-- An endpoint without a session, whose lock is released (R78). -/
def dropSession (x : Endpoint) (id : BitVec 32) : Endpoint :=
  { x with sessions := x.sessions.filter fun y => y.id != id
           lock := match x.lock with | some (h, e) => if h = id then none else some (h, e) | none => none }

/-- CLOSE (R76). -/
def execHostClose (ep : Nat) (c : HostCmd) (s : State) : Out :=
  command 2#8 false ep c s fun s => answer ep c 0#8 (setEndpoint ep (dropSession (endpointOf s ep) c.session) s)

/-- LOCK (R78): the lease in ms, as issue cycles of the GTC. -/
def execHostLock (ep : Nat) (c : HostCmd) (s : State) : Out :=
  command 3#8 false ep c s fun s =>
    let x := endpointOf s ep
    let take (s : State) : Out := answer ep c 0#8 (setEndpoint ep { x with lock := some (c.session, s.gtc + c.arg0.toNat * 1200000) } s)
    if c.arg0.toNat = 0 ∨ 60000 < c.arg0.toNat then answer ep c 2#8 s
    else match x.lock with
      | none => take s
      | some (h, e) => if h = c.session ∨ e ≤ s.gtc then take s else .next (respond ep c 1#8 (h.setWidth 64) (BitVec.ofNat 64 e) [] s)

/-- UNLOCK (R78). -/
def execHostUnlock (ep : Nat) (c : HostCmd) (s : State) : Out :=
  command 4#8 true ep c s fun s => answer ep c 0#8 (setEndpoint ep { endpointOf s ep with lock := none } s)

/-- SESSION_TIMEOUT (R74): 30 s without a command, 36 × 10^9 issue cycles. -/
def execSessionTimeout (ep sid : Nat) (s : State) : Out :=
  match (endpointOf s ep).sessions.find? fun y => y.id.toNat == sid with
  | some y => if y.last + 36000000000 ≤ s.gtc then .next (setEndpoint ep (dropSession (endpointOf s ep) y.id) s) else .next s
  | none => .next s

/-- LOCK_LEASE_EXPIRY (R78). -/
def execLockLeaseExpiry (ep : Nat) (s : State) : Out :=
  match (endpointOf s ep).lock with
  | some (_, e) => if e ≤ s.gtc then .next (setEndpoint ep { endpointOf s ep with lock := none } s) else .next s
  | none => .next s

/-! ### Launch queues (R79 to R81, R88, R324) -/

/-- A command on a queue that exists, in a state with a row for it (R80). -/
def onQueue (ep : Nat) (c : HostCmd) (sts : List QueueState) (s : State) (k : Nat → Queue → Out) : Out :=
  let q := queueOf s (ep - 1) c.queue
  if q.st = .none then answer ep c 5#8 s
  else if !sts.contains q.st then answer ep c 6#8 s
  else k (ep - 1) q

/-- The fields of a queue descriptor that QCREATE takes from the host (R79). -/
def queueOfPayload (x : Nat) : Queue :=
  { wdog := BitVec.ofNat 32 (bits x 480 32), cwCap := BitVec.ofNat 24 (bits x 456 24), part := BitVec.ofNat 4 (bits x 448 4), cwBase := BitVec.ofNat 56 (bits x 392 56)
    owner := BitVec.ofNat 12 (bits x 380 12), capLog := BitVec.ofNat 4 (bits x 376 4), cardBase := BitVec.ofNat 56 (bits x 320 56)
    prot := bitAt x 255, kslot := BitVec.ofNat 8 (bits x 240 8), ivl := BitVec.ofNat 32 (bits x 480 32) }

/-- An owner holds current rights over every granule of a span that a hub agent may reach (R79, R450). -/
def holdsSpan (s : State) (o : BitVec 12) (a n : Nat) (rights : List Right) : Bool :=
  (List.range ((a + n - 1) / 4096 + 1 - a / 4096)).all fun i =>
    let va := (a / 4096 + i) * 4096
    (match place true va with | .priv _ => false | .bad => false | _ => true) && rights.all fun r => (agentCheck s o true va r).toOption.isSome

/-- The refusal that QCREATE meets first, or 0 (R79). -/
def qcreateError (s : State) (v : Nat) (c : HostCmd) (q : Queue) : BitVec 8 :=
  if c.payload.length ≠ 64 ∨ q.capLog = 0#4 ∨ q.cwCap.toNat < 2 ∨ q.cwBase.toNat % 8 ≠ 0 ∨ q.cardBase.toNat % 64 ≠ 0 ∨ 8 ≤ q.part.toNat
      ∨ q.part.toNat ≠ (vdevOf s v).part.toNat ∨ (q.prot = true ∧ q.kslot = 0xFF#8) then 2#8
  else if (queueOf s v c.queue).st ≠ .none then 6#8
  else if !mayEnter s (vdevOf s v).owner q.owner || !holdsSpan s q.owner q.cardBase.toNat (64 * 2 ^ q.capLog.toNat) [.I]
      || !holdsSpan s q.owner q.cwBase.toNat (8 * q.cwCap.toNat) [.I, .W] then 8#8
  else 0#8

/-- An owner becomes one of a virtual device's (R426). -/
def noteOwner (v : Nat) (o : BitVec 12) (s : State) : State :=
  let x := vdevOf s v
  setVdev v { x with owners := if x.owners.contains o then x.owners else x.owners ++ [o] } s

/-- H2 writes the queue's stop word as 0 (R324). -/
def clearStopWord (q : Queue) (s : State) : State := devPut s q.cwBase.toNat 8 0

/-- QCREATE (R79). -/
def execHostQcreate (ep : Nat) (c : HostCmd) (s : State) : Out :=
  command 5#8 true ep c s fun s =>
    let q := queueOfPayload (leNat c.payload)
    let e := qcreateError s (ep - 1) c q
    if e ≠ 0#8 then answer ep c e s
    else answer ep c 0#8 (clearStopWord q (noteOwner (ep - 1) q.owner (setQueue (ep - 1) c.queue { q with st := .open_, wdLast := s.gtc } s)))

/-- QOPEN (R80, R324). -/
def execHostQopen (ep : Nat) (c : HostCmd) (s : State) : Out :=
  command 6#8 true ep c s fun s => onQueue ep c [.closed] s fun v q =>
    answer ep c 0#8 (clearStopWord q (setQueue v c.queue { q with st := .open_, head := q.tail } s))

/-- QDESTROY (R80). (Log 44: DESIGN CHOICE) -/
def execHostQdestroy (ep : Nat) (c : HostCmd) (s : State) : Out :=
  command 10#8 true ep c s fun s => onQueue ep c [.closed] s fun v q => answer ep c 0#8 (setQueue v c.queue { q with st := .none } s)

/-- QSTAT of a host (R76, R80). -/
def execHostQstat (ep : Nat) (c : HostCmd) (s : State) : Out :=
  command 11#8 false ep c s fun s => onQueue ep c [.open_, .draining, .resetting, .closed] s fun _ q =>
    .next (respond ep c 0#8 (BitVec.ofNat 64 q.dropped) 0#64 (leBytes 64 (queueNat q)) s)

/-- DRAIN (R88 steps 1 and 2): the answer follows at CLOSED. -/
def execHostDrain (ep : Nat) (c : HostCmd) (s : State) : Out :=
  command 8#8 true ep c s fun s => onQueue ep c [.open_] s fun v q =>
    .next (stopDealing v c.queue (setQueue v c.queue { q with st := .draining, answers := q.answers ++ [(ep, c)] } s))

/-- RESET (R88 steps 1 and 2). -/
def execHostReset (ep : Nat) (c : HostCmd) (s : State) : Out :=
  command 9#8 true ep c s fun s => onQueue ep c [.open_, .draining] s fun v q =>
    .next (beginReset v c.queue (setQueue v c.queue { q with answers := q.answers ++ [(ep, c)] } s))

/-- Cancels the pending cards whose dependences have failed, once over the list (R38). -/
def failPass (s : State) : State :=
  (List.range s.hub.cards.length).foldl (fun s i => match cardAt s i with
    | some c => if c.st = .pending ∧ c.depBad ≠ 0#4 then cancelCard i s else s
    | none => s) s

/-- Dependants fail transitively (R88 step 5): each pass fails at least one card more, or none is left. (Log 41: DEDUCED) -/
def failAll (n : Nat) (s : State) : State :=
  match n with
  | 0 => s
  | n + 1 => failAll n (failPass s)

/-- Step 7 of R88: the queue is CLOSED, and H2 answers the commands that waited for it. -/
def closeQueue (v : Nat) (q : BitVec 8) (s : State) : State :=
  let s1 := failAll s.hub.cards.length (noteDeps s)
  let x := queueOf s1 v q
  x.answers.foldl (fun s (ep, c) => respond ep c 0#8 0#64 0#64 [] s) (setQueue v q { x with st := .closed, answers := [] } s1)

/-- A card of the queue is PENDING or RUNNING. -/
def cardsOpen (s : State) (v : Nat) (q : BitVec 8) : Bool :=
  s.hub.cards.any fun c => c.vdev == v && c.queue == q && (c.st == .pending || c.st == .running)

/-- DRAIN_COMPLETE (R80). -/
def execDrainComplete (v q : Nat) (s : State) : Out :=
  let q := BitVec.ofNat 8 q
  if (queueOf s v q).st = .draining ∧ cardsOpen s v q = false then .next (closeQueue v q s) else .next s

/-- A virtual device that is not resident has no continuation on a core: the dealer ends the queue's continuations (R44, R88 step 4). (Log 44: DESIGN CHOICE) -/
def tearDescheduled (v : Nat) (q : BitVec 8) (s : State) : State :=
  if (vdevOf s v).resident then s
  else (s.hub.conts.filter (inQueue v q)).foldl (fun s k =>
    if (boundAt s k.record).isSome then s
    else match absentCtx s k.chrys with
      | some c => endCont (tearState (if c.rcd.state = .stopped then c.rcd.pre != .new else c.rcd.state != .new)) s k
      | none => endCont .cancelled s k) s

/-- RESET_COMPLETE (R88 steps 4 to 7): no continuation of the queue is left, and the partition's stop is over (R385). (Log 44: DESIGN CHOICE) -/
def execResetComplete (v q : Nat) (s : State) : Out :=
  let q := BitVec.ofNat 8 q
  if (queueOf s v q).st ≠ .resetting then .next s
  else
    let s1 := tearDescheduled v q s
    let p := getPart s1 (vdevOf s1 v).part
    if s1.hub.conts.any (inQueue v q) || cardsOpen s1 v q || ((vdevOf s1 v).resident && (p.armed || p.halted)) then .next s
    else .next (closeQueue v q s1)

/-! ### LAUNCH (R81, R438) -/

/-- A group of the group table (R45). -/
def groupEntry (x : Nat) : Group := { valid := bitAt x 127, scope := BitVec.ofNat 3 (bits x 124 3), expect := BitVec.ofNat 32 (bits x 0 32) }

/-- The 256 groups of the table at ARG1; every entry is invalid where there is no table, or a part of its read is refused. -/
def takeGroups (l : Nat) (o : BitVec 12) (a : Nat) (s : State) : State :=
  match if a = 0 then none else hubRead s o a 4096 with
  | none => s
  | some x => (List.range 256).foldl (fun s g => setGroup l (BitVec.ofNat 8 g) (groupEntry (bits x (128 * g) 128)) s) (touchPage false a s)

/-- The verdict on a card that passes a LAUNCH's checks. -/
def launchVerdict (s : State) (v : Nat) (c : Queue) (q : BitVec 8) (l : Nat) (x : BitVec 512) : Verdict :=
  if cardOk s v c l x then verdictOf (noteCard s { vdev := v, queue := q, launch := l, addr := 0#56, bits := x }) else refusal s v x

/-- The cards of a LAUNCH with their verdicts (R81's two passes), all decided on the state before any status is written. -/
def judgeCards (s : State) (v : Nat) (q : BitVec 8) (l : Nat) (cs : List (Option (BitVec 56 × BitVec 512))) : List (Option (BitVec 56 × BitVec 512) × Verdict) :=
  let first := cs.map fun c => (c, match c with | some (_, x) => launchVerdict s v (queueOf s v q) q l x | none => .refuse false)
  let sets := first.filterMap fun p => match p with
    | (_, .refuse _) => none
    | (c, _) => c.map fun c => cardGroupList c.2
  if setsNest sets then first.map fun p => match p with
    | (some (a, x), .refuse w) => (some (a, x), .refuse w)
    | (some (a, x), _) => (some (a, x), refusal s v x)
    | (none, d) => (none, d)
  else first

/-- A card is refused. -/
def isRefused (d : Verdict) : Bool := match d with | .refuse _ => true | _ => false

/-- LAUNCH once it is accepted. (Log 42: DEDUCED) -/
def launchNow (ep : Nat) (c : HostCmd) (v : Nat) (q : Queue) (s : State) : State :=
  let tail := c.arg0.setWidth 32
  let l := s.hub.launches.length
  let s1 := setQueue v c.queue { q with tail := tail } (setHub s { s.hub with launches := s.hub.launches ++ [{ vdev := v, queue := c.queue }] })
  let s2 := takeGroups l q.owner c.arg1.toNat s1
  let cs := (List.range (tail - q.head).toNat).map fun i => readCard s2 q (q.head + BitVec.ofNat 32 i).toNat
  let js := judgeCards s2 v c.queue l cs
  let s3 := writeCards v c.queue s2.hub.cards.length js (joinCards v c.queue l js s2)
  let x := vdevOf s3 v
  let m := shake (x.vmeas ++ cs.flatMap fun c => match c with | some (_, y) => leBytes 64 y.toNat | none => []) 64
  let s4 := setVdev v { x with vmeas := m, launches := x.launches + 1 } s3
  let bad := js.countP fun j => isRefused j.2
  let first := match js.findIdx? fun j => isRefused j.2 with | some i => (q.head + BitVec.ofNat 32 i).setWidth 64 | none => BitVec.allOnes 64
  respond ep c 0#8 (BitVec.ofNat 64 bad) first [] s4

/-- LAUNCH (R81). (Log 42: DEDUCED) -/
def execHostLaunch (ep : Nat) (c : HostCmd) (s : State) : Out :=
  command 7#8 false ep c s fun s => onQueue ep c [.open_] s fun v q =>
    let tail := c.arg0.setWidth 32
    if 2 ^ 31 ≤ (tail - q.tail).toNat ∨ 2 ^ q.capLog.toNat < (tail - q.head).toNat then answer ep c 7#8 s
    else .next (launchNow ep c v q s)

/-! ### KEYLOAD and EVIDENCE (R86, R436, R437) -/

/-- A queue of the device that names a key slot is OPEN or DRAINING (R86). -/
def slotInUse (s : State) (k : Nat) : Bool := s.hub.queues.any fun e => e.2.kslot.toNat == k && (e.2.st == .open_ || e.2.st == .draining)

/-- KEYLOAD (R86, R436). (Log 42: DEDUCED) -/
def execHostKeyload (ep : Nat) (c : HostCmd) (s : State) : Out :=
  command 12#8 true ep c s fun s =>
    let key := ((sessionOf (endpointOf s ep) c.session).map (·.key)).getD []
    if 254 < c.arg0.toNat then answer ep c 2#8 s
    else match if c.payload.length = 40 then Config.aesUnwrap key c.payload else none with
      | none => answer ep c 2#8 s
      | some k =>
        if slotInUse s c.arg0.toNat then answer ep c 6#8 s
        else answer ep c 0#8 (setHub s { s.hub with keys := tabSet none s.hub.keys c.arg0.toNat (some (k, ep - 1)), keysSent := tabSet 0 s.hub.keysSent c.arg0.toNat 0 })

/-- RES of a virtual device (R437). -/
def resCode (x : Vdev) : Nat := if x.resident then 0 else if x.gated then 2 else 1

/-- VTIME as evidence gives it (R437): that of R382 while RUNNING, else V_stop. -/
def evidenceTime (s : State) (x : Vdev) : Word := if x.resident then vtime (getPart s x.part) s.gtc else x.vStop

/-- Bytes 0 to 319 of an evidence record (R437). -/
def evidenceBody (s : State) (ep : Nat) (nonce : List Byte) : List Byte :=
  let x := vdevOf s (ep - 1)
  let op := ep = 0
  sized 64 nonce ++ shake s.hub.boot.mlog.flatten 64 ++ shake (publicKey s.hub.boot.aliasSeed) 64 ++ sized 64 (if op then [] else x.vmeas)
    ++ [1#8, BitVec.ofNat 8 nonce.length] ++ (if op then [0xFF#8, 0xFF#8, 0xFF#8] else [BitVec.ofNat 8 (resCode x), x.part.setWidth 8, BitVec.ofNat 8 (ep - 1)])
    ++ [0#8, 0#8, 0#8] ++ leBytes 8 s.gtc ++ leBytes 8 (if op then 0 else (evidenceTime s x).toNat) ++ leBytes 8 (if op then 0 else x.launches) ++ List.replicate 32 0#8

/-- EVIDENCE (R437). -/
def execHostEvidence (ep : Nat) (c : HostCmd) (s : State) : Out :=
  command 13#8 false ep c s fun s =>
    if c.payload.length < 16 ∨ 64 < c.payload.length then answer ep c 2#8 s
    else
      let b := evidenceBody s ep c.payload
      .next (respond ep c 0#8 (Config.certBundle.setWidth 64) 0#64 (b ++ sign s.hub.boot.aliasSeed b) s)

/-! ### VCREATE and VDESTROY (R91, R92) -/

/-- The virtual device that a VCREATE payload describes (R91). -/
def vdevOfPayload (x : Nat) (key : List Byte) : Vdev :=
  { live := true, pword := BitVec.ofNat 13 (bits x 48 13), wall := bitAt x 40, rclass := BitVec.ofNat 2 (bits x 38 2), colour := BitVec.ofNat 6 (bits x 32 6)
    owner := BitVec.ofNat 12 (bits x 16 12), part := BitVec.ofNat 3 (bits x 8 3), key := key, owners := [BitVec.ofNat 12 (bits x 16 12)], vmeas := List.replicate 64 0#8 }

/-- The refusal that VCREATE meets first, or 0 (R91). OWNER 0, which lies outside the field's range and which no check names, is taken like any other. (Log 45: DESIGN CHOICE) -/
def vcreateError (s : State) (c : HostCmd) (x v : Nat) (d : Vdev) : BitVec 8 :=
  let rf := bits x 56 5
  let acc := bits x 48 5
  if c.payload.length ≠ 1857 ∨ x / 2 ^ 61 ≠ 0 ∨ bits x 41 7 ≠ 0 ∨ bits x 28 4 ≠ 0 ∨ bits x 11 5 ≠ 0 ∨ 63 < v ∨ d.rclass = 3#2 ∨ Config.falconKeyOk d.key = false
      ∨ rf = 0 ∨ 16 < rf ∨ 24 < acc ∨ 32 < rf + acc + 1 then 2#8
  else if (vdevOf s v).live then 6#8
  else if !(ownerDesc s d.owner).valid then 8#8
  else if (s.hub.vdevs.any fun e => e.1 ≠ v && e.2.live && e.2.colour == d.colour) || (getPart s d.part).map == 0#32 then 9#8
  else 0#8

/-- The virtual device, its endpoint and its empty queue table (R79, R91). (Log 45: DESIGN CHOICE) -/
def createVdev (v : Nat) (d : Vdev) (s : State) : State :=
  let s1 := setEndpoint (v + 1) { live := true } (setVdev v d s)
  { s1 with mem := clearSpan s1.mem ((Config.queueTable v).toNat * 2 ^ 14) (2 ^ 14) }

/-- VCREATE (R91). -/
def execHostVcreate (ep : Nat) (c : HostCmd) (s : State) : Out :=
  command 14#8 true ep c s fun s =>
    let x := leNat (c.payload.take 64)
    let v := bits x 0 8
    let d := vdevOfPayload x (c.payload.drop 64)
    let e := vcreateError s c x v d
    if e ≠ 0#8 then answer ep c e s else answer ep c 0#8 (createVdev v d s)

/-- The virtual device is being stopped for good. -/
def retiring (s : State) (v : Nat) : Bool := s.hub.jobs.any fun j => match j with | .retire w _ _ => w == v | .reset _ _ _ => false | .enrol => false

/-- The firmware's task of removing virtual device `v` answers one command more at its end. -/
def alsoAnswers (v ep : Nat) (c : HostCmd) (j : Job) : Job :=
  match j with
  | .retire w cs st => if w = v then .retire w (cs ++ [(ep, c)]) st else .retire w cs st
  | .reset w q st => .reset w q st
  | .enrol => .enrol

/-- VDESTROY (R92): the endpoint is closed at once; the further steps follow, and the response after them. Where the virtual device is being stopped for good already, that stop is
step 2. (Log 62: DESIGN CHOICE) -/
def execHostVdestroy (ep : Nat) (c : HostCmd) (s : State) : Out :=
  command 15#8 true ep c s fun s =>
    let v := c.arg0.toNat
    if 63 < v ∨ (vdevOf s v).live = false ∨ ((List.range 256).any fun q => (queueOf s v (BitVec.ofNat 8 q)).st != .none) = true then answer ep c 6#8 s
    else
      let s1 := setEndpoint (v + 1) {} s
      .next (setHub s1 { s1.hub with jobs := if retiring s v then s1.hub.jobs.map (alsoAnswers v ep c) else s1.hub.jobs ++ [.retire v [(ep, c)] .writes] })

/-! ### RMA and packets of other kinds (R72, R73) -/

/-- The detector's name of the RMA in progress, whose sync region is the whole operation (R321). -/
def rmaAgent : Nat := 2 ^ 59

/-- One byte of an RMA, whose read is an acquire at .sys (R314: on a ROD flow; on another flow the detector leaves the race unreported, as R321 allows): its storage key, or the refusal (R58, R73, R319). -/
def rmaByte (o : BitVec 12) (a : Nat) (write : Bool) (s : State) : Except Refuse (Nat × State) :=
  match place true a with
  | .bad => .error .address
  | .heap => match agentCheck s o true a (if write then .W else .I) with
    | .error r => .error r
    | .ok _ => match reach s 0 a with
      | .error r => .error r
      | .ok k => match recordAccess { engineAccess rmaAgent hostUnit k write with sync := if write then none else some 6#3 } s with
        | none => .error .race
        | some s1 => .ok (k, touchPage write a s1)
  | _ => .error .protection

/-- The bytes of an RMA write up to the first refusal; a refused one is a heap access all the same (R69). -/
def rmaPut (o : BitVec 12) (a : Nat) : List Byte → State → Option Refuse × State
  | [], s => (none, s)
  | b :: bs, s => match rmaByte o a true s with
    | .error r => (some r, lockHeap a s)
    | .ok (k, s1) => rmaPut o (a + 1) bs { s1 with mem := setByte s1.mem k b }

/-- The bytes of an RMA read, or its refusal. -/
def rmaGet (o : BitVec 12) (a : Nat) (n : Nat) (s : State) : Except Refuse (List Byte) × State :=
  match n with
  | 0 => (.ok [], s)
  | n + 1 => match rmaByte o a false s with
    | .error r => (.error r, lockHeap a s)
    | .ok (k, s1) => match rmaGet o (a + 1) n s1 with
      | (.error r, s2) => (.error r, s2)
      | (.ok bs, s2) => (.ok (getByte s.mem k :: bs), s2)

/-- Bytes that an RMA reaches are still to be written, or for a write to be read, by a plain access that has been overtaken: the RMA comes after it, as no race is found at an RMA's
read (R314, R317, R318). (Log 59: DEDUCED) -/
def rmaLate (a n : Nat) (write : Bool) (s : State) : Bool :=
  (List.range ((a % 32 + n + 31) / 32)).any fun i =>
    match place true (a / 32 * 32 + 32 * i) with
    | .heap => match reach s 0 (a / 32 * 32 + 32 * i) with
      | .ok k => lateOn s 0#56 k write
      | .error _ => false
    | _ => false

/-- RMA on an endpoint: none at the operator's, nothing where there is no endpoint, at most 64 MiB (R72 to R74). (Log 46: DESIGN CHOICE) -/
def rma (ep n : Nat) (s : State) (k : BitVec 12 → State → State) : Out :=
  if !(endpointOf s ep).live then .next s
  else if ep = 0 ∨ 64 * 2 ^ 20 < n then .next (emit (.rmaError ep 0#8) s)
  else .next (endRegion rmaAgent (k (endpointOwner s ep) s))

/-- RMA_WRITE (R73). (Log 46: DESIGN CHOICE) -/
def execRmaWrite (ep : Nat) (va : BitVec 64) (bytes : List Byte) (s : State) : Out :=
  rma ep bytes.length s fun o s => match rmaPut o va.toNat bytes s with
    | (none, s1) => emit (.rmaDone ep []) s1
    | (some r, s1) => emit (.rmaError ep (causeOf r)) s1

/-- RMA_READ (R73). (Log 46: DESIGN CHOICE) -/
def execRmaRead (ep : Nat) (va : BitVec 64) (n : Nat) (s : State) : Out :=
  rma ep n s fun o s => match rmaGet o va.toNat n s with
    | (.ok bs, s1) => emit (.rmaDone ep bs) s1
    | (.error r, s1) => emit (.rmaError ep (causeOf r)) s1

/-- UNSUPPORTED_PACKET (R72): dropped and counted, refused with an error completion, or, for a receiver-credit or transport-security packet, ignored. (Log 46: DESIGN CHOICE) -/
def execUnsupportedPacket (ep : Nat) (kind : PacketKind) (s : State) : Out :=
  match kind with
  | .unreliable => .next (setHub s { s.hub with unsupported := s.hub.unsupported + 1 })
  | .atomicOrDeferred => .next (emit (.rmaError ep 0#8) s)
  | .receiverCredit => .next s
  | .transportSecurity => .next s

end Sys2Proof.Machine
end

