-- ==== Sys2Proof/Machine/Boot.lean ====
section
/-! DEFINITION. Power-up, the boot block, identity and measured boot (R427 to R434), the security engine's key port and sealed links (R439 to R442, R446),
and the bring-up of stacks, links and ports (R443 to R448). -/

namespace Sys2Proof.Machine

/-- Replaces the boot block. -/
def setBoot (b : Boot) (s : State) : State := setHub s { s.hub with boot := b }

/-! ### The boot flash (R427, R430, R432) -/

/-- Storage key of byte 0 of the boot flash: its physical address (R427). -/
def flashBase : Nat := 0x1000004000000

/-- Bytes of the flash that software can address through the window or FP_ADDR. -/
def inFlash (k : Nat) : Bool := decide (flashBase ≤ k) && decide (k < flashBase + 2 ^ 32 + 8)

/-- `n` bytes of the flash from an offset. -/
def flashBytes (s : State) (off n : Nat) : List Byte := getBytes s.mem (flashBase + off) n

/-- Entries of the directory from an offset: KIND, LEN and OFF, up to the first of KIND 0 (R432). -/
def directoryFrom (s : State) (off : Nat) : Nat → List (Nat × Nat × Nat)
  | 0 => []
  | n + 1 =>
    let a := flashBase + off
    let kind := getLe s.mem a 4
    if kind = 0 then [] else (kind, getLe s.mem (a + 4) 4, getLe s.mem (a + 8) 8) :: directoryFrom s (off + 32) n

/-- The boot flash directory; it lies in the first 64 MiB. -/
def directory (s : State) : List (Nat × Nat × Nat) := directoryFrom s 0 (2 ^ 21)

/-- The first entry of a kind. -/
def entryOf (s : State) (kind : Nat) : Option (Nat × Nat × Nat) := (directory s).find? fun e => e.1 == kind

/-- The bytes of an entry's image (R433). -/
def imageOf (s : State) (e : Nat × Nat × Nat) : List Byte := flashBytes s e.2.2 e.2.1

/-- A log entry of 128 bytes (R433). -/
def measureEntry (kind index : Nat) (image : List Byte) : List Byte :=
  leBytes 4 kind ++ leBytes 4 index ++ leBytes 8 image.length ++ shake image 64 ++ List.replicate 48 0#8

/-! ### POWER_UP and POWER_OFF (R427, R429 to R433) -/

/-- What survives without power: the boot flash. The rest is the machine right after reset; the model's own input, output and free-value counter go on. (Log 51: DEDUCED) -/
def unpowered (s : State) : State :=
  { State.reset with
    mem := s.mem.filter fun c => inFlash c.1
    agenda := s.agenda
    freeCtr := s.freeCtr
    hub := { State.reset.hub with out := s.hub.out, boot := { powerUps := s.hub.boot.powerUps } } }

/-- POWER_OFF (R427). -/
def execPowerOff (s : State) : Out := .next (unpowered s)

/-- The boot stops: PHASE FAIL with a cause (R427). -/
def failBoot (err : BitVec 8) (s : State) : State := setBoot { s.hub.boot with phase := 15#4, err := err, h1Halted := true } s

/-- An image that fits H1's 256 KiB of instruction RAM (R430, R433). -/
def fitsRam (e : Nat × Nat × Nat) : Bool := decide (0 < e.2.1) && decide (e.2.1 ≤ 262144)

/-- An image in a hart's instruction RAM (R433, R434). -/
def loadRam (h : Fin 4) (image : List Byte) (s : State) : State := setHub s { s.hub with harts := s.hub.harts.set h { s.hub.harts[h] with ram := image } }

/-- A recovery boot as the mask ROM begins it (R430 step 1): the image is copied and the copy measured; the image then enrols the device. -/
def recoveryBoot (s : State) : State :=
  match (entryOf s 8).filter fitsRam with
  | none => failBoot 2#8 s
  | some e =>
    let s1 := setBoot { s.hub.boot with phase := 6#4, mlog := [measureEntry 8 0 (imageOf s e)] } (loadRam 1 (imageOf s e) s)
    setHub s1 { s1.hub with jobs := s1.hub.jobs ++ [.enrol] }

/-- The code word of a message (R430). -/
def codeWord (w : List Byte) : List Byte := leBytes 8192 (Config.fuzzyCode (BitVec.ofNat 65536 (leNat w))).toNat

/-- DECODE (R429): a code word gives its message back, and other bytes what the code makes of them. -/
def decodeCode (x : List Byte) : List Byte :=
  let m := leBytes 8192 (Config.fuzzyCode.symm (BitVec.ofNat 65536 (leNat x))).toNat
  let n := Config.messageLen.toNat
  if (m.drop n).all (· == 0#8) then m.take n else Config.fuzzyCorrect x

/-- The PUF window's bytes of this power-up (R429). -/
def pufBytes (s : State) : List Byte := (List.range 8192).map (Config.pufByte s.hub.boot.powerUps)

/-- The bitwise difference of two byte strings. -/
def xorBytes (a b : List Byte) : List Byte := List.zipWith (· ^^^ ·) a b

/-- The mask ROM's work with a device seed: stage 1 measured, CDI_1 and the L1 certificate made, the seed erased and the PUF locked (R433). (Log 47: DESIGN CHOICE) -/
def enterStage1 (uds : List Byte) (s : State) : State :=
  match (entryOf s 2).filter fitsRam with
  | none => failBoot 2#8 s
  | some e =>
    let m := shake (imageOf s e) 64
    let cdi := shake (uds ++ m) 64
    let l1 := publicKey cdi
    setBoot { s.hub.boot with phase := 1#4, mlog := [measureEntry 2 0 (imageOf s e)], cdi1 := cdi, uds := [], pufLock := true
                              certs := publicKey uds ++ (l1 ++ m ++ sign uds (l1 ++ m)) } (loadRam 1 (imageOf s e) s)

/-- A normal boot: the seed is reconstructed from the PUF and the helper data (R429); the KIND 1 entry holds h and then CHECK. (Log 47: DESIGN CHOICE) -/
def normalBoot (e : Nat × Nat × Nat) (s : State) : State :=
  let h := flashBytes s e.2.2 8192
  let w := decodeCode (xorBytes (pufBytes s) h)
  if shake (w ++ textBytes "check") 32 ≠ flashBytes s (e.2.2 + 8192) 32 then failBoot 1#8 s
  else
    let uds := shake (w ++ textBytes "ryutia-uds") 32
    enterStage1 uds (setBoot { s.hub.boot with uds := uds } s)

/-- The compositor's decisions after the n-th power-up. (Log 62: DESIGN CHOICE) -/
def planned (n : Nat) : List (Nat × Decision) :=
  (Config.compositorPlan n).filterMap fun (t, v, k) => match k.toNat with
    | 1 => some (t, .stopForGood v.toNat)
    | 2 => some (t, .gate v.toNat true)
    | 3 => some (t, .gate v.toNat false)
    | _ => none

/-- POWER_UP (R427): the GTC starts at 0, H1 leaves reset and the mask ROM runs. (Log 47: DESIGN CHOICE, 62: DESIGN CHOICE) -/
def execPowerUp (recov : Bool) (s : State) : Out :=
  if s.hub.boot.powered then .next s
  else
    let n := s.hub.boot.powerUps + 1
    let s00 := unpowered s
    let s0 := setHub s00 { s00.hub with decisions := planned n }
    let s1 := setBoot { s0.hub.boot with powered := true, powerUps := n, recov := recov, harts := 2#4, bootn := Config.bootEntropy n } s0
    if recov then .next (recoveryBoot s1)
    else match entryOf s1 1 with
      | none => .next (recoveryBoot s1)
      | some e => .next (normalBoot e s1)

/-! ### The boot block's registers (R428) -/

/-- The hart is out of reset and not halted. -/
def hartRuns (s : State) (hart : Nat) : Bool := decide (hart < 4) && s.hub.boot.harts.getLsbD hart && !(hart == 1 && s.hub.boot.h1Halted)

/-- PHASE as written: a value below the current one is ignored (R428). -/
def raisePhase (b : Boot) (p : BitVec 4) : BitVec 4 := if p.toNat < b.phase.toNat then b.phase else p

/-- BOOT_SET_WRITE (R428). At the end of an enrolment H1 halts (R430 step 4). (Log 47: DESIGN CHOICE) -/
def execBootSetWrite (hart : Nat) (x : BitVec 64) (s : State) : Out :=
  let b := s.hub.boot
  let p := x.extractLsb' 0 4
  if !hartRuns s hart then .next s
  else if hart = 1 ∨ hart = 3 then
    .next (setBoot { b with phase := raisePhase b p, err := x.extractLsb' 8 8, degraded := x.getLsbD 16
                            h1Halted := b.h1Halted || (hart == 1 && b.phase == 6#4 && b.pufLock && p == 6#4) } s)
  else if hart = 0 ∧ p = 5#4 then .next (setBoot { b with phase := raisePhase b p } s)
  else .next s

/-- An entry that stage 1 measures and places (R434). -/
def stage1Kind (k : Nat) : Bool := (decide (3 ≤ k) && decide (k ≤ 7)) || k == 9

/-- LEN of an entry is what R432 allows, and an image for H1 fits its RAM (R433). (Log 47: DESIGN CHOICE) -/
def entryLenOk (e : Nat × Nat × Nat) : Bool :=
  if e.1 = 6 then decide (e.2.1 ≤ 262144) else if e.1 = 7 then e.2.1 == 4096 else if e.1 = 9 then e.2.1 == 1793 else decide (e.2.1 ≤ 16777216)

/-- Log entries of a list of directory entries, numbered from `i`. -/
def measureEntries (s : State) (i : Nat) : List (Nat × Nat × Nat) → List (List Byte)
  | [] => []
  | e :: es => measureEntry e.1 i (imageOf s e) :: measureEntries s (i + 1) es

/-- The hart whose RAM an image of a kind goes to (R432, R434). -/
def ramOf : Nat → Option (Fin 4)
  | 3 => some 0
  | 4 => some 2
  | 5 => some 3
  | 6 => some 1
  | _ => none

/-- Copies the images to their targets in directory order: those of KIND 3 to 6 to the harts' RAMs, those of KIND 7 to the steward buffer in page `buf` (R434). -/
def placeImages (buf : Nat) (es : List (Nat × Nat × Nat)) (s : State) : State :=
  es.foldl (fun t e => match ramOf e.1 with
    | some h => loadRam h (imageOf s e) t
    | none => if e.1 = 7 then { t with mem := setBytes t.mem (buf * 4096) (imageOf s e) } else t) s

/-- Stage 1's work up to its write of HART_RUN (R434). (Log 47: DESIGN CHOICE) -/
def stage1 (s : State) : State :=
  let es := (directory s).filter fun e => stage1Kind e.1
  if es.countP (fun e => e.1 == 9) ≠ 1 ∨ es.all entryLenOk = false then failBoot 3#8 s
  else
    let b := s.hub.boot
    let log := measureEntries s 1 es
    let logd := shake log.flatten 64
    let cdi2 := shake (b.cdi1 ++ logd) 64
    let pub := publicKey cdi2
    let buf := Config.seg15Buffer b.powerUps
    let s1 := placeImages buf.toNat es s
    setBoot { b with
      mlog := b.mlog ++ log, aliasSeed := cdi2, cdi1 := [], certs := b.certs ++ (pub ++ logd ++ sign b.cdi1 (pub ++ logd))
      seg15 := if (entryOf s 7).isSome then buf else b.seg15
      lroot := if b.lroot.isNone then some (BitVec.ofNat 256 (leNat (shake (cdi2 ++ textBytes "link") 32))) else b.lroot
      operatorKey := match entryOf s 9 with | some e => imageOf s e | none => [] } s1

/-- Harts leave reset; once H2 runs, the operator endpoint is open (R427, R428). (Log 42: DEDUCED) -/
def releaseHarts (x : BitVec 4) (s : State) : State :=
  let s1 := setBoot { s.hub.boot with harts := s.hub.boot.harts ||| x } s
  if x.getLsbD 2 then setEndpoint 0 { endpointOf s1 0 with live := true } s1 else s1

/-- HART_RUN (R428, R434); a recovery boot releases no other hart (R430). H1's write in STAGE1 that releases H3 ends stage 1's work. (Log 47: DESIGN CHOICE) -/
def execHartRun (hart : Nat) (x : BitVec 64) (s : State) : Out :=
  if (hart = 1 ∨ hart = 3) ∧ hartRuns s hart = true ∧ s.hub.boot.phase ≠ 6#4 then
    if hart = 1 ∧ s.hub.boot.phase = 1#4 ∧ x.getLsbD 3 = true ∧ s.hub.boot.cdi1 ≠ [] then
      let s1 := stage1 s
      if s1.hub.boot.phase = 15#4 then .next s1 else .next (releaseHarts (x.extractLsb' 0 4) s1)
    else .next (releaseHarts (x.extractLsb' 0 4) s)
  else .next s

/-- PUF_LOCK (R428). -/
def execPufLock (x : BitVec 64) (s : State) : Out := .next (setBoot { s.hub.boot with pufLock := s.hub.boot.pufLock || x.getLsbD 0 } s)

/-- A core leaves reset with segment 15 LANDED (R428). -/
def releaseCore (c : Core) : Core := { setSeg c 15#4 { st := .landed, err := 0#4, base := 0#44 } with released := true, bootSeg := true }

/-- CORE_REL (R428); in a recovery boot no core leaves reset (R430). (Log 47: DESIGN CHOICE) -/
def execCoreRel (x : BitVec 64) (s : State) : Out :=
  if x.getLsbD 0 = false ∨ s.hub.boot.coreRel = true ∨ s.hub.boot.phase = 6#4 then .next s
  else
    let img := getBytes s.mem (s.hub.boot.seg15.toNat * 4096) 4096
    .next ((List.range 4368).foldl (fun s u => modCore s u releaseCore) (setBoot { s.hub.boot with coreRel := true, image15 := img } s))

/-! ### ENROL (R430 steps 2 to 4) -/

/-- The helper data and CHECK that ENROL makes: w, which is BOOTN expanded by SHAKE256, the code word that decodes to it, and the PUF window's bytes (R430 step 2). -/
def enrolment (s : State) : List Byte :=
  let w := shake (leBytes 32 s.hub.boot.bootn.toNat) Config.messageLen.toNat
  xorBytes (pufBytes s) (codeWord w) ++ shake (w ++ textBytes "check") 32

/-- Index of the directory entry that ENROL writes: the KIND 1 entry, or the end of the directory. -/
def enrolIndex (s : State) : Nat := ((directory s).findIdx? fun e => e.1 == 1).getD (directory s).length

/-- ENROL (R430 steps 2 to 4): the KIND 1 entry with its helper data, replacing an earlier one; then PUF_LOCK, PHASE 6, and H1 halts. A device whose PUF is locked already, or
whose H1 has halted, enrols no more. (Log 47: DESIGN CHOICE) -/
def enrol (s : State) : State :=
  let b := s.hub.boot
  if b.phase ≠ 6#4 ∨ b.pufLock = true ∨ b.h1Halted = true then s
  else
    let off := (Config.enrolOffset b.powerUps).toNat * 4096
    let i := enrolIndex s
    let ended := if (directory s).length ≤ i then setLe s.mem (flashBase + 32 * (i + 1)) 4 0 else s.mem
    let entry := setBytes (setBytes ended (flashBase + off) (enrolment s)) (flashBase + 32 * i) (leBytes 4 1 ++ leBytes 4 8224 ++ leBytes 8 off ++ List.replicate 16 0#8)
    setBoot { b with pufLock := true, err := 0#8, h1Halted := true } { s with mem := entry }

/-! ### The flash's program port (R430) -/

/-- FP_DATA (R430). (Log 49: DEDUCED) -/
def execFpData (x : BitVec 64) (s : State) : Out :=
  let b := s.hub.boot
  if b.phase ≠ 6#4 then .next s
  else .next (setBoot { b with fpAddr := b.fpAddr + 8#32, fpBusy := true } { s with mem := setLe s.mem (flashBase + b.fpAddr.toNat) 8 x.toNat })

/-- FP_ERASE (R430). -/
def execFpErase (s : State) : Out :=
  let b := s.hub.boot
  if b.phase ≠ 6#4 then .next s
  else
    let a := flashBase + b.fpAddr.toNat / 4096 * 4096
    .next (setBoot { b with fpBusy := true } { s with mem := setBytes s.mem a (List.replicate 4096 Config.erasedByte) })

/-- FP_BUSY_CLEAR (R430). -/
def execFpBusyClear (s : State) : Out := .next (setBoot { s.hub.boot with fpBusy := false } s)

/-! ### The security engine and sealed links (R439 to R442, R446) -/

/-- A link id of R439. -/
def linkIdOk (l : Nat) : Bool := decide (l < 18) || (decide (32 ≤ l) && decide (l < 40)) || (decide (64 ≤ l) && decide (l < 72))

/-- K(id, e) (R440): the id as 2 bytes and the epoch as 8. (Log 48: DESIGN CHOICE) -/
def linkKey (b : Boot) (l e : Nat) : List Byte :=
  shake (leBytes 32 ((b.lroot.getD 0#256).toNat) ++ leBytes 32 b.bootn.toNat ++ leBytes 2 l ++ leBytes 8 e) 32

/-- LKEY (R446): only H1 writes the key port. (Log 48: DESIGN CHOICE) -/
def execLkey (link : HartWrite 8) (s : State) : Out :=
  let b := s.hub.boot
  if link.hart ≠ 1 then .next s
  else .next (setBoot { b with seLink := link.x, seDone := false, seErr := false, seBusy := true, seBad := b.lroot.isNone || !linkIdOk link.x.toNat } s)

/-- A sealed link's two directions. -/
def sealOf (s : State) (l : Nat) : SealedLink := tabGet {} s.hub.seals l
/-- Replaces a sealed link. -/
def setSeal (l : Nat) (x : SealedLink) (s : State) : State := setHub s { s.hub with seals := tabSet {} s.hub.seals l x }

/-- The security engine, or a link taken down, raises H1's interrupt (R89, R442). (Log 56: DESIGN CHOICE) -/
def raiseH1 (s : State) : State := setHub s { s.hub with irq := s.hub.irq ||| 2#4 }

/-- LKEY_DONE (R446): K(id, 0) in both ends of the link and DONE, or ERR; the engine's event goes to H1. (Log 48: DESIGN CHOICE, 56: DESIGN CHOICE) -/
def execLkeyDone (s : State) : Out :=
  let b := s.hub.boot
  if !b.seBusy then .next s
  else if b.seBad then .next (raiseH1 (setBoot { b with seBusy := false, seErr := true } s))
  else
    let k := linkKey b b.seLink.toNat 0
    .next (raiseH1 (setSeal b.seLink.toNat { west := { key := k }, east := { key := k } } (setBoot { b with seBusy := false, seDone := true } s)))

/-- SE_LROOT_WRITE (R446): the one write that is accepted, of H1 alone. -/
def execSeLrootWrite (x : HartWrite 256) (s : State) : Out :=
  if x.hart ≠ 1 then .next s
  else .next (setBoot { s.hub.boot with lroot := if s.hub.boot.lroot.isNone then some x.x else s.hub.boot.lroot } s)

/-- Counter block `i` of the flit that a direction sends next (R439). -/
def counterBlock (l dir : Nat) (x : Seal) (i : Nat) : BitVec 128 := BitVec.ofNat 128 (x.count % 2 ^ 64 * 2 ^ 64 + l * 2 ^ 48 + dir * 2 ^ 47 + i)

/-- A flit of 64 bytes as the link carries it, with its mark EP, and the direction after it (R439, R442). (Log 48: DESIGN CHOICE) -/
def sealFlit (l dir : Nat) (x : Seal) (flit : List Byte) : List Byte × Bool × Seal :=
  (xorBytes flit ((List.range 4).flatMap fun i => leBytes 16 (Config.aes256 x.key (counterBlock l dir x i)).toNat), x.epoch % 2 == 1, { x with count := x.count + 1 })

/-- The tag of a run of four flits that begins at the direction's counter (R439). (Log 48: DESIGN CHOICE) -/
def runTag (l dir : Nat) (x : Seal) (cipher : List Byte) : BitVec 32 := (Config.gcmTag x.key (counterBlock l dir x 0) cipher).setWidth 32

/-- The key with which a receiver opens a flit of mark EP: that of its epoch, or the previous one's for a flit in flight across a rekey (R442). -/
def epochKey (x : Seal) (ep : Bool) : List Byte := if ep == (x.epoch % 2 == 1) then x.key else x.prev

/-- What crosses a port (R441): traffic of a session; of a queue, or of other agents, with a peer device; and an in-network collective packet of a queue. -/
inductive Traffic where
  | session (ep : Nat) (id : BitVec 32)
  | queue (v : Nat) (q : BitVec 8) (peer : Nat)
  | peer (n : Nat)
  | collective (v : Nat) (q : BitVec 8)
  deriving DecidableEq, Repr

/-- How a packet's payload crosses a port: sealed under a key of which as many flits have been sealed, unsealed, not yet, or never. -/
inductive Cover where
  | sealed (key : List Byte) (sent : Nat)
  | clear
  | waits
  | never
  deriving DecidableEq, Repr

/-- The pair key with a peer device at port `p`. -/
def pairKeyOf (s : State) (p n : Nat) : Option PairKey := tabGet none (tabGet ({} : Port) s.hub.ports p).pairKeys n

/-- How a packet crosses port `p` (R87, R441, R448): traffic between devices waits until the pair-key exchange with the peer has completed, and an in-network collective packet of a
queue with PROT = 1 is never emitted. -/
def portKey (s : State) (p : Nat) : Traffic → Cover
  | .session ep id => match (endpointOf s ep).sessions.find? fun x => x.id == id with
    | some x => .sealed x.key x.sent
    | none => .waits
  | .queue v q n => match pairKeyOf s p n with
    | none => .waits
    | some x =>
      let y := queueOf s v q
      if y.prot then (match tabGet none s.hub.keys y.kslot.toNat with
        | some k => .sealed (leBytes 32 k.1.toNat) (tabGet 0 s.hub.keysSent y.kslot.toNat)
        | none => .waits)
      else .sealed (leBytes 32 x.key.toNat) x.sent
  | .peer n => match pairKeyOf s p n with
    | some x => .sealed (leBytes 32 x.key.toNat) x.sent
    | none => .waits
  | .collective v q => if (queueOf s v q).prot then .never else .clear

/-- The key that covers a packet has sealed `k` flits more (R441). -/
def countSealed (p : Nat) (t : Traffic) (k : Nat) (s : State) : State :=
  let pair (n : Nat) : State :=
    let x := tabGet ({} : Port) s.hub.ports p
    setHub s { s.hub with ports := tabSet {} s.hub.ports p { x with pairKeys := tabSet none x.pairKeys n ((tabGet none x.pairKeys n).map fun y => { y with sent := y.sent + k }) } }
  match t with
  | .session ep id =>
    let x := endpointOf s ep
    setEndpoint ep { x with sessions := x.sessions.map fun (y : Session) => if y.id = id then { y with sent := y.sent + k } else y } s
  | .queue v q n =>
    let y := queueOf s v q
    if y.prot then setHub s { s.hub with keysSent := tabSet 0 s.hub.keysSent y.kslot.toNat (tabGet 0 s.hub.keysSent y.kslot.toNat + k) } else pair n
  | .peer n => pair n
  | .collective _ _ => s

/-- The flits of a packet's payload under a key, from counter `c` on (R439, R441). -/
def sealPayload (p : Nat) (key : List Byte) (c : Nat) : List (List Byte) → List Byte
  | [] => []
  | f :: fs => (sealFlit (64 + p) 0 { key := key, count := c } f).1 ++ sealPayload p key (c + 1) fs

/-- A packet's payload, cut into flits, as it leaves port `p`, with the state after it; none where it does not leave now (R441). (Log 48: DESIGN CHOICE) -/
def sealPacket (p : Nat) (t : Traffic) (flits : List (List Byte)) (s : State) : Option (List Byte × State) :=
  match portKey s p t with
  | .sealed key c => some (sealPayload p key c flits, countSealed p t flits.length s)
  | .clear => some (flits.flatten, s)
  | .waits => none
  | .never => none

/-- The next epoch of one direction (R442). -/
def rekey (b : Boot) (l : Nat) (x : Seal) : Seal := { key := linkKey b l (x.epoch + 1), prev := x.key, epoch := x.epoch + 1, count := 0 }

/-- The receiver of a direction accepts the first flit of a new epoch, and drops the previous epoch's key (R442). -/
def dropOld (now d : Nat) (x : Seal) : Seal := if x.prev.isEmpty then x else if Config.flitArrives now d then { x with prev := [] } else x

/-- Flits arrive on the sealed links that are up (R442). (Log 48: DESIGN CHOICE) -/
def flitsArrive (s : State) : State :=
  setHub s { s.hub with seals := s.hub.seals.map fun (l, x) =>
    (l, if x.down then x else { x with west := dropOld s.gtc (2 * l) x.west, east := dropOld s.gtc (2 * l + 1) x.east }) }

/-- A link that the retry gives up is down: it is ACTIVE no more (R442, R443, R445). -/
def takeDown (l : Nat) (s : State) : State :=
  if l < 18 then setHub s { s.hub with links := tabSet {} s.hub.links l { tabGet ({} : UcieLink) s.hub.links l with active := false } }
  else setHub s { s.hub with mcs := tabSet {} s.hub.mcs (l - 32) { tabGet ({} : MemCtl) s.hub.mcs (l - 32) with active := false } }

/-- LINK_REKEY (R442): the flit counter of a direction would wrap. (Log 48: DESIGN CHOICE) -/
def execLinkRekey (link dir : Nat) (s : State) : Out :=
  let x := sealOf s link
  if linkIdOk link = false then .next s
  else .next (setSeal link (if dir = 0 then { x with west := rekey s.hub.boot link x.west } else { x with east := rekey s.hub.boot link x.east }) s)

/-- LINK_TAG_MISMATCH (R442): a link resends, and 16 mismatches within 2^20 issue cycles take it down and interrupt H1; a port drops and counts the packet. (Log 48: DESIGN CHOICE) -/
def execLinkTagMismatch (link : Nat) (s : State) : Out :=
  if !linkIdOk link then .next s
  else if 64 ≤ link then
    let x := tabGet {} s.hub.ports (link - 64)
    .next (setHub s { s.hub with ports := tabSet {} s.hub.ports (link - 64) { x with droppedPkts := x.droppedPkts + 1 } })
  else
    let x := sealOf s link
    let ts := s.gtc :: x.mismatches.filter fun t => decide (s.gtc < t + 2 ^ 20)
    let s1 := setSeal link { x with mismatches := ts, down := x.down || decide (16 ≤ ts.length) } s
    .next (if 16 ≤ ts.length then takeDown link (raiseH1 s1) else s1)

/-- A link, port or memory controller raises H3's interrupt, if it exists (R89). (Log 56: DESIGN CHOICE) -/
def raiseH3 (there : Bool) (s : State) : State := if there then setHub s { s.hub with irq := s.hub.irq ||| 8#4 } else s

/-- H3 stops the boot with a cause, where it runs (R427, R444, R445). (Log 49: DEDUCED) -/
def stopBoot (err : BitVec 8) (s : State) : State :=
  if hartRuns s 3 && s.hub.boot.phase != 15#4 then setBoot { s.hub.boot with phase := 15#4, err := err } s else s

/-- What H3 makes of a completed step's failed channels: one failed alone leaves a DEGRADED device, all of them fail the boot (R444). (Log 49: DEDUCED) -/
def judgeStep (fail : BitVec 32) (s : State) : State :=
  if fail = BitVec.allOnes 32 then stopBoot 5#8 s
  else if fail ≠ 0#32 ∧ hartRuns s 3 = true ∧ s.hub.boot.phase ≠ 15#4 then setBoot { s.hub.boot with degraded := true } s
  else s

/-! ### Stacks' memory controllers (R443, R444) -/

/-- Links, stacks and ports are trained: not in a recovery boot (R430). -/
def trains (s : State) : Bool := s.hub.boot.phase != 6#4

/-- Changes the memory controller of stack `n`; there are eight. -/
def modMc (n : Nat) (f : MemCtl → MemCtl) (s : State) : State :=
  if n < 8 then setHub s { s.hub with mcs := tabSet {} s.hub.mcs n (f (tabGet {} s.hub.mcs n)) } else s

/-- STEP written with GO: a training step starts where the controller has power and is idle, but in no recovery boot (R430). (Log 49: DEDUCED) -/
def startStep (s : State) (k : BitVec 4) (x : MemCtl) : MemCtl := if trains s && x.pwrok && !x.busy then { x with step := k, busy := true, pass := false } else { x with step := k }

/-- MC_POWER (R443). -/
def execMcPower (n : Nat) (s : State) : Out := .next (modMc n (fun x => { x with pwr := true }) s)
/-- MC_PWROK (R443). -/
def execMcPwrok (n : Nat) (s : State) : Out := if trains s then .next (raiseH3 (n < 8) (modMc n (fun x => { x with pwrok := x.pwrok || x.pwr }) s)) else .next s
/-- MC_LANE_REPAIR (R443). -/
def execMcLaneRepair (n : Nat) (s : State) : Out := .next (modMc n (startStep s 1#4) s)
/-- MC_CA_TRAINING (R443). -/
def execMcCaTraining (n : Nat) (s : State) : Out := .next (modMc n (startStep s 2#4) s)
/-- MC_READ_TRAINING (R443). -/
def execMcReadTraining (n : Nat) (s : State) : Out := .next (modMc n (startStep s 3#4) s)
/-- MC_WRITE_TRAINING (R443). -/
def execMcWriteTraining (n : Nat) (s : State) : Out := .next (modMc n (startStep s 4#4) s)
/-- MC_EYE_CENTRING (R443). -/
def execMcEyeCentring (n : Nat) (s : State) : Out := .next (modMc n (startStep s 5#4) s)
/-- MC_REFRESH_SETUP (R443). -/
def execMcRefreshSetup (n : Nat) (s : State) : Out := .next (modMc n (startStep s 6#4) s)

/-- PASS of a step (R444): one that fails only on some channels passes, one that fails on every channel does not. -/
def stepPass (pass : Bool) (fail : BitVec 32) : Bool := if fail = BitVec.allOnes 32 then false else if fail = 0#32 then pass else true

/-- MC_STEP_COMPLETE (R443, R444). (Log 49: DEDUCED) -/
def execMcStepComplete (n : Nat) (pass : Bool) (fail : BitVec 32) (lanes : BitVec 16) (s : State) : Out :=
  let f (x : MemCtl) : MemCtl := if x.busy then { x with busy := false, pass := stepPass pass fail, fail := x.fail ||| fail, repair := x.repair ||| lanes } else x
  let s1 := raiseH3 (n < 8) (modMc n f s)
  if trains s then .next (if n < 8 ∧ (tabGet ({} : MemCtl) s.hub.mcs n).busy = true then judgeStep fail s1 else s1) else .next s

/-- MC_ENABLE (R443). -/
def execMcEnable (n : Nat) (s : State) : Out := .next (modMc n (fun x => { x with enable := true }) s)
/-- MC_ACTIVE (R443). -/
def execMcActive (n : Nat) (s : State) : Out := if trains s then .next (raiseH3 (n < 8) (modMc n (fun x => { x with active := x.active || (x.enable && x.pwrok) }) s)) else .next s

/-! ### UCIe links (R445) -/

/-- Changes UCIe link `l`; there are 18. -/
def modUl (l : Nat) (f : UcieLink → UcieLink) (s : State) : State :=
  if l < 18 then setHub s { s.hub with links := tabSet {} s.hub.links l (f (tabGet {} s.hub.links l)) } else s

/-- UL_SIDEBAND (R445). -/
def execUlSideband (l : Nat) (s : State) : Out := .next (modUl l (fun x => { x with sb := true }) s)
/-- UL_SBUP (R445). -/
def execUlSbup (l : Nat) (s : State) : Out := if trains s then .next (raiseH3 (l < 18) (modUl l (fun x => { x with sbup := x.sbup || x.sb }) s)) else .next s
/-- UL_TRAIN (R445). -/
def execUlTrain (l : Nat) (s : State) : Out := .next (modUl l (fun x => { x with train := true }) s)
/-- UL_ACTIVE (R445): a link that trains with fewer lanes than full width fails the boot. -/
def execUlActive (l : Nat) (lanes repaired : BitVec 8) (s : State) : Out :=
  let x : UcieLink := tabGet {} s.hub.links l
  let s1 := raiseH3 (l < 18) (modUl l (fun x => if x.train && x.sbup then { x with active := true, lanes := lanes, repaired := repaired } else x) s)
  if trains s then .next (if l < 18 ∧ (x.train && x.sbup) = true ∧ lanes.toNat < Config.fullWidth.toNat then stopBoot 4#8 s1 else s1) else .next s
/-- UL_ENABLE (R445). -/
def execUlEnable (l : Nat) (s : State) : Out := .next (modUl l (fun x => { x with enable := true }) s)

/-! ### Ethernet ports (R441, R447, R448) -/

/-- Changes port `p`; there are eight. -/
def modPort (p : Nat) (f : Port → Port) (s : State) : State :=
  if p < 8 then setHub s { s.hub with ports := tabSet {} s.hub.ports p (f (tabGet {} s.hub.ports p)) } else s

/-- PT_PLL (R447). -/
def execPtPll (p : Nat) (s : State) : Out := .next (modPort p (fun x => { x with pll := true }) s)
/-- PT_PLLLOCK (R447). -/
def execPtPlllock (p : Nat) (s : State) : Out := if trains s then .next (raiseH3 (p < 8) (modPort p (fun x => { x with pllLock := x.pllLock || x.pll }) s)) else .next s
/-- PT_TXEN (R447). -/
def execPtTxen (p : Nat) (s : State) : Out := .next (modPort p (fun x => { x with txen := true }) s)
/-- PT_LINK_TRAINING (R447). -/
def execPtLinkTraining (p : Nat) (s : State) : Out := .next (modPort p (fun x => { x with lt := true }) s)
/-- PT_LTDONE (R447). -/
def execPtLtdone (p : Nat) (cdr : BitVec 8) (s : State) : Out := if trains s then .next (raiseH3 (p < 8) (modPort p (fun x => if x.lt then { x with cdr := cdr, ltDone := true } else x) s)) else .next s
/-- PT_FECLOCK (R447). -/
def execPtFeclock (p : Nat) (s : State) : Out := if trains s then .next (raiseH3 (p < 8) (modPort p (fun x => if x.ltDone then { x with fecLock := true, align := true } else x) s)) else .next s
/-- PT_MAC (R447). -/
def execPtMac (p : Nat) (s : State) : Out := .next (modPort p (fun x => { x with mac := true }) s)
/-- PT_UP (R447). -/
def execPtUp (p : Nat) (s : State) : Out := if trains s then .next (raiseH3 (p < 8) (modPort p (fun x => { x with up := x.up || (x.mac && x.fecLock) }) s)) else .next s

/-- PT_FEC_READ (R447): the count of uncorrectable codewords since the last read, which is then 0. (Log 49: DEDUCED) -/
def execPtFecRead (p : Nat) (s : State) : Out :=
  if p < 8 then
    let n := (tabGet {} s.hub.ports p).fec + Config.fecCount s.freeCtr
    .next (answerRead (0x1000000D00010 + p * 0x1000) (n.setWidth 64) (modPort p (fun x => { x with fec := 0#32 }) (nextFree s)))
  else .next s

/-- PORT_RETRY (R448): H3 tries again a port that waits at step 5. -/
def execPortRetry (p : Nat) (s : State) : Out :=
  .next (modPort p (fun x => if x.lt && !x.ltDone then { x with pll := true, txen := true, lt := true, mac := false, cdr := 0#8 } else x) s)

/-- PAIR_KEY_EXCHANGE (R441, R448): H1 agrees a pair key with a peer device, whose counter starts at 0. -/
def execPairKeyExchange (p : PortPeer) (s : State) : Out :=
  if (tabGet {} s.hub.ports p.port).up then
    .next (modPort p.port (fun x => { x with pairKeys := tabSet none x.pairKeys p.peer (some { key := Config.pairKey s.freeCtr }) }) (nextFree s))
  else .next s

end Sys2Proof.Machine
end

