-- ==== Sys2Proof/Machine/Registers.lean ====
section
/-! DEFINITION. Registers that the management harts write (R5, R69, R93, R245, R270, R275, R284, R307, R340, R375, R384, R386, R423, R428, R443, R445, R447)
and the accounting reads (R423). A write to a read-only register, and to an address that holds none, is ignored (R5). -/

namespace Sys2Proof.Machine

/-! ### The rights block (R69) -/

/-- RGN_CMD: DONE is cleared and the command that OP names is carried out (R69, R425). An OP outside 1 to 8 does no more, so that DONE stays 0; a command while an RFREE still waits
runs at once. (Log 64: DESIGN CHOICE) -/
def regionCommand (x : BitVec 64) (s : State) : Out :=
  let s0 := setHub s { s.hub with rights := { s.hub.rights with staDone := false } }
  let id := x.extractLsb' 0 20
  let o := x.extractLsb' 0 12
  match bits x.toNat 56 8 with
  | 1 => execRegionQuery id s0
  | 2 => execRegionPurge id s0
  | 3 => execRegionFree id s0
  | 4 => execRegionAlloc id s0
  | 5 => execRegionRfree id s0
  | 6 => execOwnerPurge o s0
  | 7 => execOwnerCreate o s0
  | 8 => execOwnerDelete o s0
  | _ => .next s0

/-- A write in the rights block; the four table registers are fixed from the first heap access on. -/
def writeRights (off : Nat) (x : BitVec 64) (s : State) : Out :=
  let r := s.hub.rights
  let put (r : Rights) : Out := .next (setHub s { s.hub with rights := r })
  match off with
  | 0x00 => if r.locked then .next s else put { r with xltRoot := x.extractLsb' 0 50 }
  | 0x08 => if r.locked then .next s else put { r with ownTbl := x.extractLsb' 0 50 }
  | 0x10 => if r.locked then .next s else put { r with rgnTbl := x.extractLsb' 0 50 }
  | 0x18 => if r.locked then .next s else put { r with rgnCap := x.toNat }
  | 0x20 => execXltInv x s
  | 0x30 => regionCommand x s
  | 0x40 => put { r with arg0 := x }
  | 0x48 => put { r with arg1 := x }
  | _ => .next s

/-! ### The dispatch block (R93, R96, R101, R270, R340) -/

/-- Writes the events that wait, oldest first, while the ring has room (R101). (Log 10: DEDUCED) -/
def drainEvents (p : BitVec 3) : List (BitVec 128) → State → State
  | [], s => s
  | e :: es, s =>
    if ringFull (getPart s p) then setPart s p { getPart s p with evtWait := e :: es } else drainEvents p es (writeEvent p e s)

/-- Lets the waiting events of a partition into its ring. (Log 10: DEDUCED) -/
def drainRing (p : BitVec 3) (s : State) : State :=
  let w := (getPart s p).evtWait
  drainEvents p w (setPart s p { getPart s p with evtWait := [] })

/-- A bind tail as written: a value more than 256 beyond the head is ignored (R96). (Log 50: DEDUCED) -/
def bindTailOf (old head x : BitVec 32) : BitVec 32 := if 256 < (x - head).toNat then old else x

/-- A write in the dispatch block. -/
def writeDispatch (off : Nat) (x : BitVec 64) (s : State) : Out :=
  let w := x.setWidth 32
  if off < 0x200 then
    let p := BitVec.ofNat 3 (off / 0x40)
    let y := getPart s p
    match off % 0x40 with
    | 0x00 => execPartMapWrite p.toNat w s
    | 0x08 => .next (setPart s p { y with bindTail := bindTailOf y.bindTail y.bindHead w })
    | 0x18 => .next (drainRing p (setPart s p { y with evtBase := x.extractLsb' 12 38, evtLog := x.extractLsb' 0 4 }))
    | 0x28 => .next (drainRing p (setPart s p { y with evtHead := w }))
    | 0x30 => .next (setPart s p { y with slice := x.extractLsb' 0 24 })
    | _ => .next s
  else if off = 0x200 then .next (setHub s { s.hub with ovlp := s.hub.ovlp && !x.getLsbD 0 })
  else if 0x300 ≤ off ∧ off < 0x380 ∧ off % 16 = 0 then
    let p := BitVec.ofNat 3 ((off - 0x300) / 16)
    let y := getPart s p
    .next (setPart s p { y with cbindTail := bindTailOf y.cbindTail y.cbindHead w })
  else if 0x400 ≤ off ∧ off < 0x500 then
    let p := BitVec.ofNat 3 ((off - 0x400) / 32)
    let y := getPart s p
    match off % 32 with
    | 0x00 => .next (setPart s p { y with spnBase := x.extractLsb' 12 38, spnLog := x.extractLsb' 0 4 })
    | 0x08 => .next (setPart s p { y with spnTail := w })
    | _ => .next s
  else .next s

/-! ### Hints, the stacks' hart port, the governor (R275, R284, R307) -/

/-- A write of a hint register; HINT_HEAD keeps the low 32 bits. (Log 70: DESIGN CHOICE) -/
def writeHints (off : Nat) (x : BitVec 64) (s : State) : Out :=
  let h := s.hub.hints
  match off with
  | 0x00 => .next (setHub s { s.hub with hints := { h with base := x.extractLsb' 12 38, log := x.extractLsb' 0 4 } })
  | 0x10 => .next (setHub s { s.hub with hints := { h with head := x.setWidth 32 } })
  | _ => .next s

/-- A doubleword of a 512-bit register replaced. -/
def putDouble (d : BitVec 512) (i : Nat) (x : BitVec 64) : BitVec 512 :=
  (d &&& ~~~((BitVec.allOnes 64).setWidth 512 <<< (64 * i))) ||| (x.setWidth 512 <<< (64 * i))

/-- A write through the hart port of a stack galley (R284). -/
def writeStack (off : Nat) (x : BitVec 64) (s : State) : Out :=
  let g := off / 0x80
  let o := off % 0x80
  let y := stackGalley s g
  if o < 0x40 then .next (setStackGalley g { y with desc := putDouble y.desc (o / 8) x } s)
  else if o = 0x40 then
    match bits x.toNat 0 3 with
    | 0 => execGoSegmv g s
    | 1 => execGoSefil g s
    | 2 => execGoSecpy g s
    | 3 => execGoSecmp g s
    | 4 => execGoSered g s
    | _ => .next s
  else .next s

/-- A duty value as written; one outside 1 to 16 is not taken (R307). (Log 50: DEDUCED) -/
def dutyOf (old x : BitVec 5) : BitVec 5 := if x = 0#5 ∨ 16 < x.toNat then old else x

/-- GOV_DUTY of a die (R307). -/
def writeDuty (die : Nat) (x : BitVec 64) (s : State) : Out :=
  let d := tabGet {} s.dies die
  .next { s with dies := tabSet {} s.dies die { d with wideDuty := dutyOf d.wideDuty (x.extractLsb' 0 5), narrowDuty := dutyOf d.narrowDuty (x.extractLsb' 8 5) } }

/-! ### The stop registers (R375, R382) -/

/-- STOP_CMD (R375). -/
def stopCommand (p : Nat) (x : BitVec 64) (s : State) : Out :=
  match bits x.toNat 56 8 with
  | 1 => execStopArm p (x.getLsbD 16) (x.extractLsb' 8 8) s
  | 2 => execStopCancel p s
  | 3 => execStopResume p (x.getLsbD 17) (x.extractLsb' 0 6) s
  | _ => .next s

/-- Step 2 of R83: the outgoing virtual device's dealer positions, NEW continuations and slot bindings are written out. -/
def saveVdev (s : State) (v : Nat) (x : Vdev) : Vdev :=
  let mine (k : Cont) : Bool := k.vdev == v
  { x with
    savedCards := (List.range s.hub.cards.length).filterMap fun i => match cardAt s i with
      | some c => if c.vdev = v ∧ (c.st = .running ∨ c.st = .pending) then some (i, c.dealt) else none
      | none => none
    savedNew := (s.hub.conts.filter fun k => mine k && k.fresh).map (·.chrys)
    savedSlots := (s.hub.conts.filter mine).filterMap fun k => (boundAt s k.record).map fun (u, i) => (u, i, k.record) }

/-- The next state of an answer; a stop leaves the state as it is. -/
def stateOf (s : State) : Out → State
  | .next t => t
  | _ => s

/-- Where H0 keeps the queue state of a virtual device that is not resident: 24 bytes of counts, then the entries (R83). (Log 45: DESIGN CHOICE) -/
def saveArea (v : Nat) : Nat := (Config.queueSave v).toNat * 4096

/-- The queue state of a virtual device as H0 writes it: the three counts; a card's number and position; a NEW continuation's chrysalis address; a slot's unit and number, and its
continuation's record. (Log 45: DESIGN CHOICE) -/
def saveBytes (x : Vdev) : List Byte :=
  leBytes 8 x.savedCards.length ++ leBytes 8 x.savedNew.length ++ leBytes 8 x.savedSlots.length
    ++ (x.savedCards.flatMap fun e => leBytes 8 e.1 ++ leBytes 8 e.2) ++ (x.savedNew.flatMap fun a => leBytes 8 a.toNat)
    ++ x.savedSlots.flatMap fun e => leBytes 4 e.1 ++ leBytes 4 e.2.1 ++ leBytes 8 e.2.2.toNat

/-- The first `n` dealer positions that were written out are taken up again (R83). -/
def restoreCards (a : Nat) (s : State) : Nat → State
  | 0 => s
  | n + 1 => modCard (getLe s.mem (a + 24 + 16 * n) 8) (fun c => { c with dealt := getLe s.mem (a + 32 + 16 * n) 8 }) (restoreCards a s n)

/-- PWORD as a unit takes it (R91). -/
def wordFor (u : Nat) (x : BitVec 13) : BitVec 13 :=
  if isCompute u then x else BitVec.ofNat 13 (min (x.extractLsb' 8 5).toNat 15 * 2 ^ 8)

/-- H0 writes PW_SET of every core of the partition on which the virtual device has had no continuation bound yet (R91, R243). -/
def writeWords (p : BitVec 3) (v : Nat) (s : State) : State :=
  let x := vdevOf s v
  let qs := (getPart s p).map &&& ~~~x.worded
  let us := if qs = 0#32 then [] else (List.range 4368).filter fun u => !isFabric u && qs.getLsbD (quadOf u)
  setVdev v { x with worded := x.worded ||| qs } (us.foldl (fun s u => stateOf s (execPwSetWrite u (wordFor u x.pword) s)) s)

/-- A virtual device as a partition's COLOUR becomes `c`: it is resident if that is its colour; one that stops being resident has its queue state written out first (R83). -/
def turnVdev (s : State) (p : BitVec 3) (c : BitVec 6) (v : Nat) (x : Vdev) : Vdev :=
  if x.part = p ∧ x.live = true then
    if x.colour = c then { x with resident := true, gated := false, ran := x.ran || !(getPart s p).halted } else if x.resident then { saveVdev s v x with resident := false } else x
  else x

/-- The virtual device of a partition with a colour. -/
def vdevColoured (s : State) (p : BitVec 3) (c : BitVec 6) : Option Vdev := (s.hub.vdevs.find? fun e => e.2.live && e.2.part == p && e.2.colour == c).map (·.2)

/-- COLOUR names the virtual device that is resident in the partition: H0 writes it whenever one becomes resident, with its VT_MODE (R91, R375, R437), and, for one that
has never run and becomes resident in a partition that does not count as resident, VT_BASE := 0 and VT_GTC := GTC (R382). (Log 45: DESIGN CHOICE, 61: DESIGN CHOICE) -/
def setColour (p : BitVec 3) (c : BitVec 6) (s : State) : State :=
  let x := { getPart s p with colour := c }
  let y := match vdevColoured s p c with
    | none => x
    | some d =>
      let z := { x with vtWall := d.wall }
      if d.ran || x.halted then z else { z with vtBase := 0#64, vtGtc := BitVec.ofNat 64 s.gtc }
  let s1 := setPart s p y
  let s2 := setHub s1 { s1.hub with vdevs := s1.hub.vdevs.map fun (v, d) => (v, turnVdev s p c v d) }
  s.hub.vdevs.foldl (fun s (v, d) =>
    if d.part ≠ p ∨ d.live = false then s
    else if d.colour = c then (if d.resident then s else writeWords p v (restoreCards (saveArea v) s d.savedCards.length))
    else if d.resident then { s with mem := setBytes s.mem (saveArea v) (saveBytes (vdevOf s v)) } else s) s2

/-- A write of a partition's stop registers; COLOUR and virtual time only while the partition is halted or not resident (R90, R375, R382). -/
def writeStop (p : Nat) (off : Nat) (x : BitVec 64) (s : State) : Out :=
  let q := BitVec.ofNat 3 p
  let y := getPart s q
  let free := y.halted || !residentPart s q
  match off with
  | 0x00 => .next (setPart s q { y with stopGtc := x })
  | 0x08 => stopCommand p x s
  | 0x18 => if free then .next (setColour q (x.extractLsb' 0 6) s) else .next s
  | 0x20 => .next (setPart s q { y with spill := x.extractLsb' 21 29 })
  | 0x28 => if free then .next (setPart s q { y with vtBase := x }) else .next s
  | 0x30 => if free then .next (setPart s q { y with vtGtc := x }) else .next s
  | 0x38 => .next (setPart s q { y with vtWall := x.getLsbD 0 })
  | _ => .next s

/-! ### The watchdog, debug and accounting blocks (R384, R386, R423) -/

/-- IVL of a queue (R384). -/
def writeWatchdog (off : Nat) (x : BitVec 64) (s : State) : Out :=
  let k := off / 16
  if off % 16 = 0 then .next (setHub s { s.hub with queues := tabSet {} s.hub.queues k { tabGet {} s.hub.queues k with ivl := x.setWidth 32 } }) else .next s

/-- HG_CTL of a group: its fields, then HALT or RESUME (R386, R387). -/
def writeHaltGroup (g : Nat) (x : BitVec 64) (s : State) : Out :=
  let s1 := setHaltGroup g { haltGroupOf s g with xv := x.getLsbD 16, xg := x.extractLsb' 8 8, armed := x.getLsbD 2 } s
  if x.getLsbD 0 then execHgHalt g s1 else if x.getLsbD 1 then execHgResume g s1 else .next s1

/-- HG_OF of a unit: V and G, which stays where V is 0 (R386). -/
def hgOfWord (s : State) (u : Nat) : Word :=
  match tabGet none s.hub.hgOf u with
  | some g => g.setWidth 64 + 0x80#64
  | none => (tabGet 0#6 s.hub.hgIdle u).setWidth 64

/-- A write in the debug block. -/
def writeDebug (off : Nat) (x : BitVec 64) (s : State) : Out :=
  if off < 0x200 ∧ off % 8 = 0 then writeHaltGroup (off / 8) x s
  else if 0x1000 ≤ off ∧ off < 0x1000 + 8 * 4368 ∧ off % 8 = 0 then
    .next (setHub s { s.hub with hgOf := tabSet none s.hub.hgOf ((off - 0x1000) / 8) (if x.getLsbD 7 then some (x.extractLsb' 0 6) else none)
                                 hgIdle := tabSet 0#6 s.hub.hgIdle ((off - 0x1000) / 8) (if x.getLsbD 7 then 0#6 else x.extractLsb' 0 6) })
  else .next s

/-- A write in the accounting block. -/
def writeAcct (off : Nat) (x : BitVec 64) (s : State) : Out :=
  let a := s.hub.acct
  if h : off / 8 < 8 then
    if off % 8 = 0 then .next (setHub s { s.hub with acct := { a with w := a.w.set (off / 8) (x.extractLsb' 0 24) h } }) else .next s
  else if off = 0x40 then .next (setHub s { s.hub with acct := { a with sw := x.extractLsb' 0 24, swc := x.extractLsb' 24 24 } })
  else .next s

/-- ACCT_E_READ (R423): the sum, which is then 0. -/
def execAcctERead (v : Nat) (s : State) : Out :=
  let a := s.hub.acct
  .next (answerRead (0x1000000900100 + 16 * v) (tabGet 0#64 a.total v) (setHub s { s.hub with acct := { a with total := tabSet 0#64 a.total v 0#64 } }))

/-- ACCT_LATE_READ (R423): the late charges in counts with the fraction dropped, which are then 0. -/
def execAcctLateRead (v : Nat) (s : State) : Out :=
  let a := s.hub.acct
  let x := min (2 ^ 64 - 1) (tabGet 0 a.late v / 4096)
  .next (answerRead (0x1000000900108 + 16 * v) (BitVec.ofNat 64 x) (setHub s { s.hub with acct := { a with late := tabSet 0 a.late v 0 } }))

/-! ### Bring-up (R428, R430, R443, R445, R447) -/

/-- A write of MC_CTL or MC_CFG of a stack. -/
def writeMc (n off : Nat) (x : BitVec 64) (s : State) : Out :=
  match off with
  | 0x00 =>
    let s1 := modMc n (fun y => { y with pwr := x.getLsbD 0, enable := x.getLsbD 1, step := x.extractLsb' 2 4 }) s
    if x.getLsbD 6 then .next (modMc n (startStep s (x.extractLsb' 2 4)) s1) else .next s1
  | 0x10 => .next (modMc n (fun y => { y with rate := x.extractLsb' 0 8 }) s)
  | _ => .next s

/-- A write of UL_CTL of a link. -/
def writeUl (l off : Nat) (x : BitVec 64) (s : State) : Out :=
  if off = 0 then .next (modUl l (fun y => { y with sb := x.getLsbD 0, train := x.getLsbD 1, enable := x.getLsbD 2 }) s) else .next s

/-- A write of PT_CTL of a port. -/
def writePort (p off : Nat) (x : BitVec 64) (s : State) : Out :=
  if off = 0 then .next (modPort p (fun y => { y with pll := x.getLsbD 0, txen := x.getLsbD 1, lt := x.getLsbD 2, mac := x.getLsbD 3 }) s) else .next s

/-! ### REGISTER_WRITE -/

/-- A hart's store of 8 bytes to physical memory: a stack's, or a bind ring's (R48, R94, R270, R311). (Log 12: DEDUCED) -/
def writePhysical (a : Nat) (x : BitVec 64) (s : State) : State := { noteSpan (hubOpen 2 a true) 8 a s with mem := setLe s.mem a 8 x.toNat }

/-- The address lies in a bind ring or in memory, which harts write as bytes. (Log 12: DEDUCED) -/
def plainStore (a : Nat) : Bool :=
  physOk a || (decide (0x1000001080000 ≤ a) && decide (a < 0x1000001088000)) || (decide (0x1000001900000 ≤ a) && decide (a < 0x1000001908000))

/-- A write in a block of HD0 at its offset from 0x1_0000_0000_0000. (Log 50: DEDUCED) -/
def writeBlock (o : Nat) (x : BitVec 64) (s : State) : Out :=
  if 0x100000 ≤ o ∧ o < 0x101000 then writeRights (o - 0x100000) x s
  else if 0x200000 ≤ o ∧ o < 0x201000 then writeDispatch (o - 0x200000) x s
  else if 0x280000 ≤ o ∧ o < 0x280000 + 8 * 4368 ∧ o % 8 = 0 then execPwSetWrite ((o - 0x280000) / 8) (x.extractLsb' 0 13) s
  else if 0x300000 ≤ o ∧ o < 0x301000 then writeHints (o - 0x300000) x s
  else if 0x400000 ≤ o ∧ o < 0x408000 ∧ o % 8 = 0 then writeStack (o - 0x400000) x s
  else if 0x508000 ≤ o ∧ o < 0x508040 ∧ o % 8 = 0 then writeDuty ((o - 0x508000) / 8) x s
  else if 0x600000 ≤ o ∧ o < 0x600200 then writeStop ((o - 0x600000) / 0x40) (o % 0x40) x s
  else if 0x700000 ≤ o ∧ o < 0x740000 then writeWatchdog (o - 0x700000) x s
  else if 0x800000 ≤ o ∧ o < 0x900000 then writeDebug (o - 0x800000) x s
  else if 0x900000 ≤ o ∧ o < 0x901000 then writeAcct (o - 0x900000) x s
  else if o = 0xA00018 then execPufLock x s
  else if o = 0xA00020 then .next (setBoot { s.hub.boot with seg15 := x.extractLsb' 12 38 } s)
  else if o = 0xA00028 then execCoreRel x s
  else if o = 0xA20000 then (if s.hub.boot.phase = 6#4 then .next (setBoot { s.hub.boot with fpAddr := x.setWidth 32 } s) else .next s)
  else if o = 0xA20008 then execFpData x s
  else if o = 0xA20010 then execFpErase s
  else if 0xB00000 ≤ o ∧ o < 0xB08000 then writeMc ((o - 0xB00000) / 0x1000) (o % 0x1000) x s
  else if 0xC00000 ≤ o ∧ o < 0xC01200 then writeUl ((o - 0xC00000) / 0x100) (o % 0x100) x s
  else if 0xD00000 ≤ o ∧ o < 0xD08000 then writePort ((o - 0xD00000) / 0x1000) (o % 0x1000) x s
  else .next s

/-- REGISTER_WRITE (R5): a hart's write of 8 bytes at a physical address. A write of a register whose row names the writing hart (BOOT_SET, HART_RUN, the key port) is that row's alone. (Log 50: DEDUCED) -/
def execRegisterWrite (addr x : BitVec 64) (s : State) : Out :=
  let a := addr.toNat
  if plainStore a then .next (writePhysical a x s)
  else if 0x1000000000000 ≤ a ∧ a < 0x2000000000000 then writeBlock (a - 0x1000000000000) x s
  else .next s

end Sys2Proof.Machine
end

