-- ==== Sys2Proof/Machine/Reads.lean ====
section
/-! DEFINITION. What the management harts read (R5, R69, R93, R94, R101, R245, R270, R275, R284, R307, R340, R375, R384, R386, R390, R423, R428 to R430, R443, R445 to R447): every
readable register as a view of the state, and the external interrupt that each hart sees (R89). A write-only register and an address that holds none read 0. -/

namespace Sys2Proof.Machine

/-- A word of fields, each with its place. -/
def fieldsOf (fs : List (Nat × Nat)) : Word := BitVec.ofNat 64 ((fs.map fun f => f.1 * 2 ^ f.2).sum)

/-- RGN_STA (R69). -/
def rgnSta (r : Rights) : Word :=
  fieldsOf [(r.staInfl.toNat, 0), (r.staRefs.toNat, 16), (r.staGen.toNat, 32), (r.staState.toNat, 58), (r.staErr.toNat, 60), (boolNat r.staDone, 63)]

/-- A read in the rights block (R69). -/
def readRights (off : Nat) (r : Rights) : Word :=
  match off with
  | 0x00 => r.xltRoot.setWidth 64
  | 0x08 => r.ownTbl.setWidth 64
  | 0x10 => r.rgnTbl.setWidth 64
  | 0x18 => BitVec.ofNat 64 r.rgnCap
  | 0x28 => fieldsOf [(boolNat r.xltBusy, 0)]
  | 0x38 => rgnSta r
  | 0x40 => r.arg0
  | 0x48 => r.arg1
  | _ => 0#64

/-- A ring's base register: the page in bits [49:12] and the logarithm of its length in bits [3:0]. -/
def ringReg (base : BitVec 38) (log : BitVec 4) : Word := fieldsOf [(log.toNat, 0), (base.toNat, 12)]

/-- A read in the dispatch block (R93, R270, R340). -/
def readDispatch (off : Nat) (s : State) : Word :=
  if off < 0x200 then
    let y := getPart s (BitVec.ofNat 3 (off / 0x40))
    match off % 0x40 with
    | 0x00 => y.map.setWidth 64
    | 0x08 => y.bindTail.setWidth 64
    | 0x10 => y.bindHead.setWidth 64
    | 0x18 => ringReg y.evtBase y.evtLog
    | 0x20 => y.evtTail.setWidth 64
    | 0x28 => y.evtHead.setWidth 64
    | 0x30 => y.slice.setWidth 64
    | _ => 0#64
  else if off = 0x200 then fieldsOf [(boolNat s.hub.ovlp, 0)]
  else if 0x300 ≤ off ∧ off < 0x380 then
    let y := getPart s (BitVec.ofNat 3 ((off - 0x300) / 16))
    if off % 16 = 0 then y.cbindTail.setWidth 64 else if off % 16 = 8 then y.cbindHead.setWidth 64 else 0#64
  else if 0x400 ≤ off ∧ off < 0x500 then
    let y := getPart s (BitVec.ofNat 3 ((off - 0x400) / 32))
    match off % 32 with
    | 0x00 => ringReg y.spnBase y.spnLog
    | 0x08 => y.spnTail.setWidth 64
    | 0x10 => y.spnHead.setWidth 64
    | _ => 0#64
  else 0#64

/-- SST of a slot (R98). -/
def sstCode : SlotState → Nat
  | .empty => 0 | .bound => 1 | .loaded => 2 | .evicting => 3

/-- Entry `i` of a core in the slot status array (R94); an EMPTY slot shows none of its last occupant's fields. -/
def slotEntry (c : Core) (i : Nat) : BitVec 128 :=
  let x := slotOf c i
  if x.sst = .empty then 0#128
  else BitVec.ofNat 128 (x.tag.toNat + x.seqNo.toNat * 2 ^ 32 + sstCode x.sst * 2 ^ 64 + x.prio.toNat * 2 ^ 68 + boolNat x.pin * 2 ^ 70
    + boolNat (c.issuing == some (BitVec.ofNat 3 i)) * 2 ^ 71 + x.cont.toNat / 64 * 2 ^ 72)

/-- A read of 8 bytes of a slot status array whose first unit is `u0` (R94, R270). -/
def readSlots (u0 off : Nat) (s : State) : Word := (slotEntry (getCore s (u0 + off / 128)) (off / 16 % 8)).extractLsb' (off % 16 * 8) 64

/-- PW_SET of a unit (R245). -/
def pwSetWord (x : PwSet) : Word := fieldsOf [(x.value.toNat, 0), (boolNat x.bad, 62), (boolNat x.pend, 63)]

/-- A read of a hint register but HINT_DROP, whose read clears it (R275). -/
def readHints (off : Nat) (h : Hints) : Word :=
  match off with
  | 0x00 => ringReg h.base h.log
  | 0x08 => h.tail.setWidth 64
  | 0x10 => h.head.setWidth 64
  | 0x18 => h.drop
  | _ => 0#64

/-- GOV_DUTY of a die (R307). -/
def dutyWord (d : Die) : Word := fieldsOf [(d.wideDuty.toNat, 0), (d.narrowDuty.toNat, 8)]

/-- A read of a partition's stop registers (R375). -/
def readStop (p off : Nat) (s : State) : Word :=
  let q := BitVec.ofNat 3 p
  let y := getPart s q
  match off with
  | 0x00 => y.stopGtc
  | 0x10 => stopSta s q
  | 0x18 => y.colour.setWidth 64
  | 0x20 => fieldsOf [(y.spill.toNat, 21)]
  | 0x28 => y.vtBase
  | 0x30 => y.vtGtc
  | 0x38 => fieldsOf [(boolNat y.vtWall, 0)]
  | _ => 0#64

/-- A read of a queue's watchdog entry (R384). -/
def readWatchdog (off : Nat) (s : State) : Word :=
  let x := tabGet {} s.hub.queues (off / 16)
  if off % 16 = 0 then x.ivl.setWidth 64 else if off % 16 = 8 then BitVec.ofNat 64 x.wdLast else 0#64

/-- HG_CTL of a group (R386). -/
def hgCtl (g : HaltGroup) : Word := fieldsOf [(boolNat g.armed, 2), (g.xg.toNat, 8), (boolNat g.xv, 16), (boolNat g.halted, 63)]

/-- A read in the debug block (R386). -/
def readDebug (off : Nat) (s : State) : Word :=
  if off % 8 ≠ 0 then 0#64
  else if off < 0x200 then hgCtl (haltGroupOf s (off / 8))
  else if 0x1000 ≤ off ∧ off < 0x1000 + 8 * 4368 then hgOfWord s ((off - 0x1000) / 8)
  else 0#64

/-- A read of a weight (R423). -/
def readAcct (off : Nat) (a : Acct) : Word :=
  if off < 0x40 then (if off % 8 = 0 then (a.w.getD (off / 8) 0#24).setWidth 64 else 0#64)
  else if off = 0x40 then fieldsOf [(a.sw.toNat, 0), (a.swc.toNat, 24)]
  else if 0x100 ≤ off then
    let v := (off - 0x100) / 16
    if off % 16 = 0 then tabGet 0#64 a.total v else if off % 16 = 8 then BitVec.ofNat 64 (min (2 ^ 64 - 1) (tabGet 0 a.late v / 4096)) else 0#64
  else 0#64

/-- Cores out of reset: what CORE_STA shows (R428). -/
def coresOut (s : State) : Nat := (List.range 4368).countP fun u => (getCore s u).released

/-- A read in the boot block (R428): BOOTN reads 0 once PUF_LOCK is 1. -/
def readBoot (off : Nat) (s : State) : Word :=
  let b := s.hub.boot
  let shown := [(b.phase.toNat, 0), (b.err.toNat, 8), (boolNat b.degraded, 16)]
  match off with
  | 0x00 => fieldsOf (shown ++ [(boolNat b.recov, 17)])
  | 0x08 => fieldsOf shown
  | 0x18 => fieldsOf [(boolNat b.pufLock, 0)]
  | 0x20 => fieldsOf [(b.seg15.toNat, 12)]
  | 0x30 => BitVec.ofNat 64 (coresOut s % 2 ^ 13)
  | _ => if 0x38 ≤ off ∧ off < 0x58 ∧ off % 8 = 0 ∧ b.pufLock = false then b.bootn.extractLsb' (8 * (off - 0x38)) 64 else 0#64

/-- A read in the PUF window: the SRAM's power-up contents until PUF_LOCK is set, then 0 (R429). -/
def readPuf (off : Nat) (b : Boot) : Word :=
  if b.pufLock then 0#64 else BitVec.ofNat 64 (leNat ((List.range 8).map fun i => Config.pufByte b.powerUps (off + i)))

/-- A read of the security engine's key port (R446): SE_UDS reads 0 once PUF_LOCK is 1. The spec gives SE_UDS one offset for a seed of 32 bytes; its doublewords follow one another. (Log 71: DESIGN CHOICE) -/
def readSe (off : Nat) (b : Boot) : Word :=
  if off = 0x08 then fieldsOf [(boolNat b.seDone, 0), (boolNat b.seErr, 1)]
  else if 0x40 ≤ off ∧ off < 0x60 ∧ off % 8 = 0 ∧ b.pufLock = false then BitVec.ofNat 64 (leNat ((b.uds.drop (off - 0x40)).take 8))
  else 0#64

/-- A read of a memory controller (R443). -/
def readMc (off : Nat) (x : MemCtl) : Word :=
  match off with
  | 0x00 => fieldsOf [(boolNat x.pwr, 0), (boolNat x.enable, 1), (x.step.toNat, 2)]
  | 0x08 => fieldsOf [(boolNat x.pwrok, 0), (boolNat x.busy, 1), (boolNat x.pass, 2), (boolNat x.active, 3)]
  | 0x10 => x.rate.setWidth 64
  | 0x18 => x.fail.setWidth 64
  | 0x20 => x.repair.setWidth 64
  | _ => 0#64

/-- A read of a UCIe link (R445). -/
def readUl (off : Nat) (x : UcieLink) : Word :=
  match off with
  | 0x00 => fieldsOf [(boolNat x.sb, 0), (boolNat x.train, 1), (boolNat x.enable, 2)]
  | 0x08 => fieldsOf [(boolNat x.sbup, 0), (boolNat x.active, 1), (x.lanes.toNat, 8), (x.repaired.toNat, 16)]
  | _ => 0#64

/-- A read of a port but PT_FEC, whose read clears it (R447). -/
def readPort (off : Nat) (x : Port) : Word :=
  match off with
  | 0x00 => fieldsOf [(boolNat x.pll, 0), (boolNat x.txen, 1), (boolNat x.lt, 2), (boolNat x.mac, 3)]
  | 0x08 => fieldsOf [(boolNat x.pllLock, 0), (x.cdr.toNat, 8), (boolNat x.ltDone, 16), (boolNat x.fecLock, 17), (boolNat x.align, 18), (boolNat x.up, 19)]
  | 0x10 => x.fec.setWidth 64
  | _ => 0#64

/-- A read in a block of HD0 at its offset from 0x1_0000_0000_0000. -/
def readBlock (o : Nat) (s : State) : Word :=
  if o = 0 then BitVec.ofNat 64 s.gtc
  else if 0x100000 ≤ o ∧ o < 0x101000 then readRights (o - 0x100000) s.hub.rights
  else if 0x200000 ≤ o ∧ o < 0x201000 then readDispatch (o - 0x200000) s
  else if 0x280000 ≤ o ∧ o < 0x280000 + 8 * 4368 ∧ o % 8 = 0 then pwSetWord (getCore s ((o - 0x280000) / 8)).pw
  else if 0x300000 ≤ o ∧ o < 0x301000 then readHints (o - 0x300000) s.hub.hints
  else if 0x400000 ≤ o ∧ o < 0x408000 then (if o % 0x80 = 0x48 then stackStatus (stackGalley s ((o - 0x400000) / 0x80)) else 0#64)
  else if 0x500000 ≤ o ∧ o < 0x508000 ∧ o % 8 = 0 then galleyStatus s ((o - 0x500000) / 8)
  else if 0x508000 ≤ o ∧ o < 0x508040 ∧ o % 8 = 0 then dutyWord (tabGet {} s.dies ((o - 0x508000) / 8))
  else if 0x600000 ≤ o ∧ o < 0x600200 then readStop ((o - 0x600000) / 0x40) (o % 0x40) s
  else if 0x601000 ≤ o ∧ o < 0x601200 ∧ o % 8 = 0 then BitVec.ofNat 64 (colourCount s (BitVec.ofNat 6 ((o - 0x601000) / 8)) % 2 ^ 32)
  else if 0x700000 ≤ o ∧ o < 0x740000 then readWatchdog (o - 0x700000) s
  else if 0x800000 ≤ o ∧ o < 0x900000 then readDebug (o - 0x800000) s
  else if 0x900000 ≤ o ∧ o < 0x901000 then readAcct (o - 0x900000) s.hub.acct
  else if 0xA00000 ≤ o ∧ o < 0xA01000 then readBoot (o - 0xA00000) s
  else if 0xA10000 ≤ o ∧ o < 0xA12000 ∧ o % 8 = 0 then readPuf (o - 0xA10000) s.hub.boot
  else if o = 0xA20018 then fieldsOf [(boolNat s.hub.boot.fpBusy, 0)]
  else if 0xA80000 ≤ o ∧ o < 0xA81000 then readSe (o - 0xA80000) s.hub.boot
  else if 0xB00000 ≤ o ∧ o < 0xB08000 then readMc (o % 0x1000) (tabGet {} s.hub.mcs ((o - 0xB00000) / 0x1000))
  else if 0xC00000 ≤ o ∧ o < 0xC01200 then readUl (o % 0x100) (tabGet {} s.hub.links ((o - 0xC00000) / 0x100))
  else if 0xD00000 ≤ o ∧ o < 0xD08000 then readPort (o % 0x1000) (tabGet {} s.hub.ports ((o - 0xD00000) / 0x1000))
  else if 0x1000000 ≤ o ∧ o < 0x1080000 ∧ o % 8 = 0 then readSlots 0 (o - 0x1000000) s
  else if 0x1800000 ≤ o ∧ o < 0x1800000 + 272 * 128 ∧ o % 8 = 0 then readSlots 4096 (o - 0x1800000) s
  else 0#64

/-- What a hart reads in 8 bytes at a physical address (R48, R427): memory, a bind ring, the boot flash's window, or a register. The fields that a read clears are cleared by the
rows of their own. (Log 71: DESIGN CHOICE) -/
def hartRead (s : State) (addr : Word) : Word :=
  let a := addr.toNat
  if plainStore a || (decide (flashBase ≤ a) && decide (a < flashBase + 2 ^ 26)) then BitVec.ofNat 64 (getLe s.mem a 8)
  else if 0x1000000000000 ≤ a ∧ a < 0x2000000000000 then readBlock (a - 0x1000000000000) s
  else 0#64

/-- mhartid (R89). -/
def mhartid (h : Fin 4) : Word := BitVec.ofNat 64 h.val

/-- Hart `h`'s machine external interrupt (R89): H0's while an event ring holds records not yet consumed, or a hint has been written (R101, R275); H1's from the security engine or a
link taken down (R442); H3's from link and memory controllers. H2's endpoint receive queues are empty between steps, since a command is carried out in the step that receives it. -/
def hartExt (s : State) (h : Fin 4) : Bool :=
  match h with
  | 0 => s.hub.irq.getLsbD 0 || (List.range 8).any fun p => (getPart s (BitVec.ofNat 3 p)).evtTail != (getPart s (BitVec.ofNat 3 p)).evtHead
  | 1 => s.hub.irq.getLsbD 1
  | 2 => false
  | 3 => s.hub.irq.getLsbD 3

end Sys2Proof.Machine
end

