-- ==== Sys2Proof/Machine/Firmware.lean ====
section
/-! DEFINITION. The shipped firmware's tasks that wait for something (R83, R85, R92, R324, R325, R385, R426): the reset of a queue, stopping a virtual device for good, removing
one; and the issue cycle, in which each does what it can. -/

namespace Sys2Proof.Machine

/-- Another task for the firmware. -/
def addJob (j : Job) (s : State) : State := setHub s { s.hub with jobs := s.hub.jobs ++ [j] }

/-! ### The reset of a queue (R385) -/

/-- Steps 2 to 5 of R385, as far as they can be taken now: the next stage, none once the queue is CLOSED. A virtual device that is not resident has nothing to stop.
(Log 62: DESIGN CHOICE) -/
def resetStep (v : Nat) (q : BitVec 8) (st : ResetStage) (s : State) : Option ResetStage × State :=
  let p := (vdevOf s v).part
  let x := getPart s p
  match st with
  | .arm =>
    if (queueOf s v q).st ≠ .resetting then (none, s)
    else if !(vdevOf s v).resident || (partUnits s p).isEmpty then (some .close, s)
    else if x.armed || x.halted then (some .arm, s)
    else (some .poll, stateOf s (execStopArm p.toNat true q (setPart s p { x with stopGtc := BitVec.ofNat 64 (s.gtc + 8192) })))
  | .poll =>
    if x.late then (some .arm, s)
    else if x.swept then (some .close, stateOf s (execStopResume p.toNat true x.colour s))
    else if x.armed || x.halted then (some .poll, s)
    else (some .arm, s)
  | .close =>
    let s1 := stateOf s (execResetComplete v q.toNat s)
    (if (queueOf s1 v q).st = .resetting then some .close else none, s1)

/-! ### Stopping a virtual device for good (R85, R325) -/

/-- An owner that another live virtual device's endpoint or queue names (R70). -/
def sharedOwner (s : State) (v : Nat) (o : BitVec 12) : Bool := s.hub.vdevs.any fun e => e.1 != v && e.2.live && (e.2.owner == o || e.2.owners.contains o)

/-- The owners that are a virtual device's alone. (Log 62: DESIGN CHOICE) -/
def ownersOf (s : State) (v : Nat) : List (BitVec 12) := (vdevOf s v).owners.filter fun o => !sharedOwner s v o

/-- A core still has a write of an owner on its way. -/
def coreWrites (os : List (BitVec 12)) (c : Core) : Bool :=
  (c.journal.toList.any fun e => match e with | some x => x.held.isNone && os.contains x.owner | none => false)
    || (match c.amo with | some f => os.contains f.owner | none => false)
    || (c.copies.any fun x => !x.ended && os.contains x.owner) || c.galley.entries.any fun e => os.contains e.owner

/-- Some write of an agent acting for the owners is neither performed nor refused (R325 step 1). -/
def writesOut (s : State) (os : List (BitVec 12)) : Bool :=
  (liveUnits s).any (fun u => coreWrites os (getCore s u)) || s.galleys.any fun g => g.2.entries.any fun e => os.contains e.owner

/-- The packets of a colour that lie in a spill area are discarded: the continuations that sent them have ended (R380, R88). -/
def dropParked (c : BitVec 6) (s : State) : State :=
  let mine (w : Option Spill) : Bool := match w with | some (_, d) => d == c | none => false
  let f (x : Core) : Core :=
    { x with log := x.log.map fun e => e.bind fun (y : LogEntry) => if mine y.swept then none else some y
             journal := x.journal.map fun e => e.bind fun (y : JnlEntry) => if mine y.swept then none else some y }
  countDiscarded (s.net.filter fun m => mine m.swept)
    { s with core := f s.core, others := s.others.map fun (u, x) => (u, f x), net := s.net.filter fun m => !mine m.swept }

/-- Queues of a virtual device that are not NONE. -/
def vdevQueues (s : State) (v : Nat) : List (BitVec 8 × Queue) :=
  ((List.range 256).map fun q => (BitVec.ofNat 8 q, queueOf s v (BitVec.ofNat 8 q))).filter fun e => e.2.st != .none

/-- Every queue is CLOSED and nothing of the virtual device is left to be performed (R325 step 1). -/
def vdevQuiet (s : State) (v : Nat) : Bool :=
  (vdevQueues s v).all (fun e => e.2.st == .closed) && !(s.hub.conts.any fun k => k.vdev == v) && !writesOut s (vdevOf s v).owners

/-- Dirty pages among `n` granules from `g`: the leaf, its page's address and SIZE (R324). -/
def dirtyPages (s : State) (g : Nat) : Nat → List (Leaf × Nat × Nat)
  | 0 => []
  | n + 1 =>
    let rest := dirtyPages s (g + 1) n
    match walk s (g * 4096) with
    | none => rest
    | some l =>
      let c64 := l.level == 0 && bitAt l.entry 2
      let size := if l.level = 0 then (if c64 then 1 else 0) else l.level + 1
      let span := if l.level = 0 then (if c64 then 16 else 1) else 512 ^ l.level
      if bitAt l.entry 65 && !(rest.any fun x => x.1.addr == l.addr) then (l, g / span * span, size) :: rest else rest

/-- Regions in any state but FREE whose CREATOR is one of some owners. -/
def regionsOf (s : State) (os : List (BitVec 12)) : List (BitVec 20) :=
  ((List.range (regionCap s)).map (BitVec.ofNat 20)).filter fun id => id != 0#20 && (region s id).st != .free && os.contains (region s id).creator

/-- The bytes of a dirty-page report (R324). -/
def reportBytes (ds : List (Leaf × Nat × Nat)) : List Byte := leBytes 8 ds.length ++ ds.flatMap fun d => leBytes 8 (d.2.1 * 4096 + d.2.2)

/-- A region id that ALLOC can take. -/
def spareRegion (s : State) : Option (BitVec 20) :=
  ((List.range (regionCap s)).map (BitVec.ofNat 20)).find? fun id => id != 0#20 && (region s id).st == .free && decide ((region s id).gen.toNat < 0xFFFE)

/-- H0 grants I over a region of its own to an owner (R324, R351). -/
def grantReport (id : BitVec 20) (s : State) (o : BitVec 12) : State :=
  let r := region s id
  match (grantDecide s 0#12 (r.base + r.len * 2 ^ 44 + 2 ^ 84 + o.toNat * 2 ^ 92)).2 with
  | some es => removeEntries o r.base (r.base + r.len) es s
  | none => s

/-- H0 allocates a region for `n` bytes of report and grants it to the owners of queues; its address, or 0 where no region can be had (R324). (Log 62: DESIGN CHOICE) -/
def allocReport (n : Nat) (os : List (BitVec 12)) (s : State) : Nat × State :=
  let g := (Config.dirtyReport s.freeCtr).toNat / 4096
  let s1 := nextFree s
  match spareRegion s1 with
  | none => (0, s1)
  | some id =>
    let args := setHub s1 { s1.hub with rights := { s1.hub.rights with arg0 := BitVec.ofNat 64 g, arg1 := BitVec.ofNat 64 (n / 4096 + 1) } }
    let s2 := stateOf args (execRegionAlloc id args)
    if s2.hub.rights.staErr ≠ 0#3 then (0, s2) else (g * 4096, os.foldl (grantReport id) s2)

/-- Clears D of the pages of a report (R53). -/
def clearDirty (ds : List (Leaf × Nat × Nat)) (s : State) : State :=
  ds.foldl (fun s d => { s with mem := setByte s.mem (d.1.addr + 8) (getByte s.mem (d.1.addr + 8) &&& 0xFD#8) }) s

/-- Step 2 of R325: the report of the dirty pages in the owners' regions, whose D bits are then cleared; its address, 0 for none, and those pages with their SIZE.
(Log 62: DESIGN CHOICE) -/
def reportDirty (v : Nat) (s : State) : Nat × List (Nat × Nat) × State :=
  let ds := (regionsOf s (vdevOf s v).owners).flatMap fun id => dirtyPages s (region s id).base (region s id).len
  let bs := reportBytes ds
  let (a, s1) := allocReport bs.length (((vdevQueues s v).map fun e => e.2.owner).dedup) s
  (a, ds.map (fun d => (d.2.1 * 4096, d.2.2)), clearDirty ds (if a = 0 then s1 else devPutBytes s1 a bs))

/-- A stop word that says STOPPED, with its report (R324). -/
def stopWord (report : Nat) : Nat := 2 ^ 60 + report % 2 ^ 56

/-- Step 3 of R325: every queue's stop word. -/
def putStopWords (v report : Nat) (s : State) : State := (vdevQueues s v).foldl (fun s e => devPut s e.2.cwBase.toNat 8 (stopWord report)) s

/-- Stopping for good begins: every queue with work is reset, and the further steps follow (R85, R325). (Log 62: DESIGN CHOICE) -/
def beginRetire (v : Nat) (s : State) : State :=
  if (vdevOf s v).live && !retiring s v then addJob (.retire v [] .writes) ((vdevQueues s v).foldl (fun s e => beginReset v e.1 s) s) else s

/-! ### Retiring owners and regions (R92, R426) -/

/-- Step 2 of R426 for one region: QUERY, then PURGE and FREE once both counts are 0; whether the region is FREE. -/
def sweepRegion (id : BitVec 20) (s : State) : Bool × State :=
  let s1 := stateOf s (execRegionQuery id s)
  if (region s1 id).st = .free then (true, s1)
  else if s1.hub.rights.staRefs ≠ 0#16 ∨ s1.hub.rights.staInfl ≠ 0#16 then (false, s1)
  else
    let s2 := stateOf s1 (execRegionPurge id s1)
    let s3 := stateOf s2 (execRegionFree id s2)
    (decide ((region s3 id).st = .free), s3)

/-- Step 3 of R426: OPURGE of each owner, then ODEL of each; whether all are gone. -/
def deleteOwners (os : List (BitVec 12)) (s : State) : Bool × State :=
  if os.any (ownerBusy s) then (false, s)
  else
    let s1 := os.foldl (fun s o => stateOf s (execOwnerPurge o s)) s
    let s2 := os.foldl (fun s o => stateOf s (execOwnerDelete o s)) s1
    (os.all fun o => !(ownerDesc s2 o).valid, s2)

/-- Step 4 of R92 and the response: the key slots are erased and the virtual device is no more. -/
def finishDestroy (v : Nat) (cmds : List (Nat × HostCmd)) (s : State) : State :=
  let s1 := setHub s { s.hub with keys := s.hub.keys.filter fun e => match e.2 with | some (_, w) => w != v | none => false }
  cmds.foldl (fun s (ep, c) => respond ep c 0#8 0#64 0#64 [] s) (setVdev v {} s1)

/-- One step of stopping a virtual device for good, and of removing it where a VDESTROY asked for that: the next stage, none at the end. -/
def retireStep (v : Nat) (cmds : List (Nat × HostCmd)) (st : RetireStage) (s : State) : Option RetireStage × State :=
  match st with
  | .writes =>
    let s1 := if (vdevOf s v).resident then s else dropParked (vdevOf s v).colour s
    if vdevQuiet s1 v then (some .report, s1) else (some .writes, s1)
  | .report =>
    let (a, ps, s1) := reportDirty v s
    (some (.inval a ps), s1)
  | .inval a (q :: ps) => if s.hub.rights.xltBusy then (some (.inval a (q :: ps)), s) else (some (.inval a ps), stateOf s (execXltInv (BitVec.ofNat 64 (q.1 + q.2)) s))
  | .inval a [] =>
    if s.hub.rights.xltBusy then (some (.inval a []), s)
    else
      let s1 := putStopWords v a s
      let s2 := setVdev v { vdevOf s1 v with resident := false } s1
      (if cmds.isEmpty then none else some (.rfree (regionsOf s2 (ownersOf s2 v))), s2)
  | .rfree [] => (some (.sweep (regionsOf s (ownersOf s v))), s)
  | .rfree (id :: ids) =>
    match (region s id).st with
    | .live => (some (.rfree (id :: ids)), stateOf s (execRegionRfree id s))
    | .revoking => (some (.rfree (id :: ids)), s)
    | _ => (some (.rfree ids), s)
  | .sweep [] => (some (.owners (ownersOf s v)), s)
  | .sweep (id :: ids) => let (ok, s1) := sweepRegion id s; (some (.sweep (if ok then ids else id :: ids)), s1)
  | .owners os => let (ok, s1) := deleteOwners os s; (some (if ok then .finish else .owners os), s1)
  | .finish => (none, finishDestroy v cmds s)

/-! ### The issue cycle -/

/-- What a task does in this cycle; none once it is done. -/
def stepJob (j : Job) (s : State) : Option Job × State :=
  match j with
  | .reset v q st => let (n, s1) := resetStep v q st s; (n.map (.reset v q), s1)
  | .enrol => (none, enrol s)
  | .retire v cs st => let (n, s1) := retireStep v cs st s; (n.map (.retire v cs), s1)

/-- The firmware's tasks in order; those that a task begins are taken up in the next cycle. -/
def runJobs : List Job → State → State
  | [], s => s
  | j :: js, s =>
    let (n, s1) := stepJob j s
    runJobs js (match n with | some k => addJob k s1 | none => s1)

/-- A decision of the compositor takes effect (R325, R437). (Log 62: DESIGN CHOICE) -/
def decide_ (s : State) (d : Decision) : State :=
  match d with
  | .stopForGood v => beginRetire v s
  | .gate v off => if (vdevOf s v).live then setVdev v { vdevOf s v with gated := off } s else s

/-- Firmware has placed the region table, and region 0 is not there yet (R57). -/
def region0Due (s : State) : Bool := s.hub.boot.powered && s.hub.rights.rgnCap != 0 && (region s 0#20).st == .free

/-- Region 0 is created for the steward at boot, with full rights; owner 0's descriptor comes with it (R57). (Log 63: DESIGN CHOICE) -/
def createRegion0 (s : State) : State :=
  let len := Config.stewardLen.toNat
  let base := Config.stewardBase.toNat
  let s1 := if (ownerDesc s 0#12).valid then s else setOwnerDesc s 0#12 { valid := true, cap := Config.stewardCap.toNat, count := 0, base := Config.stewardTable.toNat * 16 }
  let s2 := setRegion s1 0#20 { st := .live, creator := 0#12, gen := 1#16, len := len, base := base }
  setRangeTable s2 0#12 (insertEntry { region := 0#20, gen := 1#16, rights := 0x1F#5, len := len, base := base } (rangeTable s2 0#12))

/-- What boot leaves to firmware, the decisions that are due, in order, then the tasks. -/
def firmware (s0 : State) : State :=
  let s := if region0Due s0 then createRegion0 s0 else s0
  let due (e : Nat × Decision) : Bool := decide (e.1 ≤ s.gtc)
  let s1 := ((s.hub.decisions.filter due).map (·.2)).foldl decide_ (setHub s { s.hub with decisions := s.hub.decisions.filter fun e => !due e })
  runJobs s1.hub.jobs (setHub s1 { s1.hub with jobs := [] })

/-- ISSUE_CYCLE (R21, R422): the GTC counts up, results fall due, static energy is charged, and the firmware's tasks go on. (Log 54: DEDUCED) -/
def execIssueCycle (s : State) : Out :=
  let now := s.gtc + 1
  let s1 : State := { s with gtc := now, core := cycleCore s.hub.acct now s.cur s.core, others := s.others.map fun (u, c) => (u, cycleCore s.hub.acct now u c) }
  let s2 := (liveUnits s1).foldl (fun s u => finishDivides u s (getCore s u).divs.length) s1
  .next (firmware (flitsArrive (deadlockAll (noteStuck (watchAll (noteRuns s2))))))

end Sys2Proof.Machine
end

