-- ==== Sys2Proof/Machine/Dispatch.lean ====
section
/-! DEFINITION. The one match from an instruction or event to its meaning. -/

namespace Sys2Proof.Machine

/-- One instruction or event in a state (the opcode table's rows, one arm each). -/
def exec (i : Instr) (s : State) : Host.Outcome State Fault Refusal :=
  match i with
  | .ldb sc k imm a d => Sys2Proof.Machine.execLdb sc k imm a d s
  | .ldbz sc k imm a d => Sys2Proof.Machine.execLdbz sc k imm a d s
  | .ldh sc k imm a d => Sys2Proof.Machine.execLdh sc k imm a d s
  | .ldhz sc k imm a d => Sys2Proof.Machine.execLdhz sc k imm a d s
  | .ldw sc k imm a d => Sys2Proof.Machine.execLdw sc k imm a d s
  | .ldwz sc k imm a d => Sys2Proof.Machine.execLdwz sc k imm a d s
  | .ldd sc k imm a d => Sys2Proof.Machine.execLdd sc k imm a d s
  | .stb sc imm b a => Sys2Proof.Machine.execStb sc imm b a s
  | .sth sc imm b a => Sys2Proof.Machine.execSth sc imm b a s
  | .stw sc imm b a => Sys2Proof.Machine.execStw sc imm b a s
  | .std sc imm b a => Sys2Proof.Machine.execStd sc imm b a s
  | .ldv sc k imm a d => Sys2Proof.Machine.execLdv sc k imm a d s
  | .stv sc imm b a => Sys2Proof.Machine.execStv sc imm b a s
  | .stvm sc imm m b a => Sys2Proof.Machine.execStvm sc imm m b a s
  | .ldve8 sc k imm a d => Sys2Proof.Machine.execLdve8 sc k imm a d s
  | .ldve16 sc k imm a d => Sys2Proof.Machine.execLdve16 sc k imm a d s
  | .ldve32 sc k imm a d => Sys2Proof.Machine.execLdve32 sc k imm a d s
  | .ldve64 sc k imm a d => Sys2Proof.Machine.execLdve64 sc k imm a d s
  | .addi sc imm a d => Sys2Proof.Machine.execAddi sc imm a d s
  | .andi sc imm a d => Sys2Proof.Machine.execAndi sc imm a d s
  | .ori sc imm a d => Sys2Proof.Machine.execOri sc imm a d s
  | .xori sc imm a d => Sys2Proof.Machine.execXori sc imm a d s
  | .slti sc imm a d => Sys2Proof.Machine.execSlti sc imm a d s
  | .sltni sc imm a d => Sys2Proof.Machine.execSltni sc imm a d s
  | .slli sc sh a d => Sys2Proof.Machine.execSlli sc sh a d s
  | .srli sc sh a d => Sys2Proof.Machine.execSrli sc sh a d s
  | .srai sc sh a d => Sys2Proof.Machine.execSrai sc sh a d s
  | .add sc b a d => Sys2Proof.Machine.execAdd sc b a d s
  | .sub sc b a d => Sys2Proof.Machine.execSub sc b a d s
  | .andR sc b a d => Sys2Proof.Machine.execAndR sc b a d s
  | .orR sc b a d => Sys2Proof.Machine.execOrR sc b a d s
  | .xorR sc b a d => Sys2Proof.Machine.execXorR sc b a d s
  | .andn sc b a d => Sys2Proof.Machine.execAndn sc b a d s
  | .sll sc b a d => Sys2Proof.Machine.execSll sc b a d s
  | .srl sc b a d => Sys2Proof.Machine.execSrl sc b a d s
  | .sra sc b a d => Sys2Proof.Machine.execSra sc b a d s
  | .slt sc b a d => Sys2Proof.Machine.execSlt sc b a d s
  | .sltn sc b a d => Sys2Proof.Machine.execSltn sc b a d s
  | .minS sc b a d => Sys2Proof.Machine.execMinS sc b a d s
  | .maxS sc b a d => Sys2Proof.Machine.execMaxS sc b a d s
  | .minn sc b a d => Sys2Proof.Machine.execMinn sc b a d s
  | .maxn sc b a d => Sys2Proof.Machine.execMaxn sc b a d s
  | .mul sc b a d => Sys2Proof.Machine.execMul sc b a d s
  | .mulh sc b a d => Sys2Proof.Machine.execMulh sc b a d s
  | .mulhn sc b a d => Sys2Proof.Machine.execMulhn sc b a d s
  | .divS sc k b a d => Sys2Proof.Machine.execDivS sc k b a d s
  | .divn sc k b a d => Sys2Proof.Machine.execDivn sc k b a d s
  | .modS sc k b a d => Sys2Proof.Machine.execModS sc k b a d s
  | .modn sc k b a d => Sys2Proof.Machine.execModn sc k b a d s
  | .clz sc a d => Sys2Proof.Machine.execClz sc a d s
  | .ctz sc a d => Sys2Proof.Machine.execCtz sc a d s
  | .popc sc a d => Sys2Proof.Machine.execPopc sc a d s
  | .brev sc a d => Sys2Proof.Machine.execBrev sc a d s
  | .bswap sc a d => Sys2Proof.Machine.execBswap sc a d s
  | .exts sc b a d => Sys2Proof.Machine.execExts sc b a d s
  | .extz sc b a d => Sys2Proof.Machine.execExtz sc b a d s
  | .ins sc b a d => Sys2Proof.Machine.execIns sc b a d s
  | .lih imm d => Sys2Proof.Machine.execLih imm d s
  | .addpc imm d => Sys2Proof.Machine.execAddpc imm d s
  | .jal off d => Sys2Proof.Machine.execJal off d s
  | .jalr sc imm a d => Sys2Proof.Machine.execJalr sc imm a d s
  | .beq sc imm b a => Sys2Proof.Machine.execBeq sc imm b a s
  | .bne sc imm b a => Sys2Proof.Machine.execBne sc imm b a s
  | .blt sc imm b a => Sys2Proof.Machine.execBlt sc imm b a s
  | .bge sc imm b a => Sys2Proof.Machine.execBge sc imm b a s
  | .bltn sc imm b a => Sys2Proof.Machine.execBltn sc imm b a s
  | .bgen sc imm b a => Sys2Proof.Machine.execBgen sc imm b a s
  | .loopG sc len a lv => Sys2Proof.Machine.execLoopG sc len a lv s
  | .loopi sc len cnt lv => Sys2Proof.Machine.execLoopi sc len cnt lv s
  | .loopm sc len lv => Sys2Proof.Machine.execLoopm sc len lv s
  | .lbrk sc lv => Sys2Proof.Machine.execLbrk sc lv s
  | .dly sc imm => Sys2Proof.Machine.execDly sc imm s
  | .waitImm sc imm bank k => Sys2Proof.Machine.execWaitImm sc imm bank k s
  | .waitReg sc bank k a => Sys2Proof.Machine.execWaitReg sc bank k a s
  | .tkrd sc bank k d => Sys2Proof.Machine.execTkrd sc bank k d s
  | .tksetImm sc imm bank k => Sys2Proof.Machine.execTksetImm sc imm bank k s
  | .tksetReg sc bank k a => Sys2Proof.Machine.execTksetReg sc bank k a s
  | .crd crn d => Sys2Proof.Machine.execCrd crn d s
  | .cwr crn a => Sys2Proof.Machine.execCwr crn a s
  | .cset crn a => Sys2Proof.Machine.execCset crn a s
  | .cclr crn a => Sys2Proof.Machine.execCclr crn a s
  | .trapI sc code => Sys2Proof.Machine.execTrapI sc code s
  | .eret sc => Sys2Proof.Machine.execEret sc s
  | .brk sc code => Sys2Proof.Machine.execBrk sc code s
  | .idle sc => Sys2Proof.Machine.execIdle sc s
  | .replay sc entry => Sys2Proof.Machine.execReplay sc entry s
  | .fnc sc sco => Sys2Proof.Machine.execFnc sc sco s
  | .qfnc sc n => Sys2Proof.Machine.execQfnc sc n s
  | .ldaq sc k sco a d => Sys2Proof.Machine.execLdaq sc k sco a d s
  | .strl sc sco b a => Sys2Proof.Machine.execStrl sc sco b a s
  | .amoadd aq rl w b a sco d => Sys2Proof.Machine.execAmoadd aq rl w b a sco d s
  | .amoand aq rl w b a sco d => Sys2Proof.Machine.execAmoand aq rl w b a sco d s
  | .amoor aq rl w b a sco d => Sys2Proof.Machine.execAmoor aq rl w b a sco d s
  | .amoxor aq rl w b a sco d => Sys2Proof.Machine.execAmoxor aq rl w b a sco d s
  | .amomin aq rl w b a sco d => Sys2Proof.Machine.execAmomin aq rl w b a sco d s
  | .amomax aq rl w b a sco d => Sys2Proof.Machine.execAmomax aq rl w b a sco d s
  | .amominn aq rl w b a sco d => Sys2Proof.Machine.execAmominn aq rl w b a sco d s
  | .amomaxn aq rl w b a sco d => Sys2Proof.Machine.execAmomaxn aq rl w b a sco d s
  | .amoswp aq rl w b a sco d => Sys2Proof.Machine.execAmoswp aq rl w b a sco d s
  | .amocas aq rl w b a sco d => Sys2Proof.Machine.execAmocas aq rl w b a sco d s
  | .vadd sc t b a d => Sys2Proof.Machine.execVadd sc t b a d s
  | .vsub sc t b a d => Sys2Proof.Machine.execVsub sc t b a d s
  | .vmul sc t b a d => Sys2Proof.Machine.execVmul sc t b a d s
  | .vmin sc t b a d => Sys2Proof.Machine.execVmin sc t b a d s
  | .vmax sc t b a d => Sys2Proof.Machine.execVmax sc t b a d s
  | .vand sc t b a d => Sys2Proof.Machine.execVand sc t b a d s
  | .vor sc t b a d => Sys2Proof.Machine.execVor sc t b a d s
  | .vxor sc t b a d => Sys2Proof.Machine.execVxor sc t b a d s
  | .vshl sc t b a d => Sys2Proof.Machine.execVshl sc t b a d s
  | .vshr sc t b a d => Sys2Proof.Machine.execVshr sc t b a d s
  | .vsar sc t b a d => Sys2Proof.Machine.execVsar sc t b a d s
  | .vabd sc t b a d => Sys2Proof.Machine.execVabd sc t b a d s
  | .vadds sc t b a d => Sys2Proof.Machine.execVadds sc t b a d s
  | .vsubs sc t b a d => Sys2Proof.Machine.execVsubs sc t b a d s
  | .vfma sc t b a d => Sys2Proof.Machine.execVfma sc t b a d s
  | .vfms sc t b a d => Sys2Proof.Machine.execVfms sc t b a d s
  | .vfnma sc t b a d => Sys2Proof.Machine.execVfnma sc t b a d s
  | .vdot2 sc t b a d => Sys2Proof.Machine.execVdot2 sc t b a d s
  | .vmulw sc t b a d => Sys2Proof.Machine.execVmulw sc t b a d s
  | .vcmp sc t b a cc m => Sys2Proof.Machine.execVcmp sc t b a cc m s
  | .vsel sc t m a d => Sys2Proof.Machine.execVsel sc t m a d s
  | .vcvt sc t src a d => Sys2Proof.Machine.execVcvt sc t src a d s
  | .vbcast sc t a d => Sys2Proof.Machine.execVbcast sc t a d s
  | .vperm sc t b a d => Sys2Proof.Machine.execVperm sc t b a d s
  | .vext sc t lane a d => Sys2Proof.Machine.execVext sc t lane a d s
  | .vins sc t lane a d => Sys2Proof.Machine.execVins sc t lane a d s
  | .vabs sc t a d => Sys2Proof.Machine.execVabs sc t a d s
  | .vneg sc t a d => Sys2Proof.Machine.execVneg sc t a d s
  | .vmov sc t a d => Sys2Proof.Machine.execVmov sc t a d s
  | .vmsk sc t a m => Sys2Proof.Machine.execVmsk sc t a m s
  | .vredAdd sc t a d => Sys2Proof.Machine.execVredAdd sc t a d s
  | .vredMin sc t a d => Sys2Proof.Machine.execVredMin sc t a d s
  | .vredMax sc t a d => Sys2Proof.Machine.execVredMax sc t a d s
  | .vscanAdd sc t a d => Sys2Proof.Machine.execVscanAdd sc t a d s
  | .vscanMin sc t a d => Sys2Proof.Machine.execVscanMin sc t a d s
  | .vscanMax sc t a d => Sys2Proof.Machine.execVscanMax sc t a d s
  | .qred sc t q a d => Sys2Proof.Machine.execQred sc t q a d s
  | .qredSuspend u => Sys2Proof.Machine.execQredSuspend u s
  | .tload sc k a n => Sys2Proof.Machine.execTload sc k a n s
  | .teval sc k p n a d => Sys2Proof.Machine.execTeval sc k p n a d s
  | .tstat sc n d => Sys2Proof.Machine.execTstat sc n d s
  | .tloadPerform tile => Sys2Proof.Machine.execTloadPerform tile s
  | .tevalPerform tile => Sys2Proof.Machine.execTevalPerform tile s
  | .send sc sco b a => Sys2Proof.Machine.execSend sc sco b a s
  | .sendg sc sco b a => Sys2Proof.Machine.execSendg sc sco b a s
  | .rcv sc d => Sys2Proof.Machine.execRcv sc d s
  | .wfm sc => Sys2Proof.Machine.execWfm sc s
  | .mbcnt sc n d => Sys2Proof.Machine.execMbcnt sc n d s
  | .messageDelivery n => Sys2Proof.Machine.execMessageDelivery n s
  | .bufferFreeAnswer n => Sys2Proof.Machine.execBufferFreeAnswer n s
  | .qcfg sc q a => Sys2Proof.Machine.execQcfg sc q a s
  | .qres sc q a d => Sys2Proof.Machine.execQres sc q a d s
  | .qpub sc q a => Sys2Proof.Machine.execQpub sc q a s
  | .qacq sc q a d => Sys2Proof.Machine.execQacq sc q a d s
  | .qrel sc q a => Sys2Proof.Machine.execQrel sc q a s
  | .qstat sc q a d => Sys2Proof.Machine.execQstat sc q a d s
  | .quireSuspend u => Sys2Proof.Machine.execQuireSuspend u s
  | .queueDeadlock lnch grp => Sys2Proof.Machine.execQueueDeadlock lnch grp s
  | .pmac sc k a => Sys2Proof.Machine.execPmac sc k a s
  | .pmacs sc k a => Sys2Proof.Machine.execPmacs sc k a s
  | .pzero sc a => Sys2Proof.Machine.execPzero sc a s
  | .pdrain sc k a => Sys2Proof.Machine.execPdrain sc k a s
  | .pstat sc d => Sys2Proof.Machine.execPstat sc d s
  | .psync sc => Sys2Proof.Machine.execPsync sc s
  | .leaseGrant tile => Sys2Proof.Machine.execLeaseGrant tile s
  | .leaseTimeout tile => Sys2Proof.Machine.execLeaseTimeout tile s
  | .pressEntryStart tile => Sys2Proof.Machine.execPressEntryStart tile s
  | .pressStartAdmit tile => Sys2Proof.Machine.execPressStartAdmit tile s
  | .blockSlice tile => Sys2Proof.Machine.execBlockSlice tile s
  | .sliceSumAccumulate tile => Sys2Proof.Machine.execSliceSumAccumulate tile s
  | .pressEntryComplete tile => Sys2Proof.Machine.execPressEntryComplete tile s
  | .governorWindow => Sys2Proof.Machine.execGovernorWindow s
  | .pressShootdown tile rgn => Sys2Proof.Machine.execPressShootdown tile rgn s
  | .segmv sc k a => Sys2Proof.Machine.execSegmv sc k a s
  | .sefil sc k a => Sys2Proof.Machine.execSefil sc k a s
  | .secpy sc k a => Sys2Proof.Machine.execSecpy sc k a s
  | .secmp sc k a => Sys2Proof.Machine.execSecmp sc k a s
  | .sered sc k a => Sys2Proof.Machine.execSered sc k a s
  | .sestat sc a d => Sys2Proof.Machine.execSestat sc a d s
  | .stackCommandStart ch => Sys2Proof.Machine.execStackCommandStart ch s
  | .stackCommandComplete ch => Sys2Proof.Machine.execStackCommandComplete ch s
  | .goSegmv ch => Sys2Proof.Machine.execGoSegmv ch s
  | .goSefil ch => Sys2Proof.Machine.execGoSefil ch s
  | .goSecpy ch => Sys2Proof.Machine.execGoSecpy ch s
  | .goSecmp ch => Sys2Proof.Machine.execGoSecmp ch s
  | .goSered ch => Sys2Proof.Machine.execGoSered ch s
  | .xld sc k imm a d => Sys2Proof.Machine.execXld sc k imm a d s
  | .xst sc imm b a => Sys2Proof.Machine.execXst sc imm b a s
  | .xldv sc k imm a d => Sys2Proof.Machine.execXldv sc k imm a d s
  | .xstv sc imm b a => Sys2Proof.Machine.execXstv sc imm b a s
  | .xhint sc b a hot => Sys2Proof.Machine.execXhint sc b a hot s
  | .spawn sc a d => Sys2Proof.Machine.execSpawn sc a d s
  | .deal sc a d => Sys2Proof.Machine.execDeal sc a d s
  | .susp sc => Sys2Proof.Machine.execSusp sc s
  | .exitI sc => Sys2Proof.Machine.execExitI sc s
  | .gbar sc n => Sys2Proof.Machine.execGbar sc n s
  | .grank sc n d => Sys2Proof.Machine.execGrank sc n d s
  | .generationComplete lnch grp => Sys2Proof.Machine.execGenerationComplete lnch grp s
  | .grant sc a d => Sys2Proof.Machine.execGrant sc a d s
  | .revoke sc k free a d => Sys2Proof.Machine.execRevoke sc k free a d s
  | .rtest sc a d => Sys2Proof.Machine.execRtest sc a d s
  | .rdrop sc b a d => Sys2Proof.Machine.execRdrop sc b a d s
  | .shootdownComplete rgn => Sys2Proof.Machine.execShootdownComplete rgn s
  | .jf off d => Sys2Proof.Machine.execJf off d s
  | .jfr sc a d => Sys2Proof.Machine.execJfr sc a d s
  | .cfetch sc k seg a => Sys2Proof.Machine.execCfetch sc k seg a s
  | .cfetchCompletion u seg => Sys2Proof.Machine.execCfetchCompletion u seg s
  | .cseg sc inv seg d => Sys2Proof.Machine.execCseg sc inv seg d s
  | .fitb sc k n a => Sys2Proof.Machine.execFitb sc k n a s
  | .fite sc n => Sys2Proof.Machine.execFite sc n s
  | .fitk sc n => Sys2Proof.Machine.execFitk sc n s
  | .fitq sc n a d => Sys2Proof.Machine.execFitq sc n a d s
  | .fitw sc n a j => Sys2Proof.Machine.execFitw sc n a j s
  | .trainingStep quad e => Sys2Proof.Machine.execTrainingStep quad e s
  | .substitutionOutputs quad n => Sys2Proof.Machine.execSubstitutionOutputs quad n s
  | .nop sc => Sys2Proof.Machine.execNop sc s
  | .cAddi r imm => Sys2Proof.Machine.execCAddi r imm s
  | .cLi r imm => Sys2Proof.Machine.execCLi r imm s
  | .cLdd r r2 off => Sys2Proof.Machine.execCLdd r r2 off s
  | .cStd r r2 off => Sys2Proof.Machine.execCStd r r2 off s
  | .cDly imm => Sys2Proof.Machine.execCDly imm s
  | .cNop => Sys2Proof.Machine.execCNop s
  | .cMv r r2 => Sys2Proof.Machine.execCMv r r2 s
  | .cAdd r r2 => Sys2Proof.Machine.execCAdd r r2 s
  | .cSub r r2 => Sys2Proof.Machine.execCSub r r2 s
  | .cJr r => Sys2Proof.Machine.execCJr r s
  | .cJalr r => Sys2Proof.Machine.execCJalr r s
  | .cBeqz r off => Sys2Proof.Machine.execCBeqz r off s
  | .cBnez r off => Sys2Proof.Machine.execCBnez r off s
  | .cJ off => Sys2Proof.Machine.execCJ off s
  | .ownerWrite x => Sys2Proof.Machine.execOwnerWrite x s
  | .partWordWrite x => Sys2Proof.Machine.execPartWordWrite x s
  | .copyGo d => Sys2Proof.Machine.execCopyGo d s
  | .stopAtWrite x => Sys2Proof.Machine.execStopAtWrite x s
  | .energyWrite x => Sys2Proof.Machine.execEnergyWrite x s
  | .asyncTrap u => Sys2Proof.Machine.execAsyncTrap u s
  | .loadCompletion u e => Sys2Proof.Machine.execLoadCompletion u e s
  | .divideCompletion u n => Sys2Proof.Machine.execDivideCompletion u n s
  | .storeAck u e => Sys2Proof.Machine.execStoreAck u e s
  | .amoResponse u => Sys2Proof.Machine.execAmoResponse u s
  | .copyBeat u => Sys2Proof.Machine.execCopyBeat u s
  | .copyCompletion u => Sys2Proof.Machine.execCopyCompletion u s
  | .tileCompletion u tile => Sys2Proof.Machine.execTileCompletion u tile s
  | .qaSlotReserve u => Sys2Proof.Machine.execQaSlotReserve u s
  | .slotLoad u slot => Sys2Proof.Machine.execSlotLoad u slot s
  | .evictWriteback u slot => Sys2Proof.Machine.execEvictWriteback u slot s
  | .slotSelect u => Sys2Proof.Machine.execSlotSelect u s
  | .sliceExpiry u => Sys2Proof.Machine.execSliceExpiry u s
  | .bindStart p ch => Sys2Proof.Machine.execBindStart p ch s
  | .bindEvict p ch => Sys2Proof.Machine.execBindEvict p ch s
  | .bindEvictStart p ch => Sys2Proof.Machine.execBindEvictStart p ch s
  | .bindModify p ch => Sys2Proof.Machine.execBindModify p ch s
  | .partMapWrite p x => Sys2Proof.Machine.execPartMapWrite p x s
  | .pwSetWrite u x => Sys2Proof.Machine.execPwSetWrite u x s
  | .pwSetApply u => Sys2Proof.Machine.execPwSetApply u s
  | .dealChunk card => Sys2Proof.Machine.execDealChunk card s
  | .dependenceSatisfied card => Sys2Proof.Machine.execDependenceSatisfied card s
  | .dependenceFailed card => Sys2Proof.Machine.execDependenceFailed card s
  | .drainComplete v q => Sys2Proof.Machine.execDrainComplete v q s
  | .resetComplete v q => Sys2Proof.Machine.execResetComplete v q s
  | .watchdogExpiry v q => Sys2Proof.Machine.execWatchdogExpiry v q s
  | .hostOpen ep c => Sys2Proof.Machine.execHostOpen ep c s
  | .hostClose ep c => Sys2Proof.Machine.execHostClose ep c s
  | .hostLock ep c => Sys2Proof.Machine.execHostLock ep c s
  | .hostUnlock ep c => Sys2Proof.Machine.execHostUnlock ep c s
  | .hostQcreate ep c => Sys2Proof.Machine.execHostQcreate ep c s
  | .hostQopen ep c => Sys2Proof.Machine.execHostQopen ep c s
  | .hostLaunch ep c => Sys2Proof.Machine.execHostLaunch ep c s
  | .hostDrain ep c => Sys2Proof.Machine.execHostDrain ep c s
  | .hostReset ep c => Sys2Proof.Machine.execHostReset ep c s
  | .hostQdestroy ep c => Sys2Proof.Machine.execHostQdestroy ep c s
  | .hostQstat ep c => Sys2Proof.Machine.execHostQstat ep c s
  | .hostKeyload ep c => Sys2Proof.Machine.execHostKeyload ep c s
  | .hostEvidence ep c => Sys2Proof.Machine.execHostEvidence ep c s
  | .hostVcreate ep c => Sys2Proof.Machine.execHostVcreate ep c s
  | .hostVdestroy ep c => Sys2Proof.Machine.execHostVdestroy ep c s
  | .rmaWrite ep va bytes => Sys2Proof.Machine.execRmaWrite ep va bytes s
  | .rmaRead ep va n => Sys2Proof.Machine.execRmaRead ep va n s
  | .unsupportedPacket ep kind => Sys2Proof.Machine.execUnsupportedPacket ep kind s
  | .sessionTimeout ep sid => Sys2Proof.Machine.execSessionTimeout ep sid s
  | .lockLeaseExpiry ep => Sys2Proof.Machine.execLockLeaseExpiry ep s
  | .xltInv x => Sys2Proof.Machine.execXltInv x s
  | .xltInvComplete => Sys2Proof.Machine.execXltInvComplete s
  | .regionQuery id => Sys2Proof.Machine.execRegionQuery id s
  | .regionPurge id => Sys2Proof.Machine.execRegionPurge id s
  | .regionFree id => Sys2Proof.Machine.execRegionFree id s
  | .regionAlloc id => Sys2Proof.Machine.execRegionAlloc id s
  | .regionRfree id => Sys2Proof.Machine.execRegionRfree id s
  | .ownerPurge o => Sys2Proof.Machine.execOwnerPurge o s
  | .ownerCreate o => Sys2Proof.Machine.execOwnerCreate o s
  | .ownerDelete o => Sys2Proof.Machine.execOwnerDelete o s
  | .stopArm p tear q => Sys2Proof.Machine.execStopArm p tear q s
  | .stopCancel p => Sys2Proof.Machine.execStopCancel p s
  | .stopResume p drop col => Sys2Proof.Machine.execStopResume p drop col s
  | .syncStopHalt u => Sys2Proof.Machine.execSyncStopHalt u s
  | .sweepComplete p => Sys2Proof.Machine.execSweepComplete p s
  | .hgHalt g => Sys2Proof.Machine.execHgHalt g s
  | .hgResume g => Sys2Proof.Machine.execHgResume g s
  | .hintDropRead => Sys2Proof.Machine.execHintDropRead s
  | .acctERead v => Sys2Proof.Machine.execAcctERead v s
  | .acctLateRead v => Sys2Proof.Machine.execAcctLateRead v s
  | .powerUp recov => Sys2Proof.Machine.execPowerUp recov s
  | .bootSetWrite hart x => Sys2Proof.Machine.execBootSetWrite hart x s
  | .hartRun hart x => Sys2Proof.Machine.execHartRun hart x s
  | .pufLock x => Sys2Proof.Machine.execPufLock x s
  | .coreRel x => Sys2Proof.Machine.execCoreRel x s
  | .fpData x => Sys2Proof.Machine.execFpData x s
  | .fpErase => Sys2Proof.Machine.execFpErase s
  | .lkey link => Sys2Proof.Machine.execLkey link s
  | .seLrootWrite x => Sys2Proof.Machine.execSeLrootWrite x s
  | .mcPower n => Sys2Proof.Machine.execMcPower n s
  | .mcEnable n => Sys2Proof.Machine.execMcEnable n s
  | .mcLaneRepair n => Sys2Proof.Machine.execMcLaneRepair n s
  | .mcCaTraining n => Sys2Proof.Machine.execMcCaTraining n s
  | .mcReadTraining n => Sys2Proof.Machine.execMcReadTraining n s
  | .mcWriteTraining n => Sys2Proof.Machine.execMcWriteTraining n s
  | .mcEyeCentring n => Sys2Proof.Machine.execMcEyeCentring n s
  | .mcRefreshSetup n => Sys2Proof.Machine.execMcRefreshSetup n s
  | .mcStepComplete n pass fail lanes => Sys2Proof.Machine.execMcStepComplete n pass fail lanes s
  | .ulSideband l => Sys2Proof.Machine.execUlSideband l s
  | .ulTrain l => Sys2Proof.Machine.execUlTrain l s
  | .ulEnable l => Sys2Proof.Machine.execUlEnable l s
  | .ptPll p => Sys2Proof.Machine.execPtPll p s
  | .ptTxen p => Sys2Proof.Machine.execPtTxen p s
  | .ptLinkTraining p => Sys2Proof.Machine.execPtLinkTraining p s
  | .ptMac p => Sys2Proof.Machine.execPtMac p s
  | .ptFecRead p => Sys2Proof.Machine.execPtFecRead p s
  | .portRetry p => Sys2Proof.Machine.execPortRetry p s
  | .pairKeyExchange p => Sys2Proof.Machine.execPairKeyExchange p s
  | .linkTagMismatch link => Sys2Proof.Machine.execLinkTagMismatch link s
  | .linkRekey link dir => Sys2Proof.Machine.execLinkRekey link dir s
  | .registerWrite addr x => Sys2Proof.Machine.execRegisterWrite addr x s
  | .illegalInstruction word => Sys2Proof.Machine.execIllegalInstruction word s
  | .notLandedFetch => Sys2Proof.Machine.execNotLandedFetch s
  | .badopCommand ep c => Sys2Proof.Machine.execBadopCommand ep c s
  | .issueCycle => Sys2Proof.Machine.execIssueCycle s
  | .powerOff => Sys2Proof.Machine.execPowerOff s
  | .mcPwrok n => Sys2Proof.Machine.execMcPwrok n s
  | .mcActive n => Sys2Proof.Machine.execMcActive n s
  | .ulSbup l => Sys2Proof.Machine.execUlSbup l s
  | .ulActive l lanes repaired => Sys2Proof.Machine.execUlActive l lanes repaired s
  | .ptPlllock p => Sys2Proof.Machine.execPtPlllock p s
  | .ptLtdone p cdr => Sys2Proof.Machine.execPtLtdone p cdr s
  | .ptFeclock p => Sys2Proof.Machine.execPtFeclock p s
  | .ptUp p => Sys2Proof.Machine.execPtUp p s
  | .lkeyDone => Sys2Proof.Machine.execLkeyDone s
  | .fpBusyClear => Sys2Proof.Machine.execFpBusyClear s

end Sys2Proof.Machine
end

