-- ==== Sys2Proof/Machine/Issue.lean ====
section
/-! DEFINITION. What happens next: what a unit does in this cycle, in the order of R98 to R100, R254, R369, R376 and R387, and fetching an instruction's parcels (R108, R110). -/

namespace Sys2Proof.Machine

/-! ### Fetching -/

/-- The word at the PC of the core in focus: a 32-bit instruction, or a parcel zero-extended (R110, R118). -/
def wordAtPc (s : State) : BitVec 32 :=
  let p := s.core.ctx.pc
  if isLong (parcelAt s p) then parcelAt s (p + 2#16) ++ parcelAt s p else (parcelAt s p).setWidth 32

/-- The instruction at an IMA of the core in focus, as its parcels decode (R110, R114). -/
def decodeAt (s : State) (p : BitVec 16) : Decoded := decodeParcels (parcelAt s p) (parcelAt s (p + 2#16))

/-- The core in focus with the instruction word in its issue register. -/
def fetched (s : State) : State := { s with core := { s.core with ir := wordAtPc s } }

/-! ### What a unit does -/

/-- What a unit may do at a boundary between instructions; each is the event of the same name. -/
inductive Boundary where
  | syncStopHalt
  | evictWriteback (slot : Nat)
  | slotLoad (slot : Nat)
  | pwSetApply
  | slotSelect
  | sliceExpiry
  | asyncTrap
  | quireSuspend
  | qredSuspend
  deriving DecidableEq, Repr

/-- The event's effect on unit `u`. -/
def boundary (u : Nat) (b : Boundary) (s : State) : Out :=
  match b with
  | .syncStopHalt => execSyncStopHalt u s
  | .evictWriteback i => execEvictWriteback u i s
  | .slotLoad i => execSlotLoad u i s
  | .pwSetApply => execPwSetApply u s
  | .slotSelect => execSlotSelect u s
  | .sliceExpiry => execSliceExpiry u s
  | .asyncTrap => execAsyncTrap u s
  | .quireSuspend => execQuireSuspend u s
  | .qredSuspend => execQredSuspend u s

/-- The lowest slot of a core in a state. -/
def slotIn (c : Core) (st : SlotState) : Option Nat := (List.range 8).find? fun i => (slotOf c i).sst == st

/-- A core has a context that may issue now. -/
def mayIssue (now : Nat) (c : Core) : Bool := c.released && c.issuing.isSome && !haltedCore c && decide (c.nextIssue ≤ now)

/-- What a core does at a switch point, before it issues (R98 to R100, R245). -/
def switchEvent (s : State) (u : Nat) : Option Boundary :=
  let c := getCore s u
  if !atSwitch s.gtc c then none
  else match slotIn c .evicting with
    | some i => some (.evictWriteback i)
    | none => match slotIn c .bound with
      | some i => some (.slotLoad i)
      | none =>
        if c.pw.pend && !occupied s u && (!partOk u c.pw.value || !partWaits s u) then some .pwSetApply
        else if haltedCore c then none
        else if (wantSlot c).isSome then some .slotSelect
        else if (sliceSlot s u).isSome then some .sliceExpiry
        else none

/-- A blocked QRES, QACQ or QRED of the unit suspends in this cycle (R232, R254). -/
def suspendEvent (s : State) (u : Nat) : Option Boundary :=
  let c := getCore s u
  if mayIssue s.gtc c && c.ctx.blockedAt.isSome then
    let f := focus s u
    if blockedFor 256 f && !freed f then some (if heldQred f then .qredSuspend else .quireSuspend) else none
  else none

/-- What a unit does besides issuing: a stop first, then its switch point, a pending trap and a suspension. -/
def unitEvent (s : State) (u : Nat) : Option Boundary :=
  if stopDue s u then some .syncStopHalt
  else match switchEvent s u with
    | some i => some i
    | none => if (asyncDue (getCore s u)).isSome && mayIssue s.gtc (getCore s u) then some .asyncTrap else suspendEvent s u

/-- A halt group's trigger waits for this unit, whose answer has arrived (R387). -/
def groupDue (s : State) (u : Nat) : Bool := (getCore s u).haltReq && !awaitsAnswer s u

/-- A unit has something to do in this cycle. -/
def unitReady (s : State) (u : Nat) : Bool := groupDue s u || (unitEvent s u).isSome || mayIssue s.gtc (getCore s u)

/-- The lower-numbered units of the device that differ from a core at reset, in increasing number, and the unit in focus in its place among them. -/
def unitOrder (s : State) : List Nat := ((s.others.map (·.1)).filter (· < s.cur)) ++ s.cur :: ((s.others.map (·.1)).filter (s.cur < ·))

/-- The unit that acts next: the lowest-numbered one that is ready, so that requests of one cycle are taken in increasing core number (R412). (Log 3: DESIGN CHOICE) -/
def nextUnit (s : State) : Option Nat := (unitOrder s).find? (unitReady s)

/-! ### The input -/

/-- An instruction of a core, or an effect within one: no event that another agent can bring about. (Log 3: DESIGN CHOICE) -/
def ofCore (i : Instr) : Bool :=
  match i with
  | .ownerWrite _ => true
  | .partWordWrite _ => true
  | .copyGo _ => true
  | .stopAtWrite _ => true
  | .energyWrite _ => true
  | .illegalInstruction _ => true
  | .notLandedFetch => true
  | .issueCycle => true
  | i => (encode i).isSome

/-- An RMA that comes after accesses still in flight. (Log 59: DEDUCED) -/
def inputWaits (i : Instr) (s : State) : Bool :=
  match i with
  | .rmaWrite _ va bytes => rmaLate va.toNat bytes.length true s
  | .rmaRead _ va n => rmaLate va.toNat n false s
  | _ => false

/-- A packet of a host: behind an RMA that waits, those that follow it wait too (R82). -/
def fromHost (i : Instr) : Bool :=
  match i with
  | .rmaWrite _ _ _ | .rmaRead _ _ _ | .unsupportedPacket _ _ | .badopCommand _ _ | .hostOpen _ _ | .hostClose _ _ | .hostLock _ _ | .hostUnlock _ _ | .hostQcreate _ _
  | .hostQopen _ _ | .hostLaunch _ _ | .hostDrain _ _ | .hostReset _ _ | .hostQdestroy _ _ | .hostQstat _ _ | .hostKeyload _ _ | .hostEvidence _ _ | .hostVcreate _ _
  | .hostVdestroy _ _ => true
  | _ => false

/-- The first entry of an agenda that is due and does not wait, and the rest; `behind` says that an RMA waits already. (Log 59: DEDUCED) -/
def dueInput (s : State) (behind : Bool) : List (Nat × Instr) → Option (Instr × List (Nat × Instr))
  | [] => none
  | (t, i) :: rest =>
    if s.gtc < t then none
    else if inputWaits i s || (behind && fromHost i) then (dueInput s true rest).map fun x => (x.1, (t, i) :: x.2)
    else some (i, rest)

/-- The input's next event where one is due, and the state without it; an entry that is no event of another agent does nothing. (Log 3: DESIGN CHOICE, 59: DEDUCED) -/
def nextInput (s : State) : Option (Instr × State) := (dueInput s false s.agenda).map fun x => (x.1, { s with agenda := x.2 })

/-! ### Placing an instruction -/

/-- Stores the bytes of an instruction at an IMA of the unit in focus. -/
def putImem (s : State) (p : BitVec 16) : List Byte → State
  | [] => s
  | b :: bs => putImem { s with mem := setByte s.mem (imemKey s.cur p.toNat) b } (p + 1#16) bs

/-- Instruction memory of the unit in focus with segment 15's image of CORE_REL written out, so that a byte of it can be placed. -/
def ownSeg15 (s : State) : State :=
  if s.core.bootSeg then
    { s with core := { s.core with bootSeg := false }
             mem := setBytes s.mem (imemKey s.cur 0xF000) ((List.range 4096).map fun i => s.hub.boot.image15.getD i unwritten) }
  else s

/-- SEG[n] LANDED. -/
def landSeg (n : BitVec 4) (s : State) : State := { s with core := setSeg s.core n { segOf s.core n with st := .landed } }

/-- The PC at which an instruction can be placed: the context's, or 0 where that is in segment 15 outside steward mode (R108). -/
def placePc (s : State) : BitVec 16 :=
  let p := s.core.ctx.pc
  if !steward s && (segNo p == 15#4 || segNo (p + 2#16) == 15#4) then 0#16 else p

/-- The core in focus issues from slot 0 in this cycle, with nothing that would come before the instruction. -/
def readyCore (s : State) : State :=
  let c := s.core
  let x := { c.ctx with pc := placePc s, blockedAt := none, why := .none, idle := none, rcd := { c.ctx.rcd with state := .running } }
  { s with agenda := []
           core := { c with released := true, issuing := some 0#3, ctx := x, slots := (Vector.replicate 8 {}).set 0 { sst := .loaded }
                            nextIssue := s.gtc, holdSince := none, holdSwitch := false, stopAt := 0#64, haltStop := false, haltGroup := false, haltReq := false
                            pw := { c.pw with pend := false }, amo := none, accepted := false, answer := none, asked := none, resume := none
                            log := c.log.map fun e => e.bind fun x => if x.held.isSome then none else some x
                            journal := c.journal.map fun e => e.bind fun x => if x.held.isSome then none else some x } }

/-- Lower-numbered units have nothing to do in this cycle, so that the one in focus is next. -/
def quietOthers (s : State) : State :=
  { s with others := s.others.map fun (u, c) => if u < s.cur then (u, { c with released := false, haltReq := false, stopAt := 0#64 }) else (u, c) }

/-- The state with the first four bytes of an instruction where the core in focus fetches next (R105, R110). (Log 3: DESIGN CHOICE) -/
def placed (bs : List Byte) (s : State) : State :=
  let s1 := ownSeg15 (readyCore (quietOthers s))
  let p := s1.core.ctx.pc
  putImem (landSeg (segNo (p + 2#16)) (landSeg (segNo p) s1)) p bs

end Sys2Proof.Machine
end

