-- ==== Sys2Proof/Machine/Step.lean ====
section
/-! DEFINITION. One step of the machine: an event of the input, an action of a unit, or the end of the cycle. -/

namespace Sys2Proof.Machine

/-- The core in focus issues the instruction at its PC, or takes the trap that stands in its place (R108, R118). -/
def issueStep (s : State) : Out :=
  if (fetchTrap s s.core.ctx.pc).isSome then execNotLandedFetch (fetched s)
  else match decodeAt s s.core.ctx.pc with
    | .ok i _ => exec i (fetched s)
    | .reject _ => execIllegalInstruction (wordAtPc s) (fetched s)

/-- A unit acts: a halt group that waits for it, another boundary event, or an issue. -/
def unitStep (u : Nat) (s : State) : Out :=
  if groupDue s u then .next (groupHaltCore u s)
  else match unitEvent s u with
    | some b => boundary u b s
    | none => issueStep (focus s u)

/-- One step: the input's event if one is due, else a unit that is ready, else the next issue cycle. (Log 3: DESIGN CHOICE) -/
def step (s : State) : Host.Outcome State Fault Refusal :=
  match nextInput s with
  | some (i, s1) => if ofCore i then .next s1 else exec i s1
  | none => match nextUnit s with
    | some u => unitStep u s
    | none => execIssueCycle s

/-- `s` with the instruction whose bits are `w` where `step` fetches next; bits above `nbits` are 0. (Log 3: DESIGN CHOICE) -/
def State.withFetchWord (s : State) (nbits w : Nat) : State :=
  let x := BitVec.ofNat 32 (w % 2 ^ nbits)
  placed [byteOf x.toNat 0, byteOf x.toNat 1, byteOf x.toNat 2, byteOf x.toNat 3] s

end Sys2Proof.Machine
end

