-- ==== Sys2Proof/Safety.lean ====
section
/-! DEFINITION. What counts as a safe run: steps answer next states, memory keeps its canonical form, and no register that the spec fixes is lost. -/

namespace Sys2Proof.Machine

/-- The step answers a next state. -/
def goesOn (s : State) : Prop := ∃ t, step s = .next t

/-- The machine never stops within `n` steps. -/
def safeFor : Nat → State → Prop
  | 0, _ => True
  | n + 1, s => ∃ t, step s = .next t ∧ safeFor n t

end Sys2Proof.Machine
end

