-- ==== Sys2Proof/Certificates/Slice0/Obligations.lean ====
section
/-! DEFINITION. The statements for the provers, and the vocabulary in which they are written: what an instruction leaves unchanged, and how it completes. -/

namespace Sys2Proof.Claim
open Sys2Proof.Machine

/-! ### Frames -/

/-- Everything but the core in focus stands: every byte of memory, every other core, the tiles, viceroys, galleys, messages and hub blocks. -/
def RestStands (s t : State) : Prop := (∀ a, getByte t.mem a = getByte s.mem a) ∧ t = { s with core := t.core }

/-- In the core in focus only the context changes and the record of when it issues: the next instruction issues no earlier than `extra` cycles after the next (R125). -/
def IssuesAfter (extra : Nat) (s t : State) : Prop :=
  t.core = { s.core with ctx := t.core.ctx, nextIssue := s.gtc + 1 + extra, holdSince := none, holdSwitch := false, accepted := false, answer := none, asked := none }

/-- Of the context only the register files, the pending results, the PC and ENERGY, with the cycle's sum of charges, change: every other control register, FP_FLAGS among them, the exception
registers, the record, the mailbox and the handler window stand. -/
def ControlStands (s t : State) : Prop :=
  t.core.ctx = { s.core.ctx with
    regs := t.core.ctx.regs, pend := t.core.ctx.pend, pc := t.core.ctx.pc, recent := t.core.ctx.recent
    ctl := { s.core.ctx.ctl with energy := t.core.ctx.ctl.energy, energySat := t.core.ctx.ctl.energySat } }

/-- Of the register files only g and the loop state change: vector registers, masks, tags and tokens stand. -/
def OthersStand (s t : State) : Prop :=
  t.core.ctx.regs = { s.core.ctx.regs with g := t.core.ctx.regs.g, lc := t.core.ctx.regs.lc, loops := t.core.ctx.regs.loops }

/-- Level `n` stands: lc[n], START[n], END[n] and ACTIVE[n] are as before (R177). -/
def LevelStands (s t : State) (n : Fin 3) : Prop := t.core.ctx.regs.lc[n] = s.core.ctx.regs.lc[n] ∧ t.core.ctx.regs.loops[n] = s.core.ctx.regs.loops[n]

/-- Level `n` has ended: lc[n] = 0 and ACTIVE[n] = 0 (R179, R180). -/
def LevelEnded (s t : State) (n : Fin 3) : Prop := t.core.ctx.regs.lc[n] = 0#32 ∧ t.core.ctx.regs.loops[n] = { s.core.ctx.regs.loops[n] with active := false }

/-- Level `n` is active and ends at `q`. -/
def EndsAt (s : State) (q : BitVec 16) (n : Fin 3) : Prop := s.core.ctx.regs.loops[n].active = true ∧ s.core.ctx.regs.loops[n].stop = q

/-- Sequential flow to `q` with the check of R179: the highest level that ends there and has lc > 1 loops back, each level above it that ends there has ended,
and where no level loops back the PC is `q` and every level that ends there has ended. -/
def Follows (size : Nat) (s t : State) : Prop :=
  let q := s.core.ctx.pc + BitVec.ofNat 16 size
  let again (n : Fin 3) : Prop := EndsAt s q n ∧ 1 < s.core.ctx.regs.lc[n].toNat
  (∀ n, again n → (∀ m, n < m → ¬again m) →
    t.core.ctx.pc = s.core.ctx.regs.loops[n].start ∧ t.core.ctx.regs.lc[n] = s.core.ctx.regs.lc[n] - 1#32 ∧
    t.core.ctx.regs.loops[n] = s.core.ctx.regs.loops[n] ∧ (∀ m, m < n → LevelStands s t m) ∧
    (∀ m, n < m → (EndsAt s q m → LevelEnded s t m) ∧ (¬EndsAt s q m → LevelStands s t m))) ∧
  ((∀ n, ¬again n) → t.core.ctx.pc = q ∧ ∀ n, (EndsAt s q n → LevelEnded s t n) ∧ (¬EndsAt s q n → LevelStands s t n))

/-- A transfer of control to `x` (R176, R180): every active level whose body does not hold `x` has ended, every other level stands. -/
def TransfersTo (x : BitVec 16) (s t : State) : Prop :=
  t.core.ctx.pc = x ∧ ∀ n : Fin 3,
    let l := s.core.ctx.regs.loops[n]
    let outside := l.active = true ∧ ¬(x - l.start).toNat < (l.stop - l.start).toNat
    (outside → LevelEnded s t n) ∧ (¬outside → LevelStands s t n)

/-- g[d] := x; g0 stays 0; every other general register stands (R119, R126). -/
def WritesG (d : Reg) (x : Word) (s t : State) : Prop := (∀ r, r ≠ d → rdG t r = rdG s r) ∧ rdG t d = if d = 0#5 then 0#64 else x

/-- No general register changes. -/
def NoG (s t : State) : Prop := ∀ r, rdG t r = rdG s r

/-- `i` completes in `s`: exec answers a next state in which the machine's frame stands and `P` holds. -/
def Completes (i : Instr) (s : State) (size extra : Nat) (P : State → Prop) : Prop :=
  ∃ t, exec i s = .next t ∧ RestStands s t ∧ IssuesAfter extra s t ∧ ControlStands s t ∧ Follows size s t ∧ P t

/-- `i` completes with g[d] := x at latency 1. Earlier writes of g[d] that would fall due by the end of this cycle are overtaken (R127). -/
def GivesG (i : Instr) (s : State) (size extra : Nat) (d : Reg) (x : Word) : Prop :=
  Completes i s size extra fun t => OthersStand s t ∧ WritesG d x s t ∧
    t.core.ctx.pend = s.core.ctx.pend.filter fun p => !stalePend d (s.gtc + 1) p

/-- `i` completes with a word of which `P` holds in g[d]. -/
def GivesSome (i : Instr) (s : State) (size extra : Nat) (d : Reg) (P : Word → Prop) : Prop := ∃ x, P x ∧ GivesG i s size extra d x

/-- `i` completes with g[d] := x at latency `lat`: until then every register reads as before (R127). -/
def GivesGLater (i : Instr) (s : State) (size extra lat : Nat) (d : Reg) (x : Word) : Prop :=
  Completes i s size extra fun t => OthersStand s t ∧ NoG s t ∧
    t.core.ctx.pend = if d = 0#5 then s.core.ctx.pend else s.core.ctx.pend ++ [(s.gtc + lat, .writeG d x)]

/-- `i` completes and writes no register. -/
def GivesNothing (i : Instr) (s : State) (size extra : Nat) : Prop :=
  Completes i s size extra fun t => OthersStand s t ∧ NoG s t ∧ t.core.ctx.pend = s.core.ctx.pend

/-- `t` is `s` after nothing but the issue of one instruction of `size` bytes: the PC, the loop state and ENERGY move, all else stands. -/
def MovesOn (size extra : Nat) (s t : State) : Prop :=
  RestStands s t ∧ IssuesAfter extra s t ∧ ControlStands s t ∧ Follows size s t ∧ OthersStand s t ∧ t.core.ctx.regs.g = s.core.ctx.regs.g ∧
    t.core.ctx.pend = s.core.ctx.pend

/-- `i` completes with the effect that leads from `s` to `s1`, and then the PC moves on. -/
def CompletesAs (i : Instr) (s : State) (size extra : Nat) (s1 : State) : Prop := ∃ t, exec i s = .next t ∧ MovesOn size extra s1 t

/-- `i` transfers control to `x` with the effect that leads from `s` to `s1`. -/
def JumpsAs (i : Instr) (s : State) (extra : Nat) (x : BitVec 16) (s1 : State) : Prop :=
  ∃ t, exec i s = .next t ∧ RestStands s1 t ∧ IssuesAfter extra s1 t ∧ ControlStands s1 t ∧ TransfersTo x s1 t ∧ OthersStand s1 t ∧
    t.core.ctx.regs.g = s1.core.ctx.regs.g ∧ t.core.ctx.pend = s1.core.ctx.pend

/-- `i` transfers control to `x` with g[d] := link at latency 1. -/
def JumpsWithLink (i : Instr) (s : State) (extra : Nat) (x : BitVec 16) (d : Reg) (link : Word) : Prop :=
  ∃ t, exec i s = .next t ∧ RestStands s t ∧ IssuesAfter extra s t ∧ ControlStands s t ∧ TransfersTo x s t ∧ OthersStand s t ∧ WritesG d link s t ∧
    t.core.ctx.pend = s.core.ctx.pend.filter fun p => !stalePend d (s.gtc + 1) p

/-- `i` holds issue in `s`: it issues again in the next cycle and nothing else has changed (R129). -/
def Holds (i : Instr) (s : State) : Prop := ∃ b, exec i s = .next (hold b s)

/-- The detector's accesses once the issuing context's sync region has ended (R321): of the open ones, those of other agents. -/
def openAfter (s : State) : List OpenAccess := (endRegion s.core.ctx.rcd.chrys.toNat s).races

/-- No open access of another agent conflicts with an access (R317, R320). -/
def Unraced (s : State) (a : OpenAccess) : Prop := ∀ b ∈ s.races, b.closed = false → conflicts a b = false

/-- `s` after a sync operation of the issuing context: its region has ended, and its later accesses count from here (R315, R321). -/
def synced (s : State) : State := { setCtx s { s.core.ctx with syncSeq := s.core.seqNo } with races := openAfter s }

/-- Every byte of memory stands but the 64 of the record at `va`, into which a suspension writes PC and OWNER (R42, R356), and the flags byte of the table entry that maps it (R52). -/
def RecordSaved (va : Nat) (s t : State) : Prop :=
  (devKey s va = none → ∀ a, getByte t.mem a = getByte s.mem a) ∧
  ∀ p, devKey s va = some p → ∀ a, a < p ∨ p + 64 ≤ a → (∀ l, walk s va = some l → a ≠ l.addr + 8) → getByte t.mem a = getByte s.mem a

/-! ### Traps -/

/-- The issuing context is outside steward mode, its handler window in canonical form. -/
def User (s : State) : Prop := s.core.ctx.ctl.steward = false ∧ Memory.wf s.core.ctx.window = true

/-- `t` is `s` after it has taken an exact trap from outside steward mode (R357, R361, R367): pending results are written first, the loop state is saved in the handler
window and every ACTIVE is clear, the trap registers are set, the mode is steward mode, the PC is 0xF000 and the next instruction issues 6 cycles on. Every byte of
memory, every other register and everything outside the core stands, but that the context's sync region ends (R321). ENERGY may rise by the charge of the issue (R422). -/
structure EntersHandler (s t : State) (code : BitVec 8) (val : Word) (pc : BitVec 56) : Prop where
  trapRegs : t.core.ctx.ctl = { (flush s.core.ctx).ctl with
    trapPc := pc, trapVal := val, cause := { async := false, reason := 0#8, code := code }, jnl := {}, steward := true, savedAct := t.core.ctx.ctl.savedAct,
    energy := t.core.ctx.ctl.energy, energySat := t.core.ctx.ctl.energySat }
  entry : t.core.ctx.pc = 0xF000#16
  regs : t.core.ctx.regs = { (flush s.core.ctx).regs with loops := t.core.ctx.regs.loops }
  idle : ∀ n : Fin 3, t.core.ctx.regs.loops[n].active = false
  saved : ∀ n : Fin 3, windowLe t.core.ctx (4 * n) 4 = s.core.ctx.regs.lc[n].toNat ∧
    windowLe t.core.ctx (0xC + 2 * n) 2 = s.core.ctx.regs.loops[n].start.toNat ∧
    windowLe t.core.ctx (0x12 + 2 * n) 2 = s.core.ctx.regs.loops[n].stop.toNat ∧
    t.core.ctx.ctl.savedAct.getLsbD n = s.core.ctx.regs.loops[n].active
  pend : t.core.ctx.pend = []
  kept : t.core.ctx.rcd = (flush s.core.ctx).rcd ∧ t.core.ctx.mailbox = s.core.ctx.mailbox ∧ t.core.ctx.uncov = s.core.ctx.uncov ∧
    ∀ n, 0x18 ≤ n → windowByte t.core.ctx n = windowByte s.core.ctx n
  issue : t.core.nextIssue = s.gtc + 6
  bytes : ∀ a, getByte t.mem a = getByte s.mem a
  rest : t = { s with core := t.core, races := openAfter s }
  core : t.core = { s.core with ctx := t.core.ctx, nextIssue := t.core.nextIssue, holdSince := none, holdSwitch := false, accepted := false, answer := none, asked := none }

/-- `i` takes the exact trap `code` with TRAP_VAL `val` and TRAP_PC `pc`, from the state `s1` that its refused checks have left (R60). -/
def TrapsFrom (i : Instr) (s s1 : State) (code : BitVec 8) (val : Word) (pc : BitVec 56) : Prop := ∃ t, exec i s = .next t ∧ EntersHandler s1 t code val pc

/-- `i` takes the exact trap `code` with TRAP_VAL `val` and TRAP_PC `pc`, and has no other effect. -/
def Traps (i : Instr) (s : State) (code : BitVec 8) (val : Word) (pc : BitVec 56) : Prop := TrapsFrom i s s code val pc

/-- 1 where a condition holds, else 0. -/
def oneIf (p : Prop) [Decidable p] : Word := if p then 1#64 else 0#64

end Sys2Proof.Claim

open Sys2Proof Sys2Proof.Machine Sys2Proof.Claim

/-! ### Integer instructions -/

/-- ALUI, LIH and ADDPC (R165, R171, R172) and the compact C.ADDI and C.LI (R115): the value each gives, at latency 1, with its frame. -/
def Sys2Proof.Claim.ImmediateArithmetic : Prop :=
  ∀ (s : State) (sc : BitVec 2) (imm : BitVec 10) (sh : BitVec 6) (a d : Reg), underWait s [.g a] (some (.g d, 1)) = none →
    GivesG (.addi sc imm a d) s 4 sc.toNat d (rdG s a + imm.signExtend 64) ∧
    GivesG (.andi sc imm a d) s 4 sc.toNat d (rdG s a &&& imm.signExtend 64) ∧
    GivesG (.ori sc imm a d) s 4 sc.toNat d (rdG s a ||| imm.signExtend 64) ∧
    GivesG (.xori sc imm a d) s 4 sc.toNat d (rdG s a ^^^ imm.signExtend 64) ∧
    GivesG (.slti sc imm a d) s 4 sc.toNat d (oneIf ((rdG s a).toInt < imm.toInt)) ∧
    GivesG (.sltni sc imm a d) s 4 sc.toNat d (oneIf ((rdG s a).toNat < (imm.signExtend 64).toNat)) ∧
    GivesG (.slli sc sh a d) s 4 sc.toNat d (BitVec.ofNat 64 ((rdG s a).toNat * 2 ^ sh.toNat)) ∧
    GivesG (.srli sc sh a d) s 4 sc.toNat d (BitVec.ofNat 64 ((rdG s a).toNat / 2 ^ sh.toNat)) ∧
    GivesG (.srai sc sh a d) s 4 sc.toNat d (BitVec.ofInt 64 ((rdG s a).toInt / 2 ^ sh.toNat))

/-- LIH, ADDPC, C.ADDI and C.LI (R171, R172, R115, R194): the compact forms move the PC by 2. -/
def Sys2Proof.Claim.ConstantsAndCompactImmediates : Prop :=
  ∀ (s : State) (imm : BitVec 20) (i8 : BitVec 8) (r : BitVec 3) (d : Reg),
    (underWait s [] (some (.g d, 1)) = none →
      GivesG (.lih imm d) s 4 0 d (BitVec.ofInt 64 (imm.toInt * 1024)) ∧
      GivesG (.addpc imm d) s 4 0 d ((codeVa s s.core.ctx.pc).setWidth 64 + BitVec.ofInt 64 (imm.toInt * 1024))) ∧
    (underWait s [.g (8#5 + r.setWidth 5)] (some (.g (8#5 + r.setWidth 5), 1)) = none →
      GivesG (.cAddi r i8) s 2 0 (8#5 + r.setWidth 5) (rdG s (8#5 + r.setWidth 5) + i8.signExtend 64)) ∧
    (underWait s [] (some (.g (8#5 + r.setWidth 5), 1)) = none →
      GivesG (.cLi r i8) s 2 0 (8#5 + r.setWidth 5) (i8.signExtend 64))

/-- ALU (R166): the value each gives from g[a] and g[b], at latency 1, with its frame. -/
def Sys2Proof.Claim.RegisterArithmetic : Prop :=
  ∀ (s : State) (sc : BitVec 2) (b a d : Reg), underWait s [.g a, .g b] (some (.g d, 1)) = none →
    GivesG (.add sc b a d) s 4 sc.toNat d (BitVec.ofNat 64 ((rdG s a).toNat + (rdG s b).toNat)) ∧
    GivesG (.sub sc b a d) s 4 sc.toNat d (BitVec.ofInt 64 ((rdG s a).toInt - (rdG s b).toInt)) ∧
    GivesG (.andR sc b a d) s 4 sc.toNat d (rdG s a &&& rdG s b) ∧
    GivesG (.orR sc b a d) s 4 sc.toNat d (rdG s a ||| rdG s b) ∧
    GivesG (.xorR sc b a d) s 4 sc.toNat d (rdG s a ^^^ rdG s b) ∧
    GivesG (.andn sc b a d) s 4 sc.toNat d (rdG s a &&& ~~~rdG s b) ∧
    GivesG (.sll sc b a d) s 4 sc.toNat d (BitVec.ofNat 64 ((rdG s a).toNat * 2 ^ ((rdG s b).extractLsb' 0 6).toNat)) ∧
    GivesG (.srl sc b a d) s 4 sc.toNat d (BitVec.ofNat 64 ((rdG s a).toNat / 2 ^ ((rdG s b).extractLsb' 0 6).toNat)) ∧
    GivesG (.sra sc b a d) s 4 sc.toNat d (BitVec.ofInt 64 ((rdG s a).toInt / 2 ^ ((rdG s b).extractLsb' 0 6).toNat)) ∧
    GivesG (.slt sc b a d) s 4 sc.toNat d (oneIf ((rdG s a).toInt < (rdG s b).toInt)) ∧
    GivesG (.sltn sc b a d) s 4 sc.toNat d (oneIf ((rdG s a).toNat < (rdG s b).toNat)) ∧
    GivesG (.minS sc b a d) s 4 sc.toNat d (BitVec.ofInt 64 (min (rdG s a).toInt (rdG s b).toInt)) ∧
    GivesG (.maxS sc b a d) s 4 sc.toNat d (BitVec.ofInt 64 (max (rdG s a).toInt (rdG s b).toInt)) ∧
    GivesG (.minn sc b a d) s 4 sc.toNat d (BitVec.ofNat 64 (min (rdG s a).toNat (rdG s b).toNat)) ∧
    GivesG (.maxn sc b a d) s 4 sc.toNat d (BitVec.ofNat 64 (max (rdG s a).toNat (rdG s b).toNat))

/-- C.MV, C.ADD and C.SUB (R115, R194): r' names g8 to g15, and the PC moves by 2. -/
def Sys2Proof.Claim.CompactRegisterArithmetic : Prop :=
  ∀ (s : State) (r r2 : BitVec 3),
    (underWait s [.g (8#5 + r2.setWidth 5)] (some (.g (8#5 + r.setWidth 5), 1)) = none →
      GivesG (.cMv r r2) s 2 0 (8#5 + r.setWidth 5) (rdG s (8#5 + r2.setWidth 5))) ∧
    (underWait s [.g (8#5 + r.setWidth 5), .g (8#5 + r2.setWidth 5)] (some (.g (8#5 + r.setWidth 5), 1)) = none →
      GivesG (.cAdd r r2) s 2 0 (8#5 + r.setWidth 5) (rdG s (8#5 + r.setWidth 5) + rdG s (8#5 + r2.setWidth 5)) ∧
      GivesG (.cSub r r2) s 2 0 (8#5 + r.setWidth 5) (rdG s (8#5 + r.setWidth 5) - rdG s (8#5 + r2.setWidth 5)))

/-- The one-operand forms of BITS (R169), each by what its bits are: CLZ and CTZ count the zero bits before the first one bit, POPC the one bits. -/
def Sys2Proof.Claim.BitCountsAndReversals : Prop :=
  ∀ (s : State) (sc : BitVec 2) (a d : Reg), underWait s [.g a] (some (.g d, 1)) = none →
    GivesSome (.clz sc a d) s 4 sc.toNat d (fun y => y.toNat ≤ 64 ∧ (∀ n, n < y.toNat → (rdG s a).getLsbD (63 - n) = false) ∧
      (y.toNat < 64 → (rdG s a).getLsbD (63 - y.toNat) = true)) ∧
    GivesSome (.ctz sc a d) s 4 sc.toNat d (fun y => y.toNat ≤ 64 ∧ (∀ n, n < y.toNat → (rdG s a).getLsbD n = false) ∧
      (y.toNat < 64 → (rdG s a).getLsbD y.toNat = true)) ∧
    GivesG (.popc sc a d) s 4 sc.toNat d (BitVec.ofNat 64 ((List.range 64).countP fun n => (rdG s a).getLsbD n)) ∧
    GivesSome (.brev sc a d) s 4 sc.toNat d (fun y => ∀ n, n < 64 → y.getLsbD n = (rdG s a).getLsbD (63 - n)) ∧
    GivesSome (.bswap sc a d) s 4 sc.toNat d (fun y => ∀ n, n < 8 → y.extractLsb' (8 * n) 8 = (rdG s a).extractLsb' (8 * (7 - n)) 8)

/-- The field forms of BITS (R169, R170): g[b] names the field, bits [pos + len − 1 : pos] of g[a]; every bit of the result is stated. -/
def Sys2Proof.Claim.BitFields : Prop :=
  ∀ (s : State) (sc : BitVec 2) (b a d : Reg) (pos len : Nat),
    pos = ((rdG s b).extractLsb' 0 6).toNat → len = min ((rdG s b).extractLsb' 6 7).toNat (64 - pos) →
    (underWait s [.g a, .g b] (some (.g d, 1)) = none →
      GivesSome (.exts sc b a d) s 4 sc.toNat d (fun y => ∀ n, n < 64 → y.getLsbD n = (decide (0 < len) && (rdG s a).getLsbD (pos + min n (len - 1)))) ∧
      GivesSome (.extz sc b a d) s 4 sc.toNat d (fun y => ∀ n, n < 64 → y.getLsbD n = (decide (n < len) && (rdG s a).getLsbD (pos + n)))) ∧
    (underWait s [.g a, .g b, .g d] (some (.g d, 1)) = none →
      GivesSome (.ins sc b a d) s 4 sc.toNat d (fun y => ∀ n, n < 64 →
        y.getLsbD n = if pos ≤ n ∧ n < pos + len then (rdG s a).getLsbD (n - pos) else (rdG s d).getLsbD n))

/-- MUL, MULH and MULHN (R167): latency 3, and no register changes before then (R127). -/
def Sys2Proof.Claim.Multiplies : Prop :=
  ∀ (s : State) (sc : BitVec 2) (b a d : Reg), underWait s [.g a, .g b] (some (.g d, 3)) = none →
    GivesGLater (.mul sc b a d) s 4 sc.toNat 3 d (BitVec.ofNat 64 ((rdG s a).toNat * (rdG s b).toNat)) ∧
    GivesGLater (.mulh sc b a d) s 4 sc.toNat 3 d (((BitVec.ofInt 128 ((rdG s a).toInt * (rdG s b).toInt))).extractLsb' 64 64) ∧
    GivesGLater (.mulhn sc b a d) s 4 sc.toNat 3 d (((BitVec.ofNat 128 ((rdG s a).toNat * (rdG s b).toNat))).extractLsb' 64 64)

/-- NOP, DLY, IDLE and their compact forms (R118, R183, R192, R194): nothing but the PC moves, and DLY n holds the next issue n further cycles.
IDLE first waits for pending results; it completes once an event has come, and otherwise idles at a switch point, unless it ends without a visible cause. Where it rests on the model's own choices: log 53. -/
def Sys2Proof.Claim.NothingButThePc : Prop :=
  ∀ (s : State) (sc : BitVec 2) (imm : BitVec 10) (i8 : BitVec 8),
    GivesNothing (.nop sc) s 4 sc.toNat ∧ GivesNothing .cNop s 2 0 ∧
    GivesNothing (.dly sc imm) s 4 (imm.toNat + sc.toNat) ∧ GivesNothing (.cDly i8) s 2 i8.toNat ∧
    (s.core.ctx.pend ≠ [] → Holds (.idle sc) s) ∧
    (s.core.ctx.pend = [] → s.core.ctx.idle = some true → CompletesAs (.idle sc) s 4 sc.toNat (setCtx s { s.core.ctx with idle := none })) ∧
    (s.core.ctx.pend = [] → s.core.ctx.idle ≠ some true →
      let u : State := { s with freeCtr := s.freeCtr + 1 }
      CompletesAs (.idle sc) s 4 sc.toNat (setCtx u { s.core.ctx with idle := none }) ∨ exec (.idle sc) s = .next (hold true (setCtx u { s.core.ctx with idle := some false })))

/-- Immediate arithmetic, constants and their compact forms give what the rules say and leave the rest: each part as its own text says (R115, R165, R171, R172, R194). -/
def Obligations.ImmediateInstructions : Prop := Claim.ImmediateArithmetic ∧ Claim.ConstantsAndCompactImmediates

/-- Register arithmetic, its compact forms and the no-operations give what the rules say and leave the rest: each part as its own text says (R115, R118, R166, R183, R192, R194). -/
def Obligations.RegisterInstructions : Prop := Claim.RegisterArithmetic ∧ Claim.CompactRegisterArithmetic ∧ Claim.NothingButThePc

/-- Bit counts, reversals, field forms and multiplies: every result bit, with the frame: each part as its own text says (R127, R167, R169, R170). -/
def Obligations.BitInstructions : Prop := Claim.BitCountsAndReversals ∧ Claim.BitFields ∧ Claim.Multiplies

/-! ### Control flow -/

/-- JAL, JALR and the compact jumps (R173, R174, R176, R180, R194): the target, the link, and the loop levels that the transfer ends. -/
def Sys2Proof.Claim.Jumps : Prop :=
  ∀ (s : State) (sc : BitVec 2) (off : BitVec 20) (imm : BitVec 10) (off11 : BitVec 11) (r : BitVec 3) (a d : Reg) (x : BitVec 16),
    fetchTrap s x = none →
    (x = s.core.ctx.pc + BitVec.ofInt 16 (off.toInt * 2) → underWait s [] (some (.g d, 1)) = none →
      JumpsWithLink (.jal off d) s 0 x d ((s.core.ctx.pc + 4#16).setWidth 64)) ∧
    (rdG s a + imm.signExtend 64 = x.setWidth 64 → x.getLsbD 0 = false → underWait s [.g a] (some (.g d, 1)) = none →
      JumpsWithLink (.jalr sc imm a d) s sc.toNat x d ((s.core.ctx.pc + 4#16).setWidth 64)) ∧
    (rdG s (8#5 + r.setWidth 5) = x.setWidth 64 → x.getLsbD 0 = false → underWait s [.g (8#5 + r.setWidth 5)] none = none →
      JumpsWithLink (.cJr r) s 0 x 0#5 ((s.core.ctx.pc + 2#16).setWidth 64)) ∧
    (rdG s (8#5 + r.setWidth 5) = x.setWidth 64 → x.getLsbD 0 = false → underWait s [.g (8#5 + r.setWidth 5)] (some (.g 1#5, 1)) = none →
      JumpsWithLink (.cJalr r) s 0 x 1#5 ((s.core.ctx.pc + 2#16).setWidth 64)) ∧
    (x = s.core.ctx.pc + BitVec.ofInt 16 (off11.toInt * 2) → JumpsAs (.cJ off11) s 0 x s)

/-- BR, C.BEQZ and C.BNEZ (R175, R176): taken where the condition holds, else the next instruction follows; no register, flag or byte changes. -/
def Sys2Proof.Claim.Branches : Prop :=
  ∀ (s : State) (sc : BitVec 2) (imm : BitVec 10) (off : BitVec 8) (r : BitVec 3) (b a : Reg) (x xc : BitVec 16),
    x = s.core.ctx.pc + BitVec.ofInt 16 (imm.toInt * 2) → xc = s.core.ctx.pc + BitVec.ofInt 16 (off.toInt * 2) →
    (fetchTrap s x = none → underWait s [.g a, .g b] none = none →
      (rdG s a = rdG s b → JumpsAs (.beq sc imm b a) s sc.toNat x s ∧ GivesNothing (.bne sc imm b a) s 4 sc.toNat) ∧
      (rdG s a ≠ rdG s b → JumpsAs (.bne sc imm b a) s sc.toNat x s ∧ GivesNothing (.beq sc imm b a) s 4 sc.toNat) ∧
      ((rdG s a).toInt < (rdG s b).toInt → JumpsAs (.blt sc imm b a) s sc.toNat x s ∧ GivesNothing (.bge sc imm b a) s 4 sc.toNat) ∧
      ((rdG s b).toInt ≤ (rdG s a).toInt → JumpsAs (.bge sc imm b a) s sc.toNat x s ∧ GivesNothing (.blt sc imm b a) s 4 sc.toNat) ∧
      ((rdG s a).toNat < (rdG s b).toNat → JumpsAs (.bltn sc imm b a) s sc.toNat x s ∧ GivesNothing (.bgen sc imm b a) s 4 sc.toNat) ∧
      ((rdG s b).toNat ≤ (rdG s a).toNat → JumpsAs (.bgen sc imm b a) s sc.toNat x s ∧ GivesNothing (.bltn sc imm b a) s 4 sc.toNat)) ∧
    (fetchTrap s xc = none → underWait s [.g (8#5 + r.setWidth 5)] none = none →
      (rdG s (8#5 + r.setWidth 5) = 0#64 → JumpsAs (.cBeqz r off) s 0 xc s ∧ GivesNothing (.cBnez r off) s 2 0) ∧
      (rdG s (8#5 + r.setWidth 5) ≠ 0#64 → JumpsAs (.cBnez r off) s 0 xc s ∧ GivesNothing (.cBeqz r off) s 2 0))

/-- A transfer whose target fails R108 takes the trap that R108 names, with TRAP_PC its own code address, and neither PC nor link is written (R176); a jump to an address that is
no IMA or is odd takes the address fault (R174, R194). Outside steward mode. -/
def Sys2Proof.Claim.TransferFaults : Prop :=
  ∀ (s : State) (sc : BitVec 2) (off : BitVec 20) (imm : BitVec 10) (off11 : BitVec 11) (off8 : BitVec 8) (r : BitVec 3) (b a d : Reg) (c : Cause), User s →
    let pc := s.core.ctx.pc
    let faults (i : Instr) : Prop := Traps i s c.1 c.2 (codeVa s pc)
    let fails (n : Int) : Prop := fetchTrap s (pc + BitVec.ofInt 16 (n * 2)) = some c
    let rc : Reg := 8#5 + r.setWidth 5
    let y := rdG s a + imm.signExtend 64
    let noIma (x : Word) : Prop := 2 ^ 16 ≤ x.toNat ∨ x.getLsbD 0 = true
    (fails off.toInt → faults (.jal off d)) ∧
    (fails off11.toInt → faults (.cJ off11)) ∧
    (fails imm.toInt → underWait s [.g a, .g b] none = none →
      (rdG s a = rdG s b → faults (.beq sc imm b a)) ∧ (rdG s a ≠ rdG s b → faults (.bne sc imm b a)) ∧
      ((rdG s a).toInt < (rdG s b).toInt → faults (.blt sc imm b a)) ∧ ((rdG s b).toInt ≤ (rdG s a).toInt → faults (.bge sc imm b a)) ∧
      ((rdG s a).toNat < (rdG s b).toNat → faults (.bltn sc imm b a)) ∧ ((rdG s b).toNat ≤ (rdG s a).toNat → faults (.bgen sc imm b a))) ∧
    (fails off8.toInt → underWait s [.g rc] none = none →
      (rdG s rc = 0#64 → faults (.cBeqz r off8)) ∧ (rdG s rc ≠ 0#64 → faults (.cBnez r off8))) ∧
    (underWait s [.g a] none = none →
      (noIma y → Traps (.jalr sc imm a d) s 2#8 y (codeVa s pc)) ∧
      (¬noIma y → fetchTrap s (y.setWidth 16) = some c → faults (.jalr sc imm a d))) ∧
    (underWait s [.g rc] none = none →
      (noIma (rdG s rc) → Traps (.cJr r) s 2#8 (rdG s rc) (codeVa s pc) ∧ Traps (.cJalr r) s 2#8 (rdG s rc) (codeVa s pc)) ∧
      (¬noIma (rdG s rc) → fetchTrap s ((rdG s rc).setWidth 16) = some c → faults (.cJr r) ∧ faults (.cJalr r)))

/-- LOOP, LOOPI, LOOPM and LBRK (R178, R180, R181): a level starts with its count, a count of 0 skips the body, LBRK leaves an active level and does nothing for another. Where the slot
mailbox is empty, the head message is the first of those in the image's mailbox area. Where it rests on the model's own choices: log 19, 60. -/
def Obligations.Loops : Prop :=
  ∀ (s : State) (sc : BitVec 2) (len : BitVec 10) (a : Reg) (cnt : BitVec 8) (n : Fin 3) (start stop : BitVec 16),
    start = s.core.ctx.pc + 4#16 → stop = start + BitVec.ofNat 16 (2 * len.toNat) →
    let lv := BitVec.ofNat 2 n
    let begun (k : BitVec 32) : State := setRegs s { s.core.ctx.regs with
      lc := s.core.ctx.regs.lc.set n k, loops := s.core.ctx.regs.loops.set n { start := start, stop := stop, active := true } }
    let skipped : State := setRegs s { s.core.ctx.regs with
      lc := s.core.ctx.regs.lc.set n 0#32, loops := s.core.ctx.regs.loops.set n { s.core.ctx.regs.loops[n] with active := false } }
    let head : BitVec 32 := match inbox s with | [] => 0#32 | x :: _ => x.extractLsb' 0 32
    (∀ k, underWait s [.g a] none = none → k = min (rdG s a).toNat (2 ^ 32 - 1) → k ≠ 0 →
      CompletesAs (.loopG sc len a lv) s 4 sc.toNat (begun (BitVec.ofNat 32 k))) ∧
    (cnt ≠ 0#8 → CompletesAs (.loopi sc len cnt lv) s 4 sc.toNat (begun (cnt.setWidth 32))) ∧
    (head ≠ 0#32 → CompletesAs (.loopm sc len lv) s 4 sc.toNat (begun head)) ∧
    (fetchTrap s stop = none →
      (underWait s [.g a] none = none → rdG s a = 0#64 → JumpsAs (.loopG sc len a lv) s sc.toNat stop skipped) ∧
      JumpsAs (.loopi sc len 0#8 lv) s sc.toNat stop skipped ∧
      (head = 0#32 → JumpsAs (.loopm sc len lv) s sc.toNat stop skipped)) ∧
    (s.core.ctx.regs.loops[n].active = true → fetchTrap s s.core.ctx.regs.loops[n].stop = none →
      JumpsAs (.lbrk sc lv) s sc.toNat s.core.ctx.regs.loops[n].stop s) ∧
    (s.core.ctx.regs.loops[n].active = false → CompletesAs (.lbrk sc lv) s 4 sc.toNat s)

/-! ### Tokens -/

/-- WAIT (R184, R132, R134, R136): satisfied, it takes one cycle, covers the operations up to ordinal n and ends the sync region; else it holds issue,
or with the checking scoreboard takes UNDER_WAIT where no outstanding operation can satisfy it. The register form reads n from g[a]. -/
def Sys2Proof.Claim.Waits : Prop :=
  ∀ (s : State) (sc : BitVec 2) (imm : BitVec 15) (bank : BitVec 1) (k : BitVec 4) (a : Reg) (t : TokenName) (n : BitVec 16) (i : Instr),
    tokenBank s bank k = some t →
    (i = .waitImm sc imm bank k ∧ n = imm.setWidth 16) ∨ (i = .waitReg sc bank k a ∧ n = (rdG s a).setWidth 16 ∧ underWait s [.g a] none = none) →
    (((ctxToken s.core.ctx t).count - n).toNat < 2 ^ 15 →
      CompletesAs i s 4 sc.toNat
        (synced (setCtx s { s.core.ctx with uncov := s.core.ctx.uncov.filter fun e => !(e.token == t && e.done && decide ((n - e.ordinal).toNat < 2 ^ 15)) }))) ∧
    (¬((ctxToken s.core.ctx t).count - n).toNat < 2 ^ 15 →
      let ahead := (n - (ctxToken s.core.ctx t).issued).toNat
      (s.core.ctx.ctl.chkEn = false ∨ ahead = 0 ∨ 2 ^ 15 ≤ ahead → Holds i s) ∧
      (s.core.ctx.ctl.chkEn = true → 1 ≤ ahead → ahead < 2 ^ 15 → User s →
        Traps i s 9#8 (BitVec.ofNat 64 (3 * 2 ^ 12 + t.num.toNat * 2 ^ 8)) (codeVa s s.core.ctx.pc)))

/-- TKRD and TKSET (R185, R186): ISSUED and COUNT read in one cycle at latency 2; a quiescent token is set, and one with operations outstanding takes TOKEN_BUSY. -/
def Sys2Proof.Claim.TokenReadAndSet : Prop :=
  ∀ (s : State) (sc : BitVec 2) (imm : BitVec 15) (bank : BitVec 1) (k : BitVec 4) (a d : Reg) (t : TokenName), tokenBank s bank k = some t →
    let x := ctxToken s.core.ctx t
    let fixed (n : BitVec 16) (u : State) : Prop := ctxToken u.core.ctx t = { count := n, issued := n } ∧
      (∀ t', tokenBank s bank t'.num = some t' → t' ≠ t → ctxToken u.core.ctx t' = ctxToken s.core.ctx t') ∧ (∀ r, rdG u r = rdG s r) ∧ RestStands s u
    (underWait s [] (some (.g d, 2)) = none →
      GivesGLater (.tkrd sc bank k d) s 4 sc.toNat 2 d (BitVec.ofNat 64 (x.issued.toNat * 2 ^ 16 + x.count.toNat))) ∧
    (x.count = x.issued →
      (∃ u, exec (.tksetImm sc imm bank k) s = .next u ∧ fixed (imm.setWidth 16) u ∧ Follows 4 s u) ∧
      (underWait s [.g a] none = none → ∃ u, exec (.tksetReg sc bank k a) s = .next u ∧ fixed ((rdG s a).setWidth 16) u ∧ Follows 4 s u)) ∧
    (x.count ≠ x.issued → User s →
      Traps (.tksetImm sc imm bank k) s 11#8 (t.num.setWidth 64) (codeVa s s.core.ctx.pc) ∧
      (underWait s [.g a] none = none → Traps (.tksetReg sc bank k a) s 11#8 (t.num.setWidth 64) (codeVa s s.core.ctx.pc)))

/-- A context's token operations move COUNT and ISSUED as R131 says: issuing raises ISSUED by one, POST_TOKEN raises COUNT by one, each modulo 2^16,
and no other token moves. -/
def Sys2Proof.Claim.TokenArithmetic : Prop :=
  ∀ (s : State) (c : Ctx) (t t' : TokenName), (t.handler = true → t.num.toNat < 4) → (t'.handler = true → t'.num.toNat < 4) →
    (ctxToken (issueToken t s).core.ctx t = { ctxToken s.core.ctx t with issued := (ctxToken s.core.ctx t).issued + 1#16 }) ∧
    (t' ≠ t → ctxToken (issueToken t s).core.ctx t' = ctxToken s.core.ctx t') ∧
    (ctxToken (ctxPost c t) t = { ctxToken c t with count := (ctxToken c t).count + 1#16 }) ∧
    (t' ≠ t → ctxToken (ctxPost c t) t' = ctxToken c t')

/-- Jumps and branches: target, link, loop levels ended, frame, and the traps of a bad target: each part as its own text says (R108, R173, R174, R175, R176, R180, R194). -/
def Obligations.ControlTransfers : Prop := Claim.Jumps ∧ Claim.Branches ∧ Claim.TransferFaults

/-- Token waits, reads and writes, and what posting and issuing do to one token alone: each part as its own text says (R131, R132, R134, R136, R184, R185, R186). -/
def Obligations.TokenInstructions : Prop := Claim.Waits ∧ Claim.TokenReadAndSet ∧ Claim.TokenArithmetic

/-! ### Control registers -/

namespace Sys2Proof.Claim

/-- What CRD reads of each control register that both modes may read, but for GTC, VTIME and COPY_GO (R188). -/
def readable (s : State) : List (BitVec 12 × Word) :=
  let c := s.core.ctx.ctl
  [(0x000#12, c.owner.setWidth 64), (0x001#12, BitVec.ofNat 64 (coreId s.cur)), (0x002#12, BitVec.ofNat 64 (coreBase s.cur)),
   (0x005#12, BitVec.ofNat 64 (energyWord c)), (0x006#12, oneIf (c.chkEn = true)),
   (0x007#12, BitVec.ofNat 64 (s.core.acc.toNat + 256 * s.core.rf.toNat)), (0x008#12, c.fpFlags.setWidth 64),
   (0x009#12, s.core.ctx.regs.lc[0].setWidth 64), (0x00A#12, s.core.ctx.regs.lc[1].setWidth 64), (0x00B#12, s.core.ctx.regs.lc[2].setWidth 64),
   (0x010#12, c.copy.src), (0x011#12, c.copy.dst), (0x012#12, c.copy.len.setWidth 64), (0x013#12, c.copy.sta), (0x014#12, c.copy.stb),
   (0x015#12, c.copy.shape.setWidth 64), (0x016#12, c.copy.map), (0x017#12, c.copy.flags.setWidth 64),
   (0x020#12, c.fitAbs.setWidth 64), (0x021#12, c.fitRel.setWidth 64)]

/-- What CRD reads in steward mode of the registers that exist only there (R188, R361, R364). -/
def stewardReadable (s : State) : List (BitVec 12 × Word) :=
  let c := s.core.ctx.ctl
  [(0x040#12, c.trapPc.setWidth 64),
   (0x041#12, BitVec.ofNat 64 (c.cause.code.toNat + 2 ^ 8 * c.cause.reason.toNat + (if c.cause.async then 2 ^ 63 else 0))), (0x042#12, c.trapVal),
   (0x043#12, BitVec.ofNat 64 (c.jnl.entry.toNat + (if c.jnl.log then 2 ^ 5 else 0) + (if c.jnl.valid then 2 ^ 6 else 0))), (0x044#12, s.core.stopAt)]

/-- The plain registers that both modes may write, each with the bits it holds on unit `u` (R135, R188, R200, R256, R261, R277, R399): COPY_MAP of a compute core is the set of R261. -/
def writable (u : Nat) : List (BitVec 12 × Word) :=
  [(0x006#12, 1#64), (0x008#12, 0x1F#64), (0x010#12, BitVec.allOnes 64), (0x011#12, BitVec.allOnes 64), (0x012#12, 0xFFFFFF#64),
   (0x013#12, BitVec.allOnes 64), (0x014#12, BitVec.allOnes 64), (0x015#12, 0xFFFF#64), (0x016#12, if isCompute u then 0xF8FF1FFFC0#64 else BitVec.allOnes 64), (0x017#12, 0x7FF7FF#64),
   (0x020#12, 0xFFFFFFFF#64), (0x021#12, 0xFFFFFFFF#64)]

/-- The plain registers that only a steward may write, each with the bits it holds (R188, R361, R364). -/
def stewardWritable : List (BitVec 12 × Word) :=
  [(0x040#12, 0xFFFFFFFFFFFFFF#64), (0x041#12, 0x800000000000FFFF#64), (0x042#12, BitVec.allOnes 64), (0x043#12, 0x7F#64)]

/-- A write of control register `crn` that leaves `x` in it: every other control register reads as before (but ENERGY and the loop counts, which the issue itself moves),
and so do all register files and every byte of memory. -/
def WritesCr (i : Instr) (s : State) (crn : BitVec 12) (x : Word) : Prop :=
  ∃ t, exec i s = .next t ∧ RestStands s t ∧ IssuesAfter 0 s t ∧ Follows 4 s t ∧ OthersStand s t ∧ NoG s t ∧ t.core.ctx.pend = s.core.ctx.pend ∧
    crValue t crn = x ∧ ∀ c, c ≠ crn → c ∉ [0x005#12, 0x009#12, 0x00A#12, 0x00B#12] → crValue t c = crValue s c

/-- R61's condition for a write that would leave `o` in OWNER. -/
def MayEnter (s : State) (o : BitVec 12) : Prop :=
  if s.core.ctx.ctl.steward then o = 0#12 ∨ (ownerDesc s o).valid = true
  else
    o = s.core.ctx.ctl.owner ∨ (s.core.ctx.ctl.owner = 0#12 ∧ (ownerDesc s o).valid = true) ∨
    (s.core.ctx.ctl.owner ≠ 0#12 ∧ o ≠ 0#12 ∧ (ownerDesc s o).valid = true ∧
      ∃ e, findRange s s.core.ctx.ctl.owner (codeVa s s.core.ctx.pc).toNat = some e ∧ e.rights.getLsbD 4 = true ∧ (region s e.region).gen = e.gen ∧
        (region s e.region).creator = o)

end Sys2Proof.Claim

/-- CRD (R187, R188): g[d] := the register, at latency 2, and nothing else moves. -/
def Sys2Proof.Claim.ControlRegisterReads : Prop :=
  ∀ (s : State) (d : Reg), underWait s [] (some (.g d, 2)) = none →
    (∀ p ∈ readable s, GivesGLater (.crd p.1 d) s 4 0 2 d p.2) ∧
    (s.core.ctx.ctl.steward = true → ∀ p ∈ stewardReadable s, GivesGLater (.crd p.1 d) s 4 0 2 d p.2)

/-- CRD GTC returns the core's local copy of device time, at most 2 cycles ahead of the model's, and never less than the core has shown before (R21, R22); CRD VTIME completes too (R382). Where it rests on the model's own choices: log 6. -/
def Sys2Proof.Claim.DeviceTimeReads : Prop :=
  ∀ (s : State) (d : Reg), underWait s [] (some (.g d, 2)) = none →
    (∃ t, exec (.crd 0x003#12 d) s = .next t ∧ s.core.gtcSeen ≤ t.core.gtcSeen ∧ (s.core.gtcSeen ≤ s.gtc + 2 → s.gtc ≤ t.core.gtcSeen ∧ t.core.gtcSeen ≤ s.gtc + 2) ∧
      (d ≠ 0#5 → t.core.ctx.pend = s.core.ctx.pend ++ [(s.gtc + 2, .writeG d (BitVec.ofNat 64 t.core.gtcSeen))]) ∧
      (∀ a, getByte t.mem a = getByte s.mem a) ∧ NoG s t ∧ Follows 4 s t) ∧
    (∃ t x, exec (.crd 0x004#12 d) s = .next t ∧ (d ≠ 0#5 → t.core.ctx.pend = s.core.ctx.pend ++ [(s.gtc + 2, .writeG d x)]) ∧
      (∀ a, getByte t.mem a = getByte s.mem a) ∧ NoG s t ∧ Follows 4 s t)

/-- CWR, CSET and CCLR of the plain control registers (R187, R188): the register holds the new value in the bits it has, and every other register stands. -/
def Sys2Proof.Claim.ControlRegisterWrites : Prop :=
  ∀ (s : State) (a : Reg) (crn : BitVec 12) (mask : Word), underWait s [.g a] none = none →
    ((crn, mask) ∈ writable s.cur ∨ (s.core.ctx.ctl.steward = true ∧ (crn, mask) ∈ stewardWritable)) →
    WritesCr (.cwr crn a) s crn (rdG s a &&& mask) ∧ WritesCr (.cset crn a) s crn ((crValue s crn ||| rdG s a) &&& mask) ∧
    WritesCr (.cclr crn a) s crn (crValue s crn &&& ~~~rdG s a &&& mask)

/-- The accesses that R187 refuses, outside steward mode: an unassigned CRN and a write of an R register are illegal, a steward register is protected. -/
def Sys2Proof.Claim.ControlRegisterFaults : Prop :=
  ∀ (s : State) (a d : Reg), User s →
    (∀ crn : BitVec 12, crn.toNat ∈ [0x00C, 0x01F, 0x022, 0x045, 0xFFF] →
      Traps (.crd crn d) s 1#8 (s.core.ir.setWidth 64) (codeVa s s.core.ctx.pc) ∧ Traps (.cwr crn a) s 1#8 (s.core.ir.setWidth 64) (codeVa s s.core.ctx.pc)) ∧
    (∀ crn : BitVec 12, crn.toNat ∈ [0x001, 0x002, 0x003, 0x004, 0x005, 0x007, 0x009, 0x00A, 0x00B, 0x018] →
      Traps (.cwr crn a) s 1#8 (s.core.ir.setWidth 64) (codeVa s s.core.ctx.pc) ∧ Traps (.cset crn a) s 1#8 (s.core.ir.setWidth 64) (codeVa s s.core.ctx.pc) ∧
      Traps (.cclr crn a) s 1#8 (s.core.ir.setWidth 64) (codeVa s s.core.ctx.pc)) ∧
    (∀ crn : BitVec 12, crn.toNat ∈ [0x040, 0x041, 0x042, 0x043, 0x044] →
      Traps (.crd crn d) s 3#8 (crn.setWidth 64) (codeVa s s.core.ctx.pc) ∧ Traps (.cwr crn a) s 3#8 (crn.setWidth 64) (codeVa s s.core.ctx.pc))

/-- Writes of OWNER (R61): they take effect in the cases that the rule lists, for CWR and for OWNER_WRITE, and change nothing but OWNER; every other one takes the
protection fault with the owner as TRAP_VAL. Bits [63:12] read 0. -/
def Obligations.OwnerWrites : Prop :=
  ∀ (s : State) (a : Reg) (x : Word), let o : BitVec 12 := x.setWidth 12
    crValue s 0#12 = s.core.ctx.ctl.owner.setWidth 64 ∧
    (MayEnter s o →
      CompletesAs (.ownerWrite x) s 4 0 (setCtl s { s.core.ctx.ctl with owner := o }) ∧
      (rdG s a = x → underWait s [.g a] none = none → CompletesAs (.cwr 0#12 a) s 4 0 (setCtl s { s.core.ctx.ctl with owner := o })) ∧
      (crValue s 0#12 ||| rdG s a = x → underWait s [.g a] none = none → CompletesAs (.cset 0#12 a) s 4 0 (setCtl s { s.core.ctx.ctl with owner := o })) ∧
      (crValue s 0#12 &&& ~~~rdG s a = x → underWait s [.g a] none = none → CompletesAs (.cclr 0#12 a) s 4 0 (setCtl s { s.core.ctx.ctl with owner := o }))) ∧
    (¬MayEnter s o → User s →
      Traps (.ownerWrite x) s 3#8 (o.setWidth 64) (codeVa s s.core.ctx.pc) ∧
      (rdG s a = x → underWait s [.g a] none = none → Traps (.cwr 0#12 a) s 3#8 (o.setWidth 64) (codeVa s s.core.ctx.pc))) ∧
    (¬MayEnter s o → s.core.ctx.ctl.steward = true → exec (.ownerWrite x) s = .next (faultStop 3#8 (charge (issueClass s.core.ir) 1 s)))

/-- A steward's writes of ENERGY, STOP_AT and PART_WORD (R244, R376, R421), by CWR and as the events of their names: charges of the same cycle are added to the written ENERGY, a bad PART_WORD is ignored, and one waits for the
engine work into the pool. Where it rests on the model's own choices: log 39. -/
def Sys2Proof.Claim.StewardRegisterWrites : Prop :=
  ∀ (s : State) (a : Reg) (x : Word), s.core.ctx.ctl.steward = true → rdG s a = x → underWait s [.g a] none = none →
    let written : Ctx := { s.core.ctx with recent := 0, ctl := { s.core.ctx.ctl with energy := x.toNat % 2 ^ 48 * 4096, energySat := x.getLsbD 48 } }
    let energy : State := setCtx s (addEnergy written s.core.ctx.recent)
    let armed : State := { s with core := { s.core with stopAt := x } }
    CompletesAs (.cwr 0x005#12 a) s 4 0 energy ∧ CompletesAs (.energyWrite x) s 4 0 energy ∧
    CompletesAs (.cwr 0x044#12 a) s 4 0 armed ∧ CompletesAs (.stopAtWrite x) s 4 0 armed ∧
    (partOk s.cur (x.setWidth 13) = false → CompletesAs (.cwr 0x007#12 a) s 4 0 s ∧ CompletesAs (.partWordWrite x) s 4 0 s) ∧
    (partOk s.cur (x.setWidth 13) = true → partWaits s s.cur = false →
      CompletesAs (.cwr 0x007#12 a) s 4 0 (applyPart s.cur (x.setWidth 13) s) ∧ CompletesAs (.partWordWrite x) s 4 0 (applyPart s.cur (x.setWidth 13) s)) ∧
    (partOk s.cur (x.setWidth 13) = true → partWaits s s.cur = true → Holds (.cwr 0x007#12 a) s ∧ Holds (.partWordWrite x) s)

/-! ### Taking a trap and returning -/

/-- The traps that instructions and encodings raise outright, outside steward mode (R108, R118, R189, R191, R193, R360): the cause, TRAP_VAL and TRAP_PC of each,
and the whole of the entry (R357). -/
def Sys2Proof.Claim.TrapEntry : Prop :=
  ∀ (s : State) (sc : BitVec 2) (code : BitVec 10) (w : BitVec 32) (n : BitVec 4) (len : BitVec 10) (cnt : BitVec 8) (c : Cause), User s →
    Traps (.trapI sc code) s 13#8 (code.setWidth 64) (codeVa s s.core.ctx.pc + 4#56) ∧
    (armedGroup s s.cur = none → Traps (.brk sc code) s 14#8 (code.setWidth 64) (codeVa s s.core.ctx.pc + 4#56)) ∧
    Traps (.illegalInstruction w) s 1#8 (w.setWidth 64) (codeVa s s.core.ctx.pc) ∧
    (fetchTrap s s.core.ctx.pc = some c → Traps .notLandedFetch s c.1 c.2 (codeVa s s.core.ctx.pc)) ∧
    Traps (.eret sc) s 1#8 (s.core.ir.setWidth 64) (codeVa s s.core.ctx.pc) ∧
    Traps (.replay sc n) s 1#8 (s.core.ir.setWidth 64) (codeVa s s.core.ctx.pc) ∧
    Traps (.loopi sc len cnt 3#2) s 1#8 (s.core.ir.setWidth 64) (codeVa s s.core.ctx.pc)

/-- An exact trap in steward mode (R365): the handler is not entered again; the slot stops issuing with STATE STOPPED, PRE RUNNING and FSTOP, its trap registers keep their values,
and a FAULT event with the cause goes to the slot's partition. -/
def Sys2Proof.Claim.TrapInStewardMode : Prop :=
  ∀ (s : State) (sc : BitVec 2) (code : BitVec 10) (n : BitVec 3), s.core.ctx.ctl.steward = true → s.core.issuing = some n →
    let sl := s.core.slots[n.toNat]'(n.isLt)
    ∃ t u, exec (.trapI sc code) s = .next t ∧
      t = writeEventTo sl.part (eventOf (slotKind s.cur 7) 0 sl.cont (coreNumber s.cur) n.toNat 13#32) u ∧ u.mem = s.mem ∧ u.hub = s.hub ∧ u.others = s.others ∧
      u.core.issuing = none ∧
      (∀ m : Fin 8, m.val ≠ n.toNat → u.core.slots[m] = s.core.slots[m]) ∧
      let c := (u.core.slots[n.toNat]'(n.isLt)).ctx
      c.rcd.state = .stopped ∧ c.rcd.pre = .running ∧ c.rcd.fstop = true ∧ c.ctl = { (flush s.core.ctx).ctl with energy := c.ctl.energy, energySat := c.ctl.energySat } ∧ c.regs = (flush s.core.ctx).regs ∧
      c.codePc = codeVa s s.core.ctx.pc

/-- ERET with no late fault to discard and none pending (R190, R359): the loop state comes back from the handler window, steward mode ends and the PC is where TRAP_PC resolves;
registers, tokens, memory and the other control registers stand. -/
def Sys2Proof.Claim.TrapReturn : Prop :=
  ∀ (s : State) (sc : BitVec 2) (p : BitVec 16), s.core.ctx.ctl.steward = true → s.core.issuing.isSome = true →
    (∀ n : Fin 16, discarded s.core.ctx.rcd.chrys s.core.log[n] = false) → pendTraps s.core s.core.ctx.rcd.chrys = [] →
    resolve (setCtl s { s.core.ctx.ctl with steward := false }) (s.core.ctx.ctl.trapPc.setWidth 64) = .ok p →
    ∃ t, exec (.eret sc) s = .next t ∧ t.core.ctx.pc = p ∧ t.core.nextIssue = s.gtc + 1 + sc.toNat ∧
      (∀ n : Fin 3, t.core.ctx.regs.lc[n].toNat = windowLe s.core.ctx (4 * n) 4 ∧
        t.core.ctx.regs.loops[n].start.toNat = windowLe s.core.ctx (0xC + 2 * n) 2 ∧
        t.core.ctx.regs.loops[n].stop.toNat = windowLe s.core.ctx (0x12 + 2 * n) 2 ∧
        t.core.ctx.regs.loops[n].active = s.core.ctx.ctl.savedAct.getLsbD n) ∧
      t.core.ctx.regs = { s.core.ctx.regs with lc := t.core.ctx.regs.lc, loops := t.core.ctx.regs.loops } ∧
      t.core.ctx.ctl = { s.core.ctx.ctl with
        steward := false, energy := t.core.ctx.ctl.energy, energySat := t.core.ctx.ctl.energySat
        hold := t.core.ctx.ctl.hold, holdCh := t.core.ctx.ctl.holdCh, holdCore := t.core.ctx.ctl.holdCore } ∧
      (∀ a, getByte t.mem a = getByte s.mem a) ∧ t.hub = s.hub ∧ t.others = s.others ∧ t.core.log = s.core.log ∧ t.core.journal = s.core.journal

/-- TRAP and then ERET bring a continuation back where it was (R182, R357, R359): the next instruction, with its loop state and its registers, outside steward mode. -/
def Obligations.TrapThenReturn : Prop :=
  ∀ (s : State) (sc sc2 : BitVec 2) (code : BitVec 10) (t : State), User s → s.core.issuing.isSome = true → s.core.ctx.pend = [] →
    (∀ n : Fin 16, discarded s.core.ctx.rcd.chrys s.core.log[n] = false) → pendTraps s.core s.core.ctx.rcd.chrys = [] →
    resolve s ((codeVa s s.core.ctx.pc + 4#56).setWidth 64) = .ok (s.core.ctx.pc + 4#16) →
    exec (.trapI sc code) s = .next t →
    ∃ u, exec (.eret sc2) t = .next u ∧ u.core.ctx.pc = s.core.ctx.pc + 4#16 ∧ u.core.ctx.ctl.steward = false ∧ u.core.ctx.regs = s.core.ctx.regs ∧
      u.core.ctx.ctl.owner = s.core.ctx.ctl.owner ∧ u.core.ctx.ctl.fpFlags = s.core.ctx.ctl.fpFlags ∧ (∀ a, getByte u.mem a = getByte s.mem a)

/-- Control registers: reads, writes, and refusals outside steward mode: each part as its own text says (R21, R22, R187, R188, R244, R376, R382, R421). -/
def Obligations.ControlRegisters : Prop := Claim.ControlRegisterReads ∧ Claim.DeviceTimeReads ∧ Claim.ControlRegisterWrites ∧ Claim.ControlRegisterFaults ∧ Claim.StewardRegisterWrites

/-- Entering a trap, a trap in steward mode, and the return: each part as its own text says (R108, R118, R189, R190, R191, R193, R357, R359, R360, R365). -/
def Obligations.TrapsInAndOut : Prop := Claim.TrapEntry ∧ Claim.TrapInStewardMode ∧ Claim.TrapReturn

/-! ### Loads and stores -/

namespace Sys2Proof.Claim

/-- A load as an instruction: its length, its stall count, its token field, its address register, its effective address, log2 of its bytes, its destination and what it writes there
of the bytes it reads as a little-endian number. -/
structure Load where
  len   : Nat
  extra : Nat
  k     : BitVec 4
  a     : Reg
  ea    : Word
  log   : Nat
  dest  : Dest
  write : Nat → Pending

/-- A scalar load of n = 8 × 2^log bits (R161, R162). -/
def scalar (log : Nat) (signed : Bool) (sc : BitVec 2) (k : BitVec 4) (imm : BitVec 6) (a d : Reg) (s : State) : Load :=
  { len := 4, extra := sc.toNat, k := k, a := a, ea := rdG s a + BitVec.ofInt 64 (imm.toInt * 2 ^ log), log := log, dest := .g d
    write := fun x => .writeG d (if signed then (BitVec.ofNat (8 * 2 ^ log) x).signExtend 64 else (BitVec.ofNat (8 * 2 ^ log) x).setWidth 64) }

/-- A vector load (R218): the 32 bytes, or one element in every lane. -/
def vector (log : Nat) (lanes : Nat) (sc : BitVec 2) (k : BitVec 4) (imm : BitVec 6) (a d : Reg) (s : State) : Load :=
  { len := 4, extra := sc.toNat, k := k, a := a, ea := rdG s a + BitVec.ofInt 64 (imm.toInt * 2 ^ log), log := log, dest := .v d
    write := fun x => .writeV d (BitVec.ofNat 256 (packNat (8 * 2 ^ log) (List.replicate lanes x))) }

/-- The loads (R115, R161, R218). -/
def loadOf (i : Instr) (s : State) : Option Load :=
  match i with
  | .ldb sc k imm a d => some (scalar 0 true sc k imm a d s)
  | .ldbz sc k imm a d => some (scalar 0 false sc k imm a d s)
  | .ldh sc k imm a d => some (scalar 1 true sc k imm a d s)
  | .ldhz sc k imm a d => some (scalar 1 false sc k imm a d s)
  | .ldw sc k imm a d => some (scalar 2 true sc k imm a d s)
  | .ldwz sc k imm a d => some (scalar 2 false sc k imm a d s)
  | .ldd sc k imm a d => some (scalar 3 true sc k imm a d s)
  | .cLdd r r2 off => some { scalar 3 true 0#2 0#4 0#6 (8#5 + r2.setWidth 5) (8#5 + r.setWidth 5) s with
      len := 2, ea := rdG s (8#5 + r2.setWidth 5) + BitVec.ofNat 64 (off.toNat * 8) }
  | .ldv sc k imm a d => some (vector 5 1 sc k imm a d s)
  | .ldve8 sc k imm a d => some (vector 0 32 sc k imm a d s)
  | .ldve16 sc k imm a d => some (vector 1 16 sc k imm a d s)
  | .ldve32 sc k imm a d => some (vector 2 8 sc k imm a d s)
  | .ldve64 sc k imm a d => some (vector 3 4 sc k imm a d s)
  | _ => none

/-- The load's token may be used and the scoreboard and earlier acquires let it issue (R112, R131, R136, R332). -/
def LoadReady (L : Load) (t : TokenName) (s : State) : Prop :=
  acquirePending s = false ∧ underWait s [.g L.a] none = none ∧ tokenOf s L.k = some t ∧ ((ctxToken s.core.ctx t).issued - (ctxToken s.core.ctx t).count).toNat < 2 ^ 15 - 1

/-- The core's own scratchpad holds `n` bytes at private alias `ea`, the access waits for no earlier one (R315, R322), and it conflicts with no open one (R246, R317); an STRL of
the context in flight is performed ahead of it (R333). -/
def OwnBytes (s : State) (ea : Word) (n : Nat) (write : Bool) (sync : Option (BitVec 3)) : Prop :=
  s.core.ctx.ctl.steward = false ∧ place (onCompute s) ea.toNat = .priv ea.toNat ∧ ea.toNat + n ≤ scratchSize s.cur s.core ∧
    privWaits s (poolKey s.cur ea.toNat) n write sync = false ∧
    ∀ i, i < (n + 31) / 32 → Unraced (landStrl s) (myAccess (landStrl s) (poolKey s.cur ea.toNat + 32 * i) write true sync)

/-- `s` after the core has read `n` bytes at private alias `ea` for an instruction: an STRL of the context in flight is performed ahead of it (R333), and the detector knows the read. -/
def ownRead (s : State) (ea : Word) (n : Nat) : State :=
  (List.range ((n + 31) / 32)).foldl (fun t i => addAccess (myAccess t (poolKey s.cur ea.toNat + 32 * i) false true none) t) (landStrl s)

/-- `s1` is `s` after the checks and the translation of an access at `ea` (R52, R60, R69): the PLB may have moved; where the address is of the heap, its page's entry has A set and the rights
block's table registers are fixed; no other byte has changed. -/
def Checked (s s1 : State) (ea : Word) : Prop :=
  s1 = { s with
    core := { s.core with plb := s1.core.plb }, mem := s1.mem, hub := { s.hub with rights := { s.hub.rights with locked := s1.hub.rights.locked } } } ∧
  (place true ea.toNat ≠ .heap → s1.mem = s.mem ∧ s1.hub = s.hub) ∧
  ∀ l, place true ea.toNat = .heap → walk s ea.toNat = some l → ∀ a, getByte s1.mem a = if a = l.addr + 8 then getByte s.mem a ||| 1#8 else getByte s.mem a

/-- What issuing a load changes, after its checks, beside its destination's record: ISSUED of its token, and the core's log and detector notes. No register and no byte changes. -/
structure LoadIssued (L : Load) (k : TokenName) (s t : State) : Prop where
  bytes : ∀ a, getByte t.mem a = getByte s.mem a
  rest : t = { s with core := t.core, races := t.races }
  core : t.core = { s.core with
    ctx := t.core.ctx, log := t.core.log, seqNo := t.core.seqNo, nextIssue := s.gtc + 1 + L.extra
    holdSince := none, holdSwitch := false, accepted := false, answer := none, asked := none }
  ctx : t.core.ctx = { s.core.ctx with
    regs := t.core.ctx.regs, pend := t.core.ctx.pend, uncov := t.core.ctx.uncov, pc := t.core.ctx.pc, recent := t.core.ctx.recent
    ctl := { s.core.ctx.ctl with energy := t.core.ctx.ctl.energy, energySat := t.core.ctx.ctl.energySat } }
  files : t.core.ctx.regs = { s.core.ctx.regs with k := t.core.ctx.regs.k, hk := t.core.ctx.regs.hk, lc := t.core.ctx.regs.lc, loops := t.core.ctx.regs.loops }
  token : ctxToken t.core.ctx k = { ctxToken s.core.ctx k with issued := (ctxToken s.core.ctx k).issued + 1#16 }
  tokens : ∀ k' n, tokenOf s n = some k' → k' ≠ k → ctxToken t.core.ctx k' = ctxToken s.core.ctx k'
  uncovered : destLive L.dest = true → ∃ e ∈ t.core.ctx.uncov, e.dest = L.dest ∧ e.token = k ∧ e.ordinal = (ctxToken s.core.ctx k).issued + 1#16
  flow : Follows L.len s t

/-- A store as an instruction: its length, stall count, operands, effective address, log2 of its span and the bytes it stores by offset. -/
structure Store where
  len   : Nat
  extra : Nat
  reads : List Dest
  ea    : Word
  log   : Nat
  cells : List (Nat × Byte)

/-- The low `n` bytes of a number, by offset. -/
def lowBytes (n x : Nat) : List (Nat × Byte) := (List.range n).map fun j => (j, BitVec.ofNat 8 (x / 256 ^ j))

/-- A scalar store (R163, R164). -/
def scalarSt (log : Nat) (sc : BitVec 2) (imm : BitVec 10) (b a : Reg) (s : State) : Store :=
  { len := 4, extra := sc.toNat, reads := [.g a, .g b], ea := rdG s a + BitVec.ofInt 64 (imm.toInt * 2 ^ log), log := log, cells := lowBytes (2 ^ log) (rdG s b).toNat }

/-- The stores (R115, R163, R219); STVM stores the bytes of the lanes that its mask enables (R217). -/
def storeOf (i : Instr) (s : State) : Option Store :=
  match i with
  | .stb sc imm b a => some (scalarSt 0 sc imm b a s)
  | .sth sc imm b a => some (scalarSt 1 sc imm b a s)
  | .stw sc imm b a => some (scalarSt 2 sc imm b a s)
  | .std sc imm b a => some (scalarSt 3 sc imm b a s)
  | .cStd r r2 off => some { scalarSt 3 0#2 0#10 (8#5 + r.setWidth 5) (8#5 + r2.setWidth 5) s with
      len := 2, ea := rdG s (8#5 + r2.setWidth 5) + BitVec.ofNat 64 (off.toNat * 8) }
  | .stv sc imm b a => some
      { len := 4, extra := sc.toNat, reads := [.g a, .v b], ea := rdG s a + BitVec.ofInt 64 (imm.toInt * 32), log := 5, cells := lowBytes 32 (rdV s b).toNat }
  | .stvm sc imm m b a => some
      { len := 4, extra := sc.toNat, reads := [.g a, .v b, .m m], ea := rdG s a + BitVec.ofInt 64 (imm.toInt * 32), log := 5
        cells := (lowBytes 32 (rdV s b).toNat).filter fun c => (rdM s m).getLsbD (c.1 / 2 ^ (ctxTag s.core.ctx m).toNat) }
  | _ => none

/-- What a store changes, after its checks: no register, flag, token or control register but ENERGY; the journal and the detector's notes may change. -/
structure StoreIssued (len extra : Nat) (s t : State) : Prop where
  rest : t = { s with core := t.core, mem := t.mem, races := t.races }
  core : t.core = { s.core with
    ctx := t.core.ctx, journal := t.core.journal, seqNo := t.core.seqNo, nextIssue := s.gtc + 1 + extra
    holdSince := none, holdSwitch := false, accepted := false, answer := none, asked := none }
  ctx : ControlStands s t
  files : OthersStand s t
  g : NoG s t
  pend : t.core.ctx.pend = s.core.ctx.pend
  flow : Follows len s t

/-- The bytes `cells` are stored from storage key `key` on, and every other byte reads as before. -/
def Stored (key : Nat) (cells : List (Nat × Byte)) (s t : State) : Prop :=
  (∀ c ∈ cells, getByte t.mem (key + c.1) = c.2) ∧ (∀ a, (∀ c ∈ cells, a ≠ key + c.1) → getByte t.mem a = getByte s.mem a)

end Sys2Proof.Claim

/-- A load through the private alias (R157, R161, R162, R218): it reads the scratchpad in its issue cycle, its destination is written and its token posts at t + 3,
and until then no register changes. With the checking scoreboard on, its write must not meet another (R136 KIND 2). The context's own STRL in flight is performed first. Where it rests on the model's own choices: log 17, 59. -/
def Sys2Proof.Claim.PrivateLoads : Prop :=
  ∀ (i : Instr) (s : State) (L : Load) (k : TokenName), loadOf i s = some L → LoadReady L k s → underWait s [] (some (L.dest, 3)) = none →
    L.ea.toNat % 2 ^ L.log = 0 → OwnBytes s L.ea (2 ^ L.log) false none →
    ∃ t, exec i s = .next t ∧ LoadIssued L k (landStrl s) t ∧ t.core.log = s.core.log ∧
      t.core.ctx.pend = s.core.ctx.pend ++
        [(s.gtc + 3, L.write (getLe (landStrl s).mem (poolKey s.cur L.ea.toNat) (2 ^ L.log))), (s.gtc + 3, .post k)]

/-- A load elsewhere (R158, R162): after its checks it takes the lowest free entry of the operand log, which records the word, g[a], the owner, the destination and the token;
with no entry free it holds issue. -/
def Sys2Proof.Claim.LoggedLoads : Prop :=
  ∀ (i : Instr) (s s1 : State) (L : Load) (k : TokenName) (st : Stamp), loadOf i s = some L → LoadReady L k s → L.ea.toNat % 2 ^ L.log = 0 → Memory.wf s.mem = true →
    checkRoute s L.ea (2 ^ L.log) [.I] = .ok (st, .remote, s1) →
    Checked s s1 L.ea ∧ ((∀ n : Fin 16, s.core.log[n] ≠ none) → exec i s = .next (hold false s1)) ∧
    (∀ n : Fin 16, s.core.log[n] = none → (∀ m, m < n → s.core.log[m] ≠ none) →
      ∃ t e, exec i s = .next t ∧ LoadIssued L k s1 t ∧ t.core.log = s.core.log.set n (some e) ∧ t.core.ctx.pend = s.core.ctx.pend ∧
        e.word = s.core.ir ∧ e.base = rdG s L.a ∧ e.ea = L.ea ∧ e.sizeLog = L.log ∧ e.token = k ∧ e.owner = acting s ∧ e.ctx = s.core.ctx.rcd.chrys ∧ e.stamp = st ∧
        e.held = none ∧ (∀ d, L.dest = .g d → e.dest = d ∧ e.vecDest = false) ∧ (∀ d, L.dest = .v d → e.dest = d ∧ e.vecDest = true))

/-- What a load refuses before it has any effect, outside steward mode (R58, R131, R162, R246): a misaligned address, an address past the scratchpad, a token with 2^15 − 1 operations
outstanding. Where it rests on the model's own choices: log 17. -/
def Sys2Proof.Claim.LoadFaults : Prop :=
  ∀ (i : Instr) (s : State) (L : Load) (k : TokenName), loadOf i s = some L → User s → acquirePending s = false → underWait s [.g L.a] none = none → tokenOf s L.k = some k →
    (L.ea.toNat % 2 ^ L.log ≠ 0 → Traps i s 2#8 L.ea (codeVa s s.core.ctx.pc)) ∧
    (L.ea.toNat % 2 ^ L.log = 0 → place (onCompute s) L.ea.toNat = .priv L.ea.toNat →
      (scratchSize s.cur s.core < L.ea.toNat + 2 ^ L.log → Traps i s 3#8 L.ea (codeVa s s.core.ctx.pc)) ∧
      (L.ea.toNat + 2 ^ L.log ≤ scratchSize s.cur s.core → 2 ^ 15 - 1 ≤ ((ctxToken s.core.ctx k).issued - (ctxToken s.core.ctx k).count).toNat →
        Traps i s 10#8 (k.num.setWidth 64) (codeVa s s.core.ctx.pc)))

/-- A store through the private alias (R157, R163, R164, R219): its bytes are in the scratchpad at the end of its issue cycle, every other byte of memory stands, and so does every register. The context's own STRL in flight is performed first. -/
def Sys2Proof.Claim.PrivateStores : Prop :=
  ∀ (i : Instr) (s : State) (S : Store), storeOf i s = some S → Memory.wf s.mem = true → acquirePending s = false → underWait s S.reads none = none →
    S.ea.toNat % 2 ^ S.log = 0 → OwnBytes s S.ea (2 ^ S.log) true none →
    ∃ t, exec i s = .next t ∧ StoreIssued S.len S.extra (landStrl s) t ∧ Stored (poolKey s.cur S.ea.toNat) S.cells (landStrl s) t ∧ t.core.journal = (landStrl s).core.journal

/-- A store elsewhere (R159, R164): after its checks it takes the lowest free entry of the journal with its bytes, and no byte that it stores changes yet; with no entry free it holds issue. -/
def Sys2Proof.Claim.PostedStores : Prop :=
  ∀ (i : Instr) (s s1 : State) (S : Store) (st : Stamp), storeOf i s = some S → acquirePending s = false → underWait s S.reads none = none → S.ea.toNat % 2 ^ S.log = 0 →
    Memory.wf s.mem = true → checkRoute s S.ea (2 ^ S.log) [.W] = .ok (st, .remote, s1) → Checked s s1 S.ea ∧
    (S.cells = [] → ∃ t, exec i s = .next t ∧ StoreIssued S.len S.extra s1 t ∧ t.mem = s1.mem ∧ t.core.journal = s.core.journal) ∧
    (S.cells ≠ [] → (∀ n : Fin 32, s.core.journal[n] ≠ none) → exec i s = .next (hold false s1)) ∧
    (∀ n : Fin 32, S.cells ≠ [] → s.core.journal[n] = none → (∀ m, m < n → s.core.journal[m] ≠ none) →
      ∃ t e, exec i s = .next t ∧ StoreIssued S.len S.extra s1 t ∧ t.mem = s1.mem ∧ t.core.journal = s.core.journal.set n (some e) ∧
        e.ea = S.ea ∧ e.bytes = S.cells ∧ e.sizeLog = S.log ∧ e.owner = acting s ∧ e.ctx = s.core.ctx.rcd.chrys ∧ e.stamp = st ∧ e.held = none)

/-- What a store refuses outside steward mode (R163, R164, R246): a misaligned address, and an address past the scratchpad. Where it rests on the model's own choices: log 17. -/
def Sys2Proof.Claim.StoreFaults : Prop :=
  ∀ (i : Instr) (s : State) (S : Store), storeOf i s = some S → User s → acquirePending s = false → underWait s S.reads none = none →
    (S.ea.toNat % 2 ^ S.log ≠ 0 → Traps i s 2#8 S.ea (codeVa s s.core.ctx.pc)) ∧
    (S.ea.toNat % 2 ^ S.log = 0 → place (onCompute s) S.ea.toNat = .priv S.ea.toNat → scratchSize s.cur s.core < S.ea.toNat + 2 ^ S.log →
      Traps i s 3#8 S.ea (codeVa s s.core.ctx.pc))

/-- LDAQ and STRL through the private alias (R332, R333): LDD's and STD's effects at offset 0, as sync accesses; STRL waits until every earlier access is performed. Where it rests on the model's own choices: log 15, 52. -/
def Sys2Proof.Claim.AcquireAndRelease : Prop :=
  ∀ (s : State) (sc : BitVec 2) (k : BitVec 4) (sco : BitVec 3) (a b d : Reg) (t : TokenName), Memory.wf s.mem = true → acquirePending s = false →
    (rdG s a).toNat % 8 = 0 →
    (strlPending s = false → underWait s [.g a] none = none → underWait s [] (some (.g d, 3)) = none → tokenOf s k = some t → ((ctxToken s.core.ctx t).issued - (ctxToken s.core.ctx t).count).toNat < 2 ^ 15 - 1 →
      OwnBytes s (rdG s a) 8 false (some (scopeOf sco)) →
      ∃ u, exec (.ldaq sc k sco a d) s = .next u ∧ (∀ x, getByte u.mem x = getByte s.mem x) ∧ NoG s u ∧ Follows 4 s u ∧ u.core.ctx.acqUntil = s.gtc + 3 ∧
        ctxToken u.core.ctx t = { ctxToken s.core.ctx t with issued := (ctxToken s.core.ctx t).issued + 1#16 } ∧
        u.core.ctx.pend = s.core.ctx.pend ++ [(s.gtc + 3, .writeG d (BitVec.ofNat 64 (getLe s.mem (poolKey s.cur (rdG s a).toNat) 8))), (s.gtc + 3, .post t)]) ∧
    (underWait s [.g a, .g b] none = none →
      OwnBytes (synced s) (rdG s a) 8 true (some (scopeOf sco)) →
      (allPerformed s = false → Holds (.strl sc sco b a) s) ∧
      (allPerformed s = true → ∃ u, exec (.strl sc sco b a) s = .next u ∧ StoreIssued 4 sc.toNat (synced s) u ∧
        Stored (poolKey s.cur (rdG s a).toNat) (lowBytes 8 (rdG s b).toNat) s u))

/-- FNC waits until every earlier access of its context is performed, then moves on as a release and an acquire (R329); QFNC 0 does nothing, and QFNC of a set of queues
records a fence that holds their later entries (R330). Where it rests on the model's own choices: log 16. -/
def Sys2Proof.Claim.Fences : Prop :=
  ∀ (s : State) (sc : BitVec 2) (sco : BitVec 3) (n : BitVec 4),
    (allPerformed s = true → CompletesAs (.fnc sc sco) s 4 sc.toNat (synced s)) ∧
    (allPerformed s = false → Holds (.fnc sc sco) s) ∧
    CompletesAs (.qfnc sc 0#4) s 4 sc.toNat s ∧
    (n ≠ 0#4 → ∃ old, (∀ f ∈ old, f ∈ s.core.fences) ∧ (∀ f ∈ s.core.fences, queuesBusy s s.cur f.set f.mark = true → f ∈ old) ∧
      CompletesAs (.qfnc sc n) s 4 sc.toNat { s with core := { s.core with fences := old ++ [{ set := n, mark := s.core.engSeq }] } })

namespace Sys2Proof.Claim

/-- The AMOs, by OP of R334, with their fields. -/
def amoOf (i : Instr) : Option (Nat × BitVec 1 × BitVec 1 × BitVec 1 × Reg × Reg × BitVec 3 × Reg) :=
  match i with
  | .amoadd aq rl w b a sco d => some (0, aq, rl, w, b, a, sco, d)
  | .amoand aq rl w b a sco d => some (1, aq, rl, w, b, a, sco, d)
  | .amoor aq rl w b a sco d => some (2, aq, rl, w, b, a, sco, d)
  | .amoxor aq rl w b a sco d => some (3, aq, rl, w, b, a, sco, d)
  | .amomin aq rl w b a sco d => some (4, aq, rl, w, b, a, sco, d)
  | .amomax aq rl w b a sco d => some (5, aq, rl, w, b, a, sco, d)
  | .amominn aq rl w b a sco d => some (6, aq, rl, w, b, a, sco, d)
  | .amomaxn aq rl w b a sco d => some (7, aq, rl, w, b, a, sco, d)
  | .amoswp aq rl w b a sco d => some (8, aq, rl, w, b, a, sco, d)
  | .amocas aq rl w b a sco d => some (9, aq, rl, w, b, a, sco, d)
  | _ => none

/-- R334's new value of an n-bit word; none where AMOCAS does not write. -/
def amoValue (op n : Nat) (old y e : BitVec n) : Option (BitVec n) :=
  if op = 0 then some (BitVec.ofNat n (old.toNat + y.toNat)) else if op = 1 then some (old &&& y) else if op = 2 then some (old ||| y)
  else if op = 3 then some (old ^^^ y) else if op = 4 then some (BitVec.ofInt n (min old.toInt y.toInt)) else if op = 5 then some (BitVec.ofInt n (max old.toInt y.toInt))
  else if op = 6 then some (BitVec.ofNat n (min old.toNat y.toNat)) else if op = 7 then some (BitVec.ofNat n (max old.toNat y.toNat))
  else if op = 8 then some y else if old = e then some y else none

/-- What an n-bit AMO stores: the bytes of the new value, or nothing. -/
def amoBytes (n : Nat) (x : Option (BitVec n)) : List (Nat × Byte) :=
  match x with
  | some v => lowBytes (n / 8) v.toNat
  | none => []

end Sys2Proof.Claim

/-- An AMO through the private alias (R334, R335, R338): one atomic read and write of the scratchpad, the old value (sign-extended for .w) in g[d], and the next issue 3 cycles on. An AMOCAS that fails only reads. Where it rests on the model's own choices: log 17. -/
def Sys2Proof.Claim.PrivateAmos : Prop :=
  ∀ (i : Instr) (s : State) (op : Nat) (aq rl w : BitVec 1) (b a : Reg) (sco : BitVec 3) (d : Reg), amoOf i = some (op, aq, rl, w, b, a, sco, d) →
    Memory.wf s.mem = true → s.core.amo = none → acquirePending s = false → strlPending s = false →
    underWait s ([.g a, .g b] ++ if op = 9 then [.g d] else []) none = none → (rl = 1#1 → allPerformed s = true) →
    let n := if w = 0#1 then 64 else 32
    let s1 : State := if rl = 1#1 ∨ aq = 1#1 then synced s else s
    let old : BitVec n := BitVec.ofNat n (getLe s.mem (poolKey s.cur (rdG s a).toNat) (n / 8))
    let new := amoBytes n (amoValue op n old ((rdG s b).setWidth n) ((rdG s d).setWidth n))
    (rdG s a).toNat % (n / 8) = 0 → OwnBytes s1 (rdG s a) (n / 8) (!new.isEmpty) (some (scopeOf sco)) →
    ∃ t, exec i s = .next t ∧ Stored (poolKey s.cur (rdG s a).toNat) new s t ∧
      WritesG d (old.signExtend 64) s t ∧ OthersStand s t ∧ Follows 4 s t ∧ t.core.nextIssue = s.gtc + 3 ∧ t.hub = s.hub ∧ t.others = s.others ∧
      t.core.log = s.core.log ∧ t.core.journal = s.core.journal ∧ t.core.ctx.mailbox = s.core.ctx.mailbox

/-- An AMO elsewhere sends its access and holds (R338), changing no register and, after its checks, no byte; AMO_RESPONSE of the core in focus, where the access lands, then performs it: the old value in g[d],
the new value in memory, and nothing held any more. -/
def Sys2Proof.Claim.RemoteAmos : Prop :=
  ∀ (i : Instr) (s s1 : State) (op : Nat) (aq rl w : BitVec 1) (b a : Reg) (sco : BitVec 3) (d : Reg) (st : Stamp), amoOf i = some (op, aq, rl, w, b, a, sco, d) →
    s.core.amo = none → acquirePending s = false → strlPending s = false → underWait s ([.g a, .g b] ++ if op = 9 then [.g d] else []) none = none →
    (rl = 1#1 → allPerformed s = true) → (rdG s a).toNat % (if w = 0#1 then 8 else 4) = 0 →
    checkRoute s (rdG s a) (if w = 0#1 then 8 else 4) [.I, .W] = .ok (st, .remote, s1) →
    ∃ t f, exec i s = .next t ∧ t.core.amo = some f ∧ f.ea = rdG s a ∧ f.y = rdG s b ∧ f.cmp = rdG s d ∧ f.dest = d ∧ f.op.toNat = op ∧ (f.wide = true ↔ w = 0#1) ∧
      t.mem = s1.mem ∧ t.core.ctx = (if rl = 1#1 ∨ aq = 1#1 then synced s else s).core.ctx ∧ t.hub = s1.hub ∧ t.others = s.others ∧ t.core.nextIssue = s.gtc + 1 ∧
      (Memory.wf s.mem = true → Checked s s1 (rdG s a))

/-- AMO_RESPONSE at the core in focus for an access that lands in a pool and conflicts with no open one (R334, R338). -/
def Sys2Proof.Claim.AmoResponse : Prop :=
  ∀ (s : State) (f : AmoFlight) (key : Nat), Memory.wf s.mem = true → s.core.amo = some f → f.op.toNat ≤ 9 →
    let n := if f.wide then 64 else 32
    olderPending s s.core s.core.seqNo f.ea (n / 8) = false → syncWaits s s.core.ctx.rcd.chrys f.ea true (some f.sco) = false → landing s s.cur f.ea.toNat f.stamp = .ok key → (∃ u off, place true f.ea.toNat = .pool u off) →
    olderElsewhere s s.cur s.core.ctx.rcd.chrys (s.gtc + 1) = false →
    let old : BitVec n := BitVec.ofNat n (getLe s.mem key (n / 8))
    let new := amoBytes n (amoValue f.op.toNat n old (f.y.setWidth n) (f.cmp.setWidth n))
    Unraced s (remoteAccess s.cur s.core.ctx.rcd.chrys key (!new.isEmpty) (some f.sco) s.gtc (anyCore (coreWaits s.core.ctx.rcd.chrys) s)) →
    ∃ t, exec (.amoResponse s.cur) s = .next t ∧ t.core.amo = none ∧ Stored key new s t ∧
      WritesG f.dest (old.signExtend 64) s t ∧ Follows 4 s t ∧ t.hub = s.hub ∧ t.others = s.others

/-- STORE_ACK for the core in focus (R159, R160, R318): a store that lands in a pool, is behind no older access and conflicts with no open one is performed and frees its entry;
a refused one, and one that a younger access of its context has overtaken in a race, writes nothing and its entry is held. -/
def Sys2Proof.Claim.StoreAck : Prop :=
  ∀ (s : State) (n : Fin 32) (e : JnlEntry), Memory.wf s.mem = true → s.core.journal[n] = some e → e.held = none → e.swept = none →
    olderPending s s.core e.seqNo e.ea (2 ^ e.sizeLog) = false → behindSync s.core e.ctx e.seqNo = false → olderElsewhere s s.cur e.ctx e.at_ = false →
    syncWaits s e.ctx e.ea true e.sync = false → deadOf e.ctx = none →
    s.core.issuing.isSome = true → s.core.ctx.rcd.chrys = e.ctx → (e.bytes.map (·.1)).Nodup →
    let held (r : Refuse) : Prop := ∃ t e', exec (.storeAck s.cur n) s = .next t ∧ t.core.journal[n] = some e' ∧ e'.held = some s.gtc ∧ e'.reason = causeOf r ∧
      (∀ a, getByte t.mem a = getByte s.mem a) ∧ t.core.ctx.regs = s.core.ctx.regs ∧ t.core.ctx.ctl.hold = true
    let access (key : Nat) := remoteAccess s.cur e.ctx key true e.sync e.at_ (overtakes s s.cur e.ctx e.seqNo e.at_)
    (∀ key, landing s s.cur e.ea.toNat e.stamp = .ok key → overtaken (access key) s.races = true → held .race) ∧
    (∀ key, landing s s.cur e.ea.toNat e.stamp = .ok key → (∃ u off, place true e.ea.toNat = .pool u off) → overtaken (access key) s.races = false → Unraced s (access key) →
      ∃ t, exec (.storeAck s.cur n) s = .next t ∧ t.core.journal[n] = none ∧ Stored key e.bytes s t ∧ t.core.log = s.core.log ∧ t.core.ctx.regs = s.core.ctx.regs) ∧
    (∀ r, landing s s.cur e.ea.toNat e.stamp = .error r → held r)

/-- LOAD_COMPLETION for the core in focus (R158, R162): a load that lands is performed, its destination written, its token posted once and its entry freed;
a refused one, and one that a younger access of its context has overtaken in a race (R318), writes nothing, posts nothing and is held for a late fault. -/
def Sys2Proof.Claim.LoadCompletion : Prop :=
  ∀ (s : State) (n : Fin 16) (e : LogEntry), s.core.log[n] = some e → e.held = none → e.replaying = false → e.swept = none → deadOf e.ctx = none →
    olderPending s s.core e.seqNo e.ea (2 ^ e.sizeLog) = false → behindSync s.core e.ctx e.seqNo = false → syncWaits s e.ctx e.ea false e.sync = false →
    olderElsewhere s s.cur e.ctx e.at_ = false → s.core.issuing.isSome = true → s.core.ctx.rcd.chrys = e.ctx → (e.token.handler = true → e.token.num.toNat < 4) →
    let held (r : Refuse) : Prop := ∃ t e', exec (.loadCompletion s.cur n) s = .next t ∧ t.core.log[n] = some e' ∧ e'.held = some s.gtc ∧ e'.reason = causeOf r ∧
      (∀ a, getByte t.mem a = getByte s.mem a) ∧ t.core.ctx.regs = s.core.ctx.regs ∧ t.core.ctx.ctl.hold = true
    let access (key : Nat) := remoteAccess s.cur e.ctx key false e.sync e.at_ (overtakes s s.cur e.ctx e.seqNo e.at_)
    (∀ key, landing s s.cur e.ea.toNat e.stamp = .ok key → overtaken (access key) s.races = true → held .race) ∧
    (∀ key, landing s s.cur e.ea.toNat e.stamp = .ok key → (∃ u off, place true e.ea.toNat = .pool u off) → overtaken (access key) s.races = false → Unraced s (access key) →
      ∃ t, exec (.loadCompletion s.cur n) s = .next t ∧ t.core.log[n] = none ∧ (∀ a, getByte t.mem a = getByte s.mem a) ∧
        ctxToken t.core.ctx e.token = { ctxToken s.core.ctx e.token with count := (ctxToken s.core.ctx e.token).count + 1#16 } ∧
        (∀ signed, e.kind = .scalar signed → WritesG e.dest (loadedWord signed e.sizeLog (getBytes s.mem key (2 ^ e.sizeLog))) s t) ∧
        (e.kind = .vec → e.sizeLog = 5 → rdV t e.dest = BitVec.ofNat 256 (getLe s.mem key 32)) ∧
        (e.kind = .splat → e.sizeLog ≤ 3 → rdV t e.dest = BitVec.ofNat 256 (packNat (8 * 2 ^ e.sizeLog) (List.replicate (32 / 2 ^ e.sizeLog) (getLe s.mem key (2 ^ e.sizeLog))))) ∧ t.core.journal = s.core.journal) ∧
    (∀ r, landing s s.cur e.ea.toNat e.stamp = .error r → held r)

/-- A divide (R131, R167, R168): with a divisor other than 0 it issues on its token and completes no earlier than 6 cycles after, writing g[d] and posting once; by 0 it takes DIVIDE_BY_ZERO
with the dividend as TRAP_VAL and issues no token. Where it rests on the model's own choices: log 54. -/
def Obligations.Divides : Prop :=
  ∀ (s : State) (sc : BitVec 2) (k : BitVec 4) (b a d : Reg) (t : TokenName), underWait s [.g a, .g b] none = none →
    let x := rdG s a
    let y := rdG s b
    let starts (i : Instr) (r : Word) : Prop := ∃ u, exec i s = .next u ∧ (∀ n, getByte u.mem n = getByte s.mem n) ∧ NoG s u ∧ Follows 4 s u ∧
      u.core.divs = s.core.divs ++ [{ issuedAt := s.gtc, ctx := s.core.ctx.rcd.chrys, dest := d, token := t, result := r }] ∧
      ctxToken u.core.ctx t = { ctxToken s.core.ctx t with issued := (ctxToken s.core.ctx t).issued + 1#16 } ∧ u.core.ctx.pend = s.core.ctx.pend ∧
      u.core.nextIssue = s.gtc + 1 + sc.toNat ∧ u.hub = s.hub ∧ u.others = s.others
    (y ≠ 0#64 → tokenOf s k = some t → ((ctxToken s.core.ctx t).issued - (ctxToken s.core.ctx t).count).toNat < 2 ^ 15 - 1 →
      starts (.divS sc k b a d) (BitVec.ofInt 64 (x.toInt.tdiv y.toInt)) ∧ starts (.divn sc k b a d) (BitVec.ofNat 64 (x.toNat / y.toNat)) ∧
      starts (.modS sc k b a d) (BitVec.ofInt 64 (x.toInt - y.toInt * x.toInt.tdiv y.toInt)) ∧ starts (.modn sc k b a d) (BitVec.ofNat 64 (x.toNat % y.toNat))) ∧
    (y = 0#64 → User s → ∀ i, i = .divS sc k b a d ∨ i = .divn sc k b a d ∨ i = .modS sc k b a d ∨ i = .modn sc k b a d → Traps i s 12#8 x (codeVa s s.core.ctx.pc)) ∧
    (∀ v, s.core.divs = [v] → v.issuedAt + 6 ≤ s.gtc → s.core.issuing.isSome = true → s.core.ctx.rcd.chrys = v.ctx → (v.token.handler = true → v.token.num.toNat < 4) →
      ∃ u, exec (.divideCompletion s.cur 0) s = .next u ∧ u.core.divs = [] ∧ WritesG v.dest v.result s u ∧
        ctxToken u.core.ctx v.token = { ctxToken s.core.ctx v.token with count := (ctxToken s.core.ctx v.token).count + 1#16 } ∧ (∀ n, getByte u.mem n = getByte s.mem n))

/-- Loads from the private pool and through the operand log, and their exact traps in order: each part as its own text says (R58, R131, R136, R157, R158, R161, R162, R218, R246). -/
def Obligations.Loads : Prop := Claim.PrivateLoads ∧ Claim.LoggedLoads ∧ Claim.LoadFaults

/-- Stores to the private pool and through the journal, and their exact traps in order: each part as its own text says (R157, R159, R163, R164, R219, R246). -/
def Obligations.Stores : Prop := Claim.PrivateStores ∧ Claim.PostedStores ∧ Claim.StoreFaults

/-- Acquire loads, release stores and fences: what holds them and what they do: each part as its own text says (R329, R330, R332, R333). -/
def Obligations.OrderingInstructions : Prop := Claim.AcquireAndRelease ∧ Claim.Fences

/-- Read-modify-writes: private ones complete at once, the others by answer: each part as its own text says (R334, R335, R338). -/
def Obligations.Amos : Prop := Claim.PrivateAmos ∧ Claim.RemoteAmos ∧ Claim.AmoResponse

/-- A posted store lands and a logged load completes with one post each: each part as its own text says (R158, R159, R160, R162, R318). -/
def Obligations.Completions : Prop := Claim.StoreAck ∧ Claim.LoadCompletion

/-! ### Vectors -/

namespace Sys2Proof.Claim

/-- Lane `n` of a register as an N-bit pattern (R215). -/
def lane (t : BitVec 4) (x : Vec) (n : Nat) : Nat := x.toNat / 2 ^ (elemWidth t * n) % 2 ^ elemWidth t

/-- The value of an integer lane: signed for .iN, unsigned for .nN (R195). -/
def value (t : BitVec 4) (x : Nat) : Int := if t.toNat < 4 then (BitVec.ofNat (elemWidth t) x).toInt else x

/-- The N-bit pattern of an integer, modulo 2^N (R196). -/
def pattern (t : BitVec 4) (x : Int) : Nat := (x % 2 ^ elemWidth t).toNat

/-- An integer brought into the range of the type (R119). -/
def clamp (t : BitVec 4) (x : Int) : Int :=
  if t.toNat < 4 then max (-2 ^ (elemWidth t - 1)) (min (2 ^ (elemWidth t - 1) - 1) x) else max 0 (min (2 ^ elemWidth t - 1) x)

/-- Vector registers, masks and tags stand. -/
def VectorsStand (s t : State) : Prop := (∀ r, rdV t r = rdV s r) ∧ (∀ r, rdM t r = rdM s r) ∧ ∀ r, ctxTag t.core.ctx r = ctxTag s.core.ctx r

/-- `i` completes with v[d] := x at latency `lat`, its flags ORed into FP_FLAGS in the same cycle (R127, R201); until then every register, mask and flag stands. -/
def GivesV (i : Instr) (s : State) (extra lat : Nat) (d : Reg) (x : Vec) (f : BitVec 5) : Prop :=
  Completes i s 4 extra fun t => OthersStand s t ∧ NoG s t ∧ VectorsStand s t ∧
    t.core.ctx.pend = s.core.ctx.pend ++ (s.gtc + lat, .writeV d x) :: (if f = 0#5 then [] else [(s.gtc + lat, .flags f)])

/-- `i` completes with a vector whose lanes of type `t` are `f n`, and no flag. -/
def GivesLanes (i : Instr) (s : State) (extra lat : Nat) (d : Reg) (t : BitVec 4) (f : Nat → Nat) : Prop :=
  ∃ x, GivesV i s extra lat d x 0#5 ∧ ∀ n, n < elemLanes t → lane t x n = f n

/-- `i` completes with m[m] := x and its lane-size tag at a latency, and flags; a write of m0 is discarded, its flags are not (R217, R225). -/
def GivesM (i : Instr) (s : State) (extra lat : Nat) (m : BitVec 3) (x : BitVec 32) (tag : BitVec 2) (f : BitVec 5) : Prop :=
  Completes i s 4 extra fun t => OthersStand s t ∧ NoG s t ∧ VectorsStand s t ∧
    t.core.ctx.pend = s.core.ctx.pend ++ (if m = 0#3 then [] else [(s.gtc + lat, .writeM m x tag)]) ++ (if f = 0#5 then [] else [(s.gtc + lat, .flags f)])

/-- The smaller, or the larger, of two float lanes: exact, −0 below +0, a NaN operand giving the canonical NaN and NV when one is signalling (R198, R222). -/
def pickOf (larger : Bool) (t : BitVec 4) (u v : Nat) : Nat × BitVec 5 :=
  let a := elemNum t u
  let b := elemNum t v
  if isNanNum a || isNanNum b then ((roundNum t 0#2 (.nan false)).1, if isSignalling a || isSignalling b then 8#5 else 0#5)
  else (if numBefore a b = !larger then u else v, 0#5)

/-- A float lane that is taken over: a NaN is made canonical, with NV when it is signalling (R198). -/
def canonOf (t : BitVec 4) (u : Nat) (x : Nat) : Nat × BitVec 5 := if isNanNum (elemNum t u) then roundNum t 0#2 (elemNum t u) else (x, 0#5)

/-- The flags that any of a list of results raises. -/
def flagsOf (xs : List (BitVec 5)) : BitVec 5 := xs.foldl (· ||| ·) 0#5

/-- The tree of R213 over lanes `x`: element i of level k + 1 is element 2i op element 2i + 1 of level k. -/
def TreeOf (op : Nat → Nat → Nat × BitVec 5) (x : Nat → Nat) (y : Nat → Nat → Nat) : Prop :=
  (∀ i, y 0 i = x i) ∧ ∀ k i, y (k + 1) i = (op (y k (2 * i)) (y k (2 * i + 1))).1

/-- The running results of R213 over lanes `x` from `x0`. -/
def ScanOf (op : Nat → Nat → Nat × BitVec 5) (x0 : Nat) (x y : Nat → Nat) : Prop := y 0 = x0 ∧ ∀ n, y (n + 1) = (op (y n) (x (n + 1))).1

/-- `i` completes: exec answers a next state, whatever the operands hold, with the result for v[d] on its way at latency `lat`; every general register, vector register and mask, every byte of memory and
everything outside the core stands. -/
def VectorCompletes (i : Instr) (s : State) (lat : Nat) (d : Reg) : Prop :=
  ∃ u, exec i s = .next u ∧ RestStands s u ∧ ControlStands s u ∧ Follows 4 s u ∧ NoG s u ∧ VectorsStand s u ∧ ∃ x, (s.gtc + lat, Pending.writeV d x) ∈ u.core.ctx.pend

/-- log2 of N ÷ 8: the tag of a mask for a type (R217). -/
def laneTag (t : BitVec 4) : BitVec 2 := if elemWidth t = 8 then 0#2 else if elemWidth t = 16 then 1#2 else if elemWidth t = 32 then 2#2 else 3#2

end Sys2Proof.Claim

/-- VAR on integer types (R221): every lane, at latency 2, with no flag. -/
def Sys2Proof.Claim.VectorIntegers : Prop :=
  ∀ (s : State) (sc : BitVec 2) (t : BitVec 4) (b a d : Reg), t.toNat < 8 → underWait s [.v a, .v b] (some (.v d, 2)) = none →
    let w := elemWidth t
    let x := lane t (rdV s a)
    let y := lane t (rdV s b)
    let zx (n : Nat) : Int := value t (x n)
    let zy (n : Nat) : Int := value t (y n)
    GivesLanes (.vadd sc t b a d) s sc.toNat 2 d t (fun n => (x n + y n) % 2 ^ w) ∧
    GivesLanes (.vsub sc t b a d) s sc.toNat 2 d t (fun n => pattern t (zx n - zy n)) ∧
    GivesLanes (.vmul sc t b a d) s sc.toNat 2 d t (fun n => x n * y n % 2 ^ w) ∧
    GivesLanes (.vmin sc t b a d) s sc.toNat 2 d t (fun n => pattern t (min (zx n) (zy n))) ∧
    GivesLanes (.vmax sc t b a d) s sc.toNat 2 d t (fun n => pattern t (max (zx n) (zy n))) ∧
    GivesLanes (.vand sc t b a d) s sc.toNat 2 d t (fun n => x n &&& y n) ∧
    GivesLanes (.vor sc t b a d) s sc.toNat 2 d t (fun n => x n ||| y n) ∧
    GivesLanes (.vxor sc t b a d) s sc.toNat 2 d t (fun n => x n ^^^ y n) ∧
    GivesLanes (.vshl sc t b a d) s sc.toNat 2 d t (fun n => if w ≤ y n then 0 else x n * 2 ^ y n % 2 ^ w) ∧
    GivesLanes (.vshr sc t b a d) s sc.toNat 2 d t (fun n => if w ≤ y n then 0 else x n / 2 ^ y n) ∧
    GivesLanes (.vsar sc t b a d) s sc.toNat 2 d t (fun n => ((BitVec.ofNat w (x n)).sshiftRight (min w (y n))).toNat) ∧
    GivesLanes (.vabd sc t b a d) s sc.toNat 2 d t (fun n => pattern t |zx n - zy n|) ∧
    GivesLanes (.vadds sc t b a d) s sc.toNat 2 d t (fun n => pattern t (clamp t (zx n + zy n))) ∧
    GivesLanes (.vsubs sc t b a d) s sc.toNat 2 d t (fun n => pattern t (clamp t (zx n - zy n)))

/-- VFM on integer types (R223, R224): v[d] is the third operand; VDOT2 and VMULW give lanes twice as wide. -/
def Sys2Proof.Claim.VectorMultiplyAdd : Prop :=
  ∀ (s : State) (sc : BitVec 2) (t w : BitVec 4) (b a d : Reg), t.toNat < 8 → underWait s [.v a, .v b, .v d] (some (.v d, 2)) = none →
    underWait s [.v a, .v b] (some (.v d, 2)) = none →
    let x (n : Nat) : Int := value t (lane t (rdV s a) n)
    let y (n : Nat) : Int := value t (lane t (rdV s b) n)
    let z (n : Nat) : Int := value t (lane t (rdV s d) n)
    GivesLanes (.vfma sc t b a d) s sc.toNat 2 d t (fun n => pattern t (x n * y n + z n)) ∧
    GivesLanes (.vfms sc t b a d) s sc.toNat 2 d t (fun n => pattern t (x n * y n - z n)) ∧
    GivesLanes (.vfnma sc t b a d) s sc.toNat 2 d t (fun n => pattern t (z n - x n * y n)) ∧
    (w = t + 1#4 → elemWidth t ≠ 64 →
      GivesLanes (.vdot2 sc t b a d) s sc.toNat 2 d w (fun n => pattern w (value w (lane w (rdV s d) n) + x (2 * n) * y (2 * n) + x (2 * n + 1) * y (2 * n + 1))) ∧
      GivesLanes (.vmulw sc t b a d) s sc.toNat 2 d w (fun n => pattern w (x n * y n)))

/-- VAR, VFM and VDOT2 on .bf16 and .f32 (R113, R198, R199, R200, R221, R222, R223, R224): each lane is the exact result rounded once under RM, at latency 4, and each raised flag is
set with the result; VMIN, VMAX, VABD and VMULW take no RM, and their field is SC. -/
def Sys2Proof.Claim.VectorFloats : Prop :=
  ∀ (s : State) (rm : BitVec 2) (t : BitVec 4) (b a d : Reg), t = 8#4 ∨ t = 9#4 → underWait s [.v a, .v b, .v d] (some (.v d, 4)) = none →
    underWait s [.v a, .v b] (some (.v d, 4)) = none →
    let x (n : Nat) : Machine.Num := elemNum t (lane t (rdV s a) n)
    let y (n : Nat) : Machine.Num := elemNum t (lane t (rdV s b) n)
    let z (n : Nat) : Machine.Num := elemNum t (lane t (rdV s d) n)
    let lanes (m : BitVec 2) (p : Nat → Machine.Num × Bool) : Vec × BitVec 5 := packRes t ((List.range (elemLanes t)).map fun n => floatRes t m (p n))
    let fused (p : Machine.Num × Bool) (q : Machine.Num) : Machine.Num × Bool := let r := sumNum rm [p.1, q]; (r.1, p.2 || r.2)
    let gives (i : Instr) (extra : Nat) (r : Vec × BitVec 5) : Prop := GivesV i s extra 4 d r.1 r.2
    gives (.vadd rm t b a d) 0 (lanes rm fun n => sumNum rm [x n, y n]) ∧
    gives (.vsub rm t b a d) 0 (lanes rm fun n => sumNum rm [x n, negNum (y n)]) ∧
    gives (.vmul rm t b a d) 0 (lanes rm fun n => mulNum (x n) (y n)) ∧
    gives (.vabd rm t b a d) rm.toNat (lanes 0#2 fun n => let r := sumNum 0#2 [x n, negNum (y n)]; (absNum r.1, r.2)) ∧
    gives (.vfma rm t b a d) 0 (lanes rm fun n => fused (mulNum (x n) (y n)) (z n)) ∧
    gives (.vfms rm t b a d) 0 (lanes rm fun n => fused (mulNum (x n) (y n)) (negNum (z n))) ∧
    gives (.vfnma rm t b a d) 0 (lanes rm fun n => fused (negNum (mulNum (x n) (y n)).1, (mulNum (x n) (y n)).2) (z n)) ∧
    gives (.vmin rm t b a d) rm.toNat (packRes t ((List.range (elemLanes t)).map fun n => pickOf false t (lane t (rdV s a) n) (lane t (rdV s b) n))) ∧
    gives (.vmax rm t b a d) rm.toNat (packRes t ((List.range (elemLanes t)).map fun n => pickOf true t (lane t (rdV s a) n) (lane t (rdV s b) n))) ∧
    gives (.vdot2 rm t b a d) 0 (packRes 9#4 ((List.range 8).map fun n =>
      let p := mulNum (x (2 * n)) (y (2 * n))
      let q := mulNum (x (2 * n + 1)) (y (2 * n + 1))
      let r := sumNum rm [elemNum 9#4 (lane 9#4 (rdV s d) n), p.1, q.1]
      if n < elemLanes t / 2 then floatRes 9#4 rm (r.1, p.2 || q.2 || r.2) else (lane 9#4 (rdV s d) n, 0#5))) ∧
    (t = 8#4 → gives (.vmulw rm t b a d) rm.toNat (packRes 9#4 ((List.range 8).map fun n => floatRes 9#4 0#2 (mulNum (x n) (y n)))))

/-- Every instruction of VAR and VFM completes on every element type that it takes (R216, R221, R223, R224), whatever its operands hold, where no rule of R136 is broken: VADD, VSUB, VMUL, VMIN, VMAX, VABD,
VFMA, VFMS and VFNMA on integers and floats, VAND, VOR, VXOR, VSHL, VSHR, VSAR, VADDS and VSUBS on integers, VDOT2 on all but 64-bit integers, VMULW on those but .f32. -/
def Sys2Proof.Claim.VectorArithmeticCompletes : Prop :=
  ∀ (s : State) (sc : BitVec 2) (t : BitVec 4) (b a d : Reg),
    let lat := if 8 ≤ t.toNat then 4 else 2
    let done (i : Instr) : Prop := VectorCompletes i s lat d
    (t.toNat ≤ 9 → underWait s [.v a, .v b] (some (.v d, lat)) = none →
      done (.vadd sc t b a d) ∧ done (.vsub sc t b a d) ∧ done (.vmul sc t b a d) ∧ done (.vmin sc t b a d) ∧ done (.vmax sc t b a d) ∧ done (.vabd sc t b a d) ∧
      (t.toNat < 8 → done (.vand sc t b a d) ∧ done (.vor sc t b a d) ∧ done (.vxor sc t b a d) ∧ done (.vshl sc t b a d) ∧ done (.vshr sc t b a d) ∧ done (.vsar sc t b a d) ∧
        done (.vadds sc t b a d) ∧ done (.vsubs sc t b a d)) ∧
      (elemWidth t ≠ 64 → t ≠ 9#4 → done (.vmulw sc t b a d))) ∧
    (t.toNat ≤ 9 → underWait s [.v a, .v b, .v d] (some (.v d, lat)) = none →
      done (.vfma sc t b a d) ∧ done (.vfms sc t b a d) ∧ done (.vfnma sc t b a d) ∧ (elemWidth t ≠ 64 → done (.vdot2 sc t b a d)))

/-- VCMP, VSEL, VMSK and VCVT (R217, R225, R226, R227): the mask and its tag, lanes selected, bits made, and converted lanes with the rest 0. -/
def Sys2Proof.Claim.VectorMasks : Prop :=
  ∀ (s : State) (sc : BitVec 2) (t src dst : BitVec 4) (b a d : Reg) (m : BitVec 3), t.toNat ≤ 9 →
    let x (n : Nat) : Nat := lane t (rdV s a) n
    let y (n : Nat) : Nat := lane t (rdV s b) n
    let mask (p : Nat → Bool) : BitVec 32 := BitVec.ofNat 32 (((List.range (elemLanes t)).map fun n => if p n then 2 ^ n else 0).sum)
    (t.toNat < 8 → underWait s [.v a, .v b] (some (.m m, 2)) = none →
      GivesM (.vcmp sc t b a 0#2 m) s sc.toNat 2 m (mask fun n => x n = y n) (laneTag t) 0#5 ∧
      GivesM (.vcmp sc t b a 1#2 m) s sc.toNat 2 m (mask fun n => x n ≠ y n) (laneTag t) 0#5 ∧
      GivesM (.vcmp sc t b a 2#2 m) s sc.toNat 2 m (mask fun n => value t (x n) < value t (y n)) (laneTag t) 0#5 ∧
      GivesM (.vcmp sc t b a 3#2 m) s sc.toNat 2 m (mask fun n => value t (x n) ≤ value t (y n)) (laneTag t) 0#5) ∧
    (8 ≤ t.toNat → underWait s [.v a, .v b] (some (.m m, 4)) = none → ∀ cc : BitVec 2,
      let u (n : Nat) : Machine.Num := elemNum t (x n)
      let v (n : Nat) : Machine.Num := elemNum t (y n)
      let nan (n : Nat) : Bool := isNanNum (u n) || isNanNum (v n)
      let holds (n : Nat) : Bool := match cc.toNat with
        | 0 => !numLt (u n) (v n) && !numLt (v n) (u n)
        | 1 => numLt (u n) (v n) || numLt (v n) (u n)
        | 2 => numLt (u n) (v n)
        | _ => !numLt (v n) (u n)
      let invalid (n : Nat) : Bool := nan n && (decide (2 ≤ cc.toNat) || isSignalling (u n) || isSignalling (v n))
      GivesM (.vcmp sc t b a cc m) s sc.toNat 4 m (mask fun n => if nan n then cc == 1#2 else holds n) (laneTag t) (if (List.range (elemLanes t)).any invalid then 8#5 else 0#5)) ∧
    (underWait s [.v a, .m m, .v d] (some (.v d, 2)) = none →
      GivesLanes (.vsel sc t m a d) s sc.toNat 2 d t (fun n => if (rdM s m).getLsbD n then x n else lane t (rdV s d) n)) ∧
    (underWait s [.g a] (some (.m m, 2)) = none →
      GivesM (.vmsk sc t a m) s sc.toNat 2 m (BitVec.ofNat 32 (2 ^ min (rdG s a).toNat (elemLanes t) - 1)) (laneTag t) 0#5) ∧
    (src.toNat ≤ 12 → dst.toNat ≤ 12 → underWait s [.v a] (some (.v d, 3)) = none →
      ∃ v f, GivesV (.vcvt sc dst src a d) s 0 3 d v f ∧
        f = flagsOf ((List.range (min (elemLanes src) (elemLanes dst))).map fun n => (convElem dst src sc (lane src (rdV s a) n)).2) ∧
        (∀ n, n < min (elemLanes src) (elemLanes dst) → lane dst v n = (convElem dst src sc (lane src (rdV s a) n)).1 % 2 ^ elemWidth dst) ∧
        (∀ n, min (elemLanes src) (elemLanes dst) ≤ n → n < elemLanes dst → lane dst v n = 0) ∧ (dst = 11#4 → v.toNat / 2 ^ 240 = 0)) ∧
    (∀ cc : BitVec 2, underWait s [.v a, .v b] (some (.m m, if 8 ≤ t.toNat then 4 else 2)) = none → ∃ u, exec (.vcmp sc t b a cc m) s = .next u ∧ RestStands s u ∧ VectorsStand s u)

/-- The lane moves, VABS, VNEG and VMOV (R228, R229): every lane, at latency 2. -/
def Sys2Proof.Claim.VectorMoves : Prop :=
  ∀ (s : State) (sc : BitVec 2) (t : BitVec 4) (l : BitVec 5) (b a d : Reg), t.toNat ≤ 9 →
    let x (n : Nat) : Nat := lane t (rdV s a) n
    let gives (i : Instr) (r : Vec × BitVec 5) : Prop := GivesV i s sc.toNat 2 d r.1 r.2
    (underWait s [.g a] (some (.v d, 2)) = none → GivesLanes (.vbcast sc t a d) s sc.toNat 2 d t (fun _ => (rdG s a).toNat % 2 ^ elemWidth t)) ∧
    (underWait s [.v a, .v b] (some (.v d, 2)) = none → GivesLanes (.vperm sc t b a d) s sc.toNat 2 d t (fun n => x (lane t (rdV s b) n % elemLanes t))) ∧
    (l.toNat < elemLanes t →
      (underWait s [.v a] (some (.g d, 2)) = none → GivesGLater (.vext sc t l a d) s 4 sc.toNat 2 d (BitVec.ofInt 64 (value t (x l.toNat)))) ∧
      (underWait s [.g a, .v d] (some (.v d, 2)) = none →
        GivesLanes (.vins sc t l a d) s sc.toNat 2 d t (fun n => if n = l.toNat then (rdG s a).toNat % 2 ^ elemWidth t else lane t (rdV s d) n))) ∧
    (underWait s [.v a] (some (.v d, 2)) = none →
      GivesV (.vmov sc t a d) s sc.toNat 2 d (rdV s a) 0#5 ∧
      (t.toNat < 8 → GivesLanes (.vabs sc t a d) s sc.toNat 2 d t (fun n => pattern t |value t (x n)|) ∧
        GivesLanes (.vneg sc t a d) s sc.toNat 2 d t (fun n => pattern t (-value t (x n)))) ∧
      (8 ≤ t.toNat →
        gives (.vabs sc t a d) (packRes t ((List.range (elemLanes t)).map fun n => canonOf t (x n) (x n % 2 ^ (elemWidth t - 1)))) ∧
        gives (.vneg sc t a d) (packRes t ((List.range (elemLanes t)).map fun n => canonOf t (x n) ((x n + 2 ^ (elemWidth t - 1)) % 2 ^ elemWidth t)))) ∧
      VectorCompletes (.vabs sc t a d) s 2 d ∧ VectorCompletes (.vneg sc t a d) s 2 d ∧ VectorCompletes (.vmov sc t a d) s 2 d)

/-- VRED and VSCAN on integer and on float types (R213, R222, R230): the reduction of all lanes in lane 0 with the rest 0, by the tree, and the inclusive prefixes, lane by lane; additions wrap on integers and are
rounded one by one under RM on floats, and each raised flag is set. Every one of the six completes. Where it rests on the model's own choices: log 21. -/
def Sys2Proof.Claim.VectorReductions : Prop :=
  ∀ (s : State) (sc : BitVec 2) (t : BitVec 4) (a d : Reg), underWait s [.v a] (some (.v d, 6)) = none →
    let w := elemWidth t
    let x (n : Nat) : Int := value t (lane t (rdV s a) n)
    let sums (n : Nat) : Int := ((List.range (n + 1)).map x).sum
    let least (n : Nat) : Int := ((List.range (n + 1)).map x).foldl min (x 0)
    let most (n : Nat) : Int := ((List.range (n + 1)).map x).foldl max (x 0)
    let first (f : Nat → Int) (n : Nat) : Nat := if n = 0 then pattern t (f (elemLanes t - 1)) else 0
    let levels := Nat.log2 (elemLanes t)
    let tree (i : Instr) (extra : Nat) (op : Nat → Nat → Nat × BitVec 5) : Prop := ∀ y, TreeOf op (lane t (rdV s a)) y → ∃ v, ∃ f : BitVec 5, GivesV i s extra 6 d v f ∧
      lane t v 0 = y levels 0 % 2 ^ w ∧ (∀ n, 1 ≤ n → n < elemLanes t → lane t v n = 0) ∧
      f = flagsOf ((List.range levels).flatMap fun k => (List.range (elemLanes t / 2 ^ (k + 1))).map fun i => (op (y k (2 * i)) (y k (2 * i + 1))).2)
    let scan (i : Instr) (extra : Nat) (op : Nat → Nat → Nat × BitVec 5) : Prop :=
      let x0 := canonOf t (lane t (rdV s a) 0) (lane t (rdV s a) 0)
      ∀ y, ScanOf op x0.1 (lane t (rdV s a)) y → ∃ v, ∃ f : BitVec 5, GivesV i s extra 6 d v f ∧ (∀ n, n < elemLanes t → lane t v n = y n % 2 ^ w) ∧
        f = flagsOf (x0.2 :: (List.range (elemLanes t - 1)).map fun n => (op (y n) (lane t (rdV s a) (n + 1))).2)
    let add (u v : Nat) : Nat × BitVec 5 := floatRes t sc (sumNum sc [elemNum t u, elemNum t v])
    (t.toNat < 8 →
      GivesLanes (.vredAdd sc t a d) s sc.toNat 6 d t (first sums) ∧ GivesLanes (.vredMin sc t a d) s sc.toNat 6 d t (first least) ∧
      GivesLanes (.vredMax sc t a d) s sc.toNat 6 d t (first most) ∧
      GivesLanes (.vscanAdd sc t a d) s sc.toNat 6 d t (fun n => pattern t (sums n)) ∧ GivesLanes (.vscanMin sc t a d) s sc.toNat 6 d t (fun n => pattern t (least n)) ∧
      GivesLanes (.vscanMax sc t a d) s sc.toNat 6 d t (fun n => pattern t (most n))) ∧
    (t = 8#4 ∨ t = 9#4 →
      tree (.vredAdd sc t a d) 0 add ∧ tree (.vredMin sc t a d) sc.toNat (pickOf false t) ∧ tree (.vredMax sc t a d) sc.toNat (pickOf true t) ∧
      scan (.vscanAdd sc t a d) 0 add ∧ scan (.vscanMin sc t a d) sc.toNat (pickOf false t) ∧ scan (.vscanMax sc t a d) sc.toNat (pickOf true t)) ∧
    (t.toNat ≤ 9 →
      VectorCompletes (.vredAdd sc t a d) s 6 d ∧ VectorCompletes (.vredMin sc t a d) s 6 d ∧ VectorCompletes (.vredMax sc t a d) s 6 d ∧
      VectorCompletes (.vscanAdd sc t a d) s 6 d ∧ VectorCompletes (.vscanMin sc t a d) s 6 d ∧ VectorCompletes (.vscanMax sc t a d) s 6 d)

/-- An element type that a vector instruction does not take, and a lane that the type does not have, are illegal (R118, R216, R228), outside steward mode. -/
def Sys2Proof.Claim.VectorIllegal : Prop :=
  ∀ (s : State) (sc : BitVec 2) (t : BitVec 4) (l : BitVec 5) (b a d : Reg), User s →
    let bad (i : Instr) : Prop := Traps i s 1#8 (s.core.ir.setWidth 64) (codeVa s s.core.ctx.pc)
    (10 ≤ t.toNat → bad (.vadd sc t b a d) ∧ bad (.vmin sc t b a d) ∧ bad (.vfma sc t b a d) ∧ bad (.vredAdd sc t a d) ∧ bad (.vscanMax sc t a d) ∧ bad (.vmov sc t a d)) ∧
    (8 ≤ t.toNat → bad (.vand sc t b a d) ∧ bad (.vshl sc t b a d) ∧ bad (.vsar sc t b a d) ∧ bad (.vadds sc t b a d)) ∧
    (12 < t.toNat → bad (.vcvt sc t 0#4 a d) ∧ bad (.vcvt sc 0#4 t a d)) ∧
    (elemLanes t ≤ l.toNat → bad (.vext sc t l a d) ∧ bad (.vins sc t l a d))

/-- Every tapered pattern converts to itself exactly (R202, R205): decoding a .t8, .t6 or .t4 word and rounding the value gives the word again under every rounding mode, with no flag,
but for NaR, which has no value. -/
def Obligations.TaperedWordsAreExact : Prop :=
  ∀ (t : BitVec 4) (rm : BitVec 2) (w : Nat), elemIsTapered t = true → w < 2 ^ elemWidth t → w ≠ 2 ^ (elemWidth t - 1) → roundTaper t rm (taperNum t w) = (w, 0#5)

/-- Lane-wise vector arithmetic: integers, fused and widening forms, floating point: each part as its own text says (R113, R136, R198, R199, R200, R216, R221, R222, R223, R224). -/
def Obligations.VectorArithmetic : Prop := Claim.VectorIntegers ∧ Claim.VectorMultiplyAdd ∧ Claim.VectorFloats ∧ Claim.VectorArithmeticCompletes

/-- Vector comparisons, selections, conversions and moves: each part as its own text says (R217, R225, R226, R227, R228, R229). -/
def Obligations.VectorMasksAndMoves : Prop := Claim.VectorMasks ∧ Claim.VectorMoves

/-- Vector reductions and scans, and the forms that trap as illegal: each part as its own text says (R118, R213, R216, R222, R228, R230). -/
def Obligations.VectorReductionsAndIllegalForms : Prop := Claim.VectorReductions ∧ Claim.VectorIllegal

/-! ### Quires -/

namespace Sys2Proof.Claim

/-- The home core that a QUI instruction other than QCFG names (R249). -/
def HomeIs (s : State) (a : Reg) (home : Nat) : Prop :=
  (rdG s a = 0#64 ∧ home = s.cur) ∨ ∃ off, place true (rdG s a).toNat = .pool home off ∧ isFabric home = false

/-- The issuing context is a member of group value `x` (R250). -/
def InGroup (s : State) (x : BitVec 9) : Prop :=
  x.getLsbD 8 = true ∨ ∃ i, i < 4 ∧ i < s.core.ctx.rcd.ngrp.toNat ∧ s.core.ctx.rcd.groups.extractLsb' (8 * i) 8 = x.extractLsb' 0 8

/-- The quire is configured and the owner in force may use it (R250). -/
def Usable (s : State) (x : Quire) : Prop := x.cfg = true ∧ (s.core.ctx.ctl.steward = true ∨ x.owner = s.core.ctx.ctl.owner)

/-- Slot `i` is the slot that the issuing context holds in a state, and no earlier one is. -/
def HoldsSlot (s : State) (x : Quire) (st : QSlotState) (i : Nat) : Prop :=
  i < x.slots.length ∧ (x.slots.getD i {}).st = st ∧ (x.slots.getD i {}).holder = some s.core.ctx.rcd.chrys ∧
    ∀ j, j < i → ¬((x.slots.getD j {}).st = st ∧ (x.slots.getD j {}).holder = some s.core.ctx.rcd.chrys)

/-- The issuing context holds no slot in a state. -/
def HoldsNone (s : State) (x : Quire) (st : QSlotState) : Prop := ∀ y ∈ x.slots, ¬(y.st = st ∧ y.holder = some s.core.ctx.rcd.chrys)

/-- Slots in a state. -/
def slotsIn (x : Quire) (st : QSlotState) : Nat := (x.slots.filter fun y => y.st == st).length

/-- The address of slot `i`: a private alias for the own core, a global alias for another (R249, R252). -/
def slotAlias (s : State) (home : Nat) (x : Quire) (i : Nat) : Word :=
  BitVec.ofNat 64 ((if home = s.cur then 0 else coreBase home) + x.base.toNat + 32 * x.slotB.toNat * i)

/-- No wait on a quire is timed. -/
def untimed (s : State) : State := setCtx s { s.core.ctx with blockedAt := none }

/-- A wait on a quire holds issue, timed from its first cycle (R254). -/
def WaitsOnQuire (i : Instr) (s : State) : Prop :=
  exec i s = .next (hold true (setCtx s { s.core.ctx with blockedAt := some (s.core.ctx.blockedAt.getD s.gtc) }))

end Sys2Proof.Claim

/-- QRES, QPUB, QACQ, QREL and QSTAT (R249, R250, R252, R254, R419): each completes with the ring's new slots, pointers and counters, or waits, as R252 says. Where it rests on the model's own choices: log 27, 29. -/
def Obligations.QuireInstructions : Prop :=
  ∀ (s : State) (sc : BitVec 2) (q : BitVec 4) (a d : Reg) (home : Nat), acquirePending s = false → underWait s [.g a] none = none → HomeIs s a home →
    let x := quireOf s home q.toNat
    let at_ (i : Nat) : QSlot := x.slots.getD i {}
    let put (i : Nat) (y : QSlot) : List QSlot := x.slots.set i y
    (Usable s x → InGroup s x.pgrp → (∀ n, s.core.ctx.why ≠ .deadlocked n) → x.retired = false → HoldsNone s x .reserved →
      (x.free = 0 ∨ 8 ≤ slotsIn x .reserved → WaitsOnQuire (.qres sc q a d) s) ∧
      (x.free ≠ 0 → slotsIn x .reserved < 8 → underWait s [] (some (.g d, 1)) = none → CompletesAs (.qres sc q a d) s 4 sc.toNat
        (putG d (slotAlias s home x x.res) (synced (untimed (setQuire home q.toNat { x with
          slots := put x.res { at_ x.res with st := .reserved, holder := some s.core.ctx.rcd.chrys }
          res := (x.res + 1) % x.slots.length, free := x.free - 1 } s)))))) ∧
    (Usable s x → InGroup s x.cgrp → x.retired = false → HoldsNone s x .acquired →
      (x.full = 0 ∨ 8 ≤ slotsIn x .acquired → WaitsOnQuire (.qacq sc q a d) s) ∧
      (x.full ≠ 0 → slotsIn x .acquired < 8 → underWait s [] (some (.g d, 1)) = none → CompletesAs (.qacq sc q a d) s 4 sc.toNat
        (putG d (slotAlias s home x x.acq) (synced (untimed (setQuire home q.toNat { x with
          slots := put x.acq { at_ x.acq with st := .acquired, holder := some s.core.ctx.rcd.chrys }
          acq := (x.acq + 1) % x.slots.length, full := x.full - 1 } s)))))) ∧
    (∀ i, Usable s x → InGroup s x.pgrp → HoldsSlot s x .reserved i → allPerformed s = true →
      CompletesAs (.qpub sc q a) s 4 sc.toNat (synced (setQuire home q.toNat
        (if (at_ i).open_ = 0 then advancePub { x with slots := put i { at_ i with st := .full, holder := none } } x.slots.length
         else { x with slots := put i { at_ i with st := .published, holder := none } }) s))) ∧
    (∀ i, Usable s x → InGroup s x.cgrp → HoldsSlot s x .acquired i → allPerformed s = true →
      CompletesAs (.qrel sc q a) s 4 sc.toNat
        (synced (setQuire home q.toNat (advanceRel { x with slots := put i { at_ i with st := .released, holder := none } } x.slots.length) s))) ∧
    (allPerformed s = false → (∀ i, Usable s x → InGroup s x.pgrp → HoldsSlot s x .reserved i → Holds (.qpub sc q a) s) ∧
      ∀ i, Usable s x → InGroup s x.cgrp → HoldsSlot s x .acquired i → Holds (.qrel sc q a) s) ∧
    (underWait s [.g a] (some (.g d, 2)) = none →
      (Usable s x → GivesGLater (.qstat sc q a d) s 4 sc.toNat 2 d
        (BitVec.ofNat 64 (x.slots.length + x.free * 2 ^ 8 + x.full * 2 ^ 16 + slotsIn x .reserved * 2 ^ 24 + slotsIn x .acquired * 2 ^ 28 +
          x.slotB.toNat * 2 ^ 32 + x.owner.toNat * 2 ^ 48 + 2 ^ 63))) ∧
      (x.cfg = false → GivesGLater (.qstat sc q a d) s 4 sc.toNat 2 d 0#64))

namespace Sys2Proof.Claim

/-- A 16-byte descriptor as QCFG reads it (R251). -/
def field (d lo n : Nat) : Nat := d / 2 ^ lo % 2 ^ n

end Sys2Proof.Claim

/-- QCFG (R250, R251): with every slot FREE and a descriptor that keeps R251's limits the quire is configured for the owner in force with FREE = NSLOT, all else at its start, and NSLOT = 0
unconfigures it; a descriptor outside the limits raises QUIRE with TRAP_VAL 2. The traps of R250 and R252, outside steward mode: no home, another owner's quire, no member of the group,
an unconfigured quire, a second slot, no slot held. Where it rests on the model's own choices: log 27. -/
def Obligations.QuireConfigurationAndTraps : Prop :=
  ∀ (s : State) (sc : BitVec 2) (q : BitVec 4) (a d : Reg) (home : Nat), acquirePending s = false → underWait s [.g a] none = none →
    let own := quireOf s s.cur q.toNat
    let x := quireOf s home q.toNat
    let s1 := ownRead s (rdG s a) 16
    let desc := getLe s1.mem (poolKey s.cur (rdG s a).toNat) 16
    let n := field desc 64 8
    let b := field desc 0 19
    let sb := field desc 32 16
    let legal : Prop := n = 0 ∨ (1 ≤ sb ∧ sb ≤ 2048 ∧ b % 64 = 0 ∧ b + 32 * sb * n ≤ scratchSize s.cur s.core)
    let idle : Prop := ∀ y ∈ own.slots, y.st = .free ∧ y.open_ = 0
    let new : Quire := if n = 0 then {} else
      { cfg := true, base := BitVec.ofNat 19 b, slotB := BitVec.ofNat 16 sb, owner := s.core.ctx.ctl.owner, pgrp := BitVec.ofNat 9 (field desc 94 9)
        cgrp := BitVec.ofNat 9 (field desc 103 9), holder := s.core.ctx.rcd.chrys, free := n, slots := List.replicate n {} }
    let traps (i : Instr) (code : BitVec 8) (v : Word) : Prop := Traps i s code v (codeVa s s.core.ctx.pc)
    ((rdG s a).toNat % 16 = 0 → OwnBytes s (rdG s a) 16 false none → (own.cfg = false ∨ own.owner = s.core.ctx.ctl.owner) →
      (idle → legal → CompletesAs (.qcfg sc q a) s 4 sc.toNat (setQuire s.cur q.toNat new { s1 with
        core := { s1.core with freed := s.core.freed.filter fun e =>
          !(decide (e.1 < new.base.toNat + 32 * new.slotB.toNat * new.slots.length) && decide (new.base.toNat < e.2)) } })) ∧
      (Memory.wf s.core.ctx.window = true → (¬idle ∨ ¬legal) →
        TrapsFrom (.qcfg sc q a) s s1 15#8 2#64 (codeVa s s.core.ctx.pc))) ∧
    (User s → own.cfg = true → own.owner ≠ s.core.ctx.ctl.owner → traps (.qcfg sc q a) 3#8 (q.setWidth 64)) ∧
    (User s → (∀ h, ¬HomeIs s a h) → traps (.qpub sc q a) 2#8 (rdG s a) ∧ traps (.qrel sc q a) 2#8 (rdG s a) ∧ traps (.qacq sc q a d) 2#8 (rdG s a)) ∧
    (User s → HomeIs s a home →
      (x.cfg = true → x.owner ≠ s.core.ctx.ctl.owner →
        traps (.qpub sc q a) 3#8 (q.setWidth 64) ∧ traps (.qrel sc q a) 3#8 (q.setWidth 64) ∧ traps (.qacq sc q a d) 3#8 (q.setWidth 64)) ∧
      (Usable s x → ¬InGroup s x.pgrp → traps (.qpub sc q a) 3#8 (q.setWidth 64)) ∧
      (Usable s x → ¬InGroup s x.cgrp → traps (.qrel sc q a) 3#8 (q.setWidth 64) ∧ traps (.qacq sc q a d) 3#8 (q.setWidth 64)) ∧
      (x.cfg = false → traps (.qpub sc q a) 15#8 1#64 ∧ traps (.qrel sc q a) 15#8 1#64 ∧ traps (.qacq sc q a d) 15#8 1#64) ∧
      (∀ i, Usable s x → InGroup s x.cgrp → x.retired = false → HoldsSlot s x .acquired i → traps (.qacq sc q a d) 15#8 3#64) ∧
      (Usable s x → InGroup s x.pgrp → HoldsNone s x .reserved → traps (.qpub sc q a) 15#8 4#64) ∧
      (Usable s x → InGroup s x.cgrp → HoldsNone s x .acquired → traps (.qrel sc q a) 15#8 4#64))

/-- QRED (R231, R232) and the end of a wait on a quire (R254). With g[a] = 0 a QRED takes no slot; else it reduces the next full slot in one issue, all or nothing: g[a] falls by the elements
counted, lane 0 of v[d] holds the new sum (stated for the integer types), the slot has been acquired and released in the ring, and the PC stays at the QRED while elements are left.
A wait of 256 cycles suspends the slot to WAITING with the PC at the instruction and PC and OWNER written to the record (R42); where a try now would succeed the wake follows at once, and the
continuation is READY (R44). A group found deadlocked takes QUEUE_DEADLOCK at its QRES. Where it rests on the model's own choices: log 28, 57. -/
def Obligations.QuireReductionAndWaits : Prop :=
  ∀ (s : State) (sc : BitVec 2) (t q : BitVec 4) (a d : Reg),
    let x := quireOf s s.cur q.toNat
    let w := elemWidth t / 8
    let off := x.base.toNat + 32 * x.slotB.toNat * x.acq
    let n := min (rdG s a).toNat (32 * x.slotB.toNat / w)
    (acquirePending s = false → t.toNat ≤ 9 → underWait s [.g a, .v d] (some (.v d, 1)) = none → underWait s [] (some (.g a, 1)) = none →
      (rdG s a = 0#64 → GivesNothing (.qred sc t q a d) s 4 (if t.toNat < 8 then sc.toNat else 0)) ∧
      (rdG s a ≠ 0#64 → Usable s x → InGroup s x.cgrp → x.retired = false → HoldsNone s x .acquired →
        (x.full = 0 ∨ 8 ≤ slotsIn x .acquired → WaitsOnQuire (.qred sc t q a d) s) ∧
        (x.full ≠ 0 → slotsIn x .acquired < 8 → allPerformed s = true → (∀ r ∈ s.races, r.agent = s.core.ctx.rcd.chrys.toNat ∨ r.closed = true) → 0 < n →
          ∃ u, exec (.qred sc t q a d) s = .next u ∧ WritesG a (rdG s a - BitVec.ofNat 64 n) s u ∧ (∀ r, r ≠ d → rdV u r = rdV s r) ∧
            (∀ l, 0 < l → l < elemLanes t → lane t (rdV u d) l = lane t (rdV s d) l) ∧
            (t.toNat < 8 → lane t (rdV u d) 0 =
              (lane t (rdV s d) 0 + ((List.range n).map fun l => getLe s.mem (poolKey s.cur off + w * l) w).sum) % 2 ^ elemWidth t) ∧
            quireOf u s.cur q.toNat = advanceRel { x with
              slots := x.slots.set x.acq { x.slots.getD x.acq {} with st := .released, holder := none }, acq := (x.acq + 1) % x.slots.length, full := x.full - 1 } x.slots.length ∧
            (s.asides = [] → ∀ b, getByte u.mem b = getByte s.mem b) ∧
            (n < (rdG s a).toNat → u.core.ctx.pc = s.core.ctx.pc ∧ u.core.nextIssue = s.gtc + 1) ∧ (n = (rdG s a).toNat → Follows 4 s u)))) ∧
    (∀ (b : Nat) (i : Fin 8) (k : BitVec 4) (g e : Reg), s.core.issuing = some (BitVec.ofNat 3 i) → s.core.ctx.blockedAt = some b → b + 256 ≤ s.gtc → s.core.ctx.pend = [] →
      s.core.ctx.idle = none → s.core.ctx.why = .none → s.core.slots[i].sst = .loaded → (∀ j : Fin 8, j ≠ i → s.core.slots[j].ctx.rcd.chrys ≠ s.core.ctx.rcd.chrys) →
      let y := quireOf s s.cur k.toNat
      let record := s.core.ctx.ctl.record.toNat
      let ends (ev : Instr) (st : ContState) (why : WaitWhy) : Prop := ∃ u, exec ev s = .next u ∧ u.core.issuing = none ∧
        u.core.slots[i].ctx.rcd.state = st ∧ u.core.slots[i].ctx.why = why ∧ u.core.slots[i].ctx.codePc = codeVa s s.core.ctx.pc ∧
        u.core.slots[i].ctx.regs = s.core.ctx.regs ∧ u.core.slots[i].ctx.ctl = s.core.ctx.ctl ∧
        RecordSaved record s u ∧
        (∀ h o, place true record = .pool h o → getLe u.mem (poolKey h o) 7 = (codeVa s s.core.ctx.pc).toNat ∧
          getLe u.mem (poolKey h o + 36) 2 % 4096 = s.core.ctx.ctl.owner.toNat)
      let leaves (ev : Instr) (why : WaitWhy) : Prop := ends ev .waiting why
      let wakes (ev : Instr) : Prop := ends ev .ready .none
      (rdG s g = 0#64 → decodeWord s.core.ir = some (.qres sc k g e) → y.cfg = true → y.retired = false →
        (y.free = 0 ∨ 8 ≤ slotsIn y .reserved → leaves (.quireSuspend s.cur) (.quireFree s.cur k.toNat)) ∧
        (y.free ≠ 0 → slotsIn y .reserved < 8 → wakes (.quireSuspend s.cur))) ∧
      (rdG s g = 0#64 → decodeWord s.core.ir = some (.qacq sc k g e) → y.cfg = true → y.retired = false →
        (y.full = 0 ∨ 8 ≤ slotsIn y .acquired → leaves (.quireSuspend s.cur) (.quireFull s.cur k.toNat)) ∧
        (y.full ≠ 0 → slotsIn y .acquired < 8 → wakes (.quireSuspend s.cur))) ∧
      (decodeWord s.core.ir = some (.qred sc t k g e) → y.cfg = true → y.retired = false →
        (y.full = 0 ∨ 8 ≤ slotsIn y .acquired → leaves (.qredSuspend s.cur) (.quireFull s.cur k.toNat)) ∧
        (y.full ≠ 0 → slotsIn y .acquired < 8 → wakes (.qredSuspend s.cur)))) ∧
    (∀ (l g : Nat) (b : Nat) (y : Group) (k : BitVec 4) (e f : Reg), g < 256 → tabGet {} s.hub.groups (256 * l + g) = y → y.stuck = some b → b + 4096 ≤ s.gtc →
      y.live = [s.core.ctx.rcd.chrys] → s.core.issuing.isSome = true → s.core.ctx.rcd.state = .running → s.core.ctx.blockedAt.isSome = true → s.core.holdSince.isSome = true →
      decodeWord s.core.ir = some (.qres sc k e f) → rdG s e = 0#64 →
      ∃ u, exec (.queueDeadlock l g) s = .next u ∧ u.core.ctx.why = .deadlocked k.toNat ∧ u.core.ctx.regs = s.core.ctx.regs ∧ (∀ c, getByte u.mem c = getByte s.mem c)) ∧
    (∀ k : Nat, s.core.ctx.why = .deadlocked k → User s → ∃ u, exec (.qres sc q a d) s = .next u ∧
      EntersHandler (setCtx s { s.core.ctx with why := .none, blockedAt := none }) u 18#8 (BitVec.ofNat 64 k) (codeVa s s.core.ctx.pc))
/-! ### Tables -/

namespace Sys2Proof.Claim

/-- The table engine of the core's tile (R233). -/
def myTile (s : State) : Tile := tabGet {} s.tiles (tileOf s.cur)

/-- A table instruction may issue: on a compute core, behind no LDAQ, with room in the queue of 32 and no queue fence, with its token, and on a table that is EMPTY or the owner's, or in
steward mode (R216, R233, R239, R331, R332). -/
def TableReady (s : State) (k : BitVec 4) (n : Fin 8) (t : TokenName) : Prop :=
  onCompute s = true ∧ acquirePending s = false ∧ (myTile s).tq.length < 32 ∧ s.core.fences = [] ∧ tokenOf s k = some t ∧
    ((ctxToken s.core.ctx t).issued - (ctxToken s.core.ctx t).count).toNat < 2 ^ 15 - 1 ∧
    (s.core.ctx.ctl.steward = true ∨ (myTile s).tables[n].st = .empty ∨ (myTile s).tables[n].owner = s.core.ctx.ctl.owner)

/-- The state after a request has been accepted: it is in the queue by its arrival, the token is issued on, and the sync region has ended (R239, R240). -/
def tableAccepts (s : State) (t : TokenName) (r : TableReq) (x : Tile) : State :=
  let s1 := issueToken t s
  synced { s1 with
    tiles := tabSet {} s.tiles (tileOf s.cur) { x with tq := queueReq r x.tq }
    core := { s1.core with engSeq := s.core.engSeq + 1 } }

/-- A request of the issuing context (R236, R237). -/
def tableRequest (s : State) (n : BitVec 3) (t : TokenName) : TableReq :=
  { num := s.gtc, unit := s.cur, ctx := s.core.ctx.rcd.chrys, owner := acting s, table := n, token := t, eng := s.core.engSeq }

/-- The work of another unit reaches the context that issues in the core in focus: token `t` is posted and no other register, and no byte, changes but those that `P` states. -/
def Posts (s u : State) (t : TokenName) : Prop :=
  ctxToken u.core.ctx t = { ctxToken s.core.ctx t with count := (ctxToken s.core.ctx t).count + 1#16 } ∧ (∀ r, rdG u r = rdG s r) ∧ (∀ r, rdM u r = rdM s r) ∧
    u.core.ctx.pc = s.core.ctx.pc ∧ u.core.log = s.core.log ∧ u.core.journal = s.core.journal

/-- The context issues in the core in focus and still lives. -/
def Issues (s : State) (c : BitVec 56) : Prop := s.core.issuing.isSome = true ∧ s.core.ctx.rcd.chrys = c ∧ deadOf c = none

end Sys2Proof.Claim

/-- TLOAD, TEVAL and TSTAT at issue (R236, R237, R238, R239), and what they refuse (R233, R236): the emptying form takes no address, the loading form sets OWNER and STATE at acceptance,
TEVAL captures v[a], TSTAT shows a foreign table's STATE and QDEPTH alone; a full queue holds issue. -/
def Sys2Proof.Claim.TableInstructions : Prop :=
  ∀ (s : State) (sc : BitVec 2) (k : BitVec 4) (n : Fin 8) (p : BitVec 1) (a d : Reg) (t : TokenName),
    let nn := BitVec.ofNat 3 n
    let x := myTile s
    let r := tableRequest s nn t
    (TableReady s k n t →
      (underWait s [.g 0#5] none = none → CompletesAs (.tload sc k 0#5 nn) s 4 sc.toNat (tableAccepts s t r x)) ∧
      (∀ st s1, a ≠ 0#5 → underWait s [.g a] none = none → (rdG s a).toNat % 64 = 0 → check s (acting s) (rdG s a) 64 .I = .ok (st, s1) →
        CompletesAs (.tload sc k a nn) s 4 sc.toNat (tableAccepts s1 t { r with addr := some (rdG s a), stamp := st }
          { x with tables := x.tables.set n { x.tables[n] with st := .loading, owner := acting s } })) ∧
      (underWait s [.v a] none = none → ∃ unc, CompletesAs (.teval sc k p nn a d) s 4 sc.toNat
        (tableAccepts (setCtx s { s.core.ctx with uncov := unc }) t { r with eval := some (d, rdV s a, p = 1#1) } x) ∧
        ∃ e ∈ unc, e.dest = .v d ∧ e.token = t ∧ e.ordinal = (ctxToken s.core.ctx t).issued + 1#16)) ∧
    (onCompute s = true → acquirePending s = false → underWait s [] (some (.g d, 2)) = none →
      let y := x.tables[n]
      let code : Nat := if y.st = .empty then 0 else if y.st = .loading then 1 else 2
      let segs : Nat := match y.image with | some i => if y.st = .ready then i.segs.length else 0 | none => 0
      ((s.core.ctx.ctl.steward = true ∨ y.owner = s.core.ctx.ctl.owner ∨ y.owner = 0#12) → GivesGLater (.tstat sc nn d) s 4 sc.toNat 2 d
        (BitVec.ofNat 64 (code * 2 ^ 62 + x.tq.length * 2 ^ 16 + (y.err.toNat * 2 ^ 59 + y.owner.toNat * 2 ^ 36 + y.flags.toNat * 2 ^ 32 + segs)))) ∧
      (s.core.ctx.ctl.steward = false → y.owner ≠ s.core.ctx.ctl.owner → y.owner ≠ 0#12 →
        GivesGLater (.tstat sc nn d) s 4 sc.toNat 2 d (BitVec.ofNat 64 (code * 2 ^ 62 + x.tq.length * 2 ^ 16)))) ∧
    (onCompute s = true → acquirePending s = false → tokenOf s k = some t → 32 ≤ x.tq.length → Holds (.tload sc k a nn) s ∧ Holds (.teval sc k p nn a d) s) ∧
    (User s → onCompute s = true → acquirePending s = false → tokenOf s k = some t → x.tq.length < 32 → s.core.fences = [] →
      (x.tables[n].st ≠ .empty → x.tables[n].owner ≠ s.core.ctx.ctl.owner →
        (underWait s [.g a] none = none → Traps (.tload sc k a nn) s 3#8 (nn.setWidth 64) (codeVa s s.core.ctx.pc)) ∧
        (underWait s [.v a] none = none → Traps (.teval sc k p nn a d) s 3#8 (nn.setWidth 64) (codeVa s s.core.ctx.pc))) ∧
      (x.tables[n].st = .empty → underWait s [.g a] none = none → a ≠ 0#5 → (rdG s a).toNat % 64 ≠ 0 →
        Traps (.tload sc k a nn) s 2#8 (rdG s a) (codeVa s s.core.ctx.pc)))

/-- TLOAD_PERFORM and TEVAL_PERFORM at the head of tile `n`'s queue (R236, R237, R239): emptying, a load that succeeds or fails, an evaluation with and without contents, and a request whose
continuation has ended, which is skipped; the queue loses its head, no byte of memory changes but for pages a load marks accessed, and the token is posted after the result. Where it rests on the model's own choices: log 23. -/
def Sys2Proof.Claim.TableEngine : Prop :=
  ∀ (s : State) (n : Nat) (r : TableReq) (q : List TableReq) (i : Fin 8),
    let x : Tile := tabGet {} s.tiles n
    let y := x.tables[i]
    let after (z : Table) : Tab Tile := tabSet {} s.tiles n { x with tq := q, tables := x.tables.set i z }
    x.tq = r :: q → r.table = BitVec.ofNat 3 i → (r.token.handler = true → r.token.num.toNat < 4) →
    (Issues s r.ctx → r.eval = none →
      (r.addr = none → ∃ u, exec (.tloadPerform n) s = .next u ∧ u.tiles = after {} ∧ Posts s u r.token ∧ (∀ b, getByte u.mem b = getByte s.mem b) ∧ ∀ v, rdV u v = rdV s v) ∧
      (∀ a e s1, r.addr = some a → readImage r a.toNat s = (.error e, s1) → ∃ u, exec (.tloadPerform n) s = .next u ∧ u.tiles = after { y with st := .empty, err := e, image := none } ∧
        Posts s u r.token ∧ (∀ b, getByte u.mem b = getByte s1.mem b) ∧ ∀ v, rdV u v = rdV s v) ∧
      (∀ a img s1, r.addr = some a → readImage r a.toNat s = (.ok img, s1) → ∃ u, exec (.tloadPerform n) s = .next u ∧
        u.tiles = after { y with st := .ready, err := 0#3, flags := 0#4, image := some img, loadedBy := r.owner } ∧ Posts s u r.token ∧ (∀ b, getByte u.mem b = getByte s1.mem b) ∧
        ∀ v, rdV u v = rdV s v)) ∧
    (∀ d v w, Issues s r.ctx → r.eval = some (d, v, w) →
      let t : BitVec 4 := if w then 9#4 else 8#4
      ∃ u f, exec (.tevalPerform n) s = .next u ∧ u.tiles = after { y with flags := y.flags ||| f } ∧ Posts s u r.token ∧ (∀ b, getByte u.mem b = getByte s.mem b) ∧
        (∀ e, e ≠ d → rdV u e = rdV s e) ∧
        (∀ img, y.image = some img → ∀ l, l < elemLanes t → lane t (rdV u d) l = (evalLane img t (lane t v l)).1 % 2 ^ elemWidth t) ∧
        (y.image = none → f = 8#4 ∧ ∀ l, l < elemLanes t → lane t (rdV u d) l = if w then 0x7FC00000 else 0x7FC0)) ∧
    ((deadOf r.ctx).isSome = true →
      (r.eval = none → ∃ u z, exec (.tloadPerform n) s = .next u ∧ u.tiles = tabSet {} s.tiles n { x with tq := q, tables := z } ∧ u.core = s.core ∧ ∀ b, getByte u.mem b = getByte s.mem b) ∧
      (r.eval.isSome = true → r.addr = none → ∃ u, exec (.tevalPerform n) s = .next u ∧ u.tiles = tabSet {} s.tiles n { x with tq := q } ∧ u.core = s.core ∧ ∀ b, getByte u.mem b = getByte s.mem b))

/-- Table loads and evaluations: what is queued, when they hold, and what the engine does: each part as its own text says (R233, R236, R237, R238, R239). -/
def Obligations.Tables : Prop := Claim.TableInstructions ∧ Claim.TableEngine

/-! ### Messages -/

namespace Sys2Proof.Claim

/-- The unit whose mailbox a handle names (R264). -/
def HandleNames (h : Word) (u : Nat) : Prop :=
  (h.getLsbD 59 = false ∧ u = (h.extractLsb' 44 12).toNat) ∨ (h.getLsbD 59 = true ∧ (h.extractLsb' 44 12).toNat < 272 ∧ u = 4096 + (h.extractLsb' 44 12).toNat)

/-- The cores that a set names: CMASK of every tile of the rectangle (R261). -/
def setOf (x : Nat) : List Nat :=
  (List.range 8).flatMap fun y => (List.range 8).flatMap fun c =>
    if field x 6 3 ≤ c ∧ c ≤ field x 9 3 ∧ field x 12 3 ≤ y ∧ y ≤ field x 15 3 then
      (List.range 8).filterMap fun i => if field x (24 + i) 1 = 1 then some ((field x 18 3 * 64 + y * 8 + c) * 8 + i) else none
    else []

/-- The message of a SEND of v[b] to handle `h` (R264, R265). -/
def sent (s : State) (h : Word) (b : Reg) : NetMsg :=
  { handle := h, body := (rdV s b).extractLsb' 0 128, sender := some s.cur, entry := s.core.sendSeq, colour := colourOf s s.cur, src := s.core.ctx.rcd.chrys }

/-- Send entries of the core that are taken (R265). -/
def entriesTaken (s : State) : Nat := ((s.net.filter fun m => m.sender == some s.cur).map (·.entry)).dedup.length

/-- The state after messages have been put on their way with one send entry: a release (R265). -/
def sends (s : State) (ms : List NetMsg) : State :=
  { synced { s with core := { s.core with sendSeq := s.core.sendSeq + 1 } } with net := s.net ++ ms }

/-- The issuing context, in slot `i` of the core in focus, which is LOADED and runs. -/
def RunsIn (s : State) (i : Fin 8) : Prop :=
  s.core.issuing = some (BitVec.ofNat 3 i) ∧ s.core.slots[i].sst = .loaded ∧ s.core.ctx.rcd.state = .running ∧ s.core.ctx.why = .none

/-- The messages that wait in the mailbox area of the issuing context's image: MBA_CNT of them from entry MBA_HEAD of 32, none where the image cannot be placed (R373, R374). -/
def areaOf (s : State) : List (BitVec 128) :=
  match devKey s s.core.ctx.rcd.chrys.toNat with
  | some key => (List.range s.core.ctx.ctl.mbaCnt.toNat).map fun i => BitVec.ofNat 128 (getLe s.mem (key + 0x600 + 16 * ((s.core.ctx.ctl.mbaHead.toNat + i) % 32)) 16)
  | none => []

/-- The handle of the issuing context (R264). -/
def handleFor (s : State) (i : Fin 8) : Word :=
  BitVec.ofNat 64 (s.core.ctx.rcd.chrys.toNat / 4096 + (if s.cur < 4096 then s.cur else s.cur - 4096) * 2 ^ 44 + i * 2 ^ 56 + if s.cur < 4096 then 0 else 2 ^ 59)

end Sys2Proof.Claim

/-- SEND, SENDG, RCV, WFM and MBCNT (R264, R265, R266, R267), and what SEND refuses: a message on its way with one send entry, or a hold while all 8 are taken; the mailbox head in v[d], or
the first message that waits in the image's area (log 60, DEDUCED: the model receives it in the slot); the wait for a message. Where it rests on the model's own choices: log 24, 60. -/
def Obligations.MessageInstructions : Prop :=
  ∀ (s : State) (sc : BitVec 2) (sco : BitVec 3) (a b d n : Reg) (i : Fin 8), acquirePending s = false →
    (underWait s [.g a, .v b] none = none →
      (∀ u, HandleNames (rdG s a) u → (rdG s a).extractLsb' 60 3 = 0#3 → (s.core.ctx.ctl.steward = true ∨ samePart s s.cur u = true) →
        (allPerformed s = true → entriesTaken s < 8 → CompletesAs (.send sc sco b a) s 4 sc.toNat (sends s [sent s (rdG s a) b])) ∧
        (allPerformed s = false ∨ 8 ≤ entriesTaken s → Holds (.send sc sco b a) s)) ∧
      (let x := (rdG s a).toNat
       field x 40 24 = 0 → field x 32 3 = 0 → field x 21 3 = 0 → field x 0 6 = 0 → field x 24 8 ≠ 0 → field x 6 3 ≤ field x 9 3 → field x 12 3 ≤ field x 15 3 →
        (s.core.ctx.ctl.steward = true ∨ ∀ u ∈ setOf x, samePart s s.cur u = true) → allPerformed s = true → entriesTaken s < 8 →
        CompletesAs (.sendg sc sco b a) s 4 sc.toNat (sends s ((setOf x).map fun u =>
          { sent s (BitVec.ofNat 64 (u * 2 ^ 44 + field x 35 3 * 2 ^ 56)) b with group := some (gidxGroup s (field x 38 2)) }))) ∧
      (User s → (∀ u, ¬HandleNames (rdG s a) u) ∨ (rdG s a).extractLsb' 60 3 ≠ 0#3 → Traps (.send sc sco b a) s 2#8 (rdG s a) (codeVa s s.core.ctx.pc)) ∧
      (∀ u, User s → HandleNames (rdG s a) u → (rdG s a).extractLsb' 60 3 = 0#3 → samePart s s.cur u = false →
        Traps (.send sc sco b a) s 3#8 (rdG s a) (codeVa s s.core.ctx.pc))) ∧
    (underWait s [] (some (.v d, 1)) = none →
      (∀ m ms, s.core.ctx.mailbox = m :: ms → ∃ t, exec (.rcv sc d) s = .next t ∧ t.core.ctx.mailbox = ms ∧ t.core.ctx.ctl.mbaCnt = s.core.ctx.ctl.mbaCnt ∧ rdV t d = m.setWidth 256 ∧ (∀ r, r ≠ d → rdV t r = rdV s r) ∧
        (∀ r, rdG t r = rdG s r) ∧ (∀ r, rdM t r = rdM s r) ∧ (∀ x, getByte t.mem x = getByte s.mem x) ∧ Follows 4 s t ∧ t.net = s.net ∧ t.core.log = s.core.log ∧
        t.core.journal = s.core.journal) ∧
      (∀ m ms, s.core.ctx.mailbox = [] → areaOf s = m :: ms → ∃ t, exec (.rcv sc d) s = .next t ∧ t.core.ctx.mailbox = ms ∧ t.core.ctx.ctl.mbaCnt = 0#6 ∧
        rdV t d = m.setWidth 256 ∧ (∀ r, r ≠ d → rdV t r = rdV s r) ∧ (∀ r, rdG t r = rdG s r) ∧ (∀ r, rdM t r = rdM s r) ∧ Follows 4 s t ∧ t.net = s.net ∧
        (∀ l, walk s s.core.ctx.rcd.chrys.toNat = some l → ∀ x, x ≠ l.addr + 8 → getByte t.mem x = getByte s.mem x) ∧
        (walk s s.core.ctx.rcd.chrys.toNat = none → ∀ x, getByte t.mem x = getByte s.mem x)) ∧
      (s.core.ctx.mailbox = [] → areaOf s = [] → Holds (.rcv sc d) s)) ∧
    (s.core.ctx.mailbox ++ areaOf s ≠ [] → ∃ h, CompletesAs (.wfm sc) s 4 sc.toNat { s with hub := { s.hub with queues := h } }) ∧
    (s.core.ctx.mailbox = [] → areaOf s = [] → RunsIn s i → s.core.ctx.pend = [] → s.core.ctx.idle = none → ∃ t pc, exec (.wfm sc) s = .next t ∧ t.core.issuing = none ∧
      Follows 4 s { s with core := { s.core with ctx := { t.core.slots[i].ctx with pc := pc } } } ∧ t.core.slots[i].ctx.codePc = codeVa s pc ∧
      t.core.slots[i].ctx.rcd.state = .waiting ∧ t.core.slots[i].ctx.why = .message ∧ t.core.slots[i].ctx.regs.g = s.core.ctx.regs.g ∧
      RecordSaved s.core.ctx.ctl.record.toNat s t) ∧
    (underWait s [] (some (.g d, 2)) = none →
      GivesGLater (.mbcnt sc 0#5 d) s 4 sc.toNat 2 d (BitVec.ofNat 64 (s.core.ctx.mailbox ++ areaOf s).length) ∧
      (s.core.issuing = some (BitVec.ofNat 3 i) → GivesGLater (.mbcnt sc 1#5 d) s 4 sc.toNat 2 d (handleFor s i)) ∧
      GivesGLater (.mbcnt sc 2#5 d) s 4 sc.toNat 2 d (s.core.dropped.setWidth 64) ∧
      (2 < n.toNat → User s → Traps (.mbcnt sc n d) s 1#8 (s.core.ir.setWidth 64) (codeVa s s.core.ctx.pc)))

/-- MESSAGE_DELIVERY and BUFFER_FREE_ANSWER (R264, R266, R268, R373) for the oldest message on its way: it joins the mailbox of the context that its TAG names, waits while 32 are held, is dropped and
counted where no image receives it, or is counted by the combining entry of its sender's tile, whose last answer sends FREE. Where it rests on the model's own choices: log 25. -/
def Obligations.MessageDelivery : Prop :=
  ∀ (s : State) (m : NetMsg) (ms : List NetMsg) (i : Fin 8), s.net = m :: ms → m.swept = none → m.copyOf = none →
    (HandleNames m.handle s.cur → m.handle.extractLsb' 56 3 = BitVec.ofNat 3 i → m.handle.msb = false → m.group = none → s.core.ctx.rcd.chrys = m.handle.extractLsb' 0 44 ++ 0#12 →
      RunsIn s i →
      (s.core.ctx.mailbox.length + s.core.ctx.ctl.mbaCnt.toNat < 32 → ∃ t, exec (.messageDelivery 0) s = .next t ∧ t.net = ms ∧
        t.core.ctx.mailbox = s.core.ctx.mailbox ++ [m.body] ∧ t.core.ctx.ctl.wake = true ∧ t.core.ctx.regs = s.core.ctx.regs ∧ t.core.ctx.pc = s.core.ctx.pc ∧
        t.core.dropped = s.core.dropped ∧ ∀ x, getByte t.mem x = getByte s.mem x) ∧
      (32 ≤ s.core.ctx.mailbox.length + s.core.ctx.ctl.mbaCnt.toNat → exec (.messageDelivery 0) s = .next s)) ∧
    (HandleNames m.handle s.cur → m.handle.extractLsb' 56 3 = BitVec.ofNat 3 i → m.handle.msb = false → m.group = none → s.core.slots[i].sst = .empty →
      imageRecord s (m.handle.extractLsb' 0 44 ++ 0#12) = 0#56 → m.ofQueue = none →
      exec (.messageDelivery 0) s = .next { touchPage false (m.handle.extractLsb' 0 44 ++ 0#12 : BitVec 56).toNat s with
        net := ms, core := { s.core with dropped := BitVec.ofNat 16 (min 65535 (s.core.dropped.toNat + 1)) } }) ∧
    (∀ (u : Nat) (e : Combine) (es : List Combine), m.sender = some u → isFabric u = false → m.handle.msb = true → tabGet {} s.tiles (tileOf u) = { tabGet {} s.tiles (tileOf u) with combine := e :: es } →
      e.handle.setWidth 63 = m.handle.setWidth 63 → e.handle.msb = false → e.tid = m.body.extractLsb' 0 8 → e ∉ es →
      let x : Tile := tabGet {} s.tiles (tileOf u)
      (e.count + 1 < e.expect → exec (.bufferFreeAnswer 0) s =
        .next { s with net := ms, tiles := tabSet {} s.tiles (tileOf u) { x with combine := { e with count := e.count + 1 } :: es } }) ∧
      (e.expect ≤ e.count + 1 → exec (.bufferFreeAnswer 0) s = .next { s with
        tiles := tabSet {} s.tiles (tileOf u) { x with combine := es }
        net := ms ++ [{ handle := e.handle, body := BitVec.ofNat 128 (e.tid.toNat + 3 * 2 ^ 8 + (e.count + 1) % 2 ^ 32 * 2 ^ 32 + tileOf u % 512 * 2 ^ 96), sender := none
                        colour := m.colour, ofQueue := e.ofQueue }] }) ∧
      exec (.messageDelivery 0) s = .next s)
/-! ### Presses and stacks -/

namespace Sys2Proof.Claim

/-- g[a] names a 64-byte aligned descriptor of 64 bytes in the core's scratchpad, read without a conflict and outside steward mode, whose value is `d` (R282, R296). -/
def DescriptorAt (s : State) (a : Reg) (d : Nat) : Prop :=
  (rdG s a).toNat % 64 = 0 ∧ OwnBytes s (rdG s a) 64 false none ∧ d = getLe (ownRead s (rdG s a) 64).mem (poolKey s.cur (rdG s a).toNat) 64

/-- The token of a command may be used (R112, R131). -/
def TokenRoom (s : State) (k : BitVec 4) (t : TokenName) : Prop :=
  tokenOf s k = some t ∧ ((ctxToken s.core.ctx t).issued - (ctxToken s.core.ctx t).count).toNat < 2 ^ 15 - 1

/-- The state after a press entry has been appended: descriptor bits [63:0] are the header of R289, NEXT rises, the token (if any) is issued on, and the sync region has ended (R288, R296). -/
def pressAccepts (s : State) (op : BitVec 3) (t : Option TokenName) (d : Nat) : State :=
  let g := s.core.galley
  let s1 := match t with | some k => issueToken k s | none => s
  let e : PressEntry :=
    { desc := BitVec.ofNat 512 (d / 2 ^ 64 * 2 ^ 64 + g.next.toNat * 2 ^ 32 + s.core.ctx.ctl.owner.toNat * 2 ^ 20 + op.toNat * 2 ^ 17 +
        (match t with | some k => k.num.toNat | none => 0) * 2 ^ 13)
      seqNo := g.next, owner := s.core.ctx.ctl.owner, op := op, token := t, ctx := s.core.ctx.rcd.chrys, eng := s.core.engSeq }
  synced { s1 with core := { s1.core with galley := { g with next := g.next + 1#32, entries := g.entries ++ [e] }, engSeq := s.core.engSeq + 1 } }

/-- The stack commands, by OP of R281. -/
def stackCommand (i : Instr) : Option (BitVec 3 × BitVec 2 × BitVec 4 × Reg) :=
  match i with
  | .segmv sc k a => some (0#3, sc, k, a)
  | .sefil sc k a => some (1#3, sc, k, a)
  | .secpy sc k a => some (2#3, sc, k, a)
  | .secmp sc k a => some (3#3, sc, k, a)
  | .sered sc k a => some (4#3, sc, k, a)
  | _ => none

/-- The head operand of a command and the right it needs: SRCB of SEGMV, DST of SEFIL, SRCA of the rest, but DST of a SECPY from the host window (R283). -/
def headOperand (s : State) (op : BitVec 3) (d : Nat) : Nat × Right :=
  let dst := field d 0 64
  let srcA := field d 64 64
  if op = 0#3 then (field d 128 64, .I) else if op = 1#3 then (dst, .W)
  else if op = 2#3 then (if place true srcA = .heap ∧ ∃ l, walk s srcA = some l ∧ inHostWindow l.pa = true then (dst, .W) else (srcA, .I))
  else (srcA, .I)

/-- The galley of a heap address: that of the stack and channel of the page it maps to (R103, R280). -/
def GalleyAt (s : State) (va n : Nat) : Prop := place true va = .heap ∧ ∃ l st ch, walk s va = some l ∧ stackOf l.pa = some (st, ch) ∧ n = st * 32 + ch

/-- The state after a stack command has been accepted into galley `n` (R280, R282). -/
def stackAccepts (s : State) (n : Nat) (op : BitVec 3) (t : Option TokenName) (d : Nat) : State :=
  let g : StackGalley := tabGet {} s.galleys n
  let s1 := match t with | some k => issueToken k s | none => s
  let e : StackEntry :=
    { desc := BitVec.ofNat 512 d, op := op, seqNo := g.next, owner := acting s, by_ := some (s.cur, s.core.ctx.rcd.chrys), token := t, eng := s.core.engSeq }
  synced { s1 with
    galleys := tabSet {} s.galleys n { g with next := g.next + 1#32, entries := g.entries ++ [e] }
    core := { s1.core with engSeq := s.core.engSeq + 1 } }

end Sys2Proof.Claim

/-- The press instructions (R288, R289, R296, R302): PMAC, PMACS, PZERO and PDRAIN append an entry or hold while the galley holds 64, before the descriptor is read; a misaligned descriptor is the address fault, and a token with 2^15 − 1 operations outstanding TOKEN_OVERFLOW; PSTAT gives the
galley's status and clears ERR and FLAGS; PSYNC waits for an empty galley. -/
def Sys2Proof.Claim.PressInstructions : Prop :=
  ∀ (s : State) (sc : BitVec 2) (k : BitVec 4) (a d : Reg) (t : TokenName) (x : Nat), onCompute s = true → acquirePending s = false →
    let g := s.core.galley
    let s1 := ownRead s (rdG s a) 64
    (underWait s [.g a] none = none → DescriptorAt s a x →
      (g.entries.length < 64 → TokenRoom s k t →
        CompletesAs (.pmac sc k a) s 4 sc.toNat (pressAccepts s1 0#3 (some t) x) ∧ CompletesAs (.pmacs sc k a) s 4 sc.toNat (pressAccepts s1 1#3 (some t) x) ∧
        CompletesAs (.pdrain sc k a) s 4 sc.toNat (pressAccepts s1 3#3 (some t) x)) ∧
      (g.entries.length < 64 → CompletesAs (.pzero sc a) s 4 sc.toNat (pressAccepts s1 2#3 none x))) ∧
    (underWait s [.g a] none = none → (rdG s a).toNat % 64 = 0 → (rdG s a).toNat + 64 ≤ scratchSize s.cur s.core →
      (64 ≤ g.entries.length → tokenOf s k = some t → Holds (.pmac sc k a) s ∧ Holds (.pmacs sc k a) s ∧ Holds (.pzero sc a) s ∧ Holds (.pdrain sc k a) s) ∧
      (g.entries.length < 64 → User s → tokenOf s k = some t → 2 ^ 15 - 1 ≤ ((ctxToken s.core.ctx t).issued - (ctxToken s.core.ctx t).count).toNat →
        Traps (.pmac sc k a) s 10#8 (k.setWidth 64) (codeVa s s.core.ctx.pc) ∧ Traps (.pdrain sc k a) s 10#8 (k.setWidth 64) (codeVa s s.core.ctx.pc))) ∧
    (underWait s [.g a] none = none → User s → (rdG s a).toNat % 64 ≠ 0 → tokenOf s k = some t →
      Traps (.pmac sc k a) s 2#8 (rdG s a) (codeVa s s.core.ctx.pc) ∧ Traps (.pzero sc a) s 2#8 (rdG s a) (codeVa s s.core.ctx.pc)) ∧
    (underWait s [] (some (.g d, 2)) = none →
      let w : Word := BitVec.ofNat 64 (g.done.toNat + (if leaseHolder s (tileOf s.cur) = some (BitVec.ofNat 3 s.cur) then 2 ^ 39 else 0) + g.entries.length * 2 ^ 40 +
        g.flags.toNat * 2 ^ 51 + g.err.toNat * 2 ^ 56)
      let s1 := putGLater 2 d w s
      CompletesAs (.pstat sc d) s 4 sc.toNat { s1 with core := { s1.core with galley := { g with err := 0#8, flags := 0#5 } } }) ∧
    (g.entries = [] → CompletesAs (.psync sc) s 4 sc.toNat (synced s)) ∧ (g.entries ≠ [] → Holds (.psync sc) s)

/-- The stack commands and SESTAT at issue (R280, R282, R283, R285): the head operand's rights and translation select the galley; the command is accepted with its number, or holds while the galley
holds 64; TOK = 0 uses no token. A head operand that is refused traps, and nothing is accepted. Where it rests on the model's own choices: log 29, 31. -/
def Sys2Proof.Claim.StackInstructions : Prop :=
  ∀ (s : State) (i : Instr) (op : BitVec 3) (sc : BitVec 2) (k : BitVec 4) (a d : Reg) (t : TokenName) (x n : Nat) (c : List PlbEntry) (st : Stamp), acquirePending s = false →
    underWait s [.g a] none = none →
    let s0 := ownRead s (rdG s a) 64
    let h := headOperand s0 op x
    let plb (b : State) : State := { b with core := { b.core with plb := c } }
    let s1 := touchPage false h.1 (plb s0)
    (stackCommand i = some (op, sc, k, a) → DescriptorAt s a x → place (onCompute s) h.1 = .heap →
      check s0 s.core.ctx.ctl.owner (BitVec.ofNat 64 h.1) 1 h.2 = .ok (st, plb s0) → GalleyAt s0 h.1 n → s.core.fences = [] →
      let g : StackGalley := tabGet {} s.galleys n
      (g.entries.length < 64 → field x 279 1 = 1 → TokenRoom s k t → CompletesAs i s 4 sc.toNat (stackAccepts s1 n op (some t) x)) ∧
      (g.entries.length < 64 → field x 279 1 = 0 → tokenOf s k = some t → CompletesAs i s 4 sc.toNat (stackAccepts s1 n op none x)) ∧
      (64 ≤ g.entries.length → tokenOf s k = some t → Holds i s)) ∧
    (stackCommand i = some (op, sc, k, a) → Memory.wf s.core.ctx.window = true → DescriptorAt s a x → tokenOf s k = some t →
      ∀ e, check s0 s.core.ctx.ctl.owner (BitVec.ofNat 64 h.1) 1 h.2 = .error e →
      TrapsFrom i s (checkFill s0 s.core.ctx.ctl.owner (BitVec.ofNat 64 h.1) 1 h.2) (causeOf e) (BitVec.ofNat 64 h.1) (codeVa s s.core.ctx.pc)) ∧
    (underWait s [] (some (.g d, 1)) = none → place (onCompute s) (rdG s a).toNat = .heap → check s (acting s) (rdG s a) 1 .I = .ok (st, plb s) → GalleyAt s (rdG s a).toNat n →
      CompletesAs (.sestat sc a d) s 4 sc.toNat
        (putG d (BitVec.ofNat 64 ((tabGet {} s.galleys n).done.toNat * 2 ^ 32 + (tabGet {} s.galleys n).next.toNat)) (touchPage false (rdG s a).toNat (plb s))))

/-- The press's events: leases (R305), the start of an entry (R301, R306), an entry that is refused at its start, PZERO's work (R299), the arbiter's admission (R306), a block-slice and its sums
(R297), an accumulate unit's addition (R294), a shootdown (R304), the governor's window (R307) and the completion of an entry (R302). Where it rests on the model's own choices: log 30. -/
def Obligations.PressEvents : Prop :=
  ∀ (s : State) (n : Nat) (h : BitVec 3) (e : PressEntry) (es : List PressEntry) (r : PressRun),
    let x : Tile := tabGet {} s.tiles n
    let u := n * 8 + h.toNat
    let now := s.gtc / 2
    let with_ (y : Tile) : State := { s with tiles := tabSet {} s.tiles n y }
    (∀ j, j < 8 → x.lease = none → h = x.lastHolder + BitVec.ofNat 3 (j + 1) → galleyReady s u = true →
      (∀ m, m < j → galleyReady s (n * 8 + (x.lastHolder + BitVec.ofNat 3 (m + 1)).toNat) = false) →
      exec (.leaseGrant n) s = .next (with_ { x with lease := some h, lastHolder := h, leaseStarts := 0, leaseAt := now })) ∧
    (x.lease = some h → (16 ≤ x.leaseStarts ∨ (x.run = none ∧ (x.leaseAt + 8192 ≤ now ∨ (getCore s u).galley.entries = []))) →
      exec (.leaseTimeout n) s = .next (with_ { x with lease := none })) ∧
    (leaseHolder s n = some h → (getCore s u).galley.entries = e :: es → x.run = none → sumsOut s n = false → (getCore s u).fences = [] →
      (∀ st, pressStatus s u e = .error st →
        exec (.pressEntryStart n) s = .next (with_ { x with leaseStarts := x.leaseStarts + 1, run := some { core := u, since := now, status := some st } })) ∧
      (∀ stamps, pressStatus s u e = .ok stamps → s.races = [] →
        ((e.op = 0#3 ∨ e.op = 1#3) → ∃ t y, exec (.pressEntryStart n) s = .next t ∧ t.tiles = tabSet {} s.tiles n y ∧ y.leaseStarts = x.leaseStarts + 1 ∧ y.sums = x.sums ∧
          (∃ b, y.run = some { core := u, since := now, admitted := b } ∧ (b = false → x.gated = false → x.request = none → y.request = some now)) ∧ ∀ b, getByte t.mem b = getByte s.mem b) ∧
        (e.op = 2#3 → Memory.wf s.mem = true → ∃ t, exec (.pressEntryStart n) s = .next t ∧
          t.tiles = tabSet {} s.tiles n { x with leaseStarts := x.leaseStarts + 1, run := some { core := u, since := now, status := some 0#8 } } ∧
          (∀ i j, i < pdM e.desc → j < pdN e.desc → ∀ b, b < 16 → getByte t.mem (resultKey s u e.desc i j + b) = 0#8) ∧
          ∀ b, (∀ i j, i < pdM e.desc → j < pdN e.desc → ¬(resultKey s u e.desc i j ≤ b ∧ b < resultKey s u e.desc i j + 16)) → getByte t.mem b = getByte s.mem b))) ∧
    (∀ c, x.run = some r → x.request = some c → x.gated = false → nextAdmitted s (dieOfTile n) = some n →
      let recent := (tabGet {} s.dies (dieOfTile n)).starts.filter fun p => decide (now < p + 8)
      (recent.length < 4 → ∃ d, exec (.pressStartAdmit n) s = .next { s with dies := d, tiles := tabSet {} s.tiles n { x with request := none, run := some { r with admitted := true, since := now } } } ∧
        d = tabSet {} s.dies (dieOfTile n) { tabGet {} s.dies (dieOfTile n) with starts := recent ++ [now], lastPart := tilePart s n }) ∧
      (4 ≤ recent.length → exec (.pressStartAdmit n) s = .next s)) ∧
    (x.run = some r → r.status = none → r.admitted = true → (getCore s r.core).galley.entries = e :: es → (e.op = 0#3 ∨ e.op = 1#3) → r.block < pdBlocks e.desc →
      badSlice s r.core e r.block r.slice = false → tileOf r.core = n →
      let w := (pdMembers r.core e.desc).getD r.block r.core
      tileOf w = n → ∃ t y r1, exec (.blockSlice n) s = .next t ∧ t.tiles = tabSet {} (tabSet {} s.tiles n { x with sums := x.sums ++ sliceSums s r.core e w r.block r.slice }) n y ∧
        y.sums = x.sums ++ sliceSums s r.core e w r.block r.slice ∧ y.run = some r1 ∧ r1.core = r.core ∧
        (r.slice + 1 < (pdK e.desc + 127) / 128 → r1.block = r.block ∧ r1.slice = r.slice + 1) ∧
        ((pdK e.desc + 127) / 128 ≤ r.slice + 1 → r1.block = r.block + 1 ∧ r1.slice = 0) ∧
        (deadOf e.ctx = none → Issues s e.ctx → ∀ b, getByte t.mem b = getByte s.mem b)) ∧
    (∀ y ys, x.sums = y :: ys → exec (.sliceSumAccumulate n) s = .next { s with
      mem := setLe s.mem y.addr 16 (addA96 (if y.zero then a96Zero else BitVec.ofNat 96 (getLe s.mem y.addr 12)) y.sum).toNat
      tiles := tabSet {} s.tiles n { x with sums := ys } }) ∧
    (∀ (sh : Shoot) (shs : List Shoot), x.run = some r → r.status = none → (getCore s r.core).galley.entries = e :: es → s.hub.shoots = sh :: shs → (∃ g, (sh.region, g) ∈ e.stamps) →
      ((∀ a b, sh.for_ ≠ .rdrop a b) → exec (.pressShootdown n sh.region.toNat) s = .next (with_ { x with run := some { r with status := some (if sh.freed then 4#8 else 3#8) } })) ∧
      (∀ a b, sh.for_ = .rdrop a b → shs = [] → exec (.pressShootdown n sh.region.toNat) s = .next s)) ∧
    (∀ y, s.hub.govAt + 256 ≤ now → s.tiles = [(n, y)] → ∃ t, exec (.governorWindow) s = .next t ∧ t.hub.govAt = now ∧ (tabGet {} t.tiles n).windowUse = 0 ∧
      (tabGet {} t.tiles n).gated = false ∧ (tabGet {} t.tiles n).run = y.run ∧ (tabGet {} t.tiles n).sums = y.sums ∧ t.core = s.core ∧ ∀ b, getByte t.mem b = getByte s.mem b) ∧
    (∀ st k, x.run = some r → r.core = s.cur → s.core.galley.entries = e :: es → sumsOut s n = false → Issues s e.ctx →
      (r.status = some st ∨ (r.status = none ∧ (e.op = 0#3 ∨ e.op = 1#3) ∧ pdBlocks e.desc ≤ r.block ∧ st = 0#8)) → (∀ q, e.token = some q → q.handler = true → q.num.toNat < 4) →
      ∃ t, exec (.pressEntryComplete n) s = .next t ∧ t.tiles = tabSet {} s.tiles n { x with run := none, request := none } ∧
        t.core.galley = { s.core.galley with done := e.seqNo, entries := es, err := if s.core.galley.err = 0#8 ∧ st ≠ 0#8 ∧ st ≠ 8#8 then st else s.core.galley.err } ∧
        (e.token = some k → Posts s t k) ∧ (e.token = none → t.core.ctx.regs = s.core.ctx.regs) ∧ ∀ b, getByte t.mem b = getByte s.mem b)

/-- The stack's events (R280, R283, R284): a command at the head of galley `n` starts and does its work: SEFIL writes its pattern, SECPY what it has read, SECMP the offset of the first differing byte,
SERED one element, SEGMV one element for each row; a dead or misdirected one, or one outside the table's operands, ends with its status and writes nothing; the completion writes the record, DONE and the
token; GO through the hart port appends DESC with owner 0, and waits while the galley is full. Where it rests on the model's own choices: log 31. -/
def Obligations.StackEvents : Prop :=
  ∀ (s : State) (n : Nat) (e : StackEntry) (es : List StackEntry) (u : Nat) (c : BitVec 56),
    let g : StackGalley := tabGet {} s.galleys n
    (g.entries = e :: es → e.started = false → e.by_ = some (u, c) →
      ((deadOf c).isSome = true → exec (.stackCommandStart n) s = .next { s with galleys := tabSet {} s.galleys n { g with entries := { e with started := true, status := 8#8 } :: es } }) ∧
      (deadOf c = none → e.op = 1#3 →
        let len := field e.desc.toNat 192 64
        let dst := field e.desc.toNat 0 64
        let bytes := (List.range len).map fun j => BitVec.ofNat 8 (field e.desc.toNat 384 64 / 256 ^ (j % 8))
        let cwa := field e.desc.toNat 448 64
        (cwa % 8 ≠ 0 ∨ len % 64 ≠ 0 ∨ 2 ^ 32 < len ∨ dst % 64 ≠ 0 ∨ isStackSpan s dst len = false →
          exec (.stackCommandStart n) s = .next { s with galleys := tabSet {} s.galleys n { g with entries := { e with started := true, status := 6#8, flags := 0#5, beats := 0 } :: es } }) ∧
        (∀ s1, cwa % 8 = 0 → len % 64 = 0 → len ≤ 2 ^ 32 → dst % 64 = 0 → isStackSpan s dst len = true → writeSpan (stackAgent n e) e dst bytes s = (none, s1) → ∃ t, exec (.stackCommandStart n) s = .next t ∧
          t.mem = s1.mem ∧ t.galleys = tabSet {} s.galleys n { g with entries := { e with started := true, status := 0#8, flags := 0#5, beats := len / 64 } :: es })) ∧
      (deadOf c = none → field e.desc.toNat 448 64 % 8 = 0 →
        let f (lo m : Nat) : Nat := field e.desc.toNat lo m
        let dst := f 0 64
        let srcA := f 64 64
        let srcB := f 128 64
        let len := f 192 64
        let rows := f 352 32
        let cols := f 336 16
        let ty : BitVec 4 := BitVec.ofNat 4 (f 284 4)
        let rm : BitVec 2 := BitVec.ofNat 2 (f 282 2)
        let rop := f 280 2
        let ag := stackAgent n e
        let ends (st : BitVec 8) (fl : FpFlags) (m : List Host.Cell) : Prop := ∃ t b, exec (.stackCommandStart n) s = .next t ∧ t.mem = m ∧
          t.galleys = tabSet {} s.galleys n { g with entries := { e with started := true, status := st, flags := fl, beats := b } :: es }
        let whole : Prop := len % 64 = 0 ∧ len ≤ 2 ^ 32
        let span (a : Nat) : Prop := isStackSpan s a len = true ∨ isHostSpan s a len = true
        let fa := fmtAt s u srcA
        let fb := fmtAt s u srcB
        (e.op = 2#3 →
          (∀ bs s1 s2, whole → dst % 64 = 0 → srcA % 64 = 0 → span srcA → span dst → ¬(len ≠ 0 ∧ isHostSpan s srcA len = true ∧ isHostSpan s dst len = true) →
            readSpan ag e srcA len s = (.ok bs, s1) → writeSpan ag e dst bs s1 = (none, s2) → ends 0#8 0#5 s2.mem) ∧
          (¬whole ∨ dst % 64 ≠ 0 ∨ srcA % 64 ≠ 0 ∨ ¬span srcA ∨ ¬span dst → ends 6#8 0#5 s.mem)) ∧
        (e.op = 3#3 →
          (∀ as bs s1 s2 s3, ∀ v : Nat, whole → dst % 8 = 0 → isPoolSpan e dst 8 = true → isStackSpan s srcA len = true → isStackSpan s srcB len = true →
            readSpan ag e srcA len s = (.ok as, s1) → readSpan ag e srcB len s1 = (.ok bs, s2) →
            ((as = bs ∧ v = 2 ^ 64 - 1) ∨ (v < len ∧ as[v]? ≠ bs[v]? ∧ ∀ j, j < v → as[j]? = bs[j]?)) →
            writeSpan ag e dst ((List.range 8).map fun j => BitVec.ofNat 8 (v / 256 ^ j)) s2 = (none, s3) → ends 0#8 0#5 s3.mem) ∧
          (¬whole ∨ dst % 8 ≠ 0 ∨ isPoolSpan e dst 8 = false ∨ isStackSpan s srcA len = false ∨ isStackSpan s srcB len = false → ends 6#8 0#5 s.mem)) ∧
        (e.op = 4#3 → 1 ≤ rows → rows ≤ 2 ^ 20 → rop ≠ 3 → ty.toNat ≤ 12 → isPoolSpan e dst (max 1 (elemWidth ty / 8)) = true → hasFormat s u srcA = true →
          isStackSpan s srcA (elemEnd fa (rows - 1)) = true →
          (fa = 0#4 ∨ 14 ≤ fa.toNat ∨ oneFormat s u fa srcA (elemEnd fa (rows - 1)) = false → ends 5#8 0#5 s.mem) ∧
          (1 ≤ fa.toNat → fa.toNat ≤ 13 → oneFormat s u fa srcA (elemEnd fa (rows - 1)) = true →
            (seredType fa ty = false → ends 6#8 0#5 s.mem) ∧
            (∀ bs s1 s2 k, seredType fa ty = true → readSpan ag e srcA (elemEnd fa (rows - 1)) s = (.ok bs, s1) → locate s u dst = .ok k →
              let t := fa - 1#4
              let w := elemWidth t
              let x (i : Nat) : Int :=
                let r := leNat ((bs.drop (w / 8 * i)).take (w / 8))
                if elemIsSigned t then (BitVec.ofNat w r).toInt else (r % 2 ^ w : Nat)
              let xs := (List.range rows).map x
              let y : Nat × FpFlags :=
                if fa.toNat ≤ 8 then
                  let v := if rop = 0 then xs.sum else if rop = 1 then xs.tail.foldl min (x 0) else xs.tail.foldl max (x 0)
                  ((BitVec.ofInt (elemWidth ty) (satInt (elemIsSigned ty) (elemWidth ty) v)).toNat, 0#5)
                else
                  let ns := (List.range rows).map fun i => readElem s u srcA fa bs i
                  roundNum ty rm (if rop = 0 then a96Num (sumSlices ns) else pickNum (decide (rop = 2)) ns)
              let out : List Byte :=
                if elemWidth ty < 8 then [BitVec.ofNat 8 ((getByte s.mem k).toNat / 2 ^ elemWidth ty * 2 ^ elemWidth ty + y.1)]
                else (List.range (elemWidth ty / 8)).map fun j => BitVec.ofNat 8 (y.1 / 256 ^ j)
              writeSpan ag e dst out s1 = (none, s2) → ends 0#8 y.2 s2.mem))) ∧
        (e.op = 0#3 → 1 ≤ rows → rows ≤ 2 ^ 20 → 1 ≤ cols → 8 ≤ ty.toNat → ty.toNat ≤ 10 → hasFormat s u srcA = true → hasFormat s u srcB = true →
          let na := cols * (fmtWidth fa / 8)
          let nb := cols * (fmtWidth fb / 8)
          let out := rows * (elemWidth ty / 8)
          let legal : Prop := (fa = 9#4 ∨ fa = 11#4) ∧ (fb = 9#4 ∨ fb = 11#4) ∧ oneFormat s u fa srcA na = true ∧ ∀ i, i < rows → oneFormat s u fb (srcB + i * f 288 48) nb = true
          isPoolSpan e srcA (max 1 na) = true → isPoolSpan e dst out = true → isStackRows s srcB (f 288 48) nb rows = true →
          (¬legal → ends 5#8 0#5 s.mem) ∧
          (∀ as bs s1 s2 s3, legal → readSpan ag e srcA na s = (.ok as, s1) → readRows ag e srcB (f 288 48) nb rows s1 = (.ok bs, s2) →
            let acc (i : Nat) : BitVec 96 := sumSlices ((List.range cols).map fun q =>
              (mulNum (readElem s u srcA fa as q) (readElem s u (srcB + i * f 288 48) fb (bs.getD i []) q)).1)
            let ys := (List.range rows).map fun i => roundNum ty rm (a96Num (acc i))
            writeSpan ag e dst (ys.flatMap fun y => (List.range (elemWidth ty / 8)).map fun j => BitVec.ofNat 8 (y.1 / 256 ^ j)) s2 = (none, s3) →
              ends 0#8 (flagsAny (ys.map (·.2))) s3.mem)))) ∧
    (g.entries = e :: es → e.started = true → e.by_ = some (u, c) → Issues s c → (∀ q, e.token = some q → q.handler = true → q.num.toNat < 4) →
      (field e.desc.toNat 448 64 = 0 → ∃ t, exec (.stackCommandComplete n) s = .next t ∧ t.galleys = tabSet {} s.galleys n { g with done := e.seqNo, entries := es } ∧
        (∀ k, e.token = some k → Posts s t k) ∧ (e.token = none → t.core.ctx.regs = s.core.ctx.regs) ∧ ∀ b, getByte t.mem b = getByte s.mem b) ∧
      (∀ k st, field e.desc.toNat 448 64 ≠ 0 → field e.desc.toNat 448 64 % 8 = 0 → (∃ v o, place true (field e.desc.toNat 448 64) = .pool v o) →
        agentCheck s e.owner (isCompute u) (field e.desc.toNat 448 64) .W = .ok st → locate s u (field e.desc.toNat 448 64) = .ok k →
        ∃ t, exec (.stackCommandComplete n) s = .next t ∧ t.galleys = tabSet {} s.galleys n { g with done := e.seqNo, entries := es } ∧
          t.mem = setLe s.mem k 8 (e.flags.toNat * 2 ^ 8 + e.status.toNat * 2 ^ 16 + e.seqNo.toNat * 2 ^ 32))) ∧
    (n < 256 → ∀ i op, (i, op) ∈ [(Instr.goSegmv n, 0#3), (.goSefil n, 1#3), (.goSecpy n, 2#3), (.goSecmp n, 3#3), (.goSered n, 4#3)] →
      (g.entries.length < 64 → exec i s = .next { s with galleys := tabSet {} s.galleys n { g with
        next := g.next + 1#32, entries := g.entries ++ [{ desc := g.desc, op := op, seqNo := g.next, owner := 0#12, by_ := none, token := none }] } }) ∧
      (64 ≤ g.entries.length → exec i s = .next s))

/-- Press and stack instructions: what is entered, when they hold, and their traps: each part as its own text says (R280, R282, R283, R285, R288, R289, R296, R302). -/
def Obligations.EngineInstructions : Prop := Claim.PressInstructions ∧ Claim.StackInstructions

/-! ### Channels, work and groups -/

namespace Sys2Proof.Claim

/-- A channel core's heap load and the load it stands for (R271). -/
def heapLoads (sc : BitVec 2) (k : BitVec 4) (imm : BitVec 6) (a d : Reg) : List (Instr × Instr) :=
  [(.xld sc k imm a d, .ldd sc k imm a d), (.xldv sc k imm a d, .ldv sc k imm a d)]

/-- A channel core's heap store and the store it stands for (R271). -/
def heapStores (sc : BitVec 2) (imm : BitVec 10) (b a : Reg) : List (Instr × Instr) := [(.xst sc imm b a, .std sc imm b a), (.xstv sc imm b a, .stv sc imm b a)]

/-- What a slot holds once its context has been suspended: it no longer issues, and resumes after the instruction (R44). -/
def SuspendsTo (s t : State) (i : Fin 8) (why : WaitWhy) : Prop :=
  t.core.issuing = none ∧ t.core.slots[i].ctx.rcd.state = .waiting ∧ t.core.slots[i].ctx.why = why ∧ t.core.slots[i].ctx.regs.g = s.core.ctx.regs.g ∧
    ∃ pc, t.core.slots[i].ctx.codePc = codeVa s pc ∧ Follows 4 s { s with core := { s.core with ctx := { t.core.slots[i].ctx with pc := pc } } }

end Sys2Proof.Claim

/-- XLD, XLDV, XST and XSTV (R118, R271): on a channel core, with an address in the heap, each does what its equivalent does; an address elsewhere is the address fault; on a compute core each takes
the no-external-path trap. -/
def Sys2Proof.Claim.HeapAccesses : Prop :=
  ∀ (s : State) (sc : BitVec 2) (k : BitVec 4) (i6 : BitVec 6) (i10 : BitVec 10) (a b d : Reg),
    (onCompute s = false → ∀ p ∈ heapLoads sc k i6 a d, ∀ (L : Load) (t : TokenName), loadOf p.2 s = some L → LoadReady L t s →
      (place true L.ea.toNat = .heap → L.ea.toNat % 2 ^ L.log = 0 →
        ∀ st s1, checkRoute s L.ea (2 ^ L.log) [.I] = .ok (st, .remote, s1) → ∀ n : Fin 16, s.core.log[n] = none → (∀ m, m < n → s.core.log[m] ≠ none) →
          ∃ u e, exec p.1 s = .next u ∧ exec p.2 s = .next u ∧ LoadIssued L t s1 u ∧ u.core.log = s.core.log.set n (some e) ∧ e.ea = L.ea ∧ e.token = t ∧ e.stamp = st) ∧
      (place true L.ea.toNat ≠ .heap → User s → Traps p.1 s 2#8 L.ea (codeVa s s.core.ctx.pc))) ∧
    (onCompute s = false → acquirePending s = false → ∀ p ∈ heapStores sc i10 b a, ∀ S : Store, storeOf p.2 s = some S → underWait s S.reads none = none →
      (place true S.ea.toNat = .heap → S.ea.toNat % 2 ^ S.log = 0 →
        ∀ st s1, checkRoute s S.ea (2 ^ S.log) [.W] = .ok (st, .remote, s1) → ∀ n : Fin 32, s.core.journal[n] = none → (∀ m, m < n → s.core.journal[m] ≠ none) →
          ∃ u e, exec p.1 s = .next u ∧ exec p.2 s = .next u ∧ StoreIssued S.len S.extra s1 u ∧ u.core.journal = s.core.journal.set n (some e) ∧ e.ea = S.ea ∧ e.bytes = S.cells ∧
            ∀ x, getByte u.mem x = getByte s1.mem x) ∧
      (place true S.ea.toNat ≠ .heap → User s → Traps p.1 s 2#8 S.ea (codeVa s s.core.ctx.pc))) ∧
    (onCompute s = true → User s → ∀ i ∈ [Instr.xld sc k i6 a d, .xldv sc k i6 a d, .xst sc i10 b a, .xstv sc i10 b a, .xhint sc b a 0#1],
      Traps i s 6#8 (s.core.ir.setWidth 64) (codeVa s s.core.ctx.pc))

/-- XHINT and HINT_DROP_READ (R275): an accepted hint is one record at HINT_TAIL and raises H0's interrupt, a full ring counts it in HINT_DROP, an empty range does nothing; a read of HINT_DROP
clears it. Where it rests on the model's own choices: log 70. -/
def Sys2Proof.Claim.Hints : Prop :=
  ∀ (s : State) (sc : BitVec 2) (hot : BitVec 1) (b a : Reg) (st : Stamp) (c : List PlbEntry),
    let x := (rdG s a).toNat
    let n := (rdG s b).toNat
    let h := s.hub.hints
    let full : Prop := h.log.toNat < 6 ∨ 2 ^ h.log.toNat ≤ (h.tail - h.head).toNat
    let rec_ := hot.toNat + min ((x + n - 1) / 4096 + 1 - x / 4096) (2 ^ 32 - 1) * 2 ^ 40 + x / 4096 % 2 ^ 44 * 2 ^ 72 + (acting s).toNat * 2 ^ 116
    let s1 : State := { s with core := { s.core with plb := c } }
    (onCompute s = false → n = 0 → GivesNothing (.xhint sc b a hot) s 4 sc.toNat) ∧
    (onCompute s = false → n ≠ 0 → place true x = .heap → x + n ≤ 0x00F0000000000000 → check s (acting s) (rdG s a) n .I = .ok (st, s1) →
      (¬full → CompletesAs (.xhint sc b a hot) s 4 sc.toNat { s1 with
        mem := setLe s.mem (h.base.toNat * 4096 + 16 * (h.tail.toNat % 2 ^ h.log.toNat)) 16 rec_
        hub := { s.hub with hints := { h with tail := h.tail + 1#32 }, irq := s.hub.irq ||| 1#4 } }) ∧
      (full → CompletesAs (.xhint sc b a hot) s 4 sc.toNat { s1 with hub := { s.hub with hints := { h with drop := h.drop + 1#64 } } })) ∧
    exec .hintDropRead s = .next { s with hub := { s.hub with hints := { h with drop := 0#64 }, out := s.hub.out ++ [.readValue 0x1000000300018 h.drop] } }

/-- SPAWN (R340, R342, R343): with a legal descriptor it gives 1 where the queue that CWREF names runs nothing, 0 where no record is free, 2 where the groups would nest, waits for room for its event, and else takes the ring's entry, registers
the child and gives its record's address. A D.PC that is odd is the address fault with TRAP_VAL D.PC, and a bit of GMASK at or above NGRP the GROUP trap with TRAP_VAL GMASK. DEAL (R347): 6 for a card that cannot be read or is refused, else the card joins the dealer's list. Where it rests on the model's own choices: log 35, 29, 65. -/
def Obligations.SpawnAndDeal : Prop :=
  ∀ (s : State) (sc : BitVec 2) (a d : Reg) (x : Nat) (k : Cont), underWait s [.g a] none = none → contAt s s.core.ctx.rcd.chrys = some k →
    let p := (tabGet {} s.hub.vdevs k.vdev).part
    let qn : BitVec 8 := s.core.ctx.rcd.cwref.extractLsb' 24 8
    let q : Queue := tabGet {} s.hub.queues (256 * k.vdev + qn.toNat)
    let runs : Prop := q.st = .open_ ∨ q.st = .draining
    let gives (i : Instr) (v : Word) : Prop := CompletesAs i s 4 sc.toNat (putG d v (synced s))
    let s1 := ownRead s (rdG s a) 32
    let gives1 (v : Word) : Prop := CompletesAs (.spawn sc a d) s 4 sc.toNat (putG d v (synced s1))
    let has (i : Nat) : Prop := i < s.core.ctx.rcd.ngrp.toNat
    (acquirePending s = true → Holds (.spawn sc a d) s) ∧
    (acquirePending s = false → (rdG s a).toNat % 32 = 0 → OwnBytes s (rdG s a) 32 false none → x = getLe s1.mem (poolKey s.cur (rdG s a).toNat) 32 →
      (field x 0 1 = 1 → Memory.wf s.core.ctx.window = true → TrapsFrom (.spawn sc a d) s s1 2#8 (BitVec.ofNat 64 (field x 0 56)) (codeVa s s.core.ctx.pc)) ∧
      (∀ i, field x 0 1 = 0 → i < 4 → field x (160 + i) 1 = 1 → ¬has i → Memory.wf s.core.ctx.window = true →
        TrapsFrom (.spawn sc a d) s s1 16#8 (BitVec.ofNat 64 (field x 160 4)) (codeVa s s.core.ctx.pc)) ∧
      (field x 0 1 = 0 → (∀ i, i < 4 → field x (160 + i) 1 = 1 → has i) → allPerformed s1 = false → exec (.spawn sc a d) s = .next (hold true s1)) ∧
      (field x 0 1 = 0 → (∀ i, i < 4 → field x (160 + i) 1 = 1 → has i) → allPerformed s1 = true → underWait s [] (some (.g d, 1)) = none →
        let groups := ((List.range 4).filter fun i => field x (160 + i) 1 = 1).map fun i => s.core.ctx.rcd.groups.extractLsb' (8 * i) 8
        (¬runs → gives1 1#64) ∧ (runs → spawnEntry s1 p = none → gives1 0#64) ∧
        (∀ e, runs → spawnEntry s1 p = some e → wouldNest (launchOf s k.launch) groups = true → gives1 2#64) ∧
        (∀ e, runs → spawnEntry s1 p = some e → wouldNest (launchOf s k.launch) groups = false → ringFull (getPart s p) = true → exec (.spawn sc a d) s = .next (hold true s1)) ∧
        (∀ record chrys, runs → spawnEntry s1 p = some (record, chrys) → wouldNest (launchOf s k.launch) groups = false → ringFull (getPart s p) = false →
          ∃ t, exec (.spawn sc a d) s = .next t ∧ WritesG d (record.setWidth 64) s t ∧ Follows 4 s t ∧ (getPart t p).spnHead = (getPart s p).spnHead + 1#32 ∧
            (getPart t p).evtTail = (getPart s p).evtTail + 1#32 ∧
            t.hub.conts = s.hub.conts ++ [{ record := record, chrys := chrys, vdev := k.vdev, queue := qn, launch := k.launch, card := none, owner := s.core.ctx.ctl.owner, narg := BitVec.ofNat 28 (field x 128 28) }] ∧
            ∀ g ∈ groups, groups.Nodup → (groupOf t k.launch g).live = (groupOf s k.launch g).live ++ [chrys] ∧ (groupOf t k.launch g).nextRank = (groupOf s k.launch g).nextRank + 1))) ∧
    ((rdG s a).extractLsb' 56 8 = 0#8 → (rdG s a).toNat % 64 = 0 → allPerformed s = true → underWait s [] (some (.g d, 1)) = none →
      (dealRead s (rdG s a).toNat = none → gives (.deal sc a d) 6#64) ∧
      (∀ y, dealRead s (rdG s a).toNat = some y →
        let s2 := touchCw k.vdev (cardCw y) (touchPage false (rdG s a).toNat s)
        let ok := cardOk s2 k.vdev (queueOf s2 k.vdev qn) k.launch y && dealOk s2 s.core.ctx.rcd k y
        (ok = false → ∃ t, exec (.deal sc a d) s = .next t ∧ WritesG d 6#64 s t ∧ Follows 4 s t ∧ t.hub.cards.length = s.hub.cards.length) ∧
        (ok = true → ∃ t c, exec (.deal sc a d) s = .next t ∧ Follows 4 s t ∧ t.hub.cards.length = s.hub.cards.length + 1 ∧ t.hub.cards[s.hub.cards.length]? = some c ∧
          c.addr = (rdG s a).setWidth 56 ∧ c.bits = y ∧ c.queue = qn ∧ c.vdev = k.vdev ∧ WritesG d (BitVec.ofNat 64 (cardCode c.st)) s t))) ∧
    (User s → (rdG s a).extractLsb' 56 8 ≠ 0#8 ∨ (rdG s a).toNat % 64 ≠ 0 → Traps (.deal sc a d) s 2#8 (rdG s a) (codeVa s s.core.ctx.pc)) ∧
    (User s → acquirePending s = false → (rdG s a).toNat % 32 ≠ 0 → Traps (.spawn sc a d) s 2#8 (rdG s a) (codeVa s s.core.ctx.pc))

namespace Sys2Proof.Claim

/-- `i` holds issue in `s`; its first cycle at issue is progress of its continuation's queue, a later one is not (R129, R384). -/
def HoldsWithProgress (i : Instr) (s : State) : Prop :=
  ∃ h, exec i s = .next (hold true { s with hub := { s.hub with queues := h } }) ∧ (s.core.holdSince.isSome = true → h = s.hub.queues) ∧
    ∀ k, s.core.holdSince = none → contAt s s.core.ctx.rcd.chrys = some k →
      let n := 256 * k.vdev + k.queue.toNat
      h = tabSet {} s.hub.queues n { tabGet {} s.hub.queues n with wdLast := s.gtc }

/-- The issuing context holds slot `j` of a quire in a state, and no other; it did not configure the quire, which is not RETIRED. -/
def HoldsAlone (s : State) (y : Quire) (st : QSlotState) (j : Nat) : Prop :=
  HoldsSlot s y st j ∧ (∀ j', j' ≠ j → (y.slots.getD j' {}).holder ≠ some s.core.ctx.rcd.chrys) ∧ y.holder ≠ s.core.ctx.rcd.chrys ∧ y.retired = false

/-- Every byte stands but those of the issuing context's image, which is written whole when it ends (R138, R366), and lies in a pool. -/
def ImageSaved (s u : State) : Prop :=
  ∃ w o, place true s.core.ctx.rcd.chrys.toNat = .pool w o ∧ ∀ a, a < poolKey w o ∨ poolKey w o + 0x1000 ≤ a → getByte u.mem a = getByte s.mem a

end Sys2Proof.Claim

/-- SUSP, GBAR, GRANK, EXIT and GENERATION_COMPLETE (R344, R345, R346, R348, R349): the WAKE latch, an arrival that completes its generation or waits, the rank, and the ending of a
continuation. A suspension writes PC and OWNER to the record (R42, R356). EXIT publishes or releases the quire slots held (R255), takes the continuation out of its groups' LIVE, adds NARG to DONE of its card
and of the completion word, which gets its final status with its last record (R34), writes STATE EXITED and clears RECORD (R416), and empties its slot with an ENDED event (R101). Where it rests on the model's own choices: log 35, 40, 69, 9, 57. -/
def Obligations.GroupsAndEndings : Prop :=
  ∀ (s : State) (sc : BitVec 2) (n : BitVec 2) (d : Reg) (i : Fin 8) (k : Cont),
    let gid := s.core.ctx.rcd.groups.extractLsb' (8 * n.toNat) 8
    let x := groupOf s k.launch gid
    let full (m : Nat) : Prop := if x.expect = 0#32 then m = x.live.length ∧ s.hub.cards.any (cardOpen k.launch gid) = false else m = x.expect.toNat
    (s.core.ctx.ctl.steward = false → s.core.ctx.ctl.wake = true →
      ∃ h, CompletesAs (.susp sc) s 4 sc.toNat (setCtl { s with hub := { s.hub with queues := h } } { s.core.ctx.ctl with wake := false })) ∧
    (s.core.ctx.ctl.steward = false → s.core.ctx.ctl.wake = false → RunsIn s i → s.core.ctx.pend = [] → s.core.ctx.idle = none →
      ∃ t, exec (.susp sc) s = .next t ∧ SuspendsTo s t i .suspended ∧ RecordSaved s.core.ctx.ctl.record.toNat s t) ∧
    (s.core.ctx.ctl.steward = false → n.toNat < s.core.ctx.rcd.ngrp.toNat → contAt s s.core.ctx.rcd.chrys = some k → RunsIn s i → s.core.ctx.pend = [] → s.core.ctx.idle = none →
      (allPerformed s = false → HoldsWithProgress (.gbar sc n) s) ∧
      (allPerformed s = true → full (x.arrived.length + 1) → ∃ t, exec (.gbar sc n) s = .next t ∧ t.core.issuing = s.core.issuing ∧ Follows 4 s t ∧ NoG s t ∧
        (groupOf t k.launch gid).gen = x.gen + 1 ∧ (groupOf t k.launch gid).arrived = []) ∧
      (allPerformed s = true → ¬full (x.arrived.length + 1) → ∃ t, exec (.gbar sc n) s = .next t ∧ SuspendsTo s t i .barrier ∧
        (groupOf t k.launch gid).arrived = x.arrived ++ [s.core.ctx.rcd.chrys] ∧ (groupOf t k.launch gid).gen = x.gen ∧ RecordSaved s.core.ctx.ctl.record.toNat s t)) ∧
    (n.toNat < s.core.ctx.rcd.ngrp.toNat → underWait s [] (some (.g d, 2)) = none →
      GivesGLater (.grank sc n d) s 4 sc.toNat 2 d (BitVec.ofNat 64 (gid.toNat * 2 ^ 32 + (s.core.ctx.ctl.ranks[n.toNat]'(n.isLt)).toNat))) ∧
    (s.core.ctx.rcd.ngrp.toNat ≤ n.toNat → User s →
      Traps (.grank sc n d) s 16#8 (n.setWidth 64) (codeVa s s.core.ctx.pc) ∧ Traps (.gbar sc n) s 16#8 (n.setWidth 64) (codeVa s s.core.ctx.pc)) ∧
    (mayExit s = false → HoldsWithProgress (.exitI sc) s) ∧
    (mayExit s = true → RunsIn s i → s.core.slots[i].after = none → ∃ t, exec (.exitI sc) s = .next t ∧ t.core.issuing = none ∧ t.core.slots[i].sst = .empty ∧
      (∀ c ∈ t.hub.conts, c.chrys ≠ s.core.ctx.rcd.chrys) ∧
      (∀ (m : Fin 16) (j : Nat), let y := quireOf s s.cur m
        let put (st : QSlotState) : List QSlot := y.slots.set j { y.slots.getD j {} with st := st, holder := none }
        (HoldsAlone s y .acquired j → quireOf t s.cur m = advanceRel { y with slots := put .released } y.slots.length) ∧
        (HoldsAlone s y .reserved j → quireOf t s.cur m =
          if (y.slots.getD j {}).open_ = 0 then advancePub { y with slots := put .full } y.slots.length else { y with slots := put .published })) ∧
      (∀ p, s.core.slots[i].part = some p → ringFull (getPart s p) = false →
        (getPart t p).evtTail = (getPart s p).evtTail + 1#32 ∧
        getLe t.mem ((getPart s p).evtBase.toNat * 4096 + 16 * ((getPart s p).evtTail.toNat % 2 ^ (getPart s p).evtLog.toNat)) 16 =
          (eventOf (if onCompute s = true then 5 else 13) 0 s.core.slots[i].cont (if onCompute s = true then s.cur else s.cur - 4096) i s.core.slots[i].tag).toNat) ∧
      (contAt s s.core.ctx.rcd.chrys = some k →
        (∀ j, j < 4 → j < s.core.ctx.rcd.ngrp.toNat → s.core.ctx.rcd.chrys ∉ (groupOf t k.launch (s.core.ctx.rcd.groups.extractLsb' (8 * j) 8)).live) ∧
        ∀ (m : Nat) (c : Card), k.card = some m → s.hub.cards[m]? = some c → c.st = .running →
          let done := c.done + s.core.ctx.rcd.narg.toNat
          let word (x : Nat) : Nat :=
            let dn := field x 0 28 + s.core.ctx.rcd.narg.toNat
            let lost := field x 28 28
            dn % 2 ^ 28 + lost * 2 ^ 28 + (if dn + lost = cardCount c.bits then (if c.anyTorn then 5 else if 0 < lost then 4 else 3) else field x 60 4) * 2 ^ 60
          t.hub.cards[m]? = some { c with done := done, st := if done + c.lost = cardCount c.bits then cardFinal c.anyTorn c.lost else .running } ∧
          (s.core.slots[i].part = none → cwNone (cardCw c.bits) = false → (∀ c' ∈ s.hub.cards, c'.st ≠ .pending) → s.core.ctx.rcd.ngrp = 0#3 →
            (∀ v (m : Fin 16), HoldsNone s (quireOf s v m) .acquired ∧ HoldsNone s (quireOf s v m) .reserved) → (∃ w o, place true s.core.ctx.rcd.chrys.toNat = .pool w o) →
            ∃ u, ImageSaved s u ∧ t.mem = (putState s.core.ctx.ctl.record .exited (devPut (cwUpdate k.vdev (cardCw c.bits) word u) (s.core.ctx.rcd.chrys.toNat + 0x5F0) 8 0)).mem))) ∧
    (∀ (l : Nat) (g : BitVec 8), let y := groupOf s l g
     let done : Prop := y.arrived ≠ [] ∧ if y.expect = 0#32 then y.arrived.length = y.live.length ∧ s.hub.cards.any (cardOpen l g) = false else y.arrived.length = y.expect.toNat
     (done → ∃ t, exec (.generationComplete l g.toNat) s = .next t ∧ (groupOf t l g).gen = y.gen + 1 ∧ (groupOf t l g).arrived = [] ∧ (groupOf t l g).live = y.live) ∧
       (¬done → exec (.generationComplete l g.toNat) s = .next s))

/-- Heap accesses of channel cores, hints, and the trap on compute cores: each part as its own text says (R118, R271, R275). -/
def Obligations.HeapAccessesAndHints : Prop := Claim.HeapAccesses ∧ Claim.Hints

/-! ### Rights and regions -/

namespace Sys2Proof.Claim

/-- What a range table grants over granule `y`: region, generation and rights of the entry that covers it (R56). -/
def grantAt (es : List RangeEntry) (y : Nat) : Option (BitVec 20 × BitVec 16 × BitVec 5) :=
  (es.find? fun e => decide (e.base ≤ y) && decide (y < e.base + e.len)).map fun e => (e.region, e.gen, e.rights)

/-- The range of `n` granules from `lo` lies in region `id` and touches no other region outside FREE (R350). -/
def LiesIn (s : State) (lo n : Nat) (id : BitVec 20) : Prop :=
  let r := region s id
  n ≠ 0 ∧ id ≠ 0#20 ∧ id.toNat < s.hub.rights.rgnCap ∧ r.st ≠ .free ∧ r.base ≤ lo ∧ lo + n ≤ r.base + r.len ∧
    ∀ j : BitVec 20, j ≠ id → j.toNat < s.hub.rights.rgnCap → (region s j).st ≠ .free → ¬((region s j).base < lo + n ∧ lo < (region s j).base + (region s j).len)

/-- Current entries with G and all of `rights` cover granule `y` for owner `o` (R350). -/
def MayGrant (s : State) (o : BitVec 12) (rights : BitVec 5) (y : Nat) : Prop :=
  ∃ e ∈ rangeTable s o, e.base ≤ y ∧ y < e.base + e.len ∧ (region s e.region).gen = e.gen ∧ e.rights &&& (rights ||| 8#5) = rights ||| 8#5

/-- A granted table: over the range the region's id, its GEN, and RIGHTS with any current rights held there; everywhere else what it was (R352). -/
def Granted (s : State) (es new : List RangeEntry) (id : BitVec 20) (rights : BitVec 5) (lo n : Nat) : Prop :=
  ∀ y, y < 2 ^ 44 → grantAt new y = if lo ≤ y ∧ y < lo + n
    then some (id, (region s id).gen,
      rights ||| ((es.find? fun e => decide (e.base ≤ y) && decide (y < e.base + e.len) && e.region == id && e.gen == (region s id).gen).map (·.rights)).getD 0#5)
    else grantAt es y

/-- No PLB holds an entry of region `id` (R63). -/
def PlbsWithout (t : State) (id : BitVec 20) : Prop := (∀ e ∈ t.core.plb, e.region ≠ id) ∧ ∀ x ∈ t.others, ∀ e ∈ x.2.plb, e.region ≠ id

/-- A command of RGN_CMD has finished in `t`: DONE is set with ERR, and of the machine as `u` states it only RGN_STA differs (R69). -/
def Finished (u t : State) (err : BitVec 3) : Prop :=
  t.hub.rights.staDone = true ∧ t.hub.rights.staErr = err ∧
    t = { u with hub := { u.hub with rights := { u.hub.rights with
      staDone := true, staErr := err, staState := t.hub.rights.staState, staGen := t.hub.rights.staGen, staRefs := t.hub.rights.staRefs, staInfl := t.hub.rights.staInfl } } }

/-- The command finishes with ERR and leads from `s` to `u`. -/
def Ends (i : Instr) (s : State) (err : BitVec 3) (u : State) : Prop := ∃ t, exec i s = .next t ∧ Finished u t err

end Sys2Proof.Claim

/-- GRANT (R350, R351, R352): the status in the order 4, 3, 2, 1, 5; a grant to oneself adds nothing; else TARGET's table takes the region's current generation and the union of the rights
over the range, unless it would pass RT_CAP, and the region of each entry that goes is shot down (R60). RTEST (R354) shows the entry of the owner in force and raises the address fault alone. Where it rests on the model's own choices: log 36, 29. -/
def Sys2Proof.Claim.GrantAndTest : Prop :=
  ∀ (s : State) (sc : BitVec 2) (a d : Reg) (x : Nat), underWait s [.g a] none = none →
    let s1 := ownRead s (rdG s a) 16
    let lo := field x 0 44
    let n := field x 44 40
    let rights := BitVec.ofNat 5 (field x 84 5)
    let tgt := BitVec.ofNat 12 (field x 92 12)
    let o := acting s
    let gives (st : Nat) (u : State) : Prop := CompletesAs (.grant sc a d) s 4 sc.toNat (putG d (BitVec.ofNat 64 st) u)
    ((rdG s a).toNat % 16 = 0 → OwnBytes s (rdG s a) 16 false none → acquirePending s = true → Holds (.grant sc a d) s) ∧
    (acquirePending s = false → (rdG s a).toNat % 16 = 0 → OwnBytes s (rdG s a) 16 false none → underWait s [] (some (.g d, 1)) = none →
      x = getLe s1.mem (poolKey s.cur (rdG s a).toNat) 16 → s.hub.rights.rgnCap ≤ 2 ^ 20 →
      ((∀ id, ¬LiesIn s1 lo n id) → gives 4 s1) ∧
      (∀ id, LiesIn s1 lo n id →
        ((ownerDesc s1 tgt).valid = false → gives 3 s1) ∧
        ((ownerDesc s1 tgt).valid = true → (region s1 id).st ≠ .live → gives 2 s1) ∧
        ((ownerDesc s1 tgt).valid = true → (region s1 id).st = .live →
          ((∃ y, lo ≤ y ∧ y < lo + n ∧ ¬MayGrant s1 o rights y) → gives 1 s1) ∧
          (coversWith s1 (rights ||| 8#5) lo (lo + n) (rangeTable s1 o) = true →
            (tgt = o → gives 0 s1) ∧
            (tgt ≠ o → ∃ new, Granted s1 (rangeTable s1 tgt) new id rights lo n ∧
              ((ownerDesc s1 tgt).cap < new.length → gives 5 s1) ∧
              (new.length ≤ (ownerDesc s1 tgt).cap →
                let s2 := removeEntries tgt lo (lo + n) new s1
                gives 0 s2 ∧ s2.mem = (setRangeTable s1 tgt new).mem ∧
                  ∀ e ∈ rangeTable s1 tgt, e.base < lo + n → lo < e.base + e.len → e.len ≠ 0 → PlbsWithout s2 e.region)))))) ∧
    (User s → (rdG s a).toNat % 16 ≠ 0 → Traps (.grant sc a d) s 2#8 (rdG s a) (codeVa s s.core.ctx.pc)) ∧
    (User s → (rdG s a).extractLsb' 56 8 ≠ 0#8 → Traps (.rtest sc a d) s 2#8 (rdG s a) (codeVa s s.core.ctx.pc)) ∧
    ((rdG s a).extractLsb' 56 8 = 0#8 → underWait s [] (some (.g d, 1)) = none →
      (∀ off, place (onCompute s) (rdG s a).toNat = .priv off → GivesG (.rtest sc a d) s 4 sc.toNat d (BitVec.ofNat 64 (2 ^ 63 + 2 ^ 61 + 7 * 2 ^ 56))) ∧
      (place (onCompute s) (rdG s a).toNat = .bad → GivesG (.rtest sc a d) s 4 sc.toNat d 0#64) ∧
      (place (onCompute s) (rdG s a).toNat = .heap →
        (plbLookup s s.core o (rdG s a).toNat = none → GivesG (.rtest sc a d) s 4 sc.toNat d 0#64) ∧
        (∀ e c, plbLookup s s.core o (rdG s a).toNat = some (e, c) → CompletesAs (.rtest sc a d) s 4 sc.toNat (putG d
          (BitVec.ofNat 64 ((if (region s e.region).gen = e.gen then 2 ^ 63 else 2 ^ 62) + e.rights.toNat * 2 ^ 56 + e.region.toNat * 2 ^ 32 + e.gen.toNat * 2 ^ 16))
          { s with core := c }))))

/-- REVOKE, RDROP and SHOOTDOWN_COMPLETE (R63, R64, R353, R355): a refused REVOKE gives its status and posts at once; an accepted one raises GEN, a free makes the region REVOKING, every PLB loses its entries,
and the completed shootdown makes a freed region TOMBSTONE, gives 0 and posts. RDROP cuts the owner's own entries, where a table at RT_CAP makes no entry for the upper part of a split, and holds issue until its shootdowns have been acknowledged. Where it rests on the model's own choices: log 36, 8. -/
def Sys2Proof.Claim.RevokeAndDrop : Prop :=
  ∀ (s : State) (sc : BitVec 2) (k : BitVec 4) (f : BitVec 1) (a b d : Reg) (t : TokenName), underWait s [.g a, .g b] none = none →
    let o := acting s
    let va := (rdG s a).toNat
    let refused (st : Nat) : Prop := ∃ u, exec (.revoke sc k f a d) s = .next u ∧ WritesG d (BitVec.ofNat 64 st) s u ∧ Follows 4 s u ∧
      ctxToken u.core.ctx t = { issued := (ctxToken s.core.ctx t).issued + 1#16, count := (ctxToken s.core.ctx t).count + 1#16 } ∧ ∀ y, getByte u.mem y = getByte s.mem y
    (User s → tokenOf s k = some t → (rdG s a).extractLsb' 56 8 ≠ 0#8 → Traps (.revoke sc k f a d) s 2#8 (rdG s a) (codeVa s s.core.ctx.pc)) ∧
    ((rdG s a).extractLsb' 56 8 = 0#8 → TokenRoom s k t → Issues s s.core.ctx.rcd.chrys →
      (regionAt s va = none → refused 4) ∧ (regionAt s va = some 0#20 → refused 4) ∧
      (∀ id, regionAt s va = some id → id ≠ 0#20 →
        let r := region s id
        (o ≠ r.creator → o ≠ 0#12 → refused 7) ∧
        ((o = r.creator ∨ o = 0#12) →
          (r.st ≠ .live → refused 2) ∧
          (r.st = .live → f = 0#1 → r.gen = 0xFFFE#16 → refused 6) ∧
          (r.st = .live → (f = 1#1 ∨ r.gen ≠ 0xFFFE#16) →
            ∃ u, exec (.revoke sc k f a d) s = .next u ∧ NoG s u ∧ Follows 4 s u ∧ ctxToken u.core.ctx t = { ctxToken s.core.ctx t with issued := (ctxToken s.core.ctx t).issued + 1#16 } ∧
              u.hub.shoots = s.hub.shoots ++ [{ region := id, freed := f == 1#1, for_ := .revoke s.cur s.core.ctx.rcd.chrys d t }] ∧ PlbsWithout u id ∧
              let s1 := setRegion s id { r with gen := r.gen + 1#16, st := if f = 1#1 then .revoking else .live }
              u.mem = if f = 1#1 then s1.mem else (setRangeTable s1 r.creator ((rangeTable s1 r.creator).map fun (e : RangeEntry) =>
                if e.region = id ∧ e.gen = r.gen then { e with gen := r.gen + 1#16 } else e)).mem)))) ∧
    (s.core.accepted = false →
      (va % 4096 ≠ 0 ∨ (rdG s b).toNat % 4096 ≠ 0 ∨ rdG s b = 0#64 → underWait s [] (some (.g d, 1)) = none → GivesG (.rdrop sc b a d) s 4 sc.toNat d 4#64) ∧
      (va % 4096 = 0 → (rdG s b).toNat % 4096 = 0 → rdG s b ≠ 0#64 →
        ((rangeTable s o).Pairwise fun p q => p.base + p.len ≤ q.base) → (∀ e ∈ rangeTable s o, e.len ≠ 0) → (rangeTable s o).length ≤ (ownerDesc s o).cap →
        let lo := va / 4096
        let hi := (va + (rdG s b).toNat) / 4096
        let inside (y : Nat) : Prop := lo ≤ y ∧ y < hi
        let unsplit (y : Nat) : Prop := (rangeTable s o).length = (ownerDesc s o).cap ∧ ∃ e ∈ rangeTable s o, e.base < lo ∧ hi ≤ y ∧ y < e.base + e.len
        ((∀ e ∈ rangeTable s o, ∀ y, e.base ≤ y → y < e.base + e.len → ¬inside y) → dropPending s s.core.ctx.rcd.chrys = false → underWait s [] (some (.g d, 1)) = none →
          ∃ u, exec (.rdrop sc b a d) s = .next u ∧ WritesG d 0#64 s u ∧ Follows 4 s u) ∧
        ((∃ e ∈ rangeTable s o, ∃ y, e.base ≤ y ∧ y < e.base + e.len ∧ inside y) →
          ∃ u es, exec (.rdrop sc b a d) s = .next u ∧ u.core.accepted = true ∧ u.core.ctx = s.core.ctx ∧ u.core.nextIssue = s.gtc + 1 ∧ u.mem = (setRangeTable s o es).mem ∧
            (∀ y, y < 2 ^ 44 → (inside y ∨ unsplit y → grantAt es y = none) ∧ (¬inside y → ¬unsplit y → grantAt es y = grantAt (rangeTable s o) y)) ∧
            ∃ ids : List (BitVec 20), ids.Nodup ∧ (∀ id, id ∈ ids ↔ ∃ e ∈ rangeTable s o, e.region = id ∧ ∃ y, e.base ≤ y ∧ y < e.base + e.len ∧ inside y) ∧
              u.hub.shoots = s.hub.shoots ++ ids.map fun id => ({ region := id, freed := false, for_ := .rdrop s.cur s.core.ctx.rcd.chrys } : Shoot)))) ∧
    (s.core.accepted = true → (dropPending s s.core.ctx.rcd.chrys = true → Holds (.rdrop sc b a d) s) ∧ (dropPending s s.core.ctx.rcd.chrys = false → GivesG (.rdrop sc b a d) s 4 sc.toNat d 0#64)) ∧
    (∀ x : Shoot, (s.hub.shoots.find? fun y => y.region.toNat == x.region.toNat) = some x → (pressHolds s x.region = false ∨ ∃ w c, x.for_ = .rdrop w c) →
      ∃ u, exec (.shootdownComplete x.region.toNat) s = .next u ∧ u.hub.shoots = s.hub.shoots.erase x ∧
        (x.freed = true → Memory.wf s.mem = true → (x.for_ = .rfree ∨ ∃ w e k', x.for_ = .revoke w s.core.ctx.rcd.chrys e k' ∧ Issues s s.core.ctx.rcd.chrys) →
          region u x.region = { region s x.region with st := .tombstone }) ∧
        (∀ unit, x.for_ = .revoke unit s.core.ctx.rcd.chrys d t → Issues s s.core.ctx.rcd.chrys → WritesG d 0#64 s u ∧
          ctxToken u.core.ctx t = { ctxToken s.core.ctx t with count := (ctxToken s.core.ctx t).count + 1#16 })) ∧
    (∀ id : BitVec 20, pressHolds s id = true → (∀ x ∈ s.hub.shoots, ∀ w c, x.for_ ≠ .rdrop w c) → exec (.shootdownComplete id.toNat) s = .next s)

/-- The commands of RGN_CMD (R66 to R70, R425) and XLT_INV (R53): BADID for an id at or above RGN_CAP, the refusals in the order of the rules, and the effect of a command that is accepted. Where it rests on the model's own choices: log 36, 7, 8, 64. -/
def Obligations.RegionCommands : Prop :=
  ∀ (s : State) (id : BitVec 20) (o : BitVec 12) (x : BitVec 64),
    let r := region s id
    let g := s.hub.rights
    let base := g.arg0.toNat % 2 ^ 44
    let len := g.arg1.toNat % 2 ^ 40
    let by_ := g.arg1.extractLsb' 40 12
    let named : Prop := ∃ w ∈ validOwners s, ∃ e ∈ rangeTable s w, e.region = id
    let made : Prop := ∃ j : BitVec 20, j.toNat < g.rgnCap ∧ (region s j).st ≠ .free ∧ (region s j).creator = o
    (g.rgnCap ≤ id.toNat → ∀ i ∈ [Instr.regionQuery id, .regionPurge id, .regionFree id, .regionAlloc id, .regionRfree id], Ends i s 1#3 s) ∧
    (id.toNat < g.rgnCap →
      (∃ t, exec (.regionQuery id) s = .next t ∧ Finished s t 0#3 ∧ t.hub.rights.staState.toNat = regionCode r.st ∧ t.hub.rights.staGen = r.gen ∧
        t.hub.rights.staRefs.toNat = min 0xFFFF ((liveUnits s).countP fun u => (getCore s u).plb.any fun e => e.region == id) ∧
        t.hub.rights.staInfl.toNat = min 0xFFFF (inflight s id)) ∧
      (∃ t, exec (.regionPurge id) s = .next t ∧ t.hub.rights.staDone = true ∧ t.hub.rights.staErr = 0#3 ∧ PlbsWithout t id ∧ (¬named → t.mem = s.mem) ∧
        (∀ w ∈ validOwners s, (∃ e ∈ rangeTable s w, e.region = id) → (∀ v ∈ validOwners s, v ≠ w → ∀ e ∈ rangeTable (setRangeTable s w ((rangeTable s w).filter fun e => e.region != id)) v, e.region ≠ id) →
          (∀ v ∈ validOwners s, v ≠ w → ∀ e ∈ rangeTable s v, e.region ≠ id) → t.mem = (setRangeTable s w ((rangeTable s w).filter fun e => e.region != id)).mem)) ∧
      (r.st ≠ .tombstone → Ends (.regionFree id) s 2#3 s) ∧
      (r.st = .tombstone → (plbRefs s id ≠ 0 ∨ inflight s id ≠ 0 ∨ named) → Ends (.regionFree id) s 4#3 s) ∧
      (r.st = .tombstone → plbRefs s id = 0 → inflight s id = 0 → ¬named → Ends (.regionFree id) s 0#3 (setRegion s id { r with st := .free })) ∧
      (len = 0 ∨ inSpace base (base + len) = false → Ends (.regionAlloc id) s 1#3 s) ∧
      (len ≠ 0 → inSpace base (base + len) = true →
        let clash : Prop := ∃ j : BitVec 20, j.toNat < g.rgnCap ∧ (region s j).st ≠ .free ∧ (region s j).base < base + len ∧ base < (region s j).base + (region s j).len
        (r.st ≠ .free → Ends (.regionAlloc id) s 2#3 s) ∧
        (r.st = .free → clash → Ends (.regionAlloc id) s 3#3 s) ∧
        (r.st = .free → ¬clash → 0xFFFE ≤ r.gen.toNat → Ends (.regionAlloc id) s 5#3 s) ∧
        (r.st = .free → ¬clash → r.gen.toNat < 0xFFFE →
          ((ownerDesc s by_).valid = false → Ends (.regionAlloc id) s 1#3 s) ∧
          ((ownerDesc s by_).valid = true → (ownerDesc s by_).cap ≤ (ownerDesc s by_).count → Ends (.regionAlloc id) s 6#3 s) ∧
          ((ownerDesc s by_).valid = true → (ownerDesc s by_).count < (ownerDesc s by_).cap →
            let s1 := shootPlb id (setRegion s id { st := .live, creator := by_, gen := r.gen + 1#16, len := len, base := base })
            Ends (.regionAlloc id) s 0#3
              (setRangeTable s1 by_ (insertEntry { region := id, gen := r.gen + 1#16, rights := 0x1F#5, len := len, base := base } (rangeTable s1 by_)))))) ∧
      (id = 0#20 → Ends (.regionRfree id) s 1#3 s) ∧ (id ≠ 0#20 → r.st ≠ .live → Ends (.regionRfree id) s 2#3 s) ∧
      (id ≠ 0#20 → r.st = .live → ∃ t, exec (.regionRfree id) s = .next t ∧ t.hub.rights.staDone = false ∧ PlbsWithout t id ∧
        t.hub.shoots = s.hub.shoots ++ [{ region := id, freed := true, for_ := .rfree }] ∧ t.mem = (setRegion s id { r with gen := r.gen + 1#16, st := .revoking }).mem)) ∧
    (ownerBusy s o = true → Ends (.ownerPurge o) s 4#3 s) ∧
    (ownerBusy s o = false → Ends (.ownerPurge o) s 0#3 (dropPlb (fun e => e.owner == o) (removeEntries o 0 (2 ^ 44) [] s))) ∧
    (let bad : Prop := o = 0#12 ∨ g.arg0.toNat % 16 ≠ 0 ∨ 2 ^ 50 ≤ g.arg0.toNat ∨ g.arg1.toNat % 2 ^ 20 = 0
     (bad → Ends (.ownerCreate o) s 1#3 s) ∧ (¬bad → (ownerDesc s o).valid = true → Ends (.ownerCreate o) s 2#3 s) ∧
     (¬bad → (ownerDesc s o).valid = false →
       Ends (.ownerCreate o) s 0#3 (setOwnerDesc s o { valid := true, cap := g.arg1.toNat % 2 ^ 20, count := 0, base := g.arg0.toNat }))) ∧
    (o = 0#12 → Ends (.ownerDelete o) s 1#3 s) ∧ (o ≠ 0#12 → (ownerDesc s o).valid = false → Ends (.ownerDelete o) s 2#3 s) ∧
    (o ≠ 0#12 → (ownerDesc s o).valid = true → g.rgnCap ≤ 2 ^ 20 →
      ((ownerDesc s o).count ≠ 0 ∨ made ∨ ownerBusy s o = true → Ends (.ownerDelete o) s 4#3 s) ∧
      ((ownerDesc s o).count = 0 → ¬made → ownerBusy s o = false → Ends (.ownerDelete o) s 0#3 (setOwnerDesc s o { ownerDesc s o with valid := false }))) ∧
    exec (.xltInv x) s = .next { s with hub := { s.hub with rights := { g with xltBusy := true } } } ∧
    exec .xltInvComplete s = .next { s with hub := { s.hub with rights := { g with xltBusy := false } } }

/-- GRANT, RTEST, REVOKE and RDROP with their statuses in order: each part as its own text says (R60, R63, R64, R350, R351, R352, R353, R354, R355). -/
def Obligations.RightsInstructions : Prop := Claim.GrantAndTest ∧ Claim.RevokeAndDrop

/-! ### Code in instruction memory -/

namespace Sys2Proof.Claim

/-- A segment's descriptor as CSEG reads it (R107). -/
def segDescriptor (g : Seg) : Word :=
  BitVec.ofNat 64 (g.base.toNat * 2 ^ 12 + g.err.toNat * 2 ^ 56 + (match g.st with | .empty => 0 | .loading => 1 | .landed => 2 | .failed => 3) * 2 ^ 62)

/-- A segment may be replaced now: it is not the PC's and not LOADING, and segment 15 only in steward mode (R120, R123). -/
def SegFree (s : State) (seg : BitVec 4) : Prop :=
  (seg = 15#4 → s.core.ctx.ctl.steward = true) ∧ seg ≠ s.core.ctx.pc.extractLsb' 12 4 ∧ (s.core.segs[seg.toNat]'(seg.isLt)).st ≠ .loading

end Sys2Proof.Claim

/-- JF and JFR (R121, R122): a transfer to where RESOLVE maps the code address, with the code address behind the instruction as the link; where RESOLVE traps, neither PC nor g[d] changes.
CSEG (R123): the descriptor before any change at latency 2; .inv makes the segment EMPTY, or traps as R123 says. -/
def Sys2Proof.Claim.JumpsToCodeAndSegments : Prop :=
  ∀ (s : State) (sc : BitVec 2) (off : BitVec 17) (a d : Reg) (seg : BitVec 4) (p : BitVec 16) (e : Cause),
    let link : Word := (codeVa s s.core.ctx.pc + 4#56).setWidth 64
    let near : Word := (codeVa s s.core.ctx.pc).setWidth 64 + BitVec.ofInt 64 (off.toInt * 2)
    let g := s.core.segs[seg.toNat]'(seg.isLt)
    (fetchTrap s p = none →
      (underWait s [] (some (.g d, 1)) = none → resolve s near = .ok p → JumpsWithLink (.jf off d) s 0 p d link) ∧
      (underWait s [.g a] (some (.g d, 1)) = none → resolve s (rdG s a) = .ok p → JumpsWithLink (.jfr sc a d) s sc.toNat p d link)) ∧
    (User s →
      (resolve s near = .error e → Traps (.jf off d) s e.1 e.2 (codeVa s s.core.ctx.pc)) ∧
      (underWait s [.g a] none = none → resolve s (rdG s a) = .error e → Traps (.jfr sc a d) s e.1 e.2 (codeVa s s.core.ctx.pc))) ∧
    (underWait s [] (some (.g d, 2)) = none →
      GivesGLater (.cseg sc 0#1 seg d) s 4 sc.toNat 2 d (segDescriptor g) ∧
      (SegFree s seg →
        let s1 := putGLater 2 d (segDescriptor g) s
        CompletesAs (.cseg sc 1#1 seg d) s 4 sc.toNat { s1 with core := { s1.core with segs := s1.core.segs.set seg.toNat { g with st := .empty, err := 0#4 } seg.isLt } }) ∧
      (User s → seg = 15#4 → Traps (.cseg sc 1#1 seg d) s 3#8 15#64 (codeVa s s.core.ctx.pc)) ∧
      (User s → seg ≠ 15#4 → ¬SegFree s seg → Traps (.cseg sc 1#1 seg d) s 8#8 (seg.setWidth 64) (codeVa s s.core.ctx.pc)))

/-- CFETCH and CFETCH_COMPLETION (R107, R120): an accepted CFETCH makes the segment LOADING and issues its token; its completion copies the 4,096 bytes and LANDS the segment, or FAILS it with
the first refusal, and posts; the traps come in the order of the rule and change no segment and no token (a refused check may fill the core's PLB: R60). Where it rests on the model's own choices: log 34. -/
def Sys2Proof.Claim.CodeFetches : Prop :=
  ∀ (s s1 : State) (sc : BitVec 2) (k seg : BitVec 4) (a : Reg) (t : TokenName) (st : Stamp) (r : Refuse),
    let c := rdG s a
    let i : Instr := .cfetch sc k seg a
    let aligned : Prop := c.extractLsb' 56 8 = 0#8 ∧ c.extractLsb' 0 12 = 0#12
    (acquirePending s = false → underWait s [.g a] none = none → tokenOf s k = some t →
      (SegFree s seg → aligned → TokenRoom s k t → check s (acting s) c 4096 .X = .ok (st, s1) →
        ∃ u, exec i s = .next u ∧ NoG s u ∧ Follows 4 s u ∧ (∀ n, getByte u.mem n = getByte s.mem n) ∧
          ctxToken u.core.ctx t = { ctxToken s.core.ctx t with issued := (ctxToken s.core.ctx t).issued + 1#16 } ∧
          u.core.segs = s.core.segs.set seg.toNat { st := .loading, err := 0#4, base := c.extractLsb' 12 44 } seg.isLt ∧
          u.core.fetches = s.core.fetches ++ [{ seg := seg, addr := c, owner := acting s, ctx := s.core.ctx.rcd.chrys, token := t, stamp := st }]) ∧
      (User s →
        (seg = 15#4 → Traps i s 3#8 c (codeVa s s.core.ctx.pc)) ∧
        (seg ≠ 15#4 → ¬SegFree s seg → Traps i s 8#8 (seg.setWidth 64) (codeVa s s.core.ctx.pc)) ∧
        (SegFree s seg → ¬aligned → Traps i s 2#8 c (codeVa s s.core.ctx.pc)) ∧
        (SegFree s seg → aligned → check s (acting s) c 4096 .X = .error r → TrapsFrom i s (checkFill s (acting s) c 4096 .X) (causeOf r) c (codeVa s s.core.ctx.pc)))) ∧
    (∀ f : Fetch, (s.core.fetches.find? fun x => x.seg == f.seg) = some f → Issues s f.ctx → (f.token.handler = true → f.token.num.toNat < 4) →
      let g := s.core.segs[f.seg.toNat]'(f.seg.isLt)
      (∀ key, fetchKey s s.cur f = .ok key → ∃ u, exec (.cfetchCompletion s.cur f.seg.toNat) s = .next u ∧ Posts s u f.token ∧ u.core.fetches = s.core.fetches.erase f ∧
        u.core.segs = s.core.segs.set f.seg.toNat { g with st := .landed, err := 0#4 } f.seg.isLt ∧
        (Memory.wf s.mem = true → place true f.addr.toNat ≠ .heap →
          (∀ n, n < 4096 → getByte u.mem (imemKey s.cur (f.seg.toNat * 4096) + n) = getByte s.mem (key + n)) ∧
          ∀ n, (n < imemKey s.cur (f.seg.toNat * 4096) ∨ imemKey s.cur (f.seg.toNat * 4096) + 4096 ≤ n) → getByte u.mem n = getByte s.mem n)) ∧
      (∀ r, fetchKey s s.cur f = .error r → ∃ u, exec (.cfetchCompletion s.cur f.seg.toNat) s = .next u ∧ Posts s u f.token ∧ (∀ n, getByte u.mem n = getByte s.mem n) ∧
        u.core.segs = s.core.segs.set f.seg.toNat { g with st := .failed, err := if r = .translation then 1#4 else if r = .stale then 3#4 else 2#4 } f.seg.isLt))

/-! ### Asynchronous traps, replays and the cycle -/

/-- ASYNC_TRAP (R360, R364, R368 to R371): the first pending trap of the issuing context is taken at its boundary outside steward mode, with the entry's record in the handler window; a journal entry
frees, a log entry is marked taken. REPLAY (R193) issues a held load again for its logged owner and completes once it is performed. Where it rests on the model's own choices: log 9. -/
def Obligations.AsynchronousTraps : Prop :=
  ∀ (s : State) (sc : BitVec 2), s.core.issuing.isSome = true →
    let enters (t : State) (e : TrapCause) (ea : Word) (j : TrapJnl) : Prop :=
      (s.core.ctx.idle = none → t.core.ctx.ctl.trapPc = codeVa s s.core.ctx.pc) ∧
        (s.core.ctx.idle.isSome = true → (∀ n : Fin 3, s.core.ctx.regs.loops[n].active = false) → t.core.ctx.ctl.trapPc = codeVa s (s.core.ctx.pc + 4#16)) ∧ t.core.ctx.ctl.trapVal = ea ∧ t.core.ctx.ctl.cause = e ∧ t.core.ctx.ctl.jnl = j ∧ t.core.ctx.ctl.steward = true ∧
        t.core.ctx.pc = 0xF000#16 ∧ t.core.nextIssue = s.gtc + 6 ∧ (∀ n : Fin 3, t.core.ctx.regs.loops[n].active = false) ∧ t.core.ctx.regs.g = s.core.ctx.regs.g ∧
        (∀ n, getByte t.mem n = getByte s.mem n)
    (User s → s.core.ctx.pend = [] → s.core.amo = none → s.core.accepted = false → s.core.haltStop = false → s.core.haltGroup = false →
      (∀ (n : Fin 16) (e : LogEntry) (x : Nat), s.core.log[n] = some e → firstTrap (pendTraps s.core s.core.ctx.rcd.chrys) = some (x, 0, n.val) →
        ∃ t, exec (.asyncTrap s.cur) s = .next t ∧ enters t { async := true, reason := e.reason, code := 32#8 } e.ea { valid := true, log := true, entry := BitVec.ofNat 5 n } ∧
          t.core.log = s.core.log.set n (some { e with taken := true }) ∧ t.core.journal = s.core.journal ∧
          windowLe t.core.ctx 0x20 8 = e.ea.toNat ∧ windowLe t.core.ctx 0x28 8 = e.base.toNat ∧
          windowLe t.core.ctx 0x30 8 = e.dest.toNat + (if e.vecDest then 1 else 0) * 2 ^ 5 + e.reason.toNat * 2 ^ 12 + e.owner.toNat * 2 ^ 20 + e.word.toNat * 2 ^ 32) ∧
      (∀ (n : Fin 32) (e : JnlEntry) (x : Nat), s.core.journal[n] = some e → firstTrap (pendTraps s.core s.core.ctx.rcd.chrys) = some (x, 1, n.val) →
        ∃ t, exec (.asyncTrap s.cur) s = .next t ∧ enters t { async := true, reason := e.reason, code := 33#8 } e.ea { valid := true, log := false, entry := BitVec.ofNat 5 n } ∧
          t.core.journal = s.core.journal.set n none ∧ t.core.log = s.core.log ∧ windowLe t.core.ctx 0x20 8 = e.ea.toNat ∧ windowLe t.core.ctx 0x28 8 = e.data.toNat)) ∧
    (s.core.ctx.ctl.steward = true → exec (.asyncTrap s.cur) s = .next s) ∧
    (∀ (n : Fin 16) (e : LogEntry), s.core.ctx.ctl.steward = true → s.core.log[n] = some e → e.held.isSome = true →
      (e.replaying = true → Holds (.replay sc (BitVec.ofNat 4 n)) s) ∧
      (e.replaying = false → ∀ st s1, check s e.owner e.ea (2 ^ e.sizeLog) .I = .ok (st, s1) →
        exec (.replay sc (BitVec.ofNat 4 n)) s = .next (hold false { s1 with core := { s1.core with log := s.core.log.set n (some { e with replaying := true, replaySc := sc, stamp := st }) } })) ∧
      (e.replaying = true → e.swept = none → olderPending s s.core e.seqNo e.ea (2 ^ e.sizeLog) = false → behindSync s.core e.ctx e.seqNo = false → olderElsewhere s s.cur e.ctx e.at_ = false →
        syncWaits s e.ctx e.ea false e.sync = false → Issues s e.ctx → (e.token.handler = true → e.token.num.toNat < 4) →
        ∀ key signed, e.kind = .scalar signed → landing s s.cur e.ea.toNat e.stamp = .ok key → (∃ u off, place true e.ea.toNat = .pool u off) →
          let access := remoteAccess s.cur e.ctx key false e.sync s.gtc (overtakes s s.cur e.ctx e.seqNo e.at_)
          overtaken access s.races = false → Unraced s access →
          ∃ t, exec (.loadCompletion s.cur n) s = .next t ∧ t.core.log = s.core.log.set n none ∧ Follows 4 s t ∧ t.core.nextIssue = s.gtc + 1 + e.replaySc.toNat ∧
            WritesG e.dest (loadedWord signed e.sizeLog (getBytes s.mem key (2 ^ e.sizeLog))) s t ∧
            ctxToken t.core.ctx e.token = { ctxToken s.core.ctx e.token with count := (ctxToken s.core.ctx e.token).count + 1#16 }))

/-- ISSUE_CYCLE (R21, R127, R422): with no launch queue and no group to watch and no task of the firmware under way, the GTC counts up by one and each core's results that fall due are written; bytes,
the PC and what is not due stand, and so does all of the hub but the previous epoch's key of a sealed link, which a flit may end (R442). Where it rests on the model's own choices: log 3. -/
def Obligations.TheCycle : Prop :=
  ∀ (s : State),
    let fresh (c : Ctx) : Ctx := { c with recent := 0 }
    let cycle (c : Core) : Core := { c with ctx := settle (s.gtc + 1) (fresh c.ctx), slots := c.slots.map fun (sl : Slot) => { sl with ctx := fresh sl.ctx } }
    (s.hub.jobs = [] → s.hub.decisions = [] → (s.hub.boot.powered = false ∨ s.hub.rights.rgnCap = 0 ∨ (region s 0#20).st ≠ .free) → s.hub.queues = [] → s.hub.groups = [] → s.core.divs = [] → (∀ x ∈ s.others, x.2.divs = [] ∧ x.1 ≠ s.cur) → s.hub.acct.sw = 0#24 → s.hub.acct.swc = 0#24 →
      ∃ t, exec .issueCycle s = .next t ∧ t.gtc = s.gtc + 1 ∧ t.core = cycle s.core ∧
        t.others = s.others.map (fun x => (x.1, cycle x.2)) ∧ t.mem = s.mem ∧ t.hub = { s.hub with seals := t.hub.seals } ∧
        ∀ x ∈ t.hub.seals, ∃ y ∈ s.hub.seals, x.1 = y.1 ∧ (x.2.west.prev = y.2.west.prev ∨ x.2.west.prev = []) ∧ (x.2.east.prev = y.2.east.prev ∨ x.2.east.prev = []) ∧
          x.2 = { y.2 with west := { y.2.west with prev := x.2.west.prev }, east := { y.2.east with prev := x.2.east.prev } }) ∧
    (∀ (d : Reg) (x : Word) (n : Nat), s.core.ctx.pend = [(n, .writeG d x)] →
      let c := settle (s.gtc + 1) s.core.ctx
      (n ≤ s.gtc + 1 → c.pend = [] ∧ WritesG d x s (setCtx s c)) ∧ (s.gtc + 1 < n → c = s.core.ctx))

/-- Jumps to code addresses, segment reads and invalidations, and code fetches: each part as its own text says (R60, R107, R120, R121, R122, R123). -/
def Obligations.CodeSegments : Prop := Claim.JumpsToCodeAndSegments ∧ Claim.CodeFetches

/-! ### The viceroy -/

namespace Sys2Proof.Claim

/-- The viceroy of the core's quad (R394). -/
def myViceroy (s : State) : Viceroy := tabGet {} s.quads (quadOf s.cur)

/-- Open executions of the quad's viceroy once the context's own has been dropped and, at 256, the oldest (R405). -/
def execsLeft (s : State) : List OpenExec :=
  let l := (myViceroy s).execs.filter fun x => x.ctx != s.core.ctx.rcd.chrys
  if 256 ≤ l.length then l.drop 1 else l

/-- What a FITB sends: the inputs that its record names (R396, R403). -/
def inputsOf (s : State) (r : BitVec 192) : List (BitVec 32) := (frIns r).map fun r => match r with
  | .g r => (rdG s r).setWidth 32
  | .v r => (rdV s r).setWidth 32
  | .m _ => 0#32

/-- A FITB, on a compute core outside steward mode, has reached its record `d`, which it reads in the core (R395, R403). -/
def ReadsRecord (s : State) (k : BitVec 4) (a : Reg) (t : TokenName) (d : Nat) : Prop :=
  onCompute s = true ∧ s.core.asked = none ∧ acquirePending s = false ∧ underWait s [.g a] none = none ∧ tokenOf s k = some t ∧ DescriptorAt s a d

/-- A FITB asks its viceroy with record `r` and inputs `x` from the state `s0` that its reads leave: a well-formed record, room in its token and readable inputs; or it has held since it
sent `r` and `x` (R395, R403). -/
def Asks (s s0 : State) (k : BitVec 4) (a : Reg) (t : TokenName) (r : BitVec 192) (x : List (BitVec 32)) : Prop :=
  (∃ d, ReadsRecord s k a t d ∧ s0 = ownRead s (rdG s a) 64 ∧ illFormed d = false ∧ TokenRoom s k t ∧ r = BitVec.ofNat 192 d ∧ underWait s0 (frIns r) none = none ∧ x = inputsOf s r) ∨
  (onCompute s = true ∧ s.core.ctx.ctl.steward = false ∧ tokenOf s k = some t ∧ s.core.asked = some (r, x) ∧ s0 = s)

/-- A FITB takes the true path from `s0`, opened with inputs `x` as `as_` on entry `i`, which becomes `e`: FO and FN are set, the token posts a cycle later, and the next instruction follows (R403). -/
def OpensTrue (i : Instr) (s s0 : State) (n : BitVec 4) (t : TokenName) (r : BitVec 192) (x : List (BitVec 32)) (as_ : OpenAs) (at_ : Nat) (e : FitEntry) : Prop :=
  ∃ u, exec i s = .next u ∧ NoG s u ∧ Follows 4 s u ∧ (∀ b, getByte u.mem b = getByte s0.mem b) ∧
    u.core.ctx.ctl.fo = true ∧ u.core.ctx.ctl.fs = false ∧ u.core.ctx.ctl.fn = n ∧ u.core.ctx.pend = s.core.ctx.pend ++ [(s.gtc + 1, .post t)] ∧
    ctxToken u.core.ctx t = { ctxToken s.core.ctx t with issued := (ctxToken s.core.ctx t).issued + 1#16 } ∧
    (myViceroy u).execs.getLast? = some { ctx := s.core.ctx.rcd.chrys, entry := some at_, inputs := x, outs := frOuts r, as_ := as_ } ∧
    tabGet none (myViceroy u).entries at_ = some e

/-- A FITE of the open true execution leaves entry `i` as `e`, FO and FS clear (R404). -/
def Closes (i : Instr) (s : State) (at_ : Nat) (e : FitEntry) : Prop :=
  ∃ u, exec i s = .next u ∧ NoG s u ∧ Follows 4 s u ∧ (∀ b, getByte u.mem b = getByte s.mem b) ∧ u.core.ctx.ctl.fo = false ∧ u.core.ctx.ctl.fs = false ∧
    (∀ x ∈ (myViceroy u).execs, x.ctx ≠ s.core.ctx.rcd.chrys) ∧ tabGet none (myViceroy u).entries at_ = some e

/-- An entry with a sample added: it is taken where every value is finite, and a full buffer makes the entry TRAIN (R398, R400). -/
def sampled (e : FitEntry) (buf : List (List (BitVec 32) × List (BitVec 32))) (x y : List (BitVec 32)) : FitEntry :=
  if (x ++ y).all f32Finite then { e with buffer := buf ++ [(x, y)], st := if frB e.record ≤ buf.length + 1 then .train else e.st } else { e with buffer := buf }

end Sys2Proof.Claim

/-- FITB (R400, R402, R403, R405): what a FITB of an entry receives in each state; a new key takes the lowest-numbered free entry with the initial weights; a record with another signature
makes the entry INVALID. In TRAIN the FITB holds, and what it has sent stands until it is answered. An ill-formed record traps; a full token traps before the inputs are looked at. Where it rests on the model's own choices: log 32, 29. -/
def Sys2Proof.Claim.FittedRegionsBegin : Prop :=
  ∀ (s s0 : State) (sc : BitVec 2) (k n : BitVec 4) (a : Reg) (t : TokenName) (r : BitVec 192) (x : List (BitVec 32)) (d at_ : Nat) (e : FitEntry),
    let i : Instr := .fitb sc k n a
    let v := myViceroy s
    let here := codeVa s s.core.ctx.pc
    let e1 := { e with fba := some (e.fba.getD here) }
    let o := s.core.ctx.ctl.owner
    (ReadsRecord s k a t d → Memory.wf s.core.ctx.window = true →
      (illFormed d = true → TrapsFrom i s (ownRead s (rdG s a) 64) 2#8 (rdG s a) here) ∧
      (illFormed d = false → 2 ^ 15 - 1 ≤ ((ctxToken s.core.ctx t).issued - (ctxToken s.core.ctx t).count).toNat →
        TrapsFrom i s (ownRead s (rdG s a) 64) 10#8 (k.setWidth 64) here)) ∧
    (Asks s s0 k a t r x → findFit v o n = some (at_, e) →
      (e.record.extractLsb' 0 128 ≠ r.extractLsb' 0 128 → e.st ≠ .invalid → OpensTrue i s s0 n t r x .nothing at_ { e with st := .invalid, buffer := [] }) ∧
      (e.record.extractLsb' 0 128 = r.extractLsb' 0 128 →
        (e.st = .collect ∨ e.st = .fallback → OpensTrue i s s0 n t r x .sample at_ e1) ∧
        (e.st = .validate → OpensTrue i s s0 n t r x (.compare .validate e.made) at_ e1) ∧
        (e.st = .invalid → OpensTrue i s s0 n t r x .nothing at_ e1) ∧
        (e.st = .train → ∃ u, exec i s = .next u ∧ u.core.ctx = s.core.ctx ∧ u.core.nextIssue = s.gtc + 1 ∧ u.core.asked = some (r, x) ∧ u.mem = s0.mem ∧ u.hub = s0.hub ∧
          tabGet none (myViceroy u).entries at_ = some e1) ∧
        (e.st = .active → (e.cnt + 1#32).toNat % 2 ^ frS e.record = 0 → OpensTrue i s s0 n t r x (.compare .active e.made) at_ { e1 with cnt := e.cnt + 1#32 }) ∧
        (∀ p, e.st = .active → (e.cnt + 1#32).toNat % 2 ^ frS e.record ≠ 0 → resolve s (e.fea.setWidth 64) = .ok p → fetchTrap s p = none →
          ∃ u, exec i s = .next u ∧ NoG s u ∧ TransfersTo p s u ∧ (∀ b, getByte u.mem b = getByte s0.mem b) ∧ u.core.ctx.pend = s.core.ctx.pend ∧
            u.core.ctx.ctl.fo = true ∧ u.core.ctx.ctl.fs = true ∧ u.core.ctx.ctl.fn = n ∧
            ctxToken u.core.ctx t = { ctxToken s.core.ctx t with issued := (ctxToken s.core.ctx t).issued + 1#16 } ∧
            tabGet none (myViceroy u).entries at_ = some { e1 with cnt := e.cnt + 1#32 } ∧
            (myViceroy u).substs = v.substs ++ [{ ctx := s.core.ctx.rcd.chrys, token := t, outs := (frOuts r).zip (fitAnswer e.record e.weights x) }]))) ∧
    (Asks s s0 k a t r x → findFit v o n = none → at_ < 16 → tabGet none v.entries at_ = none → (∀ j, j < at_ → tabGet none v.entries j ≠ none) →
      OpensTrue i s s0 n t r x .sample at_ { owner := o, n := n, record := r, weights := fitInit (frZi r) (frWidths r) 1, fba := some here })

/-- FITE and FITK (R400, R404, R405, R406, R407): without an open execution nothing happens, a different region number is illegal, a substituted execution only closes; a true one is acted on as the
table of R404 says, with its sample or its comparison; FITK makes the entry INVALID. Where it rests on the model's own choices: log 32, 29. -/
def Sys2Proof.Claim.FittedRegionsEnd : Prop :=
  ∀ (s : State) (sc : BitVec 2) (n : BitVec 4) (at_ : Nat) (e : FitEntry) (x : OpenExec), onCompute s = true →
    let c := s.core.ctx.ctl
    let v := myViceroy s
    let here := codeVa s s.core.ctx.pc
    let y : List (BitVec 32) := x.outs.map fun r => match r with
      | .g r => (rdG s r).setWidth 32
      | .v r => (rdV s r).setWidth 32
      | .m _ => 0#32
    let e1 := { e with fea := here, fev := true }
    let closes (e' : FitEntry) : Prop := Closes (.fite sc n) s at_ e'
    let passes : Prop := fitPasses c.fitAbs c.fitRel y (fitAnswer e.record e.weights x.inputs) = true
    (c.fo = false → CompletesAs (.fite sc n) s 4 sc.toNat s) ∧
    (c.fo = true → c.fn ≠ n → User s → Traps (.fite sc n) s 1#8 (s.core.ir.setWidth 64) here) ∧
    (c.fo = true → c.fn = n → c.fs = true → CompletesAs (.fite sc n) s 4 sc.toNat (setCtl s { c with fo := false, fs := false })) ∧
    (c.fo = true → c.fn = n → c.fs = false → (v.execs.find? fun z => z.ctx == s.core.ctx.rcd.chrys) = some x → underWait s x.outs none = none → x.entry = some at_ →
      tabGet none v.entries at_ = some e →
      (e.fev = true → e.fea ≠ here → e.st ≠ .invalid → closes { e with st := .invalid, buffer := [] }) ∧
      ((e.fev = true → e.fea = here) →
        (x.as_ = .nothing → closes e1) ∧
        (x.as_ = .sample → (e.st = .collect ∨ e.st = .fallback) → closes (sampled e1 e.buffer x.inputs y)) ∧
        (x.as_ = .sample → e.st ≠ .collect → e.st ≠ .fallback → closes e1) ∧
        (∀ st m, x.as_ = .compare st m → (e.st ≠ st ∨ e.made ≠ m) → closes e1) ∧
        (x.as_ = .compare .validate e.made → e.st = .validate →
          (passes → e.good + 1 < frV e.record → closes { e1 with good := e.good + 1 }) ∧
          (passes → frV e.record ≤ e.good + 1 → closes { e1 with st := .active, good := 0, cnt := 0#32 }) ∧
          (¬passes → closes (sampled { e1 with st := .collect, good := 0 } [] x.inputs y))) ∧
        (x.as_ = .compare .active e.made → e.st = .active →
          (passes → closes e1) ∧
          (¬passes → e.fb + 1 < frF e.record → closes (sampled { e1 with st := .fallback, fb := e.fb + 1 } [] x.inputs y)) ∧
          (¬passes → frF e.record ≤ e.fb + 1 → closes { e1 with st := .invalid, fb := frF e.record, buffer := [] })))) ∧
    (findFit v (acting s) n = some (at_, e) → e.st ≠ .invalid → ∃ u, exec (.fitk sc n) s = .next u ∧ NoG s u ∧ Follows 4 s u ∧
      tabGet none (myViceroy u).entries at_ = some { e with st := .invalid, buffer := [] } ∧ ∀ z, z ∈ (myViceroy u).execs ↔ z ∈ v.execs ∧ z.entry ≠ some at_) ∧
    (findFit v (acting s) n = none → ∃ u, exec (.fitk sc n) s = .next u ∧ NoG s u ∧ Follows 4 s u ∧ ∀ j, tabGet none (myViceroy u).entries j = tabGet none v.entries j)

namespace Sys2Proof.Claim

/-- An access of the core itself to `n` bytes at `ea` waits for nothing: no LDAQ is in flight (R328), and through a private alias no earlier access comes first (R315, R322). -/
def OwnReady (s : State) (ea : Word) (n : Nat) (write : Bool) : Prop :=
  acquirePending s = false ∧ ∀ off, place true ea.toNat = .priv off → ¬(s.core.ctx.ctl.steward = true ∧ off < 0x800) → privWaits s (poolKey s.cur off) n write none = false

/-- The state in which it then accesses them: through a private alias outside the handler window an STRL of the context in flight is performed ahead of it (R333). -/
def ownBase (s : State) (ea : Word) : State :=
  match place true ea.toNat with
  | .priv off => if s.core.ctx.ctl.steward && decide (off < 0x800) then s else landStrl s
  | _ => s

end Sys2Proof.Claim

/-- FITQ, FITW, TRAINING_STEP and SUBSTITUTION_OUTPUTS (R398, R403, R408 to R410): the image of an entry is written or restored, the step ends in VALIDATE with the new weights, and a substitution writes
its outputs and posts. Where it rests on the model's own choices: log 32, 33. -/
def Obligations.WeightImagesAndSteps : Prop :=
  ∀ (s s1 s2 : State) (sc : BitVec 2) (n : BitVec 4) (a d : Reg) (j : BitVec 5) (at_ : Nat) (e : FitEntry) (bs cs : List ImageByte) (st st1 : Stamp),
    let v := myViceroy s
    let ea := rdG s a
    (onCompute s = true → underWait s [.g a] (some (.g d, 2)) = none → imageAddr s (rdG s a) = true →
      (findFit v (acting s) n = none → GivesGLater (.fitq sc n a d) s 4 sc.toNat 2 d 0#64) ∧
      (findFit v (acting s) n = some (at_, e) → e.st = .train → Holds (.fitq sc n a d) s) ∧
      (findFit v (acting s) n = some (at_, e) → e.st ≠ .train → OwnReady s ea (fitImage e).length true → imageAccess ea (fitImage e).length .W (ownBase s ea) = .ok (bs, st, s1) →
        CompletesAs (.fitq sc n a d) s 4 sc.toNat (putGLater 2 d (BitVec.ofNat 64 (fitImage e).length) (putImage (bs.zip (fitImage e)) s1)))) ∧
    (let h := leNat (((fitImage e).drop 64).take 64)
     (fitImage e).length = 128 + 4 * e.weights.length ∧ leNat ((fitImage e).take 64) = e.record.toNat ∧
       field h 0 3 = (match e.st with | .collect => 0 | .train => 1 | .validate => 2 | .active => 3 | .fallback => 4 | .invalid => 5) ∧
       field h 4 4 = e.fb % 16 ∧ field h 8 8 = e.good % 256 ∧ field h 16 16 = e.steps % 65536 ∧ field h 32 32 = e.cnt.toNat ∧ field h 64 56 = e.fea.toNat ∧
       field h 183 1 = (if e.fev then 1 else 0) ∧ ∀ i, i < e.weights.length → leNat (((fitImage e).drop (128 + 4 * i)).take 4) = (e.weights.getD i 0#32).toNat) ∧
    (onCompute s = true → underWait s [.g a] none = none → OwnReady s ea 128 false → imageAccess ea 128 .I (ownBase s ea) = .ok (bs, st, s1) →
      let rec_ := leNat ((bs.map (getImage s1)).take 64)
      let h := leNat ((bs.map (getImage s1)).drop 64)
      let size := 128 + 4 * fitCount (frWidths (BitVec.ofNat 192 rec_))
      (illFormed rec_ = false → field h 0 3 < 5 → OwnReady s1 ea size false → imageAccess ea size .I (ownBase s1 ea) = .ok (cs, st1, s2) →
        findFit v (acting s) n = some (at_, e) →
        ∃ u e', exec (.fitw sc n a j) s = .next u ∧ NoG s u ∧ Follows 4 s u ∧ (∀ b, getByte u.mem b = getByte (ownBase s1 ea).mem b) ∧ (∀ b, getByte s1.mem b = getByte (ownBase s ea).mem b) ∧ tabGet none (myViceroy u).entries at_ = some e' ∧
          e'.record.extractLsb' 0 128 = (BitVec.ofNat 128 rec_) ∧ frJ e'.record = j.toNat ∧ e'.buffer = [] ∧ e'.fb = field h 4 4 ∧ e'.good = field h 8 8 ∧ e'.steps = field h 16 16 ∧
          e'.cnt.toNat = field h 32 32 ∧ e'.fea.toNat = field h 64 56 ∧ e'.fba = e.fba ∧ e'.image = st ∧
          e'.st = (match field h 0 3 with | 2 => .validate | 3 => .active | 4 => .fallback | _ => .collect) ∧
          ∀ i, i < fitCount (frWidths (BitVec.ofNat 192 rec_)) →
            e'.weights.getD i 0#32 = BitVec.ofNat 32 (leNat (((cs.map (getImage s2)).drop (128 + 4 * i)).take 4))) ∧
      (Memory.wf s1.core.ctx.window = true → s1.core.ctx.ctl.steward = false → (illFormed rec_ = true ∨ 6 ≤ field h 0 3) →
        ∃ u, exec (.fitw sc n a j) s = .next u ∧ EntersHandler s1 u 2#8 (rdG s a) (codeVa s1 s1.core.ctx.pc))) ∧
    (∀ q : Nat, tabGet none (tabGet {} s.quads q).entries at_ = some e →
      (e.st = .train → ∃ u, exec (.trainingStep q at_) s = .next u ∧ u = { s with quads := u.quads } ∧ tabGet none (tabGet {} u.quads q).entries at_ = some { e with
        weights := fitStep e.record e.weights e.buffer, buffer := [], st := .validate, good := 0, steps := min 65535 (e.steps + 1), made := e.made + 1 }) ∧
      (e.st ≠ .train → exec (.trainingStep q at_) s = .next s)) ∧
    (∀ (q i : Nat) (x : Subst), (tabGet {} s.quads q).substs[i]? = some x → Issues s x.ctx → (x.token.handler = true → x.token.num.toNat < 4) →
      ∃ u, exec (.substitutionOutputs q i) s = .next u ∧
        ctxToken u.core.ctx x.token = { ctxToken s.core.ctx x.token with count := (ctxToken s.core.ctx x.token).count + 1#16 } ∧ (∀ b, getByte u.mem b = getByte s.mem b) ∧
        (∀ r y, x.outs = [(.g r, y)] → WritesG r (y.setWidth 64) s u) ∧
        (∀ r y, x.outs = [(.v r, y)] → NoG s u ∧ (rdV u r).extractLsb' 0 32 = y ∧ (rdV u r).extractLsb' 32 224 = (rdV s r).extractLsb' 32 224))

/-- Fitted regions open, sample and close: each part as its own text says (R400, R402, R403, R404, R405, R406, R407). -/
def Obligations.FittedRegions : Prop := Claim.FittedRegionsBegin ∧ Claim.FittedRegionsEnd

/-! ### Copies -/

namespace Sys2Proof.Claim

/-- The copy that COPY_GO launches from the control registers (R256, R257, R277). -/
def launched (s : State) (tid : BitVec 8) (t : Option TokenName) : Copy :=
  { tid := tid, regs := s.core.ctx.ctl.copy, owner := acting s, ctx := s.core.ctx.rcd.chrys, record := s.core.ctx.ctl.record, steward := s.core.ctx.ctl.steward, token := t
    tmap := readMap s, launchedAt := s.gtc, eng := s.core.engSeq, handle := ownHandle s, ofQueue := queueOfCtx s s.core.ctx.rcd.chrys }

/-- The state after a launch: the copy is last in the engine's queue, and the sync region has ended (R257, R321). -/
def launches (s : State) (c : Copy) : State :=
  let s1 := match c.token with | some t => issueToken t s | none => s
  synced { s1 with core := { s1.core with copies := s.core.copies ++ [c], lastTid := c.tid, engSeq := s.core.engSeq + 1 } }

/-- The oldest copy of the core that has not ended is `c` (R262). -/
def Head (s : State) (c : Copy) : Prop := (s.core.copies.find? fun x => !x.ended) = some c

/-- The core's copies with `c` in the place of the copy of its transfer id. -/
def withCopy (s : State) (c : Copy) : List Copy := s.core.copies.map fun y => if y.tid = c.tid then c else y

/-- A copy whose bytes have all been performed, or that has been refused (R258). -/
def CopyOver (c : Copy) : Prop := c.started = true ∧ (c.status.isSome = true ∨ copyBeats c ≤ c.beats)

/-- A completion message (R263). -/
def completionOf (s : State) (c : Copy) (kind : Nat) (status : BitVec 8) (bytes tile : Nat) : NetMsg :=
  { handle := c.handle, body := BitVec.ofNat 128 (c.tid.toNat + kind * 2 ^ 8 + status.toNat * 2 ^ 16 + bytes % 2 ^ 32 * 2 ^ 32 + tile % 512 * 2 ^ 96), sender := none
    colour := colourOf s s.cur, ofQueue := c.ofQueue, copyOf := some (s.cur, c.tid) }

end Sys2Proof.Claim

/-- COPY_GO, by CRD and as the event (R257, R332): behind an LDAQ it holds; with a transfer id free it launches the copy that the control registers describe and reads its id at latency 2, with KEN it
issues its token; with 256 in flight it holds. A copy with a tensor map reads it at its launch, and may end with status 10 where that read races (R277, R319). -/
def Obligations.CopiesLaunch : Prop :=
  ∀ (s : State) (d : Reg) (t : TokenName), ∀ i ∈ [Instr.crd 0x018#12 d, .copyGo d],
    let f := s.core.ctx.ctl.copy.flags
    let tid := s.core.lastTid + 1#8
    (acquirePending s = true → Holds i s) ∧
    (acquirePending s = false → underWait s [] (some (.g d, 2)) = none → f.getLsbD 9 = false →
      ((∀ x ∈ s.core.copies, x.tid ≠ tid) →
        let gives (k : Option TokenName) : Prop :=
          (readMap s = none → CompletesAs i s 4 0 (putGLater 2 d (tid.setWidth 64) (launches s (launched s tid k)))) ∧
          (readMap s ≠ none → ∃ st r n, CompletesAs i s 4 0 (putGLater 2 d (tid.setWidth 64)
              { launches s { launched s tid k with status := st, started := st.isSome } with races := r, freeCtr := n }) ∧ (st = none ∨ st = some 10#8) ∧
            ((∀ g ∈ [0, 32], Unraced s (engineAccess (engineAgent 0 s.cur s.core.engSeq) s.cur (poolKey s.cur s.core.ctx.ctl.copy.map.toNat + g) false)) → st = none ∧ n = s.freeCtr))
        (f.getLsbD 1 = false → gives none) ∧ (f.getLsbD 1 = true → TokenRoom s (f.extractLsb' 2 4) t → gives (some t))) ∧
      ((∀ x : BitVec 8, ∃ y ∈ s.core.copies, y.tid = x) → f.getLsbD 1 = false → Holds i s))

/-- COPY_BEAT and QA_SLOT_RESERVE (R258, R260, R262): a plain copy between private aliases moves up to 64 bytes of one row in a beat and changes no other byte; a copy that its first checks refuse
gets their status and writes nothing; a byte past the scratchpad is refused with PROTECTION; a QA copy takes the next slot when one is free. Where it rests on the model's own choices: log 52, 26, 66. -/
def Sys2Proof.Claim.CopyBeats : Prop :=
  ∀ (s : State) (c : Copy), Head s c →
    let f := c.regs.flags
    let per := (c.regs.len.toNat + 63) / 64
    let row := c.beats / per
    let off := c.beats % per * 64
    let n := min 64 (c.regs.len.toNat - off)
    let src := c.regs.src + BitVec.ofNat 64 row * c.regs.sta + BitVec.ofNat 64 off
    let dst := c.regs.dst + BitVec.ofNat 64 row * c.regs.stb + BitVec.ofNat 64 off
    let priv (a : Word) : Prop := ∀ i, i < n → place (isCompute s.cur) (a + BitVec.ofNat 64 i).toNat = .priv (a.toNat + i)
    let plain : Prop := c.tmap = none ∧ f.extractLsb' 6 5 = 0#5 ∧ c.regs.len ≠ 0#24 ∧ c.beats < max 1 c.regs.shape.toNat * per ∧ c.slot = none
    (c.started = true → c.status = none → plain → priv src → priv dst → Issues s c.ctx → (∀ r ∈ s.races, r.agent = engineAgent 0 s.cur c.eng) → s.core.freed = [] →
      Memory.wf s.mem = true →
      (src.toNat + n ≤ scratchSize s.cur s.core → dst.toNat + n ≤ scratchSize s.cur s.core →
        ∃ u, exec (.copyBeat s.cur) s = .next u ∧ u.core.copies = withCopy s { c with beats := c.beats + 1, bytes := c.bytes + n } ∧
          (∀ i, i < n → getByte u.mem (poolKey s.cur (dst.toNat + i)) = getByte s.mem (poolKey s.cur (src.toNat + i))) ∧
          (∀ a, (∀ i, i < n → a ≠ poolKey s.cur (dst.toNat + i)) → getByte u.mem a = getByte s.mem a) ∧ u.core.ctx.regs = s.core.ctx.regs ∧ u.core.ctx.pc = s.core.ctx.pc) ∧
      (scratchSize s.cur s.core ≤ src.toNat →
        ∃ u, exec (.copyBeat s.cur) s = .next u ∧ u.core.copies = withCopy s { c with status := some 3#8 } ∧ u.mem = s.mem ∧ u.core.ctx = s.core.ctx)) ∧
    (c.started = false → fenced s s.cur 0 c.eng = true → exec (.copyBeat s.cur) s = .next s) ∧
    (∀ e, c.started = false → fenced s s.cur 0 c.eng = false → f.getLsbD 8 = false → c.tiles = [] → 
      let r := readFormats s.cur c s
      startStatus r s.cur c = some e → exec (.copyBeat s.cur) s = .next { r with core := { r.core with copies := withCopy s { c with started := true, status := some e } } } ∧
        (onCompute s = true → r = s)) ∧
    (∀ h, c.started = true → c.status = none → c.slot = none → f.getLsbD 9 = false → f.getLsbD 10 = true → copyHome s.cur c = some h →
      let q := (f.extractLsb' 12 4).toNat
      let x := quireOf s h q
      (x.retired = true → exec (.qaSlotReserve s.cur) s = .next { s with core := { s.core with copies := withCopy s { c with status := some 7#8 } } }) ∧
      (x.retired = false → x.cfg = false → exec (.qaSlotReserve s.cur) s = .next { s with core := { s.core with copies := withCopy s { c with status := some 9#8 } } }) ∧
      (x.retired = false → x.cfg = true → (x.free = 0 ∨ 8 ≤ slotsIn x .reserved) → exec (.qaSlotReserve s.cur) s = .next s) ∧
      (x.retired = false → x.cfg = true → x.free ≠ 0 → slotsIn x .reserved < 8 → badPlace s s.cur c (slotBase s c h q x.res) = true →
        exec (.qaSlotReserve s.cur) s = .next { s with core := { s.core with copies := withCopy s { c with status := some 5#8 } } }) ∧
      (x.retired = false → x.cfg = true → x.free ≠ 0 → slotsIn x .reserved < 8 → badPlace s s.cur c (slotBase s c h q x.res) = false → x.res < x.slots.length → ∃ u, exec (.qaSlotReserve s.cur) s = .next u ∧
        quireOf u h q = { x with
          slots := x.slots.set x.res { x.slots.getD x.res {} with st := .reserved, holder := none, open_ := (x.slots.getD x.res {}).open_ + 1 }
          res := (x.res + 1) % x.slots.length, free := x.free - 1 } ∧
        u.core.copies = withCopy s { c with slot := some (h, q, x.res) } ∧ u.mem = s.mem))

/-- COPY_COMPLETION and TILE_COMPLETION (R257, R261, R263): the head copy, once its bytes are performed or refused and its tiles have answered, posts its token and sends its DONE message; a tile that
is done sends its TILE message once. Where it rests on the model's own choices: log 26. -/
def Sys2Proof.Claim.CopyCompletions : Prop :=
  ∀ (s : State) (c : Copy) (t : TokenName), Head s c → Issues s c.ctx → (t.handler = true → t.num.toNat < 4) →
    (c.started = true → ¬CopyOver c → exec (.copyCompletion s.cur) s = .next s) ∧
    (CopyOver c → c.tiles = [] → c.slot = none → c.token = some t → (∀ m ∈ s.net, m.copyOf ≠ some (s.cur, c.tid)) →
      (c.regs.flags.getLsbD 0 = false → ∃ u, exec (.copyCompletion s.cur) s = .next u ∧ Posts s u t ∧ u.mem = s.mem ∧ u.net = s.net ∧
        u.core.copies = s.core.copies.filter fun x => x.tid != c.tid) ∧
      (c.regs.flags.getLsbD 0 = true → ∃ u, exec (.copyCompletion s.cur) s = .next u ∧ Posts s u t ∧ u.mem = s.mem ∧
        u.net = s.net ++ [completionOf s c 1 (c.status.getD 0#8) c.bytes 0] ∧ u.core.copies = withCopy s { c with ended := true })) ∧
    (c.started = true → (∃ x ∈ c.tiles, x.sent = false) → exec (.copyCompletion s.cur) s = .next s) ∧
    (∀ x : CopyTile, (c.tiles.find? fun y => y.tile == x.tile && !y.sent) = some x → (CopyOver c ∨ ∀ w ∈ tileCores c.regs.map.toNat x.tile, w ∈ x.refused) →
      exec (.tileCompletion s.cur x.tile) s = .next { s with
        core := { s.core with copies := withCopy s { c with tiles := c.tiles.map fun (y : CopyTile) => if y.tile = x.tile then { y with sent := true } else y } }
        net := s.net ++ [completionOf s c 2 x.status x.bytes x.tile], races := (endRegion (engineAgent 0 s.cur c.eng) s).races })

/-- Beats move the bytes of a copy, and its completion does what its kind says: each part as its own text says (R257, R258, R260, R261, R262, R263). -/
def Obligations.CopiesRun : Prop := Claim.CopyBeats ∧ Claim.CopyCompletions

/-! ### Slots, bind records and partitions -/

namespace Sys2Proof.Claim

/-- An event of partition `p` (R101): it waits where the ring is full; else it is the record at EVT_TAIL, which rises. -/
def Announces (s u : State) (p : BitVec 3) (kind err : Nat) (cont : BitVec 56) (core slot : Nat) (tag : BitVec 32) : Prop :=
  let x := getPart s p
  let e := tag.toNat + slot * 2 ^ 49 + core * 2 ^ 52 + kind * 2 ^ 64 + err * 2 ^ 68 + cont.toNat / 64 * 2 ^ 72
  (ringFull x = true → (getPart u p).evtWait = x.evtWait ++ [BitVec.ofNat 128 e] ∧ (getPart u p).evtTail = x.evtTail) ∧
    (ringFull x = false → (getPart u p).evtTail = x.evtTail + 1#32 ∧
      (Memory.wf s.mem = true → getLe u.mem (x.evtBase.toNat * 4096 + 16 * (x.evtTail.toNat % 2 ^ x.evtLog.toNat)) 16 = e))

/-- KIND of a slot's event: 8 more from a channel core (R270). -/
def kindOf (s : State) (k : Nat) : Nat := if onCompute s then k else k + 8

/-- The core's own number in events: linear, or that of R269. -/
def ownNumber (s : State) : Nat := if onCompute s then s.cur else s.cur - 4096

/-- The other slots of the core stand. -/
def OtherSlots (s u : State) (i : Fin 8) : Prop := ∀ j : Fin 8, j ≠ i → u.core.slots[j] = s.core.slots[j]

/-- The record at the head of a bind ring names the core in focus, and dispatch may take it: room in the event ring and no eviction under way (R95, R96, R101). -/
def Record (s : State) (p : BitVec 3) (ch : Bool) (x : Nat) (i : Fin 8) : Prop :=
  let y := getPart s p
  let head := if ch then y.cbindHead else y.bindHead
  head ≠ (if ch then y.cbindTail else y.bindTail) ∧ ringFull y = false ∧ (∀ j : Fin 8, s.core.slots[j].sst ≠ .evicting) ∧
    x = getLe s.mem ((if ch then 0x1000001900000 else 0x1000001080000) + p.toNat * 0x1000 + 16 * (head.toNat % 256)) 16 ∧
    field x 49 3 = i.val ∧ (if ch then field x 52 12 < 272 ∧ s.cur = 4096 + field x 52 12 else s.cur = field x 52 12)

/-- The ring's head rises (R96). -/
def Taken (s u : State) (p : BitVec 3) (ch : Bool) : Prop :=
  (getPart u p).bindHead = (getPart s p).bindHead + (if ch then 0#32 else 1#32) ∧ (getPart u p).cbindHead = (getPart s p).cbindHead + (if ch then 1#32 else 0#32)

/-- The continuation that a bind record names (R95). -/
def contOfRecord (x : Nat) : BitVec 56 := BitVec.ofNat 56 (field x 72 50 * 64)

/-- A context as an eviction writes it back (R44, R374): RUNNING is READY, and its mailbox moves into the image's area ahead of what has arrived there. -/
def leaving (c : Ctx) (n : Nat) : Ctx :=
  { c with mailbox := [], rcd := { c.rcd with state := if c.rcd.state = .running then .ready else c.rcd.state }, ctl := { c.ctl with mbaCnt := BitVec.ofNat 6 n } }

/-- Context `c` has been written to its image and then to its record, and nothing else but the 16 bytes at `evt` and the flags of the pages written has changed (R42, R52, R98, R137, R139). -/
def WrittenBack (s u : State) (c : Ctx) (evt : Nat) : Prop :=
  ∀ key, devKey s c.rcd.chrys.toNat = some key →
    let msgs := c.mailbox ++ areaMessages s.mem key c.ctl.mbaHead.toNat c.ctl.mbaCnt.toNat
    let c1 := leaving c msgs.length
    let w := touchPage true c.rcd.chrys.toNat { s with mem := storeImage (putArea s.mem key c.ctl.mbaHead.toNat msgs) key c1 }
    ∀ p, devKey w c.ctl.record.toNat = some p → ∃ x,
      recPc x = c.codePc ∧ recOwner x = c.ctl.owner ∧ (recOf x).state = c1.rcd.state ∧ (recOf x).prio = c.rcd.prio ∧ (recOf x).pre = c.rcd.pre ∧ (recOf x).fstop = c.rcd.fstop ∧
      (∀ n : Fin 16, x.testBit (320 + n) = decide (c.regs.k[n].count ≠ c.regs.k[n].issued)) ∧ (∀ n : Fin 4, x.testBit (336 + n) = decide (c.regs.hk[n].count ≠ c.regs.hk[n].issued)) ∧
      ∀ a, a < evt ∨ evt + 16 ≤ a → (∀ l, walk w c.ctl.record.toNat = some l → a ≠ l.addr + 8) →
        getByte u.mem a = if p ≤ a ∧ a < p + 64 then BitVec.ofNat 8 (x / 2 ^ (8 * (a - p))) else getByte w.mem a

end Sys2Proof.Claim

/-- SLOT_LOAD and EVICT_WRITEBACK (R42, R44, R98, R101, R343): at a switch point a BOUND slot is loaded from its record and image, a first run with the registers of R44, and a LOADED event is written; where RESOLVE cannot map its PC it takes that trap before it issues anything (R109; log 58, DEDUCED: as it is loaded);
a continuation found in a final state leaves the slot as it is loaded, with a LOADED and an ENDED event; an EVICTING slot writes its image and its record back and goes EMPTY, or BOUND to what
waits for it, and an EVICTED event is written. Where it rests on the model's own choices: log 14, 9, 58, 72. -/
def Obligations.SlotsLoadAndLeave : Prop :=
  ∀ (s : State) (i : Fin 8) (p : BitVec 3), atSwitch s.gtc s.core = true → s.core.issuing = none → s.core.slots[i].part = some p →
    let sl := s.core.slots[i]
    let x := devGet s sl.cont.toNat 64
    let r := recOf x
    let steward := match devKey s r.chrys.toNat with | some key => field (getLe s.mem (key + 0x5E4) 4) 7 1 == 1 | none => false
    let mapped := resolve { s with core := { s.core with ctx := { ctl := { steward := steward } } } } ((recPc x).setWidth 64)
    let fresh : Prop := r.state = .new ∨ (r.state = .stopped ∧ r.pre = .new)
    (∀ e, sl.sst = .bound → isFinal r.state = false → mapped = .error e → r.fstop = false → ∃ u, exec (.slotLoad s.cur i) s = .next u ∧ u.core.slots[i].sst = .loaded ∧ OtherSlots s u i ∧ u.core.issuing = none ∧
      let c := u.core.slots[i].ctx
      (steward = true → c.rcd.state = .stopped ∧ c.rcd.fstop = true ∧ c.codePc = recPc x) ∧
      (steward = false → Announces s u p (kindOf s 3) 0 sl.cont (ownNumber s % 4096) i sl.tag ∧ c.ctl.steward = true ∧ c.ctl.trapPc = recPc x ∧ c.ctl.trapVal = e.2 ∧
        c.ctl.cause = { async := false, reason := 0#8, code := e.1 } ∧ c.codePc = s.core.segs[15].base ++ 0#12 ∧ c.pc = 0xF000#16)) ∧
    (∀ at_, sl.sst = .bound → isFinal r.state = false → mapped = .ok at_ → ∃ u, exec (.slotLoad s.cur i) s = .next u ∧ u.core.slots[i].sst = .loaded ∧ OtherSlots s u i ∧ u.core.issuing = none ∧
      Announces s u p (kindOf s 3) 0 sl.cont (ownNumber s % 4096) i sl.tag ∧
      let c := u.core.slots[i].ctx
      c.codePc = recPc x ∧ c.ctl.owner = recOwner x ∧ c.pend = [] ∧
      (∀ key, devKey s r.chrys.toNat = some key → ¬fresh → c.regs = loadRegs s.mem key) ∧
      (fresh → c.regs.g[3] = sl.cont.setWidth 64 ∧ c.regs.g[8] = r.arg.setWidth 64 ∧ c.regs.g[9] = r.narg.setWidth 64 ∧ (r.job ≠ 0#56 ∨ r.stride ≠ 0#12 → c.regs.g[10] = r.stride.setWidth 64) ∧
        (∀ n : Fin 32, n.val ∉ [3, 8, 9, 10] → c.regs.g[n] = 0#64) ∧ (∀ n : Fin 16, c.regs.k[n] = { count := 0#16, issued := 0#16 }) ∧
        (∀ n : Fin 4, c.regs.hk[n] = { count := 0#16, issued := 0#16 }) ∧ (∀ n : Fin 32, c.regs.v[n] = 0#256) ∧ (∀ n : Fin 8, c.regs.m[n] = if n.val = 0 then BitVec.allOnes 32 else 0#32) ∧
        (∀ n : Fin 8, c.regs.mtag[n] = 0#2) ∧ ∀ n : Fin 3, c.regs.lc[n] = 0#32 ∧ c.regs.loops[n].active = false) ∧
      (r.state = .stopped → r.fstop = false → haltedCore s.core = false → c.rcd = { r with state := r.pre }) ∧
      (r.state ≠ .stopped ∨ r.fstop = true ∨ haltedCore s.core = true → c.rcd = r)) ∧
    (sl.sst = .bound → isFinal r.state = true → sl.after = none → ∃ u u1, exec (.slotLoad s.cur i) s = .next u ∧ u.core.slots[i] = {} ∧ OtherSlots s u i ∧ u.core.issuing = none ∧
      Announces s u1 p (kindOf s 3) 0 sl.cont (ownNumber s % 4096) i sl.tag ∧ Announces u1 u p (kindOf s 5) 0 sl.cont (ownNumber s % 4096) i sl.tag) ∧
    (sl.sst = .evicting → Memory.wf s.mem = true → sl.ctx.pend = [] → ringFull (getPart s p) = false → ∃ u, exec (.evictWriteback s.cur i) s = .next u ∧
      WrittenBack s u sl.ctx ((getPart s p).evtBase.toNat * 4096 + 16 * ((getPart s p).evtTail.toNat % 2 ^ (getPart s p).evtLog.toNat))) ∧
    (sl.sst = .evicting → ∃ u, exec (.evictWriteback s.cur i) s = .next u ∧ OtherSlots s u i ∧ u.core.issuing = none ∧
      Announces s u p (kindOf s 4) 0 sl.cont (ownNumber s % 4096) i sl.evTag ∧
      (sl.after = none → u.core.slots[i] = {}) ∧
      (∀ y : Incoming, sl.after = some y → u.core.slots[i] = { sst := .bound, cont := y.cont, pin := y.pin, prio := y.prio, seqNo := s.core.starts, tag := y.tag, part := some y.part, turn := s.core.turns })) ∧
    (sl.sst ≠ .bound → exec (.slotLoad s.cur i) s = .next s) ∧ (sl.sst ≠ .evicting → exec (.evictWriteback s.cur i) s = .next s)

/-- A context written to its image and read again is the same context: its registers, masks, tokens and loop state, and its control state (R98, R137, R366). -/
def Obligations.ImageRoundTrip : Prop :=
  ∀ (m : List Host.Cell) (key : Nat) (c : Ctx), Memory.wf m = true → c.regs.g[0] = 0#64 → c.regs.mtag[0] = 0#2 → c.ctl.energy < 2 ^ 60 →
    loadRegs (storeImage m key c) key = c.regs ∧ loadCtl (storeImage m key c) key c.ctl.owner = c.ctl

/-- SLOT_SELECT and SLICE_EXPIRY (R44, R99, R100, R109): the core switches to the selectable slot of the highest priority whose turn comes first, at a cost of 4 cycles, with its PC mapped by RESOLVE; the slot that a stop found issuing goes on at no cost
where no other has a higher priority, its slice counted on;
with none nothing changes. At the end of a slice the next slot of equal priority takes over, and the one that leaves is READY at the end of its level. Where it rests on the model's own choices: log 13. -/
def Obligations.SlotSelection : Prop :=
  ∀ (s : State) (i j : Fin 8) (pc : BitVec 16), atSwitch s.gtc s.core = true → haltedCore s.core = false →
    let c := s.core
    let ctx := c.slots[i].ctx
    let first : Prop := selectable c i = true ∧ resolve { s with core := { c with ctx := ctx } } (ctx.codePc.setWidth 64) = .ok pc
    let runs (u : State) : Prop := u.core.issuing = some (BitVec.ofNat 3 i) ∧ u.core.ctx.rcd = { ctx.rcd with state := .running } ∧ u.core.ctx.regs = ctx.regs ∧ u.core.ctx.pc = pc ∧
      u.core.nextIssue = (if c.resume = some (BitVec.ofNat 3 i) then max s.gtc c.nextIssue else s.gtc + 4) ∧
      u.core.selectedAt = (if c.resume = some (BitVec.ofNat 3 i) then s.gtc - c.ranFor else s.gtc) ∧ u.mem = s.mem
    (c.issuing = none →
      ((∀ k : Fin 8, selectable c k = false) → exec (.slotSelect s.cur) s = .next s) ∧
      (first → (∀ k : Fin 8, k ≠ i → selectable c k = true → c.slots[k].prio.toNat < c.slots[i].prio.toNat ∨
          (c.slots[k].prio = c.slots[i].prio ∧ (c.resume = some (BitVec.ofNat 3 i) ∨ (c.resume ≠ some (BitVec.ofNat 3 k) ∧ c.slots[i].turn < c.slots[k].turn)))) →
        ∃ u, exec (.slotSelect s.cur) s = .next u ∧ runs u)) ∧
    (RunsIn s j → s.core.ctx.idle = none → j ≠ i →
      (first → (∀ k : Fin 8, k ≠ i → selectable c k = true → c.slots[k].prio.toNat < c.slots[i].prio.toNat) →
        ∃ u, exec (.slotSelect s.cur) s = .next u ∧ runs u ∧ u.core.slots[j].ctx.rcd.state = .ready ∧ u.core.slots[j].ctx.codePc = codeVa s s.core.ctx.pc ∧ u.core.slots[j].ctx.regs = s.core.ctx.regs) ∧
      (first → sliceOf s s.cur ≠ 0 → c.selectedAt + sliceOf s s.cur ≤ s.gtc → c.slots[i].prio = c.slots[j].prio →
        (∀ k : Fin 8, k ≠ i → k ≠ j → selectable c k = true → c.slots[k].prio ≠ c.slots[j].prio) →
        ∃ u, exec (.sliceExpiry s.cur) s = .next u ∧ runs u ∧ u.core.slots[j].ctx.rcd.state = .ready ∧ u.core.slots[j].turn = c.turns ∧ u.core.slots[j].ctx.regs = s.core.ctx.regs) ∧
      (sliceOf s s.cur = 0 ∨ s.gtc < c.selectedAt + sliceOf s s.cur → exec (.sliceExpiry s.cur) s = .next s))

/-- BIND_START, BIND_EVICT, BIND_EVICT_START and BIND_MODIFY (R95 to R98): the checks of R97 in their order, each refusal a REFUSED event and no other change, and the effect of a record that passes, which also ends an IDLE (R192).
A START that H0 does not bind yet waits (R83, R91; log 45, DESIGN CHOICE). Where it rests on the model's own choices: log 9, 10, 68, 45. -/
def Sys2Proof.Claim.BindRecords : Prop :=
  ∀ (s : State) (p : BitVec 3) (ch : Bool) (x : Nat) (i : Fin 8), Record s p ch x i →
    let sl := s.core.slots[i]
    let cont := contOfRecord x
    let tag := BitVec.ofNat 32 (field x 0 32)
    let start := field x 43 1 = 1
    let evict := field x 44 1 = 1
    let bad : Prop := s.core.released = false ∨ (isFabric s.cur = false ∧ partOf s s.cur ≠ some p)
    let cramped : Prop := field x 45 1 = 1 ∧ noRoom s.cur s.core i = true
    let refused (e : Instr) (n : Nat) : Prop := ∃ u, exec e s = .next u ∧ u.core = s.core ∧ Taken s u p ch ∧
      Announces s u p (if ch then 10 else 2) n cont (field x 52 12) i tag
    let puts (e : Instr) (y : Slot) : Prop := ∃ u, exec e s = .next u ∧ Taken s u p ch ∧ u.core.slots = s.core.slots.set i y ∧
      u.core.ctx = { s.core.ctx with idle := s.core.ctx.idle.map fun _ => true } ∧ u.core.issuing = s.core.issuing
    let pv := field x 46 1 = 1
    let np : BitVec 2 := BitVec.ofNat 2 (field x 47 2)
    let prio : BitVec 2 := if pv then np else (recOf (devGet s cont.toNat 64)).prio
    let ranked (e : Instr) : Prop := ∀ u w off, exec e s = .next u → pv → Memory.wf s.mem = true → place true cont.toNat = .pool w off →
      let old := (getByte s.mem (poolKey w off + 7)).toNat
      (getByte u.mem (poolKey w off + 7)).toNat = old % 16 + np.toNat * 16 + old / 64 * 64
    let next : Slot := { sst := .bound, cont := cont, pin := field x 45 1 == 1, prio := prio, seqNo := s.core.starts, tag := tag, part := some p, turn := s.core.turns }
    (startWaits s ch x = true → ∀ i ∈ [Instr.bindStart p.toNat ch, .bindEvict p.toNat ch, .bindEvictStart p.toNat ch, .bindModify p.toNat ch], exec i s = .next s) ∧
    (start → ¬evict → startWaits s ch x = false →
      (bad → refused (.bindStart p.toNat ch) 1) ∧ (¬bad → sl.sst ≠ .empty → refused (.bindStart p.toNat ch) 2) ∧
      (¬bad → sl.sst = .empty → (boundAt s cont).isSome = true → refused (.bindStart p.toNat ch) 6) ∧
      (¬bad → sl.sst = .empty → boundAt s cont = none → badRecord s ch s.cur cont = true → refused (.bindStart p.toNat ch) 4) ∧
      (¬bad → sl.sst = .empty → boundAt s cont = none → badRecord s ch s.cur cont = false →
        (cramped → refused (.bindStart p.toNat ch) 5) ∧ (¬cramped → puts (.bindStart p.toNat ch) next ∧ ranked (.bindStart p.toNat ch)))) ∧
    (¬start → evict →
      (bad → refused (.bindEvict p.toNat ch) 1) ∧ (¬bad → (sl.sst = .empty ∨ sl.cont ≠ cont) → refused (.bindEvict p.toNat ch) 3) ∧
      (¬bad → sl.sst = .loaded → sl.cont = cont → puts (.bindEvict p.toNat ch) { sl with sst := .evicting, evTag := tag, after := none }) ∧
      (¬bad → sl.sst = .bound → sl.cont = cont → sl.part = some p →
        ∃ u, exec (.bindEvict p.toNat ch) s = .next u ∧ Taken s u p ch ∧ u.core.slots = s.core.slots.set i {} ∧ Announces s u p (kindOf s 4) 0 cont (ownNumber s % 4096) i tag)) ∧
    (start → evict → startWaits s ch x = false →
      (bad → refused (.bindEvictStart p.toNat ch) 1) ∧ (¬bad → sl.sst = .empty → refused (.bindEvictStart p.toNat ch) 3) ∧
      (¬bad → sl.sst ≠ .empty → (boundAt s cont).isSome = true → refused (.bindEvictStart p.toNat ch) 6) ∧
      (¬bad → sl.sst ≠ .empty → boundAt s cont = none → badRecord s ch s.cur cont = true → refused (.bindEvictStart p.toNat ch) 4) ∧
      (¬bad → sl.sst = .loaded → boundAt s cont = none → badRecord s ch s.cur cont = false → ¬cramped →
        ranked (.bindEvictStart p.toNat ch) ∧ puts (.bindEvictStart p.toNat ch) { sl with
          sst := .evicting, evTag := tag
          after := some { cont := cont, pin := field x 45 1 == 1, prio := prio, tag := tag, part := p } })) ∧
    (¬start → ¬evict →
      (bad → refused (.bindModify p.toNat ch) 1) ∧ (¬bad → (sl.sst = .empty ∨ sl.cont ≠ cont) → refused (.bindModify p.toNat ch) 3) ∧
      (¬bad → sl.sst = .loaded → s.core.issuing = none → sl.cont = cont →
        (field x 42 1 = 1 → sl.ctx.rcd.fstop = false → refused (.bindModify p.toNat ch) 7) ∧
        ((field x 42 1 = 0 ∨ sl.ctx.rcd.fstop = true) →
          (cramped → refused (.bindModify p.toNat ch) 5) ∧
          (¬cramped → (∀ j : Fin 8, j ≠ i → s.core.slots[j].ctx.rcd.chrys ≠ sl.ctx.rcd.chrys) →
            let r := if pv then { sl.ctx.rcd with prio := np } else sl.ctx.rcd
            ranked (.bindModify p.toNat ch) ∧ puts (.bindModify p.toNat ch) { sl with
              pin := field x 45 1 == 1, prio := if pv then np else sl.prio
              ctx := { sl.ctx with rcd := if field x 42 1 = 1 then { r with fstop := false, state := r.pre } else r } }))) ∧
      (¬bad → sl.sst = .bound → sl.cont = cont → field x 42 1 = 0 → ¬cramped →
        ranked (.bindModify p.toNat ch) ∧ puts (.bindModify p.toNat ch) { sl with pin := field x 45 1 == 1, prio := if pv then np else sl.prio }) ∧
      (¬bad → sl.sst = .loaded → s.core.issuing = some (BitVec.ofNat 3 i) → sl.cont = cont → field x 42 1 = 0 → ¬cramped → ranked (.bindModify p.toNat ch) ∧
        ∃ u, exec (.bindModify p.toNat ch) s = .next u ∧ Taken s u p ch ∧ u.core.slots = s.core.slots.set i { sl with pin := field x 45 1 == 1, prio := if pv then np else sl.prio } ∧
          u.core.issuing = s.core.issuing ∧ u.core.ctx = { s.core.ctx with
            idle := s.core.ctx.idle.map fun _ => true, rcd := if pv then { s.core.ctx.rcd with prio := np } else s.core.ctx.rcd })) ∧
    (¬start → exec (.bindStart p.toNat ch) s = .next s) ∧ (start → exec (.bindEvict p.toNat ch) s = .next s)

/-- PART_MAP_WRITE, PW_SET_WRITE and PW_SET_APPLY (R90, R243 to R245): a map that shares a quad, or that touches an occupied partition or quad, sets OVLP and is not taken; a partition word waits for a
switch point with every slot EMPTY and for the engine work into the pool, then it is applied or marked BAD. Where it rests on the model's own choices: log 39. -/
def Sys2Proof.Claim.PartitionWrites : Prop :=
  ∀ (s : State) (p : BitVec 3) (m : BitVec 32) (w : BitVec 13),
    let shares : Prop := ∃ q : BitVec 3, q ≠ p ∧ (getPart s q).map &&& m ≠ 0#32
    let blocked : Prop := shares ∨ residentPart s p = true ∨ quadsOccupied s (m &&& ~~~(getPart s p).map) = true
    let pw := s.core.pw
    let now : Prop := pw.pend = true ∧ atSwitch s.gtc s.core = true ∧ ∀ i : Fin 8, s.core.slots[i].sst = .empty
    let rf := (pw.value.extractLsb' 8 5).toNat
    let acc := (pw.value.extractLsb' 0 5).toNat
    let legal : Prop := 1 ≤ rf ∧ rf ≤ 16 ∧ acc ≤ 24 ∧ rf + acc + 1 ≤ poolUnits s.cur ∧ (onCompute s = false → acc = 0)
    (blocked → exec (.partMapWrite p.toNat m) s = .next { s with hub := { s.hub with ovlp := true } }) ∧
    (¬blocked → exec (.partMapWrite p.toNat m) s = .next (setPart s p { getPart s p with map := m })) ∧
    exec (.pwSetWrite s.cur w) s = .next { s with core := { s.core with pw := { pend := true, bad := false, value := w } } } ∧
    (¬now → exec (.pwSetApply s.cur) s = .next s) ∧
    (now → ¬legal → exec (.pwSetApply s.cur) s = .next { s with core := { s.core with pw := { pw with pend := false, bad := true } } }) ∧
    (now → legal → partWaits s s.cur = true → exec (.pwSetApply s.cur) s = .next s) ∧
    (now → legal → partWaits s s.cur = false → ∃ u, exec (.pwSetApply s.cur) s = .next u ∧ u.core.rf.toNat = rf ∧ u.core.acc.toNat = acc ∧ u.core.tags = [] ∧ u.core.scales = [] ∧
      u.core.freed = [] ∧ (∀ n : Fin 16, u.core.quires[n] = {}) ∧ u.core.pw = { pw with pend := false } ∧
      (Memory.wf s.mem = true → ∀ b, getByte u.mem b = if coreBase s.cur ≤ b ∧ b < coreBase s.cur + 16384 * (poolUnits s.cur - rf) then 0#8 else getByte s.mem b))

/-- Bind records with their errors in order, partition maps and part words: each part as its own text says (R83, R90, R91, R95, R96, R97, R98, R192, R243, R244, R245). -/
def Obligations.BindsAndPartitions : Prop := Claim.BindRecords ∧ Claim.PartitionWrites

/-! ### Dealing, dependences and stops -/

namespace Sys2Proof.Claim

/-- A dependence's state by its target word `x` (R37): satisfied where STATUS is DONE, or where a nonzero THRESH is reached in PENDING, RUNNING or DONE; failed in CANCELLED, TORN and REFUSED. -/
def Judged (x thresh : Nat) (r : Option Bool) : Prop :=
  let st := field x 60 4
  let done := field x 0 28
  (r = some true ↔ st = 3 ∨ (thresh ≠ 0 ∧ thresh ≤ done ∧ (st = 1 ∨ st = 2))) ∧ (r = some false ↔ (st = 4 ∨ st = 5 ∨ st = 6) ∧ ¬(thresh ≠ 0 ∧ thresh ≤ done ∧ (st = 1 ∨ st = 2)))

/-- Every continuation bound to a core of the units has the given stop flags. -/
def StopWord (s : State) (u : Nat) (w : Word) : Prop := (getCore s u).stopAt = w

end Sys2Proof.Claim

/-- DEAL_CHUNK (R40, R41, R42, R101, R342): the chunk of R40, its record and registration from the spawn ring's entry, and what keeps the dealer from dealing. Where it rests on the model's own choices: log 41, 10. -/
def Sys2Proof.Claim.DealtChunks : Prop :=
  ∀ (s : State) (i : Nat) (c : Card) (record chrys : BitVec 56), s.hub.cards[i]? = some c →
    let vd := tabGet {} s.hub.vdevs c.vdev
    let q : Queue := tabGet {} s.hub.queues (256 * c.vdev + c.queue.toNat)
    let count := field c.bits.toNat 128 28
    let least := max 1 (field c.bits.toNat 180 12)
    let cores := partCores s vd.part (c.bits.getLsbD 0)
    let rest := count - c.dealt
    let n := min rest (max least ((rest + 2 * cores - 1) / (2 * cores)))
    let ready : Prop := c.st = .running ∧ c.dealt < count ∧ q.st = .open_ ∧ vd.resident = true ∧ freshOf s i < cores ∧ ringFull (getPart s vd.part) = false
    (ready → spawnEntry s vd.part = some (record, chrys) →
      ∃ u, exec (.dealChunk i) s = .next u ∧ u.hub.cards = s.hub.cards.modify i (fun c => { c with dealt := c.dealt + n }) ∧
        u.hub.conts = s.hub.conts ++ [{ record := record, chrys := chrys, vdev := c.vdev, queue := c.queue, launch := c.launch, card := some i, owner := c.bits.extractLsb' 156 12, narg := BitVec.ofNat 28 n }] ∧
        (getPart u vd.part).spnHead = (getPart s vd.part).spnHead + 1#32 ∧ (getPart u vd.part).evtTail = (getPart s vd.part).evtTail + 1#32 ∧
        (∀ w off w' off', Memory.wf s.mem = true → place true record.toNat = .pool w off → place true chrys.toNat = .pool w' off' →
          (poolKey w off + 64 ≤ poolKey w' off' ∨ poolKey w' off' + 4096 ≤ poolKey w off) → field c.bits.toNat 120 8 = 0xFF →
          let x := getLe u.mem (poolKey w off) 64
          field x 0 56 = field c.bits.toNat 1 55 * 2 ∧ field x 56 4 = 0 ∧ field x 60 2 = field c.bits.toNat 56 2 ∧ field x 62 2 = vd.rclass.toNat ∧ field x 64 56 = chrys.toNat ∧
            field x 128 56 = (field c.bits.toNat 64 56 + c.dealt * field c.bits.toNat 168 12) % 2 ^ 56 ∧ field x 352 28 = n ∧ field x 384 56 = c.addr.toNat ∧
            field x 448 12 = field c.bits.toNat 168 12 ∧ field x 480 32 = field c.bits.toNat 192 32 ∧ field x 288 12 = field c.bits.toNat 156 12 ∧ field x 192 56 = 0)) ∧
    (ready → spawnEntry s vd.part = none → exec (.dealChunk i) s = .next s) ∧ (¬ready → exec (.dealChunk i) s = .next s)

/-- DEPENDENCE_SATISFIED and DEPENDENCE_FAILED (R37, R38): what a target word decides, and what becomes of the card: RUNNING, or DONE with no records, or CANCELLED with all its records lost. Where it rests on the model's own choices: log 41. -/
def Sys2Proof.Claim.Dependences : Prop :=
  (∀ (s : State) (v : Nat) (d : BitVec 64) (x : Nat), cwRead s v (d.extractLsb' 0 32) = some x → Judged x (field d.toNat 32 28) (depJudge s v d)) ∧
  ∀ (s : State) (i : Nat) (c : Card), s.hub.cards[i]? = some c → c.st = .pending →
    let read := s.hub.cards.foldl touchDeps s
    let count := field c.bits.toNat 128 28
    let ndep := min 4 (field c.bits.toNat 61 3)
    let judged (b : Bool) (k : Nat) : Prop := c.depOk.getLsbD k = false ∧ c.depBad.getLsbD k = false ∧ depJudge read c.vdev (c.bits.extractLsb' (256 + 64 * k) 64) = some b
    let met : Prop := ∀ k, k < ndep → c.depOk.getLsbD k = true ∨ judged true k
    let failed : Prop := c.depBad ≠ 0#4 ∨ ∃ k, k < ndep ∧ judged false k
    let becomes (e : Instr) (p : Card → Prop) : Prop := ∃ u c', exec e s = .next u ∧ u.hub.cards[i]? = some c' ∧ c'.bits = c.bits ∧ c'.dealt = c.dealt ∧ p c'
    (met → count ≠ 0 → becomes (.dependenceSatisfied i) fun c' => c'.st = .running) ∧
    (met → count = 0 → becomes (.dependenceSatisfied i) fun c' => c'.st = .done) ∧
    (¬met → becomes (.dependenceSatisfied i) fun c' => c'.st = .pending) ∧
    (failed → becomes (.dependenceFailed i) fun c' => c'.st = .cancelled ∧ c'.lost = count) ∧
    (¬failed → becomes (.dependenceFailed i) fun c' => c'.st = .pending)

/-- ARM, CANCEL, SYNC_STOP_HALT, SWEEP_COMPLETE and RESUME (R375 to R380): the lead of 4,096 cycles, STOP_AT on every core of the partition, the halt of a core at its STOP_AT with its continuation STOPPED
and its PC kept, or with TEAR its continuation of the torn queue TORN and its slot EMPTY with an ENDED event while one of another queue stays STOPPED, HALTED once every core has halted, the sweep, and the return of the stopped continuations, with the partition's virtual time as H0 sets it (R382, R383; log 61, DESIGN CHOICE: in the same step). Where it rests on the model's own choices: log 38, 61. -/
def Sys2Proof.Claim.SynchronisedStops : Prop :=
  ∀ (s : State) (p : BitVec 3) (tear : Bool) (q : BitVec 8) (drop : Bool) (col : BitVec 6) (j : Fin 8), tabWf {} s.others = true →
    let x := getPart s p
    let members := partUnits s p
    (x.armed = true ∨ x.halted = true → exec (.stopArm p.toNat tear q) s = .next s) ∧
    (x.armed = false → x.halted = false →
      ((x.stopGtc - BitVec.ofNat 64 s.gtc).toInt < 4096 → exec (.stopArm p.toNat tear q) s = .next (setPart s p { x with late := true })) ∧
      (4096 ≤ (x.stopGtc - BitVec.ofNat 64 s.gtc).toInt → ∃ u, exec (.stopArm p.toNat tear q) s = .next u ∧
        getPart u p = { x with late := false, armed := true, tear := if tear then some q else none } ∧ (∀ w ∈ members, StopWord u w x.stopGtc) ∧ u.mem = s.mem ∧ u.core.ctx = s.core.ctx)) ∧
    (x.halted = true → exec (.stopCancel p.toNat) s = .next s) ∧
    (x.halted = false → ∃ u, exec (.stopCancel p.toNat) s = .next u ∧ getPart u p = { x with armed := false, tear := none } ∧ (∀ w ∈ members, (getCore s w).haltStop = false → StopWord u w 0#64) ∧
      u.mem = s.mem ∧ u.core.ctx = s.core.ctx) ∧
    (stopDue s s.cur = false → exec (.syncStopHalt s.cur) s = .next s) ∧
    (stopDue s s.cur = true → RunsIn s j → (∀ k : Fin 8, k ≠ j → s.core.slots[k].sst = .empty) → partOf s s.cur = some p →
      (x.tear = none ∨ ∃ t, x.tear = some t ∧ ∀ k ∈ s.hub.conts, k.queue ≠ t) → s.core.ctx.pend = [] → s.core.ctx.idle = none →
      ∃ u, exec (.syncStopHalt s.cur) s = .next u ∧ u.core.haltStop = true ∧ u.core.issuing = none ∧
        u.core.slots[j].ctx.rcd = { s.core.ctx.rcd with state := .stopped, pre := .running, fstop := false } ∧ u.core.slots[j].ctx.codePc = codeVa s s.core.ctx.pc ∧
        u.core.slots[j].ctx.regs = s.core.ctx.regs ∧ u.core.slots[j].ctx.ctl = s.core.ctx.ctl ∧ u.mem = s.mem ∧
        ((∀ w ∈ members, w ≠ s.cur → (getCore s w).haltStop = true) → x.halted = false → (getPart u p).halted = true ∧ (getPart u p).armed = false) ∧
        ((∃ w ∈ members, w ≠ s.cur ∧ (getCore s w).haltStop = false) → (getPart u p).halted = x.halted ∧ (getPart u p).armed = x.armed)) ∧
    (∀ k : Cont, stopDue s s.cur = true → RunsIn s j → (∀ n : Fin 8, n ≠ j → s.core.slots[n].sst = .empty) → partOf s s.cur = some p → s.core.slots[j].part = some p → s.core.slots[j].after = none →
      x.tear = some k.queue → s.hub.conts = [k] → k.chrys = s.core.ctx.rcd.chrys → (tabGet {} s.hub.vdevs k.vdev).part = p → (tabGet {} s.hub.vdevs k.vdev).resident = true → s.core.ctx.pend = [] →
      ∃ u w, exec (.syncStopHalt s.cur) s = .next u ∧ u.core.haltStop = true ∧ u.core.issuing = none ∧ u.core.slots[j] = {} ∧ u.hub.conts = [] ∧
        Announces w u p (kindOf s 5) 0 s.core.slots[j].cont (ownNumber s % 4096) j s.core.slots[j].tag ∧
        (∀ a off, Memory.wf s.mem = true → place true s.core.ctx.ctl.record.toNat = .pool a off → (getByte w.mem (poolKey a off + 7)).toNat % 16 = 6) ∧
        ∀ n c, k.card = some n → s.hub.cards[n]? = some c → ∃ c', u.hub.cards[n]? = some c' ∧ c'.lost = c.lost + s.core.ctx.rcd.narg.toNat ∧ c'.done = c.done ∧ c'.anyTorn = true) ∧
    ((x.halted = false ∨ x.swept = true ∨ engineBusy s p = true) → exec (.sweepComplete p.toNat) s = .next s) ∧
    (x.halted = true → x.swept = false → engineBusy s p = false → ∃ u, exec (.sweepComplete p.toNat) s = .next u ∧ getPart u p = { x with swept := true } ∧ u.mem = s.mem ∧ u.core.ctx = s.core.ctx ∧
      (s.cur ∈ members → ∀ (n : Fin 32) (e : JnlEntry), s.core.journal[n] = some e → e.held = none → e.swept = none → u.core.journal[n] = some { e with swept := some (x.spill, x.colour) })) ∧
    (x.swept = false → exec (.stopResume p.toNat drop col) s = .next s) ∧
    (x.swept = true → ∃ u, exec (.stopResume p.toNat drop col) s = .next u ∧ (getPart u p).halted = false ∧ (getPart u p).swept = false ∧ (getPart u p).tear = none ∧
      (∀ v d, s.hub.vdevs = [(v, d)] → d.live = true → d.part = p → d.resident = true →
        (getPart u p).vtGtc = BitVec.ofNat 64 s.gtc ∧ (tabGet {} u.hub.vdevs v).ran = true ∧ (getPart u p).vtBase =
          if d.ran = true then d.vStop + 1#64 + (if x.vtWall = true then BitVec.ofNat 64 ((s.gtc - d.stopGtc) * 5 / 6) else 0#64) else 0#64) ∧
      (∀ w ∈ members, StopWord u w 0#64 ∧ (getCore u w).haltStop = false) ∧
      (s.cur ∈ members → s.core.haltGroup = false → s.core.issuing = none → s.core.slots[j].sst = .loaded → s.core.slots[j].ctx.rcd.state = .stopped → s.core.slots[j].ctx.rcd.fstop = false →
        u.core.slots[j].ctx.rcd.state = s.core.slots[j].ctx.rcd.pre ∧ u.core.slots[j].ctx.regs = s.core.slots[j].ctx.regs ∧ u.core.slots[j].ctx.codePc = s.core.slots[j].ctx.codePc))

/-- HG_HALT and HG_RESUME (R386, R387), and WATCHDOG_EXPIRY (R384, R391): a halted group holds its members with their continuations STOPPED, one that waits for an answer is only marked, and the chain halts
the next group once; a queue that has run for its interval without progress is announced by a WATCHDOG event in the ring of its own partition, its LAST is the time, and its reset begins, with the
further steps of R385 as a job of the compositor (log 62, DESIGN CHOICE). Where it rests on the model's own choices: log 44, 62. -/
def Sys2Proof.Claim.HaltGroupsAndWatchdogs : Prop :=
  ∀ (s : State) (g : Nat) (j : Fin 8) (v : Nat) (q : BitVec 8), g < 64 → tabWf {} s.hub.groups64 = true →
    let x := haltGroupOf s g
    let alone : Prop := groupMembers s g = [s.cur] ∧ RunsIn s j ∧ (∀ k : Fin 8, k ≠ j → s.core.slots[k].sst = .empty) ∧ s.core.ctx.pend = [] ∧ s.core.ctx.idle = none
    let que : Queue := tabGet {} s.hub.queues (256 * v + q.toNat)
    (x.xv = false → alone → s.core.amo = none → s.core.accepted = false → ∃ u, exec (.hgHalt g) s = .next u ∧ haltGroupOf u g = { x with halted := true } ∧ u.core.haltGroup = true ∧
      u.core.issuing = none ∧ u.core.slots[j].ctx.rcd = { s.core.ctx.rcd with state := .stopped, pre := .running, fstop := false } ∧ u.core.slots[j].ctx.codePc = codeVa s s.core.ctx.pc ∧
      u.core.slots[j].ctx.regs = s.core.ctx.regs ∧ u.mem = s.mem) ∧
    (x.xv = false → alone → s.core.amo ≠ none → ∃ u, exec (.hgHalt g) s = .next u ∧ u.core = { s.core with haltReq := true }) ∧
    (x.xv = true → (haltGroupOf s (x.xg.toNat % 64)).halted = false → x.xg.toNat % 64 ≠ g → (∀ e ∈ s.hub.hgOf, e.2 = none) → (haltGroupOf s (x.xg.toNat % 64)).xv = false →
      ∃ u, exec (.hgHalt g) s = .next u ∧ (haltGroupOf u g).halted = true ∧ (haltGroupOf u (x.xg.toNat % 64)).halted = true ∧ u.core = s.core) ∧
    (groupMembers s g = [s.cur] → s.core.haltStop = false → s.core.issuing = none → s.core.slots[j].sst = .loaded → s.core.slots[j].ctx.rcd.state = .stopped → s.core.slots[j].ctx.rcd.fstop = false →
      ∃ u, exec (.hgResume g) s = .next u ∧ (haltGroupOf u g).halted = false ∧ u.core.haltGroup = false ∧ u.core.haltReq = false ∧
        u.core.slots[j].ctx.rcd.state = s.core.slots[j].ctx.rcd.pre ∧ u.core.slots[j].ctx.regs = s.core.slots[j].ctx.regs) ∧
    (watchdogDue s v q = false → exec (.watchdogExpiry v q.toNat) s = .next s) ∧
    (watchdogDue s v q = true → ∃ u w, exec (.watchdogExpiry v q.toNat) s = .next u ∧ Announces s w (que.part.setWidth 3) 8 0 0#56 0 0 (BitVec.ofNat 32 (256 * v + q.toNat)) ∧
      (∀ r : BitVec 3, r ≠ que.part.setWidth 3 → getPart w r = getPart s r) ∧ (tabGet {} w.hub.queues (256 * v + q.toNat)).wdLast = s.gtc ∧ u = beginReset v q w) ∧
    (watchdogDue s v q = true → que.st = .open_ ∨ que.st = .draining → ∃ u, exec (.watchdogExpiry v q.toNat) s = .next u ∧
      (tabGet {} u.hub.queues (256 * v + q.toNat)).st = .resetting ∧ (tabGet {} u.hub.queues (256 * v + q.toNat)).wdLast = s.gtc ∧ u.hub.jobs = s.hub.jobs ++ [.reset v q .arm])

/-- Chunks that the dealer cuts, and what satisfies or fails a card: each part as its own text says (R37, R38, R40, R41, R42, R101, R342). -/
def Obligations.DealingAndDependences : Prop := Claim.DealtChunks ∧ Claim.Dependences

/-- Synchronised stops, halt groups and watchdogs: each part as its own text says (R375, R376, R377, R378, R379, R380, R382, R383, R384, R385, R386, R387, R391). -/
def Obligations.Stops : Prop := Claim.SynchronisedStops ∧ Claim.HaltGroupsAndWatchdogs

/-! ### Hosts -/

namespace Sys2Proof.Claim

/-- The commands of R76: the instruction, OP, whether the interface lock is needed, and, where the command is one on a queue that exists, the states of R80 in which it has a row. -/
def HostCommand (ep : Nat) (c : HostCmd) (x : Instr × BitVec 8 × Bool × List QueueState) : Prop :=
  x ∈ [(.hostOpen ep c, 1#8, false, []), (.hostClose ep c, 2#8, false, []), (.hostLock ep c, 3#8, false, []), (.hostUnlock ep c, 4#8, true, []), (.hostQcreate ep c, 5#8, true, []),
    (.hostQopen ep c, 6#8, true, [.closed]), (.hostLaunch ep c, 7#8, false, [.open_]), (.hostDrain ep c, 8#8, true, [.open_]), (.hostReset ep c, 9#8, true, [.open_, .draining]),
    (.hostQdestroy ep c, 10#8, true, [.closed]), (.hostQstat ep c, 11#8, false, [.open_, .draining, .resetting, .closed]), (.hostKeyload ep c, 12#8, true, []), (.hostEvidence ep c, 13#8, false, []),
    (.hostVcreate ep c, 14#8, true, []), (.hostVdestroy ep c, 15#8, true, [])]

/-- The endpoint. -/
def endp (s : State) (ep : Nat) : Endpoint := tabGet {} s.hub.eps ep
/-- The queue that a command of the endpoint names. -/
def cmdQueue (s : State) (ep : Nat) (c : HostCmd) : Queue := tabGet {} s.hub.queues (256 * (ep - 1) + c.queue.toNat)
/-- The response of R75: the command's SESSION, SEQ, QUEUE and OP are echoed. -/
def response (ep : Nat) (c : HostCmd) (st : BitVec 8) (a0 a1 : Word) (pl : List Byte) : HostOut := .response ep c.session c.seqNo c.queue c.op st a0 a1 pl
/-- `t` has sent the response and nothing else. -/
def Responds (s t : State) (ep : Nat) (c : HostCmd) (st : BitVec 8) (a0 a1 : Word) : Prop := t.hub.out = s.hub.out ++ [response ep c st a0 a1 []]
/-- The session of a command is known at its endpoint. -/
def InSession (s : State) (ep : Nat) (c : HostCmd) : Prop := ∃ y ∈ (endp s ep).sessions, y.id = c.session
/-- The session holds the interface lock (R78). -/
def Locked (s : State) (ep : Nat) (c : HostCmd) : Prop := ∃ e, (endp s ep).lock = some (c.session, e) ∧ s.gtc < e
/-- A packet that a Send can carry, at an endpoint that exists: at most 4,064 bytes of payload beside the header (R72, R75). -/
def Arrives (s : State) (ep : Nat) (c : HostCmd) : Prop := (endp s ep).live = true ∧ c.payload.length ≤ 4064
/-- What an endpoint accepts (R74). -/
def Accepted (ep : Nat) (op : BitVec 8) : Prop := if ep = 0 then op ∈ [1#8, 2#8, 3#8, 4#8, 13#8, 14#8, 15#8] else op.toNat < 14
/-- A command that no cause of R76 stops. -/
def Passes (s : State) (ep : Nat) (c : HostCmd) (op : BitVec 8) (lock : Bool) : Prop :=
  Arrives s ep c ∧ c.op = op ∧ c.ver = 1#8 ∧ InSession s ep c ∧ Accepted ep op ∧ (lock = true → Locked s ep c)
/-- Nothing but endpoints and what the device sends has changed, and of the endpoints `ep` alone. -/
def OnlyEndpoint (s t : State) (ep : Nat) : Prop := t = { s with hub := { s.hub with eps := t.hub.eps, out := t.hub.out } } ∧ ∀ e, e ≠ ep → endp t e = endp s e
/-- The 32-byte header of R75, and the payload behind it. -/
def Header (b : List Byte) (session seqNo : BitVec 32) (arg1 arg0 : Word) (len : Nat) (queue status op ver : BitVec 8) (payload : List Byte) : Prop :=
  let h := leNat (b.take 32)
  b.length = 32 + payload.length ∧ b.drop 32 = payload ∧ field h 224 32 = session.toNat ∧ field h 192 32 = seqNo.toNat ∧ field h 128 64 = arg1.toNat ∧ field h 64 64 = arg0.toNat ∧
    field h 48 16 = len ∧ field h 40 8 = queue.toNat ∧ field h 32 8 = status.toNat ∧ field h 16 16 = 0 ∧ field h 8 8 = op.toNat ∧ field h 0 8 = ver.toNat
/-- The endpoint's sessions, the command's one heard of now (R74). -/
def heard (s : State) (ep : Nat) (c : HostCmd) : List Session := (endp s ep).sessions.map fun (y : Session) => if y.id = c.session then { y with last := s.gtc } else y
/-- The queue alone has changed: no core, no card and no other hub block, but its descriptor in memory. -/
def OnlyQueue (s t : State) (ep : Nat) (c : HostCmd) : Prop :=
  t.core = s.core ∧ t.hub.cards = s.hub.cards ∧ t.hub.conts = s.hub.conts ∧ t.hub.parts = s.hub.parts ∧ ∀ k, k ≠ 256 * (ep - 1) + c.queue.toNat → tabGet ({} : Queue) t.hub.queues k = tabGet {} s.hub.queues k

end Sys2Proof.Claim

/-- The causes common to every command in the order of R76: BADOP, BADSESSION, NOPERM, NOLOCK; then BADQUEUE and BADSTATE of a command on a queue (R80); no answer to a packet
of more payload than a Send carries beside the header (R72, R75; that it gets none is the model's choice: log 46, DESIGN CHOICE). A command and a response as bytes: the header of R75, then the payload; a packet's bytes give the command back. Where it rests on the model's own choices: log 42, 46. -/
def Sys2Proof.Claim.HostRefusals : Prop :=
  ∀ (s : State) (ep : Nat) (c : HostCmd),
    (∀ x, HostCommand ep c x → c.op = x.2.1 →
      let replies (st : BitVec 8) (heardOf : Bool) : Prop := ∃ t, exec x.1 s = .next t ∧ OnlyEndpoint s t ep ∧ Responds s t ep c st 0#64 0#64 ∧
        endp t ep = { endp s ep with sessions := if heardOf then heard s ep c else (endp s ep).sessions }
      (¬Arrives s ep c → exec x.1 s = .next s) ∧
      (Arrives s ep c → c.ver ≠ 1#8 → replies 2#8 false) ∧
      (Arrives s ep c → c.ver = 1#8 → x.2.1 ≠ 1#8 → ¬InSession s ep c → replies 3#8 false) ∧
      (Arrives s ep c → c.ver = 1#8 → x.2.1 ≠ 1#8 → InSession s ep c → ¬Accepted ep x.2.1 → replies 8#8 true) ∧
      (Arrives s ep c → c.ver = 1#8 → x.2.1 ≠ 1#8 → InSession s ep c → Accepted ep x.2.1 → x.2.2.1 = true → ¬Locked s ep c → replies 4#8 true) ∧
      (Passes s ep c x.2.1 x.2.2.1 → x.2.2.2 ≠ [] →
        ((cmdQueue s ep c).st = .none → replies 5#8 true) ∧ ((cmdQueue s ep c).st ≠ .none → (cmdQueue s ep c).st ∉ x.2.2.2 → replies 6#8 true))) ∧
    (Arrives s ep c → c.ver ≠ 1#8 ∨ c.op = 0#8 ∨ 15 < c.op.toNat →
      exec (.badopCommand ep c) s = .next { s with hub := { s.hub with out := s.hub.out ++ [response ep c 2#8 0#64 0#64 []] } }) ∧
    (¬Arrives s ep c ∨ (c.ver = 1#8 ∧ 1 ≤ c.op.toNat ∧ c.op.toNat ≤ 15) → exec (.badopCommand ep c) s = .next s) ∧
    (c.payload.length ≤ 4064 → commandOf (commandBytes c) = some c ∧ Header (commandBytes c) c.session c.seqNo c.arg1 c.arg0 c.payload.length c.queue 0#8 c.op c.ver c.payload) ∧
    (∀ st a0 a1 pl, pl.length < 2 ^ 16 → ∃ b, responseBytes (response ep c st a0 a1 pl) = some b ∧ Header b c.session c.seqNo a1 a0 pl.length c.queue st c.op 1#8 pl) ∧
    (∀ x : List Byte, x.length < 32 ∨ 4096 < x.length → commandOf x = none)

/-- OPEN, CLOSE, LOCK, UNLOCK, SESSION_TIMEOUT and LOCK_LEASE_EXPIRY (R74, R76, R78, R435): a new session of an id that is nonzero and free, of at most 64; the lock's grant, its BUSY answer
and its four releases. Where it rests on the model's own choices: log 42, 43, 5. -/
def Sys2Proof.Claim.Sessions : Prop :=
  ∀ (s : State) (ep sid : Nat) (c : HostCmd),
    let x := endp s ep
    let key := if ep = 0 then s.hub.boot.operatorKey else (tabGet ({} : Vdev) s.hub.vdevs (ep - 1)).key
    let authentic := c.payload.length = 2880 ∧ Config.falconVerify key (c.payload.take 1600) (c.payload.drop 1600) = true
    let unlessHeld (id : BitVec 32) : Option (BitVec 32 × Nat) := if x.lock.map (·.1) = some id then none else x.lock
    (Arrives s ep c → c.op = 1#8 → c.ver = 1#8 →
      (authentic → x.sessions.length < 64 → ∃ t id pl y, exec (.hostOpen ep c) s = .next t ∧ id ≠ 0#32 ∧ (∀ z ∈ x.sessions, z.id ≠ id) ∧ y.id = id ∧ y.last = s.gtc ∧ y.key.length = 32 ∧
        endp t ep = { x with sessions := x.sessions ++ [y] } ∧ (∀ e, e ≠ ep → endp t e = endp s e) ∧ t.core.ctx = s.core.ctx ∧
        t.hub.out = s.hub.out ++ [response ep c 0#8 (id.setWidth 64) (BitVec.ofNat 64 s.gtc) pl] ∧ pl.length = 2848) ∧
      (¬authentic → ∃ t, exec (.hostOpen ep c) s = .next t ∧ OnlyEndpoint s t ep ∧ endp t ep = x ∧ Responds s t ep c 3#8 0#64 0#64) ∧
      (authentic → 64 ≤ x.sessions.length → ∃ t, exec (.hostOpen ep c) s = .next t ∧ OnlyEndpoint s t ep ∧ endp t ep = x ∧ Responds s t ep c 9#8 0#64 0#64)) ∧
    (Passes s ep c 2#8 false → ∃ t, exec (.hostClose ep c) s = .next t ∧ OnlyEndpoint s t ep ∧ Responds s t ep c 0#8 0#64 0#64 ∧
      endp t ep = { x with sessions := x.sessions.filter fun y => y.id != c.session, lock := unlessHeld c.session }) ∧
    (Passes s ep c 3#8 false → ∃ t, exec (.hostLock ep c) s = .next t ∧ OnlyEndpoint s t ep ∧ (endp t ep).sessions = heard s ep c ∧ (endp t ep).live = true ∧
      (c.arg0.toNat = 0 ∨ 60000 < c.arg0.toNat → Responds s t ep c 2#8 0#64 0#64 ∧ (endp t ep).lock = x.lock) ∧
      (1 ≤ c.arg0.toNat → c.arg0.toNat ≤ 60000 →
        (x.lock = none ∨ (∃ h e, x.lock = some (h, e) ∧ (h = c.session ∨ e ≤ s.gtc)) →
          Responds s t ep c 0#8 0#64 0#64 ∧ (endp t ep).lock = some (c.session, s.gtc + c.arg0.toNat * 1200000)) ∧
        (∀ h e, x.lock = some (h, e) → h ≠ c.session → s.gtc < e → Responds s t ep c 1#8 (h.setWidth 64) (BitVec.ofNat 64 e) ∧ (endp t ep).lock = x.lock))) ∧
    (Passes s ep c 4#8 true → ∃ t, exec (.hostUnlock ep c) s = .next t ∧ OnlyEndpoint s t ep ∧ Responds s t ep c 0#8 0#64 0#64 ∧
      endp t ep = { x with sessions := heard s ep c, lock := none }) ∧
    (∀ y : Session, x.live = true → x.sessions.find? (fun z => z.id.toNat == sid) = some y → y.last + 36000000000 ≤ s.gtc → ∃ t, exec (.sessionTimeout ep sid) s = .next t ∧ OnlyEndpoint s t ep ∧
      t.hub.out = s.hub.out ∧ endp t ep = { x with sessions := x.sessions.filter fun z => z.id != y.id, lock := unlessHeld y.id }) ∧
    ((∀ y ∈ x.sessions, y.id.toNat = sid → s.gtc < y.last + 36000000000) → exec (.sessionTimeout ep sid) s = .next s) ∧
    (∀ h e, x.live = true → x.lock = some (h, e) → e ≤ s.gtc → ∃ t, exec (.lockLeaseExpiry ep) s = .next t ∧ OnlyEndpoint s t ep ∧ t.hub.out = s.hub.out ∧ endp t ep = { x with lock := none }) ∧
    ((∀ h e, x.lock = some (h, e) → s.gtc < e) → exec (.lockLeaseExpiry ep) s = .next s)

/-- QCREATE, QOPEN, QDESTROY, QSTAT, DRAIN, RESET and their completions (R76, R79, R80, R88): the refusals of QCREATE in order, the queue's states, the descriptor in the queue table, what a drain or
reset takes from cards, and the responses at CLOSED. Where it rests on the model's own choices: log 44, 11, 41. -/
def Sys2Proof.Claim.LaunchQueues : Prop :=
  ∀ (s : State) (ep : Nat) (c : HostCmd),
    let q := cmdQueue s ep c
    let v := ep - 1
    let x := leNat c.payload
    let owner : BitVec 12 := BitVec.ofNat 12 (field x 380 12)
    let vd : Vdev := tabGet {} s.hub.vdevs v
    let malformed : Prop := c.payload.length ≠ 64 ∨ field x 376 4 = 0 ∨ field x 456 24 < 2 ∨ field x 392 56 % 8 ≠ 0 ∨ field x 320 56 % 64 ≠ 0 ∨ 8 ≤ field x 448 4 ∨ field x 448 4 ≠ vd.part.toNat ∨
      (field x 255 1 = 1 ∧ field x 240 8 = 0xFF)
    let allowed : Prop := mayEnter s vd.owner owner = true ∧ holdsSpan s owner (field x 320 56) (64 * 2 ^ field x 376 4) [.I] = true ∧ holdsSpan s owner (field x 392 56) (8 * field x 456 24) [.I, .W] = true
    let refused (i : Instr) (st : BitVec 8) : Prop := ∃ t, exec i s = .next t ∧ OnlyEndpoint s t ep ∧ Responds s t ep c st 0#64 0#64
    let row (t : State) : Nat := getLe t.mem ((Config.queueTable v).toNat * 2 ^ 14 + 64 * c.queue.toNat) 64
    let closedUp (t : State) : Prop := (cmdQueue t ep c).st = .closed ∧ (cmdQueue t ep c).answers = [] ∧ t.hub.out = s.hub.out ++ q.answers.map fun a => response a.1 a.2 0#8 0#64 0#64 []
    let cancels (t : State) : Prop := ∀ (i : Nat) (d : Card), s.hub.cards[i]? = some d → d.vdev = v → d.queue = c.queue → (∀ k ∈ s.hub.conts, k.card ≠ some i) →
      (d.st = .pending → ∃ e, t.hub.cards[i]? = some e ∧ e.st = .cancelled ∧ e.lost = field d.bits.toNat 128 28) ∧
      (d.st = .running → d.dealt < field d.bits.toNat 128 28 → ∃ e, t.hub.cards[i]? = some e ∧ e.dealt = field d.bits.toNat 128 28 ∧ e.lost = d.lost + (field d.bits.toNat 128 28 - d.dealt))
    (Passes s ep c 5#8 true →
      (malformed → refused (.hostQcreate ep c) 2#8) ∧ (¬malformed → q.st ≠ .none → refused (.hostQcreate ep c) 6#8) ∧ (¬malformed → q.st = .none → ¬allowed → refused (.hostQcreate ep c) 8#8) ∧
      (¬malformed → q.st = .none → allowed → ∃ t, exec (.hostQcreate ep c) s = .next t ∧ Responds s t ep c 0#8 0#64 0#64 ∧ OnlyQueue s t ep c ∧
        cmdQueue t ep c = { st := .open_, wdog := BitVec.ofNat 32 (field x 480 32), cwCap := BitVec.ofNat 24 (field x 456 24), part := BitVec.ofNat 4 (field x 448 4), cwBase := BitVec.ofNat 56 (field x 392 56)
                            owner := owner, capLog := BitVec.ofNat 4 (field x 376 4), cardBase := BitVec.ofNat 56 (field x 320 56), prot := decide (field x 255 1 = 1), kslot := BitVec.ofNat 8 (field x 240 8)
                            ivl := BitVec.ofNat 32 (field x 480 32), wdLast := s.gtc })) ∧
    (Passes s ep c 6#8 true → q.st = .closed → ∃ t, exec (.hostQopen ep c) s = .next t ∧ Responds s t ep c 0#8 0#64 0#64 ∧ OnlyQueue s t ep c ∧ cmdQueue t ep c = { q with st := .open_, head := q.tail }) ∧
    (Passes s ep c 10#8 true → q.st = .closed → tabWf {} s.hub.queues = true → ∃ t, exec (.hostQdestroy ep c) s = .next t ∧ Responds s t ep c 0#8 0#64 0#64 ∧ OnlyQueue s t ep c ∧
      cmdQueue t ep c = { q with st := .none } ∧ (Memory.wf s.mem = true → field (row t) 452 4 = 0 ∧ field (row t) 256 32 = q.tail.toNat ∧ field (row t) 288 32 = q.head.toNat)) ∧
    (Passes s ep c 11#8 false → q.st ≠ .none → ∃ t pl, exec (.hostQstat ep c) s = .next t ∧ OnlyEndpoint s t ep ∧ t.hub.out = s.hub.out ++ [response ep c 0#8 (BitVec.ofNat 64 q.dropped) 0#64 pl] ∧
      pl.length = 64 ∧ field (leNat pl) 256 32 = q.tail.toNat ∧ field (leNat pl) 288 32 = q.head.toNat ∧ field (leNat pl) 320 56 = q.cardBase.toNat ∧ field (leNat pl) 376 4 = q.capLog.toNat ∧
      field (leNat pl) 380 12 = q.owner.toNat ∧ field (leNat pl) 392 56 = q.cwBase.toNat ∧ field (leNat pl) 448 4 = q.part.toNat ∧ field (leNat pl) 456 24 = q.cwCap.toNat ∧
      field (leNat pl) 480 32 = q.wdog.toNat ∧ (q.st = .open_ → field (leNat pl) 452 4 = 1) ∧ (q.st = .draining → field (leNat pl) 452 4 = 2) ∧ (q.st = .resetting → field (leNat pl) 452 4 = 3) ∧
      (q.st = .closed → field (leNat pl) 452 4 = 4)) ∧
    (Passes s ep c 8#8 true → q.st = .open_ → ∃ t, exec (.hostDrain ep c) s = .next t ∧ (cmdQueue t ep c).st = .draining ∧ (cmdQueue t ep c).answers = q.answers ++ [(ep, c)] ∧ t.hub.out = s.hub.out ∧ cancels t) ∧
    (Passes s ep c 9#8 true → q.st = .open_ ∨ q.st = .draining → ∃ t, exec (.hostReset ep c) s = .next t ∧ (cmdQueue t ep c).st = .resetting ∧ (cmdQueue t ep c).answers = q.answers ++ [(ep, c)] ∧
      t.hub.out = s.hub.out ∧ cancels t) ∧
    ((∀ d ∈ s.hub.cards, d.vdev = v → d.queue = c.queue → d.st ≠ .pending ∧ d.st ≠ .running) →
      (q.st = .draining → ∃ t, exec (.drainComplete v c.queue.toNat) s = .next t ∧ closedUp t) ∧
      (q.st = .resetting → vd.resident = true → (∀ k ∈ s.hub.conts, k.vdev = v → k.queue ≠ c.queue) → (getPart s vd.part).armed = false → (getPart s vd.part).halted = false →
        ∃ t, exec (.resetComplete v c.queue.toNat) s = .next t ∧ closedUp t)) ∧
    ((∃ d ∈ s.hub.cards, d.vdev = v ∧ d.queue = c.queue ∧ (d.st = .pending ∨ d.st = .running)) → exec (.drainComplete v c.queue.toNat) s = .next s ∧
      (vd.resident = true → exec (.resetComplete v c.queue.toNat) s = .next s)) ∧
    (q.st ≠ .draining → exec (.drainComplete v c.queue.toNat) s = .next s) ∧ (q.st ≠ .resetting → exec (.resetComplete v c.queue.toNat) s = .next s)

namespace Sys2Proof.Claim

/-- The state on which a LAUNCH's cards are judged: TAIL moved, the launch begun, its group table taken in (R81). -/
def judging (s : State) (ep : Nat) (c : HostCmd) : State :=
  let q := cmdQueue s ep c
  takeGroups s.hub.launches.length q.owner c.arg1.toNat
    (setQueue (ep - 1) c.queue { q with tail := c.arg0.setWidth 32 } { s with hub := { s.hub with launches := s.hub.launches ++ [{ vdev := ep - 1, queue := c.queue }] } })

/-- The `i`th card of a LAUNCH where it can be read and passes R39, as first decided. -/
def passing (s : State) (ep : Nat) (c : HostCmd) (i : Nat) : Option (BitVec 512) :=
  let w := judging s ep c
  match readCard w (cmdQueue s ep c) ((cmdQueue s ep c).head + BitVec.ofNat 32 i).toNat with
  | some (_, x) => if cardOk w (ep - 1) (cmdQueue w ep c) s.hub.launches.length x then some x else none
  | none => none

/-- It is refused (R81): it does not pass, or the group sets of the `n` cards' passing ones nest (R46). -/
def refusedCard (s : State) (ep : Nat) (c : HostCmd) (n i : Nat) : Bool :=
  (passing s ep c i).isNone || setsNest (((List.range n).filterMap (passing s ep c)).map cardGroupList)

end Sys2Proof.Claim

/-- LAUNCH (R81): BADTAIL, or TAIL := ARG0 with every card from HEAD taken or refused, HEAD risen to TAIL, the number of the refused ones in ARG0 and the card number of the first of them in ARG1;
a card is refused that cannot be read or does not pass R39, and each of those that pass where their groups nest. Where it rests on the model's own choices: log 42, 65. -/
def Sys2Proof.Claim.Launches : Prop :=
  ∀ (s : State) (ep : Nat) (c : HostCmd), Passes s ep c 7#8 false → (cmdQueue s ep c).st = .open_ →
    let q := cmdQueue s ep c
    let tail : BitVec 32 := c.arg0.setWidth 32
    let badTail : Prop := 2 ^ 31 ≤ (tail - q.tail).toNat ∨ 2 ^ q.capLog.toNat < (tail - q.head).toNat
    let n := (tail - q.head).toNat
    (badTail → ∃ t, exec (.hostLaunch ep c) s = .next t ∧ OnlyEndpoint s t ep ∧ Responds s t ep c 7#8 0#64 0#64) ∧
    let bad := ((List.range n).filter (refusedCard s ep c n)).length
    (¬badTail → ∃ t, ∃ first : Word, exec (.hostLaunch ep c) s = .next t ∧ Responds s t ep c 0#8 (BitVec.ofNat 64 bad) first ∧
      ((∀ i, i < n → refusedCard s ep c n i = false) → first = BitVec.allOnes 64) ∧
      (∀ i, i < n → refusedCard s ep c n i = true → (∀ j, j < i → refusedCard s ep c n j = false) → first = (q.head + BitVec.ofNat 32 i).setWidth 64) ∧
      (cmdQueue t ep c).head = tail ∧ (cmdQueue t ep c).tail = tail ∧ (cmdQueue t ep c).st = .open_ ∧ t.hub.cards.length = s.hub.cards.length + (n - bad) ∧
      (∀ (i : Nat) (d : Card), s.hub.cards.length ≤ i → t.hub.cards[i]? = some d → d.vdev = ep - 1 ∧ d.queue = c.queue ∧ d.launch = s.hub.launches.length ∧ d.dealt = 0) ∧
      t.hub.launches.length = s.hub.launches.length + 1 ∧ t.core = s.core)

/-- KEYLOAD and EVIDENCE (R86, R436, R437): the slot and payload checks, the key installed, the evidence record's fields and its length with the signature. Where it rests on the model's own choices: log 42, 5. -/
def Sys2Proof.Claim.KeysAndEvidence : Prop :=
  ∀ (s : State) (ep : Nat) (c : HostCmd),
    let refused (i : Instr) (st : BitVec 8) : Prop := ∃ t, exec i s = .next t ∧ OnlyEndpoint s t ep ∧ Responds s t ep c st 0#64 0#64
    let inUse : Prop := ∃ e ∈ s.hub.queues, e.2.kslot.toNat = c.arg0.toNat ∧ (e.2.st = .open_ ∨ e.2.st = .draining)
    (Passes s ep c 12#8 true → ∀ y : Session, (endp s ep).sessions.find? (fun z => z.id == c.session) = some y →
      (254 < c.arg0.toNat ∨ c.payload.length ≠ 40 ∨ Config.aesUnwrap y.key c.payload = none → refused (.hostKeyload ep c) 2#8) ∧
      (∀ k, c.arg0.toNat ≤ 254 → c.payload.length = 40 → Config.aesUnwrap y.key c.payload = some k →
        (inUse → refused (.hostKeyload ep c) 6#8) ∧
        (¬inUse → ∃ t, exec (.hostKeyload ep c) s = .next t ∧ Responds s t ep c 0#8 0#64 0#64 ∧ t.hub.keys = tabSet none s.hub.keys c.arg0.toNat (some (k, ep - 1)) ∧
          (tabWf 0 s.hub.keysSent = true → tabGet 0 t.hub.keysSent c.arg0.toNat = 0) ∧ t.core = s.core ∧ t.mem = s.mem))) ∧
    (Passes s ep c 13#8 false →
      (c.payload.length < 16 ∨ 64 < c.payload.length → refused (.hostEvidence ep c) 2#8) ∧
      (16 ≤ c.payload.length → c.payload.length ≤ 64 → ∃ t pl, exec (.hostEvidence ep c) s = .next t ∧ OnlyEndpoint s t ep ∧
        t.hub.out = s.hub.out ++ [response ep c 0#8 (Config.certBundle.setWidth 64) 0#64 pl] ∧ pl.length = 320 + 1280 ∧ pl.take c.payload.length = c.payload ∧
        field (leNat pl) 2048 8 = 1 ∧ field (leNat pl) 2056 8 = c.payload.length ∧ (s.gtc < 2 ^ 64 → field (leNat pl) 2112 64 = s.gtc) ∧
        (ep = 0 → field (leNat pl) 2064 24 = 0xFFFFFF ∧ field (leNat pl) 2176 128 = 0) ∧
        (ep ≠ 0 → ep ≤ 64 → let x : Vdev := tabGet {} s.hub.vdevs (ep - 1)
          field (leNat pl) 2064 8 = (if x.resident = true then 0 else if x.gated = true then 2 else 1) ∧ field (leNat pl) 2072 8 = x.part.toNat ∧ field (leNat pl) 2080 8 = ep - 1 ∧
            (x.resident = false → field (leNat pl) 2176 64 = x.vStop.toNat) ∧ (x.launches < 2 ^ 64 → field (leNat pl) 2240 64 = x.launches))))

/-- VCREATE and VDESTROY (R91, R92): the refusals in order, the virtual device and its endpoint with an empty queue table, and what VDESTROY does: the endpoint is closed at once, H0 takes up
the further steps or, where it is stopping the virtual device for good already, answers this command too (the model's choice: Log 62), and at their end there is no virtual device, no key slot of its
sessions, and each response is sent. Where it rests on the model's own choices: log 45, 5, 62, 63. -/
def Sys2Proof.Claim.VirtualDevices : Prop :=
  ∀ (s : State) (c : HostCmd),
    let x := leNat (c.payload.take 64)
    let v := field x 0 8
    let key := c.payload.drop 64
    let refused (i : Instr) (st : BitVec 8) : Prop := ∃ t, exec i s = .next t ∧ OnlyEndpoint s t 0 ∧ Responds s t 0 c st 0#64 0#64
    let malformed : Prop := c.payload.length ≠ 1857 ∨ field x 61 451 ≠ 0 ∨ field x 41 7 ≠ 0 ∨ field x 28 4 ≠ 0 ∨ field x 11 5 ≠ 0 ∨ 63 < v ∨ field x 38 2 = 3 ∨ Config.falconKeyOk key = false ∨
      field x 56 5 = 0 ∨ 16 < field x 56 5 ∨ 24 < field x 48 5 ∨ 32 < field x 56 5 + field x 48 5 + 1
    let exists_ : Prop := (tabGet ({} : Vdev) s.hub.vdevs v).live = true
    let invalid : Prop := (ownerDesc s (BitVec.ofNat 12 (field x 16 12))).valid = false
    let taken : Prop := (∃ e ∈ s.hub.vdevs, e.1 ≠ v ∧ e.2.live = true ∧ e.2.colour.toNat = field x 32 6) ∨ (getPart s (BitVec.ofNat 3 (field x 8 3))).map = 0#32
    (Passes s 0 c 14#8 true →
      (malformed → refused (.hostVcreate 0 c) 2#8) ∧ (¬malformed → exists_ → refused (.hostVcreate 0 c) 6#8) ∧ (¬malformed → ¬exists_ → invalid → refused (.hostVcreate 0 c) 8#8) ∧
      (¬malformed → ¬exists_ → ¬invalid → taken → refused (.hostVcreate 0 c) 9#8) ∧
      (¬malformed → ¬exists_ → ¬invalid → ¬taken → ∃ t, exec (.hostVcreate 0 c) s = .next t ∧ Responds s t 0 c 0#8 0#64 0#64 ∧ t.core = s.core ∧ endp t (v + 1) = { live := true } ∧
        tabGet ({} : Vdev) t.hub.vdevs v =
          { live := true, pword := BitVec.ofNat 13 (field x 48 13), wall := decide (field x 40 1 = 1), rclass := BitVec.ofNat 2 (field x 38 2), colour := BitVec.ofNat 6 (field x 32 6)
            owner := BitVec.ofNat 12 (field x 16 12), part := BitVec.ofNat 3 (field x 8 3), key := key, owners := [BitVec.ofNat 12 (field x 16 12)], vmeas := List.replicate 64 0#8 } ∧
        (Memory.wf s.mem = true → ∀ i, i < 2 ^ 14 → getByte t.mem ((Config.queueTable v).toNat * 2 ^ 14 + i) = 0#8))) ∧
    (Passes s 0 c 15#8 true → let w := c.arg0.toNat
      let bad : Prop := 63 < w ∨ (tabGet ({} : Vdev) s.hub.vdevs w).live = false ∨ (∃ q : BitVec 8, (tabGet ({} : Queue) s.hub.queues (256 * w + q.toNat)).st ≠ .none)
      (bad → refused (.hostVdestroy 0 c) 6#8) ∧
      (¬bad → tabWf {} s.hub.eps = true → ∃ t, exec (.hostVdestroy 0 c) s = .next t ∧ endp t (w + 1) = {} ∧ (∀ e, e ≠ 0 → e ≠ w + 1 → endp t e = endp s e) ∧
        t = { s with hub := { s.hub with eps := t.hub.eps, jobs := t.hub.jobs } } ∧
        ((∀ o st, Job.retire w o st ∉ s.hub.jobs) → t.hub.jobs = s.hub.jobs ++ [.retire w [(0, c)] .writes]) ∧
        ((∃ o st, Job.retire w o st ∈ s.hub.jobs) → t.hub.jobs = s.hub.jobs.map fun j => match j with | .retire v cs st => if v = w then .retire v (cs ++ [(0, c)]) st else j | j => j))) ∧
    (∀ w (cs : List (Nat × HostCmd)), w < 64 → tabWf {} s.hub.vdevs = true → ∃ t, stepJob (.retire w cs .finish) s = (none, t) ∧
      t.hub.out = s.hub.out ++ cs.map (fun x => response x.1 x.2 0#8 0#64 0#64 []) ∧ tabGet ({} : Vdev) t.hub.vdevs w = {} ∧
      (∀ e ∈ t.hub.keys, ∀ k, e.2 ≠ some (k, w)) ∧ (∀ u, u ≠ w → tabGet ({} : Vdev) t.hub.vdevs u = tabGet {} s.hub.vdevs u))

/-- RMA and the packets of other kinds (R72, R73): a byte written or read in the shared heap under the endpoint owner's rights, the error with its reason for a refused one (by the rights, the tables, or the host), none on the operator endpoint or past 64 MiB. Where it rests on the model's own choices: log 46, 67. -/
def Sys2Proof.Claim.RemoteMemory : Prop :=
  ∀ (s : State) (ep : Nat) (va : BitVec 64) (b : Byte) (bs : List Byte) (n : Nat),
    let owner := if ep = 0 then 0#12 else (tabGet ({} : Vdev) s.hub.vdevs (ep - 1)).owner
    let sends (i : Instr) (o : HostOut) : Prop := exec i s = .next { s with hub := { s.hub with out := s.hub.out ++ [o] } }
    ((endp s ep).live = false → exec (.rmaWrite ep va bs) s = .next s ∧ exec (.rmaRead ep va n) s = .next s) ∧
    ((endp s ep).live = true →
      (ep = 0 ∨ 64 * 2 ^ 20 < bs.length → sends (.rmaWrite ep va bs) (.rmaError ep 0#8)) ∧ (ep = 0 ∨ 64 * 2 ^ 20 < n → sends (.rmaRead ep va n) (.rmaError ep 0#8)) ∧
      (ep ≠ 0 →
        (place true va.toNat ≠ .heap → place true va.toNat ≠ .bad → ∃ t u, exec (.rmaWrite ep va [b]) s = .next t ∧ t.hub.out = s.hub.out ++ [.rmaError ep 3#8] ∧ t.mem = s.mem ∧
          exec (.rmaRead ep va 1) s = .next u ∧ u.hub.out = s.hub.out ++ [.rmaError ep 3#8] ∧ u.mem = s.mem) ∧
        (∀ r, place true va.toNat = .heap → agentCheck s owner true va.toNat .W = .error r → ∃ t, exec (.rmaWrite ep va [b]) s = .next t ∧ t.hub.out = s.hub.out ++ [.rmaError ep (causeOf r)] ∧ t.mem = s.mem) ∧
        (∀ r, place true va.toNat = .heap → agentCheck s owner true va.toNat .I = .error r → ∃ t, exec (.rmaRead ep va 1) s = .next t ∧ t.hub.out = s.hub.out ++ [.rmaError ep (causeOf r)] ∧ t.mem = s.mem) ∧
        (∀ g, place true va.toNat = .heap → hostRefuses s va.toNat = true ∨ walk s va.toNat = none →
          (agentCheck s owner true va.toNat .W = .ok g → ∃ t, exec (.rmaWrite ep va [b]) s = .next t ∧ t.hub.out = s.hub.out ++ [.rmaError ep (causeOf .translation)] ∧ t.mem = s.mem) ∧
          (agentCheck s owner true va.toNat .I = .ok g → ∃ t, exec (.rmaRead ep va 1) s = .next t ∧ t.hub.out = s.hub.out ++ [.rmaError ep (causeOf .translation)] ∧ t.mem = s.mem)) ∧
        (∀ g k, Memory.wf s.mem = true → s.races = [] → place true va.toNat = .heap → agentCheck s owner true va.toNat .W = .ok g → hostRefuses s va.toNat = false → locate s 0 va.toNat = .ok k →
          ∃ t, exec (.rmaWrite ep va [b]) s = .next t ∧ t.hub.out = s.hub.out ++ [.rmaDone ep []] ∧ getByte t.mem k = b ∧ t.core = s.core ∧ t.races = []) ∧
        (∀ g k, Memory.wf s.mem = true → s.races = [] → place true va.toNat = .heap → agentCheck s owner true va.toNat .I = .ok g → hostRefuses s va.toNat = false → locate s 0 va.toNat = .ok k →
          ∃ t, exec (.rmaRead ep va 1) s = .next t ∧ t.hub.out = s.hub.out ++ [.rmaDone ep [getByte s.mem k]] ∧ t.core = s.core ∧ t.races = []))) ∧
    exec (.unsupportedPacket ep .unreliable) s = .next { s with hub := { s.hub with unsupported := s.hub.unsupported + 1 } } ∧
    sends (.unsupportedPacket ep .atomicOrDeferred) (.rmaError ep 0#8) ∧
    exec (.unsupportedPacket ep .receiverCredit) s = .next s ∧ exec (.unsupportedPacket ep .transportSecurity) s = .next s

/-- Refusals common to host commands in order; sessions and the interface lock: each part as its own text says (R72, R74, R75, R76, R78, R80, R435). -/
def Obligations.EndpointsAndSessions : Prop := Claim.HostRefusals ∧ Claim.Sessions

/-- Launch queues through their states, and LAUNCH: each part as its own text says (R39, R76, R79, R80, R81, R88). -/
def Obligations.QueuesAndLaunches : Prop := Claim.LaunchQueues ∧ Claim.Launches

/-- Keys, evidence, virtual devices and remote memory: each part as its own text says (R72, R73, R86, R91, R92, R436, R437). -/
def Obligations.HostServices : Prop := Claim.KeysAndEvidence ∧ Claim.VirtualDevices ∧ Claim.RemoteMemory

/-! ### Power-up, boot, bring-up and the registers of the harts -/

namespace Sys2Proof.Claim

/-- `i` changes the boot block alone. -/
def Boots (i : Instr) (s : State) (b : Boot) : Prop := exec i s = .next { s with hub := { s.hub with boot := b } }

/-- Hart `h` runs: it is out of reset, and it is not H1 halted (R427, R428). -/
def Running (s : State) (h : Nat) : Prop := h < 4 ∧ s.hub.boot.harts.getLsbD h = true ∧ ¬(h = 1 ∧ s.hub.boot.h1Halted = true)

/-- `i` changes the memory controller of stack `n` alone, to `y`, and the boot block to `b`, and raises H3's interrupt where `irq` says so (R89, R443; Log 56: the model's choice of moments);
in a recovery boot, which trains none, no event of the unit does anything (R430). -/
def TunesMc (i : Instr) (s : State) (n : Nat) (irq : Bool) (b : Boot) (y : MemCtl) : Prop :=
  let raised : BitVec 4 := if irq = true then s.hub.irq ||| 8#4 else s.hub.irq
  (8 ≤ n → exec i s = .next s) ∧ (irq = true → s.hub.boot.phase = 6#4 → exec i s = .next s) ∧
  (n < 8 → irq = false ∨ s.hub.boot.phase ≠ 6#4 → ∃ m, exec i s = .next { s with hub := { s.hub with mcs := m, irq := raised, boot := b } } ∧ (y ≠ {} → tabGet {} m n = y) ∧
    ∀ k, k ≠ n → y ≠ {} → tabGet ({} : MemCtl) m k = tabGet {} s.hub.mcs k)

/-- `i` changes UCIe link `l` alone, to `y`, and the boot block to `b`, as for a memory controller (R445). -/
def TunesUl (i : Instr) (s : State) (l : Nat) (irq : Bool) (b : Boot) (y : UcieLink) : Prop :=
  let raised : BitVec 4 := if irq = true then s.hub.irq ||| 8#4 else s.hub.irq
  (18 ≤ l → exec i s = .next s) ∧ (irq = true → s.hub.boot.phase = 6#4 → exec i s = .next s) ∧
  (l < 18 → irq = false ∨ s.hub.boot.phase ≠ 6#4 → ∃ m, exec i s = .next { s with hub := { s.hub with links := m, irq := raised, boot := b } } ∧ (y ≠ {} → tabGet {} m l = y) ∧
    ∀ k, k ≠ l → y ≠ {} → tabGet ({} : UcieLink) m k = tabGet {} s.hub.links k)

/-- `i` changes port `p` alone, to `y`, as for a memory controller (R447). -/
def TunesPort (i : Instr) (s : State) (p : Nat) (irq : Bool) (y : Port) : Prop :=
  let raised : BitVec 4 := if irq = true then s.hub.irq ||| 8#4 else s.hub.irq
  (8 ≤ p → exec i s = .next s) ∧ (irq = true → s.hub.boot.phase = 6#4 → exec i s = .next s) ∧
  (p < 8 → irq = false ∨ s.hub.boot.phase ≠ 6#4 → ∃ m, exec i s = .next { s with hub := { s.hub with ports := m, irq := raised } } ∧ (y ≠ {} → tabGet {} m p = y) ∧
    ∀ k, k ≠ p → y ≠ {} → tabGet ({} : Port) m k = tabGet {} s.hub.ports k)

/-- A link id of R439. -/
def LinkId (l : Nat) : Prop := l < 18 ∨ (32 ≤ l ∧ l < 40) ∨ (64 ≤ l ∧ l < 72)

/-- The key of R440. -/
def keyOf (b : Boot) (l e : Nat) : List Byte := shake (leBytes 32 ((b.lroot.getD 0#256).toNat) ++ leBytes 32 b.bootn.toNat ++ leBytes 2 l ++ leBytes 8 e) 32

end Sys2Proof.Claim

/-- POWER_OFF and POWER_UP (R427, R429, R430, R433): only the boot flash survives; a recovery boot copies the KIND 8 image to H1's RAM, measures it and goes on in RECOVERY to enrol; a normal one reconstructs the seed, fails with ERR 1 where
its check fails, and otherwise copies and measures stage 1, derives CDI_1 and the L1 certificate, locks the PUF and enters STAGE1. Where it rests on the model's own choices: log 47, 51, 5, 62. -/
def Sys2Proof.Claim.PoweringUp : Prop :=
  ∀ (s : State) (recov : Bool),
    let u := unpowered s
    let b := u.hub.boot
    let n := s.hub.boot.powerUps + 1
    let fits (e : Nat × Nat × Nat) : Prop := 0 < e.2.1 ∧ e.2.1 ≤ 256 * 1024
    let ends (p : State → Boot → Prop) : Prop := ∃ t, exec (.powerUp recov) s = .next t ∧ t = { u with hub := { u.hub with boot := t.hub.boot, harts := t.hub.harts, jobs := t.hub.jobs, decisions := planned n } } ∧ t.hub.boot.powered = true ∧ t.hub.boot.powerUps = n ∧
      t.hub.boot.recov = recov ∧ t.hub.boot.harts = 2#4 ∧ t.hub.boot.bootn = Config.bootEntropy n ∧ p t t.hub.boot
    let failed (err : BitVec 8) (t : State) (x : Boot) : Prop := x.phase = 15#4 ∧ x.err = err ∧ x.h1Halted = true ∧ t.hub.harts = u.hub.harts ∧ t.hub.jobs = u.hub.jobs
    let h (e : Nat × Nat × Nat) := getBytes u.mem (0x1000004000000 + e.2.2) 8192
    let w (e : Nat × Nat × Nat) := Machine.decodeCode (List.zipWith (· ^^^ ·) ((List.range 8192).map (Config.pufByte n)) (h e))
    let uds (e : Nat × Nat × Nat) := shake (w e ++ textBytes "ryutia-uds") 32
    let good (e : Nat × Nat × Nat) : Prop := shake (w e ++ textBytes "check") 32 = getBytes u.mem (0x1000004000000 + e.2.2 + 8192) 32
    (∃ t, exec .powerOff s = .next t ∧ t = u ∧ t.hub.boot.powered = false ∧ t.hub.boot.phase = 0#4 ∧ t.core = State.reset.core ∧ t.others = [] ∧ t.gtc = 0 ∧ t.hub.boot.lroot = none ∧ t.hub.seals = [] ∧
      t.hub.queues = [] ∧ t.hub.vdevs = [] ∧ t.hub.eps = [] ∧ t.hub.keys = [] ∧
      (Memory.wf s.mem = true → ∀ a, getByte t.mem a = if 0x1000004000000 ≤ a ∧ a < 0x1000004000000 + 2 ^ 32 + 8 then getByte s.mem a else 0#8)) ∧
    (s.hub.boot.powered = true → exec (.powerUp recov) s = .next s) ∧
    (s.hub.boot.powered = false →
      (recov = true ∨ entryOf u 1 = none →
        (∀ e, entryOf u 8 = some e → fits e → ends fun t x => t.hub.harts[1].ram = imageOf u e ∧ t.hub.jobs = u.hub.jobs ++ [.enrol] ∧ x.phase = 6#4 ∧ x.err = 0#8 ∧ x.mlog = [measureEntry 8 0 (imageOf u e)] ∧ x.pufLock = false ∧ x.cdi1 = [] ∧ x.h1Halted = false) ∧
        ((∀ e, entryOf u 8 = some e → ¬fits e) → ends (failed 2#8))) ∧
      (∀ e, recov = false → entryOf u 1 = some e →
        (¬good e → ends (failed 1#8)) ∧
        (good e → (∀ f, entryOf u 2 = some f → ¬fits f) → ends (failed 2#8)) ∧
        (∀ f, good e → entryOf u 2 = some f → fits f → ends fun t x =>
          let m := shake (imageOf u f) 64
          let cdi := shake (uds e ++ m) 64
          t.hub.harts[1].ram = imageOf u f ∧ t.hub.jobs = u.hub.jobs ∧ x.uds = [] ∧ x.phase = 1#4 ∧ x.err = 0#8 ∧ x.pufLock = true ∧ x.mlog = [measureEntry 2 0 (imageOf u f)] ∧ x.cdi1 = cdi ∧ x.lroot = b.lroot ∧
            x.certs = publicKey (uds e) ++ (publicKey cdi ++ m ++ sign (uds e) (publicKey cdi ++ m)))))

/-- The boot block (R428, R429, R430, R434): BOOT_SET by each hart, HART_RUN and stage 1's work, PUF_LOCK and what reads 0 from then on, CORE_REL once, the flash's program port and ENROL in
RECOVERY only; the helper data that it writes gives the message back (that the code decodes its own words is what DECODE means, R429). Where it rests on the model's own choices: log 47, 49, 5, 71, 56. -/
def Sys2Proof.Claim.BootBlock : Prop :=
  ∀ (s : State) (hart : Nat) (x : BitVec 64),
    let b := s.hub.boot
    let p := x.extractLsb' 0 4
    let phase := if p.toNat < b.phase.toNat then b.phase else p
    let es := (directory s).filter fun e => (3 ≤ e.1 && e.1 ≤ 7) || e.1 == 9
    let works : Prop := hart = 1 ∧ b.phase = 1#4 ∧ x.getLsbD 3 = true ∧ b.cdi1 ≠ []
    let right : Prop := es.countP (fun e => e.1 == 9) = 1 ∧ ∀ e ∈ es, (e.1 = 7 → e.2.1 = 4096) ∧ (e.1 = 9 → e.2.1 = 1793) ∧ (e.1 = 6 → e.2.1 ≤ 256 * 1024) ∧ e.2.1 ≤ 16 * 2 ^ 20
    let log := es.zipIdx.map fun e => measureEntry e.1.1 (e.2 + 1) (imageOf s e.1)
    let logd := shake log.flatten 64
    let cdi2 := shake (b.cdi1 ++ logd) 64
    let a := 0x1000004000000 + b.fpAddr.toNat
    (¬Running s hart ∨ hart = 2 ∨ (hart = 0 ∧ p ≠ 5#4) → exec (.bootSetWrite hart x) s = .next s) ∧
    (Running s hart → hart = 1 ∨ hart = 3 → ∃ halt, Boots (.bootSetWrite hart x) s { b with phase := phase, err := x.extractLsb' 8 8, degraded := x.getLsbD 16, h1Halted := halt } ∧
      (halt = true ↔ b.h1Halted = true ∨ (hart = 1 ∧ b.phase = 6#4 ∧ b.pufLock = true ∧ p = 6#4))) ∧
    (Running s hart → hart = 0 → p = 5#4 → Boots (.bootSetWrite hart x) s { b with phase := phase }) ∧
    (¬Running s hart ∨ hart = 0 ∨ hart = 2 ∨ b.phase = 6#4 → exec (.hartRun hart x) s = .next s) ∧
    (Running s hart → hart = 1 ∨ hart = 3 → b.phase ≠ 6#4 → ¬works → ∃ t, exec (.hartRun hart x) s = .next t ∧ t.hub.boot = { b with harts := b.harts ||| x.extractLsb' 0 4 } ∧
      t = { s with hub := { s.hub with boot := t.hub.boot, eps := t.hub.eps } } ∧ (x.getLsbD 2 = false → t.hub.eps = s.hub.eps) ∧ (x.getLsbD 2 = true → (tabGet ({} : Endpoint) t.hub.eps 0).live = true)) ∧
    (Running s hart → works → ¬right → Boots (.hartRun hart x) s { b with phase := 15#4, err := 3#8, h1Halted := true }) ∧
    (Running s hart → works → right → ∃ t, exec (.hartRun hart x) s = .next t ∧ t.hub.boot.phase = 1#4 ∧ t.hub.boot.harts = b.harts ||| x.extractLsb' 0 4 ∧ t.hub.boot.mlog = b.mlog ++ log ∧
      t.hub.boot.aliasSeed = cdi2 ∧ t.hub.boot.cdi1 = [] ∧ t.hub.boot.certs = b.certs ++ (publicKey cdi2 ++ logd ++ sign b.cdi1 (publicKey cdi2 ++ logd)) ∧
      (b.lroot = none → t.hub.boot.lroot = some (BitVec.ofNat 256 (leNat (shake (cdi2 ++ textBytes "link") 32)))) ∧ (b.lroot ≠ none → t.hub.boot.lroot = b.lroot) ∧
      (∀ e, entryOf s 9 = some e → t.hub.boot.operatorKey = imageOf s e) ∧
      (∀ e, (es.filter fun e => e.1 == 7).getLast? = some e → Memory.wf s.mem = true → getBytes t.mem (t.hub.boot.seg15.toNat * 4096) e.2.1 = imageOf s e) ∧
      (∀ k, ∀ h : Fin 4, (k, h) ∈ [(3, 0), (4, 2), (5, 3), (6, 1)] → ∀ e, (es.filter fun e => e.1 == k).getLast? = some e → t.hub.harts[h].ram = imageOf s e) ∧ t.core = s.core) ∧
    Boots (.pufLock x) s { b with pufLock := b.pufLock || x.getLsbD 0 } ∧
    (x.getLsbD 0 = false ∨ b.coreRel = true ∨ b.phase = 6#4 → exec (.coreRel x) s = .next s) ∧
    (x.getLsbD 0 = true → b.coreRel = false → b.phase ≠ 6#4 → ∃ t, exec (.coreRel x) s = .next t ∧ t.hub.boot = { b with coreRel := true, image15 := getBytes s.mem (b.seg15.toNat * 4096) 4096 } ∧ t.mem = s.mem ∧
      ∀ u, u < 4368 → (getCore t u).released = true ∧ (getCore t u).bootSeg = true ∧ (getCore t u).segs[15] = { st := .landed, err := 0#4, base := 0#44 } ∧ (getCore t u).ctx = (getCore s u).ctx) ∧
    (b.phase ≠ 6#4 → exec (.fpData x) s = .next s ∧ exec .fpErase s = .next s) ∧
    (b.phase = 6#4 → ∃ t u, exec (.fpData x) s = .next t ∧ t.hub.boot = { b with fpAddr := b.fpAddr + 8#32, fpBusy := true } ∧ exec .fpErase s = .next u ∧ u.hub.boot = { b with fpBusy := true } ∧
      (Memory.wf s.mem = true → getLe t.mem a 8 = x.toNat ∧ (∀ k, k < a ∨ a + 8 ≤ k → getByte t.mem k = getByte s.mem k) ∧
        ∀ k, getByte u.mem k = if k / 4096 = a / 4096 then Config.erasedByte else getByte s.mem k)) ∧
    Boots .fpBusyClear s { b with fpBusy := false } ∧
    (b.phase ≠ 6#4 ∨ b.pufLock = true ∨ b.h1Halted = true → stepJob .enrol s = (none, s)) ∧
    (b.phase = 6#4 → b.pufLock = false → b.h1Halted = false →
      let i := ((directory s).findIdx? fun e => e.1 == 1).getD (directory s).length
      let off := (Config.enrolOffset b.powerUps).toNat * 4096
      let w := shake (leBytes 32 b.bootn.toNat) Config.messageLen.toNat
      ∃ t, stepJob .enrol s = (none, t) ∧ t = { s with mem := t.mem, hub := { s.hub with boot := { b with pufLock := true, err := 0#8, h1Halted := true } } } ∧
        (Memory.wf s.mem = true → getLe t.mem (0x1000004000000 + 32 * i) 4 = 1 ∧ getLe t.mem (0x1000004000000 + 32 * i + 4) 4 = 8224 ∧ getLe t.mem (0x1000004000000 + 32 * i + 8) 8 = off ∧
          (32 * (i + 2) ≤ off → getBytes t.mem (0x1000004000000 + off + 8192) 32 = shake (w ++ textBytes "check") 32))) ∧
    (∀ w : List Byte, w.length = Config.messageLen.toNat → Machine.decodeCode (List.zipWith (· ^^^ ·) (pufBytes s) (List.zipWith (· ^^^ ·) (pufBytes s) (codeWord w))) = w) ∧
    (∀ k, k < 4 → hartRead s (BitVec.ofNat 64 (0x1000000A00038 + 8 * k)) = if b.pufLock = true then 0#64 else b.bootn.extractLsb' (64 * k) 64) ∧
    (∀ k, k < 1024 → b.pufLock = true → hartRead s (BitVec.ofNat 64 (0x1000000A10000 + 8 * k)) = 0#64) ∧
    (∀ k, k < 4 → b.pufLock = true → hartRead s (BitVec.ofNat 64 (0x1000000A80040 + 8 * k)) = 0#64)

/-- Sealed links (R439 to R442, R446): SE_LROOT's one write, LKEY and its end, the rekey of one direction, tag mismatches of links and ports, which at the sixteenth take a link out of ACTIVE, the pair keys, and the key and the counter that cover
what crosses a port, only H1 writing the key port. Where it rests on the model's own choices: log 48, 5, 56. -/
def Sys2Proof.Claim.SealedLinks : Prop :=
  ∀ (s : State) (link : BitVec 8) (l dir hart peer : Nat) (x : BitVec 256),
    let b := s.hub.boot
    let y : SealedLink := tabGet {} s.hub.seals l
    let next (z : Seal) : Seal := { key := keyOf b l (z.epoch + 1), prev := z.key, epoch := z.epoch + 1, count := 0 }
    let recent := s.gtc :: y.mismatches.filter fun t => decide (s.gtc < t + 2 ^ 20)
    (b.lroot = none → Boots (.seLrootWrite ⟨1, x⟩) s { b with lroot := some x }) ∧ (b.lroot ≠ none → Boots (.seLrootWrite ⟨1, x⟩) s b) ∧
    (hart ≠ 1 → exec (.seLrootWrite ⟨hart, x⟩) s = .next s ∧ exec (.lkey ⟨hart, link⟩) s = .next s) ∧
    (∃ bad, Boots (.lkey ⟨1, link⟩) s { b with seLink := link, seDone := false, seErr := false, seBusy := true, seBad := bad } ∧ (bad = true ↔ b.lroot = none ∨ ¬LinkId link.toNat)) ∧
    (b.seBusy = false → exec .lkeyDone s = .next s) ∧
    (b.seBusy = true → b.seBad = true → exec .lkeyDone s = .next { s with hub := { s.hub with boot := { b with seBusy := false, seErr := true }, irq := s.hub.irq ||| 2#4 } }) ∧
    (b.seBusy = true → b.seBad = false → ∃ t, exec .lkeyDone s = .next t ∧ t.hub.boot = { b with seBusy := false, seDone := true } ∧ t.hub.irq = s.hub.irq ||| 2#4 ∧ t.mem = s.mem ∧ t.core = s.core ∧
      t.hub.seals = tabSet {} s.hub.seals b.seLink.toNat { west := { key := keyOf b b.seLink.toNat 0 }, east := { key := keyOf b b.seLink.toNat 0 } }) ∧
    (¬LinkId l → exec (.linkRekey l dir) s = .next s) ∧
    (LinkId l → ∃ t, exec (.linkRekey l dir) s = .next t ∧ t = { s with hub := { s.hub with seals := t.hub.seals } } ∧
      tabGet {} t.hub.seals l = (if dir = 0 then { y with west := next y.west } else { y with east := next y.east }) ∧ ∀ k, k ≠ l → tabGet ({} : SealedLink) t.hub.seals k = tabGet {} s.hub.seals k) ∧
    (¬LinkId l → exec (.linkTagMismatch l) s = .next s) ∧
    (LinkId l → 64 ≤ l → ∃ t, exec (.linkTagMismatch l) s = .next t ∧ t = { s with hub := { s.hub with ports := t.hub.ports } } ∧
      tabGet ({} : Port) t.hub.ports (l - 64) = { (tabGet {} s.hub.ports (l - 64)) with droppedPkts := (tabGet ({} : Port) s.hub.ports (l - 64)).droppedPkts + 1 }) ∧
    (LinkId l → l < 64 → ∃ t, exec (.linkTagMismatch l) s = .next t ∧ t = { s with hub := { s.hub with seals := t.hub.seals, irq := t.hub.irq, links := t.hub.links, mcs := t.hub.mcs } } ∧
      (tabGet ({} : SealedLink) t.hub.seals l).west = y.west ∧ (tabGet ({} : SealedLink) t.hub.seals l).east = y.east ∧ (tabGet ({} : SealedLink) t.hub.seals l).mismatches = recent ∧
      (recent.length < 16 → (tabGet ({} : SealedLink) t.hub.seals l).down = y.down ∧ t.hub.irq = s.hub.irq ∧ t.hub.links = s.hub.links ∧ t.hub.mcs = s.hub.mcs) ∧
      (16 ≤ recent.length → (tabGet ({} : SealedLink) t.hub.seals l).down = true ∧ t.hub.irq.getLsbD 1 = true ∧
        (l < 18 → tabWf {} s.hub.links = true → (tabGet ({} : UcieLink) t.hub.links l).active = false ∧ t.hub.mcs = s.hub.mcs) ∧
        (32 ≤ l → tabWf {} s.hub.mcs = true → (tabGet ({} : MemCtl) t.hub.mcs (l - 32)).active = false ∧ t.hub.links = s.hub.links))) ∧
    ((tabGet ({} : Port) s.hub.ports l).up = false → exec (.pairKeyExchange ⟨l, peer⟩) s = .next s) ∧
    ((tabGet ({} : Port) s.hub.ports l).up = true → l < 8 → ∃ t, exec (.pairKeyExchange ⟨l, peer⟩) s = .next t ∧
      tabGet ({} : Port) t.hub.ports l =
        { (tabGet {} s.hub.ports l) with pairKeys := tabSet none (tabGet ({} : Port) s.hub.ports l).pairKeys peer (some { key := Config.pairKey s.freeCtr }) } ∧ t.freeCtr = s.freeCtr + 1 ∧ t.core = s.core) ∧
    (∀ (v : Nat) (q : BitVec 8) (k : BitVec 256) (w : Nat) (pk : PairKey), let z : Queue := tabGet {} s.hub.queues (256 * v + q.toNat)
      let pair := tabGet none (tabGet ({} : Port) s.hub.ports l).pairKeys peer
      (pair = none → portKey s l (.queue v q peer) = .waits ∧ portKey s l (.peer peer) = .waits) ∧
      (pair = some pk → portKey s l (.peer peer) = .sealed (leBytes 32 pk.key.toNat) pk.sent ∧ (z.prot = false → portKey s l (.queue v q peer) = .sealed (leBytes 32 pk.key.toNat) pk.sent) ∧
        (z.prot = true → tabGet none s.hub.keys z.kslot.toNat = some (k, w) → portKey s l (.queue v q peer) = .sealed (leBytes 32 k.toNat) (tabGet 0 s.hub.keysSent z.kslot.toNat))) ∧
      (z.prot = true → portKey s l (.collective v q) = .never) ∧ (z.prot = false → portKey s l (.collective v q) = .clear)) ∧
    (∀ (tr : Traffic) (key : List Byte) (n : Nat) (fs : List (List Byte)), portKey s l tr = .sealed key n → tabWf {} s.hub.eps = true → tabWf 0 s.hub.keysSent = true → tabWf {} s.hub.ports = true →
      tabWf none (tabGet ({} : Port) s.hub.ports l).pairKeys = true →
      ∃ t, sealPacket l tr fs s = some (sealPayload l key n fs, t) ∧ portKey t l tr = .sealed key (n + fs.length) ∧ t.core = s.core ∧ t.mem = s.mem)

/-- The bring-up of stacks, links and ports (R443, R444, R445, R447, R448): what each write of a control register and each event of the unit does to that unit's registers, and that H3, where it runs, makes the device DEGRADED where a step fails on some channels, and stops the boot where one fails on all of them (ERR 5) or a link trains with fewer lanes than full width (ERR 4); that H3 acts in the same step is the model's choice. Where it rests on the model's own choices: log 49, 5, 56. -/
def Sys2Proof.Claim.BringUp : Prop :=
  ∀ (s : State) (n : Nat) (pass : Bool) (fail : BitVec 32) (lanes : BitVec 16) (wide repaired cdr : BitVec 8),
    let m : MemCtl := tabGet {} s.hub.mcs n
    let l : UcieLink := tabGet {} s.hub.links n
    let p : Port := tabGet {} s.hub.ports n
    let h3 : Bool := s.hub.boot.harts.getLsbD 3 && s.hub.boot.phase != 15#4
    let judged : Boot := if fail = BitVec.allOnes 32 then { s.hub.boot with phase := 15#4, err := 5#8 } else if fail ≠ 0#32 then { s.hub.boot with degraded := true } else s.hub.boot
    let starts (k : BitVec 4) : MemCtl := if s.hub.boot.phase ≠ 6#4 ∧ m.pwrok = true ∧ m.busy = false then { m with step := k, busy := true, pass := false } else { m with step := k }
    TunesMc (.mcPower n) s n false s.hub.boot { m with pwr := true } ∧ TunesMc (.mcPwrok n) s n true s.hub.boot { m with pwrok := m.pwrok || m.pwr } ∧
    TunesMc (.mcLaneRepair n) s n false s.hub.boot (starts 1#4) ∧ TunesMc (.mcCaTraining n) s n false s.hub.boot (starts 2#4) ∧ TunesMc (.mcReadTraining n) s n false s.hub.boot (starts 3#4) ∧ TunesMc (.mcWriteTraining n) s n false s.hub.boot (starts 4#4) ∧
    TunesMc (.mcEyeCentring n) s n false s.hub.boot (starts 5#4) ∧ TunesMc (.mcRefreshSetup n) s n false s.hub.boot (starts 6#4) ∧
    TunesMc (.mcStepComplete n pass fail lanes) s n true (if m.busy = true ∧ h3 = true then judged else s.hub.boot) (if m.busy = true then { m with busy := false, fail := m.fail ||| fail, repair := m.repair ||| lanes, pass := if fail = BitVec.allOnes 32 then false else if fail = 0#32 then pass else true } else m) ∧
    TunesMc (.mcEnable n) s n false s.hub.boot { m with enable := true } ∧ TunesMc (.mcActive n) s n true s.hub.boot { m with active := m.active || (m.enable && m.pwrok) } ∧
    TunesUl (.ulSideband n) s n false s.hub.boot { l with sb := true } ∧ TunesUl (.ulSbup n) s n true s.hub.boot { l with sbup := l.sbup || l.sb } ∧ TunesUl (.ulTrain n) s n false s.hub.boot { l with train := true } ∧
    TunesUl (.ulActive n wide repaired) s n true (if l.train = true ∧ l.sbup = true ∧ wide.toNat < Config.fullWidth.toNat ∧ h3 = true then { s.hub.boot with phase := 15#4, err := 4#8 } else s.hub.boot) (if l.train = true ∧ l.sbup = true then { l with active := true, lanes := wide, repaired := repaired } else l) ∧ TunesUl (.ulEnable n) s n false s.hub.boot { l with enable := true } ∧
    TunesPort (.ptPll n) s n false { p with pll := true } ∧ TunesPort (.ptPlllock n) s n true { p with pllLock := p.pllLock || p.pll } ∧ TunesPort (.ptTxen n) s n false { p with txen := true } ∧
    TunesPort (.ptLinkTraining n) s n false { p with lt := true } ∧ TunesPort (.ptLtdone n cdr) s n true (if p.lt = true then { p with cdr := cdr, ltDone := true } else p) ∧
    TunesPort (.ptFeclock n) s n true (if p.ltDone = true then { p with fecLock := true, align := true } else p) ∧ TunesPort (.ptMac n) s n false { p with mac := true } ∧
    TunesPort (.ptUp n) s n true { p with up := p.up || (p.mac && p.fecLock) } ∧
    TunesPort (.portRetry n) s n false (if p.lt = true ∧ p.ltDone = false then { p with pll := true, txen := true, lt := true, mac := false, cdr := 0#8 } else p) ∧
    (8 ≤ n → exec (.ptFecRead n) s = .next s) ∧
    (n < 8 → ∃ t, exec (.ptFecRead n) s = .next t ∧ t.hub.out = s.hub.out ++ [.readValue (0x1000000D00010 + n * 0x1000) ((p.fec + Config.fecCount s.freeCtr).setWidth 64)] ∧
      t.freeCtr = s.freeCtr + 1 ∧ (({ p with fec := 0#32 } : Port) ≠ {} → tabGet {} t.hub.ports n = { p with fec := 0#32 }) ∧ t.core = s.core ∧ t.mem = s.mem)

/-- REGISTER_WRITE, ACCT_E_READ and ACCT_LATE_READ (R5, R69, R423 and the blocks' own rules): what a write of each block's registers does, that the other addresses take none, and that a read of an accounting
register clears it. HINT_HEAD's width is the model's choice (Log 70). Where it rests on the model's own choices: log 50, 37, 64. -/
def Sys2Proof.Claim.HartRegisters : Prop :=
  ∀ (s : State) (a : Nat) (x : BitVec 64) (v : Nat) (p : BitVec 3) (c : Fin 8),
    let base := 0x1000000000000
    let writes (off : Nat) (o : Machine.Out) : Prop := exec (.registerWrite (BitVec.ofNat 64 (base + off)) x) s = o
    let hub (h : Hub) : Machine.Out := .next { s with hub := h }
    let y := getPart s p
    let op := field x.toNat 56 8
    let cleared : State := { s with hub := { s.hub with rights := { s.hub.rights with staDone := false } } }
    let id := x.extractLsb' 0 20
    let o := x.extractLsb' 0 12
    let free : Prop := y.halted = true ∨ residentPart s p = false
    (a < 2 ^ 40 → a % 2 ^ 37 < 80000000000 → ∃ t, exec (.registerWrite (BitVec.ofNat 64 a) x) s = .next t ∧ t = { s with mem := t.mem, races := t.races } ∧
      (Memory.wf s.mem = true → getLe t.mem a 8 = x.toNat ∧ ∀ k, k < a ∨ a + 8 ≤ k → getByte t.mem k = getByte s.mem k)) ∧
    (0xD08000 ≤ a → a < 0x1080000 → writes a (.next s)) ∧
    writes 0x100040 (hub { s.hub with rights := { s.hub.rights with arg0 := x } }) ∧ writes 0x100048 (hub { s.hub with rights := { s.hub.rights with arg1 := x } }) ∧
    (s.hub.rights.locked = true → writes 0x100000 (.next s) ∧ writes 0x100008 (.next s) ∧ writes 0x100010 (.next s) ∧ writes 0x100018 (.next s)) ∧
    (s.hub.rights.locked = false → writes 0x100000 (hub { s.hub with rights := { s.hub.rights with xltRoot := x.extractLsb' 0 50 } }) ∧
      writes 0x100008 (hub { s.hub with rights := { s.hub.rights with ownTbl := x.extractLsb' 0 50 } }) ∧ writes 0x100010 (hub { s.hub with rights := { s.hub.rights with rgnTbl := x.extractLsb' 0 50 } }) ∧
      writes 0x100018 (hub { s.hub with rights := { s.hub.rights with rgnCap := x.toNat } })) ∧
    writes 0x100020 (exec (.xltInv x) s) ∧
    (op = 1 → writes 0x100030 (exec (.regionQuery id) cleared)) ∧ (op = 2 → writes 0x100030 (exec (.regionPurge id) cleared)) ∧ (op = 3 → writes 0x100030 (exec (.regionFree id) cleared)) ∧
    (op = 4 → writes 0x100030 (exec (.regionAlloc id) cleared)) ∧ (op = 5 → writes 0x100030 (exec (.regionRfree id) cleared)) ∧ (op = 6 → writes 0x100030 (exec (.ownerPurge o) cleared)) ∧
    (op = 7 → writes 0x100030 (exec (.ownerCreate o) cleared)) ∧ (op = 8 → writes 0x100030 (exec (.ownerDelete o) cleared)) ∧
    writes (0x200000 + 0x40 * p.toNat) (exec (.partMapWrite p.toNat (x.setWidth 32)) s) ∧
    writes (0x200008 + 0x40 * p.toNat) (.next (setPart s p { y with bindTail := if 256 < (x.setWidth 32 - y.bindHead).toNat then y.bindTail else x.setWidth 32 })) ∧
    writes (0x200300 + 16 * p.toNat) (.next (setPart s p { y with cbindTail := if 256 < (x.setWidth 32 - y.cbindHead).toNat then y.cbindTail else x.setWidth 32 })) ∧
    (y.evtWait = [] → writes (0x200018 + 0x40 * p.toNat) (.next (setPart s p { y with evtBase := x.extractLsb' 12 38, evtLog := x.extractLsb' 0 4 })) ∧
      writes (0x200028 + 0x40 * p.toNat) (.next (setPart s p { y with evtHead := x.setWidth 32 }))) ∧
    writes (0x200030 + 0x40 * p.toNat) (.next (setPart s p { y with slice := x.extractLsb' 0 24 })) ∧
    writes (0x200400 + 32 * p.toNat) (.next (setPart s p { y with spnBase := x.extractLsb' 12 38, spnLog := x.extractLsb' 0 4 })) ∧
    writes (0x200408 + 32 * p.toNat) (.next (setPart s p { y with spnTail := x.setWidth 32 })) ∧
    writes 0x200200 (hub { s.hub with ovlp := s.hub.ovlp && !x.getLsbD 0 }) ∧
    (v < 4368 → writes (0x280000 + 8 * v) (exec (.pwSetWrite v (x.extractLsb' 0 13)) s)) ∧
    writes 0x300000 (hub { s.hub with hints := { s.hub.hints with base := x.extractLsb' 12 38, log := x.extractLsb' 0 4 } }) ∧
    writes 0x300010 (hub { s.hub with hints := { s.hub.hints with head := x.setWidth 32 } }) ∧
    (v < 256 → field x.toNat 0 3 = 0 → writes (0x400040 + 0x80 * v) (exec (.goSegmv v) s)) ∧
    (op = 1 → writes (0x600008 + 0x40 * p.toNat) (exec (.stopArm p.toNat (x.getLsbD 16) (x.extractLsb' 8 8)) s)) ∧ (op = 2 → writes (0x600008 + 0x40 * p.toNat) (exec (.stopCancel p.toNat) s)) ∧
    (op = 3 → writes (0x600008 + 0x40 * p.toNat) (exec (.stopResume p.toNat (x.getLsbD 17) (x.extractLsb' 0 6)) s)) ∧
    writes (0x600000 + 0x40 * p.toNat) (.next (setPart s p { y with stopGtc := x })) ∧
    writes (0x600020 + 0x40 * p.toNat) (.next (setPart s p { y with spill := x.extractLsb' 21 29 })) ∧
    (free → writes (0x600028 + 0x40 * p.toNat) (.next (setPart s p { y with vtBase := x })) ∧ writes (0x600030 + 0x40 * p.toNat) (.next (setPart s p { y with vtGtc := x }))) ∧
    (¬free → writes (0x600018 + 0x40 * p.toNat) (.next s) ∧ writes (0x600028 + 0x40 * p.toNat) (.next s) ∧ writes (0x600030 + 0x40 * p.toNat) (.next s)) ∧
    writes (0x600038 + 0x40 * p.toNat) (.next (setPart s p { y with vtWall := x.getLsbD 0 })) ∧
    (v < 16384 → writes (0x700000 + 16 * v) (hub { s.hub with queues := tabSet {} s.hub.queues v { (tabGet {} s.hub.queues v) with ivl := x.setWidth 32 } })) ∧
    writes (0x900000 + 8 * c.val) (hub { s.hub with acct := { s.hub.acct with w := s.hub.acct.w.set c (x.extractLsb' 0 24) } }) ∧
    writes 0x900040 (hub { s.hub with acct := { s.hub.acct with sw := x.extractLsb' 0 24, swc := x.extractLsb' 24 24 } }) ∧
    writes 0xA00018 (exec (.pufLock x) s) ∧ writes 0xA00020 (hub { s.hub with boot := { s.hub.boot with seg15 := x.extractLsb' 12 38 } }) ∧ writes 0xA00028 (exec (.coreRel x) s) ∧
    writes 0xA20008 (exec (.fpData x) s) ∧ writes 0xA20010 (exec .fpErase s) ∧ writes 0xA80000 (.next s) ∧
    (v < 8 → x.getLsbD 6 = false → ∃ t, writes (0xB00000 + 0x1000 * v) (.next t) ∧ t = { s with hub := { s.hub with mcs := t.hub.mcs } } ∧ (tabWf {} s.hub.mcs = true →
      tabGet {} t.hub.mcs v = { (tabGet ({} : MemCtl) s.hub.mcs v) with pwr := x.getLsbD 0, enable := x.getLsbD 1, step := x.extractLsb' 2 4 })) ∧
    (∃ t, exec (.acctERead v) s = .next t ∧ t.hub.out = s.hub.out ++ [.readValue (base + 0x900100 + 16 * v) (tabGet 0#64 s.hub.acct.total v)] ∧ t.core = s.core ∧ t.mem = s.mem ∧
      t.hub.acct.late = s.hub.acct.late ∧ (tabWf 0#64 s.hub.acct.total = true → ∀ k, tabGet 0#64 t.hub.acct.total k = if k = v then 0#64 else tabGet 0#64 s.hub.acct.total k)) ∧
    (∃ t, exec (.acctLateRead v) s = .next t ∧ t.hub.out = s.hub.out ++ [.readValue (base + 0x900108 + 16 * v) (BitVec.ofNat 64 (min (2 ^ 64 - 1) (tabGet 0 s.hub.acct.late v / 2 ^ 12)))] ∧ t.core = s.core ∧ t.mem = s.mem ∧
      t.hub.acct.total = s.hub.acct.total ∧ (tabWf 0 s.hub.acct.late = true → ∀ k, tabGet 0 t.hub.acct.late k = if k = v then 0 else tabGet 0 s.hub.acct.late k))

/-- Power-up to stage 1 and the boot block: each part as its own text says (R427, R428, R429, R430, R433, R434). -/
def Obligations.PowerAndBoot : Prop := Claim.PoweringUp ∧ Claim.BootBlock

/-- Sealed links, bring-up and the registers of the harts: each part as its own text says (R5, R69, R423, R439, R440, R441, R442, R443, R444, R445, R446, R447, R448). -/
def Obligations.LinksAndRegisters : Prop := Claim.SealedLinks ∧ Claim.BringUp ∧ Claim.HartRegisters

/-! ### The machine as a whole -/

namespace Sys2Proof.Claim

/-- The bytes of an instruction stand in the instruction memory of the unit in focus from `p` (R105, R110). -/
def HoldsAt (s : State) (p : BitVec 16) (bs : List Byte) : Prop := ∀ n, n < bs.length → imemByte s (p + BitVec.ofNat 16 n) = bs.getD n 0#8

/-- The parcels at the PC of the unit in focus lie in LANDED segments, outside segment 15 but in steward mode (R108). -/
def Fetchable (s : State) : Prop :=
  ∀ p, p = s.core.ctx.pc ∨ (p = s.core.ctx.pc + 2#16 ∧ isLong (parcelAt s s.core.ctx.pc) = true) →
    (segOf s.core (p.extractLsb' 12 4)).st = .landed ∧ (p.extractLsb' 12 4 = 15#4 → s.core.ctx.ctl.steward = true)

/-- It is unit `u`'s turn to issue: no input is due, and the unit that acts next has nothing to do at its boundary. -/
def IssuesNext (s : State) (u : Nat) : Prop := nextInput s = none ∧ nextUnit s = some u ∧ groupDue s u = false ∧ unitEvent s u = none

end Sys2Proof.Claim

/-- A step runs the decoded instruction (R108, R110, R118): where a unit issues and the bytes at its PC are those of a well-formed instruction, the step is that instruction's; where they are none, the
step takes the fate of R118, and where they cannot be fetched the trap of R108; else the step is the event that is due, the boundary event of the unit, or the end of the cycle. Where it rests on the model's own choices: log 3, 4. -/
def Obligations.StepRunsDecoded : Prop :=
  ∀ (s : State),
    (∀ u i, IssuesNext s u → Fetchable (focus s u) → wellFormed i = true → encode i ≠ none → HoldsAt (focus s u) (focus s u).core.ctx.pc (encodeBytes i) → step s = exec i (fetched (focus s u))) ∧
    (∀ u r, IssuesNext s u → Fetchable (focus s u) → decodeAt (focus s u) (focus s u).core.ctx.pc = .reject r →
      step s = exec (.illegalInstruction (wordAtPc (focus s u))) (fetched (focus s u))) ∧
    (∀ u, IssuesNext s u → ¬Fetchable (focus s u) → step s = exec .notLandedFetch (fetched (focus s u))) ∧
    (∀ t i rest, s.agenda = (t, i) :: rest → t ≤ s.gtc → inputWaits i s = false → step s = if ofCore i = true then .next { s with agenda := rest } else exec i { s with agenda := rest }) ∧
    (∀ u, nextInput s = none → nextUnit s = some u → groupDue s u = false →
      (unitEvent s u = some .syncStopHalt → step s = exec (.syncStopHalt u) s) ∧ (∀ n, unitEvent s u = some (.evictWriteback n) → step s = exec (.evictWriteback u n) s) ∧
      (∀ n, unitEvent s u = some (.slotLoad n) → step s = exec (.slotLoad u n) s) ∧ (unitEvent s u = some .pwSetApply → step s = exec (.pwSetApply u) s) ∧
      (unitEvent s u = some .slotSelect → step s = exec (.slotSelect u) s) ∧ (unitEvent s u = some .sliceExpiry → step s = exec (.sliceExpiry u) s) ∧
      (unitEvent s u = some .asyncTrap → step s = exec (.asyncTrap u) s) ∧ (unitEvent s u = some .quireSuspend → step s = exec (.quireSuspend u) s) ∧
      (unitEvent s u = some .qredSuspend → step s = exec (.qredSuspend u) s)) ∧
    (∀ u, nextInput s = none → nextUnit s = some u → groupDue s u = true → step s = .next (groupHaltCore u s)) ∧
    (nextInput s = none → nextUnit s = none → step s = exec .issueCycle s)

/-- Words written out from the encodings of R111 to R117, one or more of every family, decode to the instructions they stand for. -/
def Obligations.WordsDecode : Prop :=
  decodeWord 0x88146483#32 = some (.ldd 2#2 2#4 1#6 8#5 9#5) ∧ decodeWord 0x8004010B#32 = some (.ldv 2#2 0#4 0#6 8#5 2#5) ∧ decodeWord 0x2784040F#32 = some (.addi 0#2 0x278#10 8#5 8#5) ∧
  decodeWord 0x48D1641F#32 = some (.lih 0x48D16#20 8#5) ∧ decodeWord 0x002016B3#32 = some (.loopi 0#2 2#10 3#8 1#2) ∧ decodeWord 0x003010B7#32 = some (.waitImm 0#2 1#15 0#1 3#4) ∧
  decodeWord 0x0402C03B#32 = some (.brk 0#2 5#10) ∧ decodeWord 0x0445A53F#32 = some (.ldaq 0#2 1#4 4#3 11#5 10#5) ∧ decodeWord 0xA6C695C3#32 = some (.amocas 1#1 0#1 1#1 12#5 13#5 1#3 11#5) ∧
  decodeWord 0x20310147#32 = some (.vadd 0#2 8#4 3#5 2#5 2#5) ∧ decodeWord 0x340480CF#32 = some (.vmsk 0#2 8#4 9#5 1#3) ∧ decodeWord 0x083010D7#32 = some (.teval 0#2 2#4 0#1 3#3 0#5 1#5) ∧
  decodeWord 0x0814005B#32 = some (.send 0#2 4#3 1#5 8#5) ∧ decodeWord 0x0030155F#32 = some (.qres 0#2 3#4 0#5 10#5) ∧ decodeWord 0x14041063#32 = some (.pmacs 0#2 5#4 8#5) ∧
  decodeWord 0x0C040067#32 = some (.segmv 0#2 3#4 8#5) ∧ decodeWord 0x081404EB#32 = some (.xld 0#2 2#4 1#6 8#5 9#5) ∧ decodeWord 0x000606EF#32 = some (.spawn 0#2 12#5 13#5) ∧
  decodeWord 0x0A049473#32 = some (.revoke 0#2 2#4 1#1 9#5 8#5) ∧ decodeWord 0x0024437B#32 = some (.fitw 0#2 2#4 8#5 6#5) ∧ decodeWord 0x0000007F#32 = some (.nop 0#2) ∧
  decodeParcel 0x23F4#16 = some (.cAddi 0#3 0xFD#8) ∧ decodeParcel 0x6408#16 = some (.cLdd 1#3 0#3 2#5) ∧ decodeParcel 0xC000#16 = some .cNop

/-- Decoding and encoding agree (R110 to R117): of every well-formed instruction that has an encoding, with every operand at every value, the bytes decode to that instruction and its size, whatever follows them. -/
def Obligations.DecodeEncode : Prop :=
  ∀ (i : Instr) (rest : List Byte), wellFormed i = true → encode i ≠ none → decodeBytes (encodeBytes i ++ rest) = .ok i (encodeBytes i).length

/-- Memory keeps its canonical form: whatever a step does, from every state whose memory has it (R48, R105, R154: every byte of the device's storage is one byte with one value). Where it rests on the model's own choices: log 2. -/
def Obligations.MemoryStaysCanonical : Prop := ∀ (s t : State), Memory.wf s.mem = true → step s = .next t → Memory.wf t.mem = true

/-- The machine right after reset (R101, R245, R307, R423, R427): no power, nothing released, memory in canonical form with nothing listed, GTC 0, every register whose reset the spec gives at that value. Where it rests on the model's own choices: log 1, 2. -/
def Obligations.ResetState : Prop :=
  let s := State.reset
  Memory.wf s.mem = true ∧ s.mem = [] ∧ s.gtc = 0 ∧ s.hub.boot.powered = false ∧ s.hub.boot.phase = 0#4 ∧ s.hub.boot.harts = 0#4 ∧ s.hub.boot.coreRel = false ∧
  (∀ p : BitVec 3, (getPart s p).slice = 65536#24) ∧ (∀ c : Fin 8, s.hub.acct.w[c] = 0#24) ∧ s.hub.acct.sw = 0#24 ∧ s.hub.acct.swc = 0#24 ∧
  (∀ d, (tabGet ({} : Die) s.dies d).wideDuty = 16#5 ∧ (tabGet ({} : Die) s.dies d).narrowDuty = 16#5) ∧
  ∀ u, (getCore s u).released = false ∧ (getCore s u).issuing = none ∧ (getCore s u).rf = 2#5 ∧ (getCore s u).acc = 0#5 ∧ (getCore s u).tags = [] ∧
    ∀ r : Reg, (getCore s u).ctx.regs.g[r.toNat]'(by simpa using r.isLt) = 0#64
/-! ### Rules stated whole -/

/-- The parcel rule (R110): the stream is one of little-endian 16-bit parcels; a first parcel whose bits [1:0] are 0b11 begins a 32-bit instruction, whose word has it in bits [15:0] and the second parcel in
bits [31:16]; every other parcel is a 16-bit compact form, in quadrant 0b00, 0b01 or 0b10. -/
def Obligations.ParcelsDecode : Prop :=
  ∀ (b0 b1 b2 b3 : Byte) (rest : List Byte),
    let p0 : BitVec 16 := b1 ++ b0
    let p1 : BitVec 16 := b3 ++ b2
    (p0.extractLsb' 0 2 = 3#2 → decodeBytes (b0 :: b1 :: b2 :: b3 :: rest) = (match decodeWord (p1 ++ p0) with | some i => .ok i 4 | none => .reject (.unassigned (p1 ++ p0))) ∧
      (p1 ++ p0).extractLsb' 0 16 = p0 ∧ (p1 ++ p0).extractLsb' 16 16 = p1) ∧
    (p0.extractLsb' 0 2 ≠ 3#2 → decodeBytes (b0 :: b1 :: rest) = (match decodeParcel p0 with | some i => .ok i 2 | none => .reject (.unassigned (p0.setWidth 32))) ∧
      p0.extractLsb' 0 2 ∈ [0#2, 1#2, 2#2])

/-- LIH (R171): g[d] := SEXT(imm20, 20) × 2^10 at latency 1, in major 7 of the U format with no SC, with its frame; LIH followed by ADDI builds any value from −2^29 − 512 to 2^29 − 513. -/
def Obligations.LihConstants : Prop :=
  (∀ (s : State) (imm : BitVec 20) (d : Reg), underWait s [] (some (.g d, 1)) = none → GivesG (.lih imm d) s 4 0 d (BitVec.ofInt 64 (imm.toInt * 2 ^ 10))) ∧
  (∀ (imm : BitVec 20) (d : Reg), encode (.lih imm d) = some (.word (imm ++ d ++ 7#5 ++ 3#2)) ∧ decodeWord (imm ++ d ++ 7#5 ++ 3#2) = some (.lih imm d)) ∧
  ∀ v : Int, -2 ^ 29 - 512 ≤ v → v ≤ 2 ^ 29 - 513 → ∃ (imm : BitVec 20) (low : BitVec 10), BitVec.ofInt 64 (imm.toInt * 2 ^ 10) + low.signExtend 64 = BitVec.ofInt 64 v

/-- BRK (R191): on a member of a group whose triggers are armed it halts that group, and the halted PC is the instruction after the BRK; otherwise it raises the exact BREAKPOINT trap with TRAP_VAL := code
and TRAP_PC := CODE_VA(PC) + 4, which in steward mode stops the slot (R365). -/
def Obligations.Breakpoints : Prop :=
  ∀ (s : State) (sc : BitVec 2) (code : BitVec 10) (g : BitVec 6),
    let member : Prop := tabGet none s.hub.hgOf s.cur = some g ∧ (haltGroupOf s g.toNat).armed = true
    let unarmed : Prop := ∀ h : BitVec 6, tabGet none s.hub.hgOf s.cur = some h → (haltGroupOf s h.toNat).armed = false
    (member → ∃ t, exec (.brk sc code) s = .next t ∧ (haltGroupOf t g.toNat).halted = true ∧
      ((haltGroupOf s g.toNat).xv = false → groupMembers s g.toNat = [s.cur] → s.core.amo = none → RunsIn s 0 → s.core.ctx.pend = [] → (∀ m : Fin 8, m ≠ 0 → s.core.slots[m].sst = .empty) →
        t.core.haltGroup = true ∧ t.core.issuing = none ∧ t.core.slots[0].ctx.rcd.state = .stopped ∧ t.core.slots[0].ctx.rcd.pre = .running ∧
        t.core.slots[0].ctx.regs.g = s.core.ctx.regs.g ∧ (∀ n, getByte t.mem n = getByte s.mem n) ∧
        ((∀ n : Fin 3, ¬EndsAt s (s.core.ctx.pc + 4#16) n) → t.core.slots[0].ctx.codePc = codeVa s (s.core.ctx.pc + 4#16)))) ∧
    (unarmed → User s → Traps (.brk sc code) s 14#8 (code.setWidth 64) (codeVa s s.core.ctx.pc + 4#56)) ∧
    (unarmed → s.core.ctx.ctl.steward = true → exec (.brk sc code) s = .next (faultStop 14#8 (charge 0 1 s)))
end

