-- ==== Sys2Proof/Laws/Flow.lean ====
section
/-! SUPPORT. Issue and control flow: what completing an instruction, a transfer of control and a write of a general register each leave. -/

namespace Sys2Proof.Machine

/-! ### General registers -/

/-- A general register after a write: the value where it is the destination and not g0, else as before (R119). -/
theorem ctxG_put (c : Ctx) (d r : Reg) (x : Word) : ctxG (ctxPutG c d x) r = if r = d ∧ d ≠ 0#5 then x else ctxG c r := by
  unfold ctxG ctxPutG
  by_cases hd : d = 0#5
  · simp [hd]
  · by_cases hr : r = 0#5
    · subst hr
      have : ¬ (0#5 = d) := fun h => hd h.symm
      simp [this]
    · by_cases h : r = d
      · subst h; simp [hd]
      · have : d.toNat ≠ r.toNat := fun h' => h (BitVec.eq_of_toNat_eq h'.symm)
        simp [hd, hr, h, this]

/-- The same through `putG`, the write of latency 1. -/
theorem rdG_putG (d r : Reg) (x : Word) (s : State) : rdG (putG d x s) r = if r = d ∧ d ≠ 0#5 then x else rdG s r := ctxG_put _ d r x

/-- `putG` changes the general registers and takes out the writes that it replaces (R127). -/
theorem putG_form (d : Reg) (x : Word) (s : State) :
    ∃ g, (putG d x s) = { s with core := { s.core with ctx := { s.core.ctx with
      pend := s.core.ctx.pend.filter fun p => !stalePend d (s.gtc + 1) p, regs := { s.core.ctx.regs with g := g } } } } := by
  unfold putG setCtx ctxPutG
  split
  · exact ⟨_, rfl⟩
  · exact ⟨_, rfl⟩

/-- A write at a latency above 1 joins the pending results, and one of g0 none. -/
theorem putGLater_form (lat : Nat) (d : Reg) (x : Word) (s : State) :
    putGLater lat d x s = { s with core := { s.core with ctx := { s.core.ctx with
      pend := s.core.ctx.pend ++ if d = 0#5 then [] else [(s.gtc + lat, .writeG d x)] } } } := by
  unfold putGLater
  split
  · rw [List.append_nil]
  · rfl

/-! ### ENERGY -/

/-- A charge of ENERGY changes nothing else but the cycle's sum of charges (R421, R424). -/
theorem addEnergy_frame (c : Ctx) (x : Nat) :
    ∃ e b, addEnergy c x = { c with recent := c.recent + x, ctl := { c.ctl with energy := e, energySat := b } } := by
  unfold addEnergy
  split
  · exact ⟨_, c.ctl.energySat, rfl⟩
  · exact ⟨_, _, rfl⟩

/-! ### Sequential flow (R179) -/

/-- The scan has ended. -/
theorem loopScan_end (q n' : BitVec 16) (c : Ctx) (n : Fin 3) : loopScan q (c, n', true) n = (c, n', true) := by
  simp [loopScan]

/-- A level that does not end at the address. -/
theorem loopScan_miss (q n' : BitVec 16) (c : Ctx) (n : Fin 3) (h : ¬(c.regs.loops[n].active = true ∧ c.regs.loops[n].stop = q)) :
    loopScan q (c, n', false) n = (c, n', false) := by
  unfold loopScan
  simp only [Bool.not_false, Bool.true_and]
  rw [if_neg]
  simpa using h

/-- A level that loops back. -/
theorem loopScan_back (q n' : BitVec 16) (c : Ctx) (n : Fin 3) (h : c.regs.loops[n].active = true ∧ c.regs.loops[n].stop = q) (h1 : 1 < c.regs.lc[n].toNat) :
    loopScan q (c, n', false) n = ({ c with regs := { c.regs with lc := c.regs.lc.set n (c.regs.lc[n] - 1#32) } }, c.regs.loops[n].start, true) := by
  unfold loopScan
  simp only [Bool.not_false, Bool.true_and]
  rw [if_pos (by simpa using h), if_pos h1]

/-- A level that ends. -/
theorem loopScan_done (q n' : BitVec 16) (c : Ctx) (n : Fin 3) (h : c.regs.loops[n].active = true ∧ c.regs.loops[n].stop = q) (h1 : ¬1 < c.regs.lc[n].toNat) :
    loopScan q (c, n', false) n = ({ c with regs := { c.regs with lc := c.regs.lc.set n 0#32, loops := c.regs.loops.set n { c.regs.loops[n] with active := false } } }, n', false) := by
  unfold loopScan
  simp only [Bool.not_false, Bool.true_and]
  rw [if_pos (by simpa using h), if_neg h1]

/-- The PC, the loop counts and the loop levels after sequential flow to `q` from a context (R179). -/
def FollowsBy (q : BitVec 16) (c : Ctx) (pc : BitVec 16) (lc : Vector (BitVec 32) 3) (loops : Vector LoopLevel 3) : Prop :=
  let hit (n : Fin 3) : Prop := c.regs.loops[n].active = true ∧ c.regs.loops[n].stop = q
  let stands (n : Fin 3) : Prop := lc[n] = c.regs.lc[n] ∧ loops[n] = c.regs.loops[n]
  let ended (n : Fin 3) : Prop := lc[n] = 0#32 ∧ loops[n] = { c.regs.loops[n] with active := false }
  let again (n : Fin 3) : Prop := hit n ∧ 1 < c.regs.lc[n].toNat
  (∀ n, again n → (∀ m, n < m → ¬again m) →
    pc = c.regs.loops[n].start ∧ lc[n] = c.regs.lc[n] - 1#32 ∧ loops[n] = c.regs.loops[n] ∧ (∀ m, m < n → stands m) ∧
    (∀ m, n < m → (hit m → ended m) ∧ (¬hit m → stands m))) ∧
  ((∀ n, ¬again n) → pc = q ∧ ∀ n, (hit n → ended n) ∧ (¬hit n → stands n))

/-- Three levels, one by one. -/
theorem fin3_all (P : Fin 3 → Prop) : (∀ n, P n) ↔ P 0 ∧ P 1 ∧ P 2 := by
  constructor
  · intro h; exact ⟨h 0, h 1, h 2⟩
  · rintro ⟨h0, h1, h2⟩ n
    rcases n with ⟨n, hn⟩
    interval_cases n
    · exact h0
    · exact h1
    · exact h2

/-- One level of the scan: it does not end at the address, it loops back, or it ends; the other levels stand. -/
theorem loopScan_spec (q n' : BitVec 16) (c : Ctx) (n : Fin 3) :
    ∃ lc loops next e, loopScan q (c, n', false) n = ({ c with regs := { c.regs with lc := lc, loops := loops } }, next, e) ∧
      (∀ m, m ≠ n → lc[m] = c.regs.lc[m] ∧ loops[m] = c.regs.loops[m]) ∧
      ((¬(c.regs.loops[n].active = true ∧ c.regs.loops[n].stop = q) ∧ lc[n] = c.regs.lc[n] ∧ loops[n] = c.regs.loops[n] ∧ next = n' ∧ e = false) ∨
       ((c.regs.loops[n].active = true ∧ c.regs.loops[n].stop = q) ∧ 1 < c.regs.lc[n].toNat ∧ lc[n] = c.regs.lc[n] - 1#32 ∧ loops[n] = c.regs.loops[n] ∧ next = c.regs.loops[n].start ∧ e = true) ∨
       ((c.regs.loops[n].active = true ∧ c.regs.loops[n].stop = q) ∧ ¬1 < c.regs.lc[n].toNat ∧ lc[n] = 0#32 ∧ loops[n] = { c.regs.loops[n] with active := false } ∧ next = n' ∧ e = false)) := by
  have ne (m : Fin 3) (h : m ≠ n) : n.val ≠ m.val := fun e => h (Fin.ext e.symm)
  by_cases a : c.regs.loops[n].active = true ∧ c.regs.loops[n].stop = q
  · by_cases b : 1 < c.regs.lc[n].toNat
    · exact ⟨_, c.regs.loops, _, _, loopScan_back q n' c n a b, fun m h => by simp [Fin.getElem_fin, ne m h], .inr (.inl ⟨a, b, by simp [Fin.getElem_fin], rfl, rfl, rfl⟩)⟩
    · exact ⟨_, _, _, _, loopScan_done q n' c n a b, fun m h => by simp [Fin.getElem_fin, ne m h], .inr (.inr ⟨a, b, by simp [Fin.getElem_fin], by simp [Fin.getElem_fin], rfl, rfl⟩)⟩
  · exact ⟨c.regs.lc, c.regs.loops, _, _, loopScan_miss q n' c n a, fun _ _ => ⟨rfl, rfl⟩, .inl ⟨a, rfl, rfl, rfl, rfl⟩⟩

/-- Sequential flow does what R179 says and nothing else. -/
theorem seqFlow_frame (c : Ctx) (q : BitVec 16) :
    ∃ pc lc loops, seqFlow c q = { c with pc := pc, regs := { c.regs with lc := lc, loops := loops } } ∧ FollowsBy q c pc lc loops := by
  obtain ⟨lc2, lp2, x2, e2, h2, o2, k2⟩ := loopScan_spec q q c 2
  obtain ⟨o20, p20⟩ := o2 0 (by decide)
  obtain ⟨o21, p21⟩ := o2 1 (by decide)
  unfold seqFlow
  rw [h2]
  rcases k2 with ⟨a2, s2, t2, hx, he⟩ | ⟨a2, b2, s2, t2, hx, he⟩ | ⟨a2, b2, s2, t2, hx, he⟩ <;> subst x2 <;> subst e2
  case inr.inl =>
    rw [loopScan_end, loopScan_end]
    refine ⟨_, _, _, rfl, ?_⟩
    simp only [FollowsBy, fin3_all, o20, p20, o21, p21, s2, t2]
    simp_all
  all_goals
    obtain ⟨lc1, lp1, x1, e1, h1, o1, k1⟩ := loopScan_spec q q { c with regs := { c.regs with lc := lc2, loops := lp2 } } 1
    obtain ⟨o10, p10⟩ := o1 0 (by decide)
    obtain ⟨o12, p12⟩ := o1 2 (by decide)
    rw [h1]
    simp only [o20, p20, o21, p21, s2, t2] at o10 p10 o12 p12 k1
    clear h1 h2 o1 o2
    rcases k1 with ⟨a1, s1, t1, hx, he⟩ | ⟨a1, b1, s1, t1, hx, he⟩ | ⟨a1, b1, s1, t1, hx, he⟩ <;> subst x1 <;> subst e1
  case' inl.inr.inl => rw [loopScan_end]; refine ⟨_, _, _, rfl, ?_⟩
  case' inr.inr.inr.inl => rw [loopScan_end]; refine ⟨_, _, _, rfl, ?_⟩
  case inl.inr.inl =>
    simp only [FollowsBy, fin3_all, o10, p10, o12, p12, s1, t1]
    simp_all
  case inr.inr.inr.inl =>
    simp only [FollowsBy, fin3_all, o10, p10, o12, p12, s1, t1]
    simp_all
  all_goals
    obtain ⟨lc0, lp0, x0, e0, h0, o0, k0⟩ := loopScan_spec q q { c with regs := { c.regs with lc := lc1, loops := lp1 } } 0
    obtain ⟨o01, p01⟩ := o0 1 (by decide)
    obtain ⟨o02, p02⟩ := o0 2 (by decide)
    rw [h0]
    simp only [o10, p10, o12, p12, s1, t1] at o01 p01 o02 p02 k0
    clear h0 o0
    refine ⟨_, _, _, rfl, ?_⟩
    simp only [FollowsBy, fin3_all, o01, p01, o02, p02]
    clear o01 p01 o02 p02 o10 p10 o12 p12 o20 o21 p20 p21
    rcases k0 with ⟨a0, s0, t0, hx, he⟩ | ⟨a0, b0, s0, t0, hx, he⟩ | ⟨a0, b0, s0, t0, hx, he⟩ <;> subst x0 <;> simp only [s0, t0] <;> simp_all

/-- An instruction that completes without transferring control: the PC and loop state by R179, ENERGY, and when the next issues; nothing else changes. -/
theorem retireBy_eq (size cls extra : Nat) (s : State) :
    ∃ e b n pc lc loops,
      retireBy size cls extra s = { s with core := { s.core with
        ctx := { s.core.ctx with recent := n, pc := pc, regs := { s.core.ctx.regs with lc := lc, loops := loops }
                                 ctl := { s.core.ctx.ctl with energy := e, energySat := b } }
        nextIssue := s.gtc + 1 + extra, holdSince := none, holdSwitch := false, accepted := false, answer := none, asked := none } } ∧
      FollowsBy (s.core.ctx.pc + BitVec.ofNat 16 size) s.core.ctx pc lc loops := by
  obtain ⟨e, b, he⟩ := addEnergy_frame s.core.ctx (chargeOf s cls 1)
  unfold retireBy issued charge setCtx
  simp only [he]
  obtain ⟨pc, lc, loops, hs, hp⟩ := seqFlow_frame { s.core.ctx with recent := s.core.ctx.recent + chargeOf s cls 1, ctl := { s.core.ctx.ctl with energy := e, energySat := b } }
    (s.core.ctx.pc + BitVec.ofNat 16 size)
  exact ⟨e, b, _, pc, lc, loops, by rw [hs], hp⟩

/-! ### Transfers of control (R176, R180) -/

/-- Ending one level. -/
theorem endLevel_frame (x : BitVec 16) (c : Ctx) (n : Fin 3) :
    ∃ lc loops, endLevel x c n = { c with regs := { c.regs with lc := lc, loops := loops } } ∧
      (∀ m, m ≠ n → lc[m] = c.regs.lc[m] ∧ loops[m] = c.regs.loops[m]) ∧
      ((c.regs.loops[n].active = true ∧ ¬(x - c.regs.loops[n].start).toNat < (c.regs.loops[n].stop - c.regs.loops[n].start).toNat) →
        lc[n] = 0#32 ∧ loops[n] = { c.regs.loops[n] with active := false }) ∧
      (¬(c.regs.loops[n].active = true ∧ ¬(x - c.regs.loops[n].start).toNat < (c.regs.loops[n].stop - c.regs.loops[n].start).toNat) →
        lc[n] = c.regs.lc[n] ∧ loops[n] = c.regs.loops[n]) := by
  unfold endLevel
  simp only
  split
  · rename_i h
    refine ⟨_, _, rfl, ?_, ?_, ?_⟩
    · intro m hm
      have : n.val ≠ m.val := fun h => hm (Fin.ext h.symm)
      simp [Fin.getElem_fin, this]
    · intro _; simp [Fin.getElem_fin]
    · intro h'; simp at h h'; have := h' h.1; omega
  · rename_i h
    refine ⟨c.regs.lc, c.regs.loops, rfl, fun m _ => ⟨rfl, rfl⟩, ?_, fun _ => ⟨rfl, rfl⟩⟩
    intro h'; simp at h h'; have := h h'.1; omega

/-- A transfer of control: the PC, the levels that it leaves, ENERGY, and when the next issues; nothing else changes. -/
theorem transfer_eq (sc : BitVec 2) (x : BitVec 16) (s : State) :
    ∃ e b n lc loops,
      transfer sc x s = { s with core := { s.core with
        ctx := { s.core.ctx with recent := n, pc := x, regs := { s.core.ctx.regs with lc := lc, loops := loops }
                                 ctl := { s.core.ctx.ctl with energy := e, energySat := b } }
        nextIssue := s.gtc + 1 + sc.toNat, holdSince := none, holdSwitch := false, accepted := false, answer := none, asked := none } } ∧
      ∀ n : Fin 3,
        let l := s.core.ctx.regs.loops[n]
        let outside := l.active = true ∧ ¬(x - l.start).toNat < (l.stop - l.start).toNat
        (outside → lc[n] = 0#32 ∧ loops[n] = { l with active := false }) ∧ (¬outside → lc[n] = s.core.ctx.regs.lc[n] ∧ loops[n] = l) := by
  obtain ⟨e, b, he⟩ := addEnergy_frame s.core.ctx (chargeOf s 0 1)
  unfold transfer issued charge setCtx endLevels
  simp only [he]
  obtain ⟨a0, b0, h0, f0, g0, k0⟩ := endLevel_frame x { s.core.ctx with recent := s.core.ctx.recent + chargeOf s 0 1, ctl := { s.core.ctx.ctl with energy := e, energySat := b } } 0
  rw [h0]
  obtain ⟨a1, b1, h1, f1, g1, k1⟩ := endLevel_frame x { s.core.ctx with recent := s.core.ctx.recent + chargeOf s 0 1, ctl := { s.core.ctx.ctl with energy := e, energySat := b }, regs := { s.core.ctx.regs with lc := a0, loops := b0 } } 1
  rw [h1]
  obtain ⟨a2, b2, h2, f2, g2, k2⟩ := endLevel_frame x { s.core.ctx with recent := s.core.ctx.recent + chargeOf s 0 1, ctl := { s.core.ctx.ctl with energy := e, energySat := b }, regs := { s.core.ctx.regs with lc := a1, loops := b1 } } 2
  rw [h2]
  refine ⟨e, b, _, a2, b2, rfl, ?_⟩
  rw [fin3_all]
  have q1 := f0 1 (by decide); have q2 := f0 2 (by decide)
  have r0 := f1 0 (by decide); have r2 := f1 2 (by decide)
  have t0 := f2 0 (by decide); have t1 := f2 1 (by decide)
  simp only at *
  refine ⟨?_, ?_, ?_⟩
  · rw [t0.1, t0.2, r0.1, r0.2]; exact ⟨g0, k0⟩
  · rw [t1.1, t1.2]; rw [q1.1, q1.2] at k1; rw [q1.2] at g1; exact ⟨g1, k1⟩
  · rw [r2.1, r2.2, q2.1, q2.2] at k2; rw [r2.2, q2.2] at g2; exact ⟨g2, k2⟩

end Sys2Proof.Machine
end

