-- ==== Sys2Proof/Laws/Memory.lean ====
section
/-! SUPPORT. Laws of sparse tables and of memory: reading what was written, leaving every other place alone, and keeping the canonical form. -/

namespace Sys2Proof.Machine

section Tables
variable {α : Type}

/-- Below its lower bound a canonical table holds the default. -/
theorem tabGet_below [DecidableEq α] {d : α} {lo k : Nat} {t : Tab α} (h : tabWfFrom d lo t = true) (hk : k < lo) : tabGet d t k = d := by
  cases t with
  | nil => rfl
  | cons p t =>
    obtain ⟨k', y⟩ := p
    simp only [tabWfFrom, Bool.and_eq_true, decide_eq_true_eq] at h
    have : k < k' := by omega
    simp [tabGet, this, Nat.ne_of_lt this]

/-- A canonical table stays canonical under a lower bound. -/
theorem tabWfFrom_mono [DecidableEq α] {d : α} {lo hi : Nat} {t : Tab α} (h : tabWfFrom d hi t = true) (hl : lo ≤ hi) : tabWfFrom d lo t = true := by
  cases t with
  | nil => rfl
  | cons p t =>
    obtain ⟨k', y⟩ := p
    simp only [tabWfFrom, Bool.and_eq_true, decide_eq_true_eq] at h ⊢
    exact ⟨⟨by omega, h.1.2⟩, h.2⟩

/-- Setting a key keeps the canonical form above a bound. -/
theorem tabSet_wfFrom [DecidableEq α] {d : α} {lo k : Nat} {x : α} {t : Tab α} (h : tabWfFrom d lo t = true) (hk : lo ≤ k) :
    tabWfFrom d lo (tabSet d t k x) = true := by
  induction t generalizing lo with
  | nil =>
    unfold tabSet
    split
    · rfl
    · simp [tabWfFrom, *]
  | cons p t ih =>
    obtain ⟨k', y⟩ := p
    simp only [tabWfFrom, Bool.and_eq_true, decide_eq_true_eq] at h
    obtain ⟨⟨h1, h2⟩, h3⟩ := h
    unfold tabSet
    split
    · split
      · exact tabWfFrom_mono h3 (by omega)
      · rename_i e n
        subst e
        simp [tabWfFrom, *]
    · split
      · split
        · simp [tabWfFrom, *]
        · rename_i n l e
          simp only [tabWfFrom, Bool.and_eq_true, decide_eq_true_eq]
          exact ⟨⟨hk, e⟩, ⟨by omega, h2⟩, h3⟩
      · rename_i n l
        simp only [tabWfFrom, Bool.and_eq_true, decide_eq_true_eq]
        exact ⟨⟨h1, h2⟩, ih h3 (by omega)⟩

/-- Setting a key keeps the canonical form. -/
theorem tabSet_wf [DecidableEq α] {d : α} {k : Nat} {x : α} {t : Tab α} (h : tabWf d t = true) : tabWf d (tabSet d t k x) = true :=
  tabSet_wfFrom h (Nat.zero_le k)

/-- A key reads what it was set to, in a canonical table. -/
theorem tabGet_tabSet_same [DecidableEq α] {d : α} {lo k : Nat} {x : α} {t : Tab α} (h : tabWfFrom d lo t = true) : tabGet d (tabSet d t k x) k = x := by
  induction t generalizing lo with
  | nil =>
    unfold tabSet
    split
    · rename_i e; simp [tabGet, e]
    · simp [tabGet]
  | cons p t ih =>
    obtain ⟨k', y⟩ := p
    simp only [tabWfFrom, Bool.and_eq_true, decide_eq_true_eq] at h
    unfold tabSet
    split
    · rename_i e
      split
      · rename_i e2; rw [e2]; exact tabGet_below h.2 (by omega)
      · simp [tabGet]
    · split
      · rename_i n l
        split
        · rename_i e; rw [e]; simp [tabGet, n, l]
        · simp [tabGet]
      · rename_i n l
        simp only [tabGet, n, l, if_false]
        exact ih h.2

/-- A key reads what it was set to where that is not the default, in any table. -/
theorem tabGet_tabSet_ne [DecidableEq α] {d : α} {k : Nat} {x : α} {t : Tab α} (h : x ≠ d) : tabGet d (tabSet d t k x) k = x := by
  induction t with
  | nil => simp [tabSet, tabGet, h]
  | cons p t ih =>
    obtain ⟨k', y⟩ := p
    unfold tabSet
    split
    · simp [tabGet]
    · split
      · simp [tabGet]
      · rename_i n l; simp [tabGet, n, l, ih]

/-- Every other key reads as before, in a canonical table. -/
theorem tabGet_tabSet_other [DecidableEq α] {d : α} {lo k a : Nat} {x : α} {t : Tab α} (h : tabWfFrom d lo t = true) (ha : a ≠ k) :
    tabGet d (tabSet d t k x) a = tabGet d t a := by
  induction t generalizing lo with
  | nil =>
    unfold tabSet
    split
    · rfl
    · simp [tabGet, ha]
  | cons p t ih =>
    obtain ⟨k', y⟩ := p
    simp only [tabWfFrom, Bool.and_eq_true, decide_eq_true_eq] at h
    unfold tabSet
    split
    · rename_i e
      subst e
      split
      · by_cases hl : a < k
        · simp [tabGet, ha, hl, tabGet_below h.2 (by omega : a < k + 1)]
        · simp [tabGet, ha, hl]
      · simp [tabGet, ha]
    · split
      · rename_i n l
        split
        · rfl
        · by_cases hl : a < k
          · have h1 : a ≠ k' := by omega
            have h2 : a < k' := by omega
            simp [tabGet, ha, hl, h1, h2]
          · simp [tabGet, ha, hl]
      · simp only [tabGet]
        rw [ih h.2]

/-- Every other key reads as before, in any table, where the new value is not the default. -/
theorem tabGet_tabSet_other_ne [DecidableEq α] {d : α} {k a : Nat} {x : α} {t : Tab α} (h : x ≠ d) (ha : a ≠ k) : tabGet d (tabSet d t k x) a = tabGet d t a := by
  induction t with
  | nil => simp [tabSet, tabGet, h, ha]
  | cons p t ih =>
    obtain ⟨k', y⟩ := p
    unfold tabSet
    split
    · rename_i e; subst e; simp [tabGet, ha]
    · split
      · rename_i n l
        by_cases hl : a < k
        · simp [tabGet, ha, hl, show a ≠ k' by omega, show a < k' by omega]
        · simp [tabGet, ha, hl]
      · rename_i n l; simp [tabGet, ih]

end Tables

/-! ### Bytes -/

@[simp] theorem Memory.wf_nil : Memory.wf [] = true := rfl

theorem setByte_wf {m : List Host.Cell} {a : Nat} {x : Byte} (h : Memory.wf m = true) : Memory.wf (setByte m a x) = true := tabSet_wf h

theorem getByte_setByte_same {m : List Host.Cell} {a : Nat} {x : Byte} (h : Memory.wf m = true) : getByte (setByte m a x) a = x := tabGet_tabSet_same h

theorem getByte_setByte_other {m : List Host.Cell} {a b : Nat} {x : Byte} (h : Memory.wf m = true) (hb : b ≠ a) :
    getByte (setByte m a x) b = getByte m b := tabGet_tabSet_other h hb

theorem setBytes_wf {m : List Host.Cell} {a : Nat} {bs : List Byte} (h : Memory.wf m = true) : Memory.wf (setBytes m a bs) = true := by
  induction bs generalizing m a with
  | nil => exact h
  | cons b bs ih => exact ih (setByte_wf h)

theorem setLe_wf {m : List Host.Cell} {a n x : Nat} (h : Memory.wf m = true) : Memory.wf (setLe m a n x) = true := setBytes_wf h

theorem setCells_wf {m : List Host.Cell} {key : Nat} {cells : List (Nat × Byte)} (h : Memory.wf m = true) : Memory.wf (setCells m key cells) = true := by
  induction cells generalizing m with
  | nil => exact h
  | cons c cs ih => exact ih (setByte_wf h)

theorem setAD_wf {m : List Host.Cell} {l : Leaf} {w : Bool} (h : Memory.wf m = true) : Memory.wf (setAD m l w) = true := setByte_wf h

theorem writeRanges_wf {m : List Host.Cell} {a : Nat} {es : List RangeEntry} (h : Memory.wf m = true) : Memory.wf (writeRanges m a es) = true := by
  induction es generalizing m a with
  | nil => exact h
  | cons e es ih => exact ih (setLe_wf h)

/-- Bytes outside a store read as before. -/
theorem getByte_setBytes_other {m : List Host.Cell} {a b : Nat} {bs : List Byte} (h : Memory.wf m = true) (hb : b < a ∨ a + bs.length ≤ b) :
    getByte (setBytes m a bs) b = getByte m b := by
  induction bs generalizing m a with
  | nil => rfl
  | cons x bs ih =>
    simp only [List.length_cons] at hb
    simp only [setBytes]
    rw [ih (setByte_wf h) (by omega), getByte_setByte_other h (by omega)]

/-- A stored byte reads back. -/
theorem getByte_setBytes {m : List Host.Cell} {a i : Nat} {bs : List Byte} (h : Memory.wf m = true) (hi : i < bs.length) :
    getByte (setBytes m a bs) (a + i) = bs[i] := by
  induction bs generalizing m a i with
  | nil => simp at hi
  | cons x bs ih =>
    simp only [setBytes]
    cases i with
    | zero =>
      rw [getByte_setBytes_other (setByte_wf h) (by omega)]
      exact getByte_setByte_same h
    | succ i =>
      have := ih (m := setByte m a x) (a := a + 1) (i := i) (setByte_wf h) (by simpa using hi)
      rw [show a + (i + 1) = a + 1 + i from by omega, this]
      rfl

theorem getBytes_length (m : List Host.Cell) (a n : Nat) : (getBytes m a n).length = n := by
  induction n generalizing a with
  | zero => rfl
  | succ n ih => simp [getBytes, ih]

/-- What is stored is what is read. -/
theorem getBytes_setBytes {m : List Host.Cell} {a : Nat} {bs : List Byte} (h : Memory.wf m = true) : getBytes (setBytes m a bs) a bs.length = bs := by
  induction bs generalizing m a with
  | nil => rfl
  | cons x bs ih =>
    simp only [List.length_cons, getBytes]
    rw [show setBytes m a (x :: bs) = setBytes (setByte m a x) (a + 1) bs from rfl, ih (setByte_wf h),
      getByte_setBytes_other (setByte_wf h) (by omega), getByte_setByte_same h]

theorem leBytes_length (n x : Nat) : (leBytes n x).length = n := by
  induction n generalizing x with
  | zero => rfl
  | succ n ih => simp [leBytes, ih]

theorem leNat_leBytes (n x : Nat) : leNat (leBytes n x) = x % 256 ^ n := by
  induction n generalizing x with
  | zero => simp [leBytes, leNat, Nat.mod_one]
  | succ n ih =>
    have h8 : (BitVec.ofNat 8 x).toNat = x % 256 := BitVec.toNat_ofNat x 8
    simp only [leBytes, leNat, ih, h8]
    rw [Nat.pow_succ, Nat.mul_comm (256 ^ n), Nat.mod_mul]

/-- A stored little-endian number reads back. -/
theorem getLe_setLe {m : List Host.Cell} {a n x : Nat} (h : Memory.wf m = true) : getLe (setLe m a n x) a n = x % 256 ^ n := by
  have := getBytes_setBytes (a := a) (bs := leBytes n x) h
  rw [leBytes_length] at this
  unfold getLe setLe
  rw [this, leNat_leBytes]

/-! ### Reset -/

theorem reset_mem_wf : Memory.wf State.reset.mem = true := rfl

end Sys2Proof.Machine
end

