-- ==== Sys2Proof/Laws/State.lean ====
section
/-! SUPPORT. What each update of the state leaves: one equation per field and update, so that a proof need not unfold a record update. -/

namespace Sys2Proof.Machine


/-! ### setCtx -/

@[simp] theorem setCtx_gtc (s : State) (c : Ctx) : (setCtx s c).gtc = s.gtc := rfl
@[simp] theorem setCtx_cur (s : State) (c : Ctx) : (setCtx s c).cur = s.cur := rfl
@[simp] theorem setCtx_others (s : State) (c : Ctx) : (setCtx s c).others = s.others := rfl
@[simp] theorem setCtx_mem (s : State) (c : Ctx) : (setCtx s c).mem = s.mem := rfl
@[simp] theorem setCtx_tiles (s : State) (c : Ctx) : (setCtx s c).tiles = s.tiles := rfl
@[simp] theorem setCtx_quads (s : State) (c : Ctx) : (setCtx s c).quads = s.quads := rfl
@[simp] theorem setCtx_dies (s : State) (c : Ctx) : (setCtx s c).dies = s.dies := rfl
@[simp] theorem setCtx_galleys (s : State) (c : Ctx) : (setCtx s c).galleys = s.galleys := rfl
@[simp] theorem setCtx_net (s : State) (c : Ctx) : (setCtx s c).net = s.net := rfl
@[simp] theorem setCtx_hub (s : State) (c : Ctx) : (setCtx s c).hub = s.hub := rfl
@[simp] theorem setCtx_races (s : State) (c : Ctx) : (setCtx s c).races = s.races := rfl
@[simp] theorem setCtx_asides (s : State) (c : Ctx) : (setCtx s c).asides = s.asides := rfl
@[simp] theorem setCtx_freeCtr (s : State) (c : Ctx) : (setCtx s c).freeCtr = s.freeCtr := rfl
@[simp] theorem setCtx_agenda (s : State) (c : Ctx) : (setCtx s c).agenda = s.agenda := rfl
@[simp] theorem setCtx_core_released (s : State) (c : Ctx) : (setCtx s c).core.released = s.core.released := rfl
@[simp] theorem setCtx_core_issuing (s : State) (c : Ctx) : (setCtx s c).core.issuing = s.core.issuing := rfl
@[simp] theorem setCtx_core_ctx (s : State) (c : Ctx) : (setCtx s c).core.ctx = c := rfl
@[simp] theorem setCtx_core_slots (s : State) (c : Ctx) : (setCtx s c).core.slots = s.core.slots := rfl
@[simp] theorem setCtx_core_nextIssue (s : State) (c : Ctx) : (setCtx s c).core.nextIssue = s.core.nextIssue := rfl
@[simp] theorem setCtx_core_holdSince (s : State) (c : Ctx) : (setCtx s c).core.holdSince = s.core.holdSince := rfl
@[simp] theorem setCtx_core_holdSwitch (s : State) (c : Ctx) : (setCtx s c).core.holdSwitch = s.core.holdSwitch := rfl
@[simp] theorem setCtx_core_ir (s : State) (c : Ctx) : (setCtx s c).core.ir = s.core.ir := rfl
@[simp] theorem setCtx_core_selectedAt (s : State) (c : Ctx) : (setCtx s c).core.selectedAt = s.core.selectedAt := rfl
@[simp] theorem setCtx_core_starts (s : State) (c : Ctx) : (setCtx s c).core.starts = s.core.starts := rfl
@[simp] theorem setCtx_core_turns (s : State) (c : Ctx) : (setCtx s c).core.turns = s.core.turns := rfl
@[simp] theorem setCtx_core_segs (s : State) (c : Ctx) : (setCtx s c).core.segs = s.core.segs := rfl
@[simp] theorem setCtx_core_bootSeg (s : State) (c : Ctx) : (setCtx s c).core.bootSeg = s.core.bootSeg := rfl
@[simp] theorem setCtx_core_fetches (s : State) (c : Ctx) : (setCtx s c).core.fetches = s.core.fetches := rfl
@[simp] theorem setCtx_core_rf (s : State) (c : Ctx) : (setCtx s c).core.rf = s.core.rf := rfl
@[simp] theorem setCtx_core_acc (s : State) (c : Ctx) : (setCtx s c).core.acc = s.core.acc := rfl
@[simp] theorem setCtx_core_pw (s : State) (c : Ctx) : (setCtx s c).core.pw = s.core.pw := rfl
@[simp] theorem setCtx_core_tags (s : State) (c : Ctx) : (setCtx s c).core.tags = s.core.tags := rfl
@[simp] theorem setCtx_core_scales (s : State) (c : Ctx) : (setCtx s c).core.scales = s.core.scales := rfl
@[simp] theorem setCtx_core_quires (s : State) (c : Ctx) : (setCtx s c).core.quires = s.core.quires := rfl
@[simp] theorem setCtx_core_freed (s : State) (c : Ctx) : (setCtx s c).core.freed = s.core.freed := rfl
@[simp] theorem setCtx_core_copies (s : State) (c : Ctx) : (setCtx s c).core.copies = s.core.copies := rfl
@[simp] theorem setCtx_core_lastTid (s : State) (c : Ctx) : (setCtx s c).core.lastTid = s.core.lastTid := rfl
@[simp] theorem setCtx_core_log (s : State) (c : Ctx) : (setCtx s c).core.log = s.core.log := rfl
@[simp] theorem setCtx_core_journal (s : State) (c : Ctx) : (setCtx s c).core.journal = s.core.journal := rfl
@[simp] theorem setCtx_core_amo (s : State) (c : Ctx) : (setCtx s c).core.amo = s.core.amo := rfl
@[simp] theorem setCtx_core_divs (s : State) (c : Ctx) : (setCtx s c).core.divs = s.core.divs := rfl
@[simp] theorem setCtx_core_seqNo (s : State) (c : Ctx) : (setCtx s c).core.seqNo = s.core.seqNo := rfl
@[simp] theorem setCtx_core_dropped (s : State) (c : Ctx) : (setCtx s c).core.dropped = s.core.dropped := rfl
@[simp] theorem setCtx_core_sendSeq (s : State) (c : Ctx) : (setCtx s c).core.sendSeq = s.core.sendSeq := rfl
@[simp] theorem setCtx_core_stopAt (s : State) (c : Ctx) : (setCtx s c).core.stopAt = s.core.stopAt := rfl
@[simp] theorem setCtx_core_haltStop (s : State) (c : Ctx) : (setCtx s c).core.haltStop = s.core.haltStop := rfl
@[simp] theorem setCtx_core_haltGroup (s : State) (c : Ctx) : (setCtx s c).core.haltGroup = s.core.haltGroup := rfl
@[simp] theorem setCtx_core_haltReq (s : State) (c : Ctx) : (setCtx s c).core.haltReq = s.core.haltReq := rfl
@[simp] theorem setCtx_core_resume (s : State) (c : Ctx) : (setCtx s c).core.resume = s.core.resume := rfl
@[simp] theorem setCtx_core_ranFor (s : State) (c : Ctx) : (setCtx s c).core.ranFor = s.core.ranFor := rfl
@[simp] theorem setCtx_core_plb (s : State) (c : Ctx) : (setCtx s c).core.plb = s.core.plb := rfl
@[simp] theorem setCtx_core_galley (s : State) (c : Ctx) : (setCtx s c).core.galley = s.core.galley := rfl
@[simp] theorem setCtx_core_fences (s : State) (c : Ctx) : (setCtx s c).core.fences = s.core.fences := rfl
@[simp] theorem setCtx_core_engSeq (s : State) (c : Ctx) : (setCtx s c).core.engSeq = s.core.engSeq := rfl
@[simp] theorem setCtx_core_gtcSeen (s : State) (c : Ctx) : (setCtx s c).core.gtcSeen = s.core.gtcSeen := rfl
@[simp] theorem setCtx_core_accepted (s : State) (c : Ctx) : (setCtx s c).core.accepted = s.core.accepted := rfl
@[simp] theorem setCtx_core_answer (s : State) (c : Ctx) : (setCtx s c).core.answer = s.core.answer := rfl
@[simp] theorem setCtx_core_asked (s : State) (c : Ctx) : (setCtx s c).core.asked = s.core.asked := rfl

/-! ### setCtl -/

@[simp] theorem setCtl_gtc (s : State) (c : Ctl) : (setCtl s c).gtc = s.gtc := rfl
@[simp] theorem setCtl_cur (s : State) (c : Ctl) : (setCtl s c).cur = s.cur := rfl
@[simp] theorem setCtl_others (s : State) (c : Ctl) : (setCtl s c).others = s.others := rfl
@[simp] theorem setCtl_mem (s : State) (c : Ctl) : (setCtl s c).mem = s.mem := rfl
@[simp] theorem setCtl_tiles (s : State) (c : Ctl) : (setCtl s c).tiles = s.tiles := rfl
@[simp] theorem setCtl_quads (s : State) (c : Ctl) : (setCtl s c).quads = s.quads := rfl
@[simp] theorem setCtl_dies (s : State) (c : Ctl) : (setCtl s c).dies = s.dies := rfl
@[simp] theorem setCtl_galleys (s : State) (c : Ctl) : (setCtl s c).galleys = s.galleys := rfl
@[simp] theorem setCtl_net (s : State) (c : Ctl) : (setCtl s c).net = s.net := rfl
@[simp] theorem setCtl_hub (s : State) (c : Ctl) : (setCtl s c).hub = s.hub := rfl
@[simp] theorem setCtl_races (s : State) (c : Ctl) : (setCtl s c).races = s.races := rfl
@[simp] theorem setCtl_asides (s : State) (c : Ctl) : (setCtl s c).asides = s.asides := rfl
@[simp] theorem setCtl_freeCtr (s : State) (c : Ctl) : (setCtl s c).freeCtr = s.freeCtr := rfl
@[simp] theorem setCtl_agenda (s : State) (c : Ctl) : (setCtl s c).agenda = s.agenda := rfl
@[simp] theorem setCtl_core_released (s : State) (c : Ctl) : (setCtl s c).core.released = s.core.released := rfl
@[simp] theorem setCtl_core_issuing (s : State) (c : Ctl) : (setCtl s c).core.issuing = s.core.issuing := rfl
@[simp] theorem setCtl_core_slots (s : State) (c : Ctl) : (setCtl s c).core.slots = s.core.slots := rfl
@[simp] theorem setCtl_core_nextIssue (s : State) (c : Ctl) : (setCtl s c).core.nextIssue = s.core.nextIssue := rfl
@[simp] theorem setCtl_core_holdSince (s : State) (c : Ctl) : (setCtl s c).core.holdSince = s.core.holdSince := rfl
@[simp] theorem setCtl_core_holdSwitch (s : State) (c : Ctl) : (setCtl s c).core.holdSwitch = s.core.holdSwitch := rfl
@[simp] theorem setCtl_core_ir (s : State) (c : Ctl) : (setCtl s c).core.ir = s.core.ir := rfl
@[simp] theorem setCtl_core_selectedAt (s : State) (c : Ctl) : (setCtl s c).core.selectedAt = s.core.selectedAt := rfl
@[simp] theorem setCtl_core_starts (s : State) (c : Ctl) : (setCtl s c).core.starts = s.core.starts := rfl
@[simp] theorem setCtl_core_turns (s : State) (c : Ctl) : (setCtl s c).core.turns = s.core.turns := rfl
@[simp] theorem setCtl_core_segs (s : State) (c : Ctl) : (setCtl s c).core.segs = s.core.segs := rfl
@[simp] theorem setCtl_core_bootSeg (s : State) (c : Ctl) : (setCtl s c).core.bootSeg = s.core.bootSeg := rfl
@[simp] theorem setCtl_core_fetches (s : State) (c : Ctl) : (setCtl s c).core.fetches = s.core.fetches := rfl
@[simp] theorem setCtl_core_rf (s : State) (c : Ctl) : (setCtl s c).core.rf = s.core.rf := rfl
@[simp] theorem setCtl_core_acc (s : State) (c : Ctl) : (setCtl s c).core.acc = s.core.acc := rfl
@[simp] theorem setCtl_core_pw (s : State) (c : Ctl) : (setCtl s c).core.pw = s.core.pw := rfl
@[simp] theorem setCtl_core_tags (s : State) (c : Ctl) : (setCtl s c).core.tags = s.core.tags := rfl
@[simp] theorem setCtl_core_scales (s : State) (c : Ctl) : (setCtl s c).core.scales = s.core.scales := rfl
@[simp] theorem setCtl_core_quires (s : State) (c : Ctl) : (setCtl s c).core.quires = s.core.quires := rfl
@[simp] theorem setCtl_core_freed (s : State) (c : Ctl) : (setCtl s c).core.freed = s.core.freed := rfl
@[simp] theorem setCtl_core_copies (s : State) (c : Ctl) : (setCtl s c).core.copies = s.core.copies := rfl
@[simp] theorem setCtl_core_lastTid (s : State) (c : Ctl) : (setCtl s c).core.lastTid = s.core.lastTid := rfl
@[simp] theorem setCtl_core_log (s : State) (c : Ctl) : (setCtl s c).core.log = s.core.log := rfl
@[simp] theorem setCtl_core_journal (s : State) (c : Ctl) : (setCtl s c).core.journal = s.core.journal := rfl
@[simp] theorem setCtl_core_amo (s : State) (c : Ctl) : (setCtl s c).core.amo = s.core.amo := rfl
@[simp] theorem setCtl_core_divs (s : State) (c : Ctl) : (setCtl s c).core.divs = s.core.divs := rfl
@[simp] theorem setCtl_core_seqNo (s : State) (c : Ctl) : (setCtl s c).core.seqNo = s.core.seqNo := rfl
@[simp] theorem setCtl_core_dropped (s : State) (c : Ctl) : (setCtl s c).core.dropped = s.core.dropped := rfl
@[simp] theorem setCtl_core_sendSeq (s : State) (c : Ctl) : (setCtl s c).core.sendSeq = s.core.sendSeq := rfl
@[simp] theorem setCtl_core_stopAt (s : State) (c : Ctl) : (setCtl s c).core.stopAt = s.core.stopAt := rfl
@[simp] theorem setCtl_core_haltStop (s : State) (c : Ctl) : (setCtl s c).core.haltStop = s.core.haltStop := rfl
@[simp] theorem setCtl_core_haltGroup (s : State) (c : Ctl) : (setCtl s c).core.haltGroup = s.core.haltGroup := rfl
@[simp] theorem setCtl_core_haltReq (s : State) (c : Ctl) : (setCtl s c).core.haltReq = s.core.haltReq := rfl
@[simp] theorem setCtl_core_resume (s : State) (c : Ctl) : (setCtl s c).core.resume = s.core.resume := rfl
@[simp] theorem setCtl_core_ranFor (s : State) (c : Ctl) : (setCtl s c).core.ranFor = s.core.ranFor := rfl
@[simp] theorem setCtl_core_plb (s : State) (c : Ctl) : (setCtl s c).core.plb = s.core.plb := rfl
@[simp] theorem setCtl_core_galley (s : State) (c : Ctl) : (setCtl s c).core.galley = s.core.galley := rfl
@[simp] theorem setCtl_core_fences (s : State) (c : Ctl) : (setCtl s c).core.fences = s.core.fences := rfl
@[simp] theorem setCtl_core_engSeq (s : State) (c : Ctl) : (setCtl s c).core.engSeq = s.core.engSeq := rfl
@[simp] theorem setCtl_core_gtcSeen (s : State) (c : Ctl) : (setCtl s c).core.gtcSeen = s.core.gtcSeen := rfl
@[simp] theorem setCtl_core_accepted (s : State) (c : Ctl) : (setCtl s c).core.accepted = s.core.accepted := rfl
@[simp] theorem setCtl_core_answer (s : State) (c : Ctl) : (setCtl s c).core.answer = s.core.answer := rfl
@[simp] theorem setCtl_core_asked (s : State) (c : Ctl) : (setCtl s c).core.asked = s.core.asked := rfl
@[simp] theorem setCtl_ctx_regs (s : State) (c : Ctl) : (setCtl s c).core.ctx.regs = s.core.ctx.regs := rfl
@[simp] theorem setCtl_ctx_ctl (s : State) (c : Ctl) : (setCtl s c).core.ctx.ctl = c := rfl
@[simp] theorem setCtl_ctx_rcd (s : State) (c : Ctl) : (setCtl s c).core.ctx.rcd = s.core.ctx.rcd := rfl
@[simp] theorem setCtl_ctx_pc (s : State) (c : Ctl) : (setCtl s c).core.ctx.pc = s.core.ctx.pc := rfl
@[simp] theorem setCtl_ctx_codePc (s : State) (c : Ctl) : (setCtl s c).core.ctx.codePc = s.core.ctx.codePc := rfl
@[simp] theorem setCtl_ctx_window (s : State) (c : Ctl) : (setCtl s c).core.ctx.window = s.core.ctx.window := rfl
@[simp] theorem setCtl_ctx_mailbox (s : State) (c : Ctl) : (setCtl s c).core.ctx.mailbox = s.core.ctx.mailbox := rfl
@[simp] theorem setCtl_ctx_pend (s : State) (c : Ctl) : (setCtl s c).core.ctx.pend = s.core.ctx.pend := rfl
@[simp] theorem setCtl_ctx_uncov (s : State) (c : Ctl) : (setCtl s c).core.ctx.uncov = s.core.ctx.uncov := rfl
@[simp] theorem setCtl_ctx_why (s : State) (c : Ctl) : (setCtl s c).core.ctx.why = s.core.ctx.why := rfl
@[simp] theorem setCtl_ctx_blockedAt (s : State) (c : Ctl) : (setCtl s c).core.ctx.blockedAt = s.core.ctx.blockedAt := rfl
@[simp] theorem setCtl_ctx_acqUntil (s : State) (c : Ctl) : (setCtl s c).core.ctx.acqUntil = s.core.ctx.acqUntil := rfl
@[simp] theorem setCtl_ctx_accepted (s : State) (c : Ctl) : (setCtl s c).core.ctx.accepted = s.core.ctx.accepted := rfl
@[simp] theorem setCtl_ctx_idle (s : State) (c : Ctl) : (setCtl s c).core.ctx.idle = s.core.ctx.idle := rfl
@[simp] theorem setCtl_ctx_syncSeq (s : State) (c : Ctl) : (setCtl s c).core.ctx.syncSeq = s.core.ctx.syncSeq := rfl
@[simp] theorem setCtl_ctx_recent (s : State) (c : Ctl) : (setCtl s c).core.ctx.recent = s.core.ctx.recent := rfl

/-! ### setRegs -/

@[simp] theorem setRegs_gtc (s : State) (r : RegSet) : (setRegs s r).gtc = s.gtc := rfl
@[simp] theorem setRegs_cur (s : State) (r : RegSet) : (setRegs s r).cur = s.cur := rfl
@[simp] theorem setRegs_others (s : State) (r : RegSet) : (setRegs s r).others = s.others := rfl
@[simp] theorem setRegs_mem (s : State) (r : RegSet) : (setRegs s r).mem = s.mem := rfl
@[simp] theorem setRegs_tiles (s : State) (r : RegSet) : (setRegs s r).tiles = s.tiles := rfl
@[simp] theorem setRegs_quads (s : State) (r : RegSet) : (setRegs s r).quads = s.quads := rfl
@[simp] theorem setRegs_dies (s : State) (r : RegSet) : (setRegs s r).dies = s.dies := rfl
@[simp] theorem setRegs_galleys (s : State) (r : RegSet) : (setRegs s r).galleys = s.galleys := rfl
@[simp] theorem setRegs_net (s : State) (r : RegSet) : (setRegs s r).net = s.net := rfl
@[simp] theorem setRegs_hub (s : State) (r : RegSet) : (setRegs s r).hub = s.hub := rfl
@[simp] theorem setRegs_races (s : State) (r : RegSet) : (setRegs s r).races = s.races := rfl
@[simp] theorem setRegs_asides (s : State) (r : RegSet) : (setRegs s r).asides = s.asides := rfl
@[simp] theorem setRegs_freeCtr (s : State) (r : RegSet) : (setRegs s r).freeCtr = s.freeCtr := rfl
@[simp] theorem setRegs_agenda (s : State) (r : RegSet) : (setRegs s r).agenda = s.agenda := rfl
@[simp] theorem setRegs_core_released (s : State) (r : RegSet) : (setRegs s r).core.released = s.core.released := rfl
@[simp] theorem setRegs_core_issuing (s : State) (r : RegSet) : (setRegs s r).core.issuing = s.core.issuing := rfl
@[simp] theorem setRegs_core_slots (s : State) (r : RegSet) : (setRegs s r).core.slots = s.core.slots := rfl
@[simp] theorem setRegs_core_nextIssue (s : State) (r : RegSet) : (setRegs s r).core.nextIssue = s.core.nextIssue := rfl
@[simp] theorem setRegs_core_holdSince (s : State) (r : RegSet) : (setRegs s r).core.holdSince = s.core.holdSince := rfl
@[simp] theorem setRegs_core_holdSwitch (s : State) (r : RegSet) : (setRegs s r).core.holdSwitch = s.core.holdSwitch := rfl
@[simp] theorem setRegs_core_ir (s : State) (r : RegSet) : (setRegs s r).core.ir = s.core.ir := rfl
@[simp] theorem setRegs_core_selectedAt (s : State) (r : RegSet) : (setRegs s r).core.selectedAt = s.core.selectedAt := rfl
@[simp] theorem setRegs_core_starts (s : State) (r : RegSet) : (setRegs s r).core.starts = s.core.starts := rfl
@[simp] theorem setRegs_core_turns (s : State) (r : RegSet) : (setRegs s r).core.turns = s.core.turns := rfl
@[simp] theorem setRegs_core_segs (s : State) (r : RegSet) : (setRegs s r).core.segs = s.core.segs := rfl
@[simp] theorem setRegs_core_bootSeg (s : State) (r : RegSet) : (setRegs s r).core.bootSeg = s.core.bootSeg := rfl
@[simp] theorem setRegs_core_fetches (s : State) (r : RegSet) : (setRegs s r).core.fetches = s.core.fetches := rfl
@[simp] theorem setRegs_core_rf (s : State) (r : RegSet) : (setRegs s r).core.rf = s.core.rf := rfl
@[simp] theorem setRegs_core_acc (s : State) (r : RegSet) : (setRegs s r).core.acc = s.core.acc := rfl
@[simp] theorem setRegs_core_pw (s : State) (r : RegSet) : (setRegs s r).core.pw = s.core.pw := rfl
@[simp] theorem setRegs_core_tags (s : State) (r : RegSet) : (setRegs s r).core.tags = s.core.tags := rfl
@[simp] theorem setRegs_core_scales (s : State) (r : RegSet) : (setRegs s r).core.scales = s.core.scales := rfl
@[simp] theorem setRegs_core_quires (s : State) (r : RegSet) : (setRegs s r).core.quires = s.core.quires := rfl
@[simp] theorem setRegs_core_freed (s : State) (r : RegSet) : (setRegs s r).core.freed = s.core.freed := rfl
@[simp] theorem setRegs_core_copies (s : State) (r : RegSet) : (setRegs s r).core.copies = s.core.copies := rfl
@[simp] theorem setRegs_core_lastTid (s : State) (r : RegSet) : (setRegs s r).core.lastTid = s.core.lastTid := rfl
@[simp] theorem setRegs_core_log (s : State) (r : RegSet) : (setRegs s r).core.log = s.core.log := rfl
@[simp] theorem setRegs_core_journal (s : State) (r : RegSet) : (setRegs s r).core.journal = s.core.journal := rfl
@[simp] theorem setRegs_core_amo (s : State) (r : RegSet) : (setRegs s r).core.amo = s.core.amo := rfl
@[simp] theorem setRegs_core_divs (s : State) (r : RegSet) : (setRegs s r).core.divs = s.core.divs := rfl
@[simp] theorem setRegs_core_seqNo (s : State) (r : RegSet) : (setRegs s r).core.seqNo = s.core.seqNo := rfl
@[simp] theorem setRegs_core_dropped (s : State) (r : RegSet) : (setRegs s r).core.dropped = s.core.dropped := rfl
@[simp] theorem setRegs_core_sendSeq (s : State) (r : RegSet) : (setRegs s r).core.sendSeq = s.core.sendSeq := rfl
@[simp] theorem setRegs_core_stopAt (s : State) (r : RegSet) : (setRegs s r).core.stopAt = s.core.stopAt := rfl
@[simp] theorem setRegs_core_haltStop (s : State) (r : RegSet) : (setRegs s r).core.haltStop = s.core.haltStop := rfl
@[simp] theorem setRegs_core_haltGroup (s : State) (r : RegSet) : (setRegs s r).core.haltGroup = s.core.haltGroup := rfl
@[simp] theorem setRegs_core_haltReq (s : State) (r : RegSet) : (setRegs s r).core.haltReq = s.core.haltReq := rfl
@[simp] theorem setRegs_core_resume (s : State) (r : RegSet) : (setRegs s r).core.resume = s.core.resume := rfl
@[simp] theorem setRegs_core_ranFor (s : State) (r : RegSet) : (setRegs s r).core.ranFor = s.core.ranFor := rfl
@[simp] theorem setRegs_core_plb (s : State) (r : RegSet) : (setRegs s r).core.plb = s.core.plb := rfl
@[simp] theorem setRegs_core_galley (s : State) (r : RegSet) : (setRegs s r).core.galley = s.core.galley := rfl
@[simp] theorem setRegs_core_fences (s : State) (r : RegSet) : (setRegs s r).core.fences = s.core.fences := rfl
@[simp] theorem setRegs_core_engSeq (s : State) (r : RegSet) : (setRegs s r).core.engSeq = s.core.engSeq := rfl
@[simp] theorem setRegs_core_gtcSeen (s : State) (r : RegSet) : (setRegs s r).core.gtcSeen = s.core.gtcSeen := rfl
@[simp] theorem setRegs_core_accepted (s : State) (r : RegSet) : (setRegs s r).core.accepted = s.core.accepted := rfl
@[simp] theorem setRegs_core_answer (s : State) (r : RegSet) : (setRegs s r).core.answer = s.core.answer := rfl
@[simp] theorem setRegs_core_asked (s : State) (r : RegSet) : (setRegs s r).core.asked = s.core.asked := rfl
@[simp] theorem setRegs_ctx_regs (s : State) (r : RegSet) : (setRegs s r).core.ctx.regs = r := rfl
@[simp] theorem setRegs_ctx_ctl (s : State) (r : RegSet) : (setRegs s r).core.ctx.ctl = s.core.ctx.ctl := rfl
@[simp] theorem setRegs_ctx_rcd (s : State) (r : RegSet) : (setRegs s r).core.ctx.rcd = s.core.ctx.rcd := rfl
@[simp] theorem setRegs_ctx_pc (s : State) (r : RegSet) : (setRegs s r).core.ctx.pc = s.core.ctx.pc := rfl
@[simp] theorem setRegs_ctx_codePc (s : State) (r : RegSet) : (setRegs s r).core.ctx.codePc = s.core.ctx.codePc := rfl
@[simp] theorem setRegs_ctx_window (s : State) (r : RegSet) : (setRegs s r).core.ctx.window = s.core.ctx.window := rfl
@[simp] theorem setRegs_ctx_mailbox (s : State) (r : RegSet) : (setRegs s r).core.ctx.mailbox = s.core.ctx.mailbox := rfl
@[simp] theorem setRegs_ctx_pend (s : State) (r : RegSet) : (setRegs s r).core.ctx.pend = s.core.ctx.pend := rfl
@[simp] theorem setRegs_ctx_uncov (s : State) (r : RegSet) : (setRegs s r).core.ctx.uncov = s.core.ctx.uncov := rfl
@[simp] theorem setRegs_ctx_why (s : State) (r : RegSet) : (setRegs s r).core.ctx.why = s.core.ctx.why := rfl
@[simp] theorem setRegs_ctx_blockedAt (s : State) (r : RegSet) : (setRegs s r).core.ctx.blockedAt = s.core.ctx.blockedAt := rfl
@[simp] theorem setRegs_ctx_acqUntil (s : State) (r : RegSet) : (setRegs s r).core.ctx.acqUntil = s.core.ctx.acqUntil := rfl
@[simp] theorem setRegs_ctx_accepted (s : State) (r : RegSet) : (setRegs s r).core.ctx.accepted = s.core.ctx.accepted := rfl
@[simp] theorem setRegs_ctx_idle (s : State) (r : RegSet) : (setRegs s r).core.ctx.idle = s.core.ctx.idle := rfl
@[simp] theorem setRegs_ctx_syncSeq (s : State) (r : RegSet) : (setRegs s r).core.ctx.syncSeq = s.core.ctx.syncSeq := rfl
@[simp] theorem setRegs_ctx_recent (s : State) (r : RegSet) : (setRegs s r).core.ctx.recent = s.core.ctx.recent := rfl

/-! ### setRcd -/

@[simp] theorem setRcd_gtc (s : State) (r : Rec) : (setRcd s r).gtc = s.gtc := rfl
@[simp] theorem setRcd_cur (s : State) (r : Rec) : (setRcd s r).cur = s.cur := rfl
@[simp] theorem setRcd_others (s : State) (r : Rec) : (setRcd s r).others = s.others := rfl
@[simp] theorem setRcd_mem (s : State) (r : Rec) : (setRcd s r).mem = s.mem := rfl
@[simp] theorem setRcd_tiles (s : State) (r : Rec) : (setRcd s r).tiles = s.tiles := rfl
@[simp] theorem setRcd_quads (s : State) (r : Rec) : (setRcd s r).quads = s.quads := rfl
@[simp] theorem setRcd_dies (s : State) (r : Rec) : (setRcd s r).dies = s.dies := rfl
@[simp] theorem setRcd_galleys (s : State) (r : Rec) : (setRcd s r).galleys = s.galleys := rfl
@[simp] theorem setRcd_net (s : State) (r : Rec) : (setRcd s r).net = s.net := rfl
@[simp] theorem setRcd_hub (s : State) (r : Rec) : (setRcd s r).hub = s.hub := rfl
@[simp] theorem setRcd_races (s : State) (r : Rec) : (setRcd s r).races = s.races := rfl
@[simp] theorem setRcd_asides (s : State) (r : Rec) : (setRcd s r).asides = s.asides := rfl
@[simp] theorem setRcd_freeCtr (s : State) (r : Rec) : (setRcd s r).freeCtr = s.freeCtr := rfl
@[simp] theorem setRcd_agenda (s : State) (r : Rec) : (setRcd s r).agenda = s.agenda := rfl
@[simp] theorem setRcd_core_released (s : State) (r : Rec) : (setRcd s r).core.released = s.core.released := rfl
@[simp] theorem setRcd_core_issuing (s : State) (r : Rec) : (setRcd s r).core.issuing = s.core.issuing := rfl
@[simp] theorem setRcd_core_slots (s : State) (r : Rec) : (setRcd s r).core.slots = s.core.slots := rfl
@[simp] theorem setRcd_core_nextIssue (s : State) (r : Rec) : (setRcd s r).core.nextIssue = s.core.nextIssue := rfl
@[simp] theorem setRcd_core_holdSince (s : State) (r : Rec) : (setRcd s r).core.holdSince = s.core.holdSince := rfl
@[simp] theorem setRcd_core_holdSwitch (s : State) (r : Rec) : (setRcd s r).core.holdSwitch = s.core.holdSwitch := rfl
@[simp] theorem setRcd_core_ir (s : State) (r : Rec) : (setRcd s r).core.ir = s.core.ir := rfl
@[simp] theorem setRcd_core_selectedAt (s : State) (r : Rec) : (setRcd s r).core.selectedAt = s.core.selectedAt := rfl
@[simp] theorem setRcd_core_starts (s : State) (r : Rec) : (setRcd s r).core.starts = s.core.starts := rfl
@[simp] theorem setRcd_core_turns (s : State) (r : Rec) : (setRcd s r).core.turns = s.core.turns := rfl
@[simp] theorem setRcd_core_segs (s : State) (r : Rec) : (setRcd s r).core.segs = s.core.segs := rfl
@[simp] theorem setRcd_core_bootSeg (s : State) (r : Rec) : (setRcd s r).core.bootSeg = s.core.bootSeg := rfl
@[simp] theorem setRcd_core_fetches (s : State) (r : Rec) : (setRcd s r).core.fetches = s.core.fetches := rfl
@[simp] theorem setRcd_core_rf (s : State) (r : Rec) : (setRcd s r).core.rf = s.core.rf := rfl
@[simp] theorem setRcd_core_acc (s : State) (r : Rec) : (setRcd s r).core.acc = s.core.acc := rfl
@[simp] theorem setRcd_core_pw (s : State) (r : Rec) : (setRcd s r).core.pw = s.core.pw := rfl
@[simp] theorem setRcd_core_tags (s : State) (r : Rec) : (setRcd s r).core.tags = s.core.tags := rfl
@[simp] theorem setRcd_core_scales (s : State) (r : Rec) : (setRcd s r).core.scales = s.core.scales := rfl
@[simp] theorem setRcd_core_quires (s : State) (r : Rec) : (setRcd s r).core.quires = s.core.quires := rfl
@[simp] theorem setRcd_core_freed (s : State) (r : Rec) : (setRcd s r).core.freed = s.core.freed := rfl
@[simp] theorem setRcd_core_copies (s : State) (r : Rec) : (setRcd s r).core.copies = s.core.copies := rfl
@[simp] theorem setRcd_core_lastTid (s : State) (r : Rec) : (setRcd s r).core.lastTid = s.core.lastTid := rfl
@[simp] theorem setRcd_core_log (s : State) (r : Rec) : (setRcd s r).core.log = s.core.log := rfl
@[simp] theorem setRcd_core_journal (s : State) (r : Rec) : (setRcd s r).core.journal = s.core.journal := rfl
@[simp] theorem setRcd_core_amo (s : State) (r : Rec) : (setRcd s r).core.amo = s.core.amo := rfl
@[simp] theorem setRcd_core_divs (s : State) (r : Rec) : (setRcd s r).core.divs = s.core.divs := rfl
@[simp] theorem setRcd_core_seqNo (s : State) (r : Rec) : (setRcd s r).core.seqNo = s.core.seqNo := rfl
@[simp] theorem setRcd_core_dropped (s : State) (r : Rec) : (setRcd s r).core.dropped = s.core.dropped := rfl
@[simp] theorem setRcd_core_sendSeq (s : State) (r : Rec) : (setRcd s r).core.sendSeq = s.core.sendSeq := rfl
@[simp] theorem setRcd_core_stopAt (s : State) (r : Rec) : (setRcd s r).core.stopAt = s.core.stopAt := rfl
@[simp] theorem setRcd_core_haltStop (s : State) (r : Rec) : (setRcd s r).core.haltStop = s.core.haltStop := rfl
@[simp] theorem setRcd_core_haltGroup (s : State) (r : Rec) : (setRcd s r).core.haltGroup = s.core.haltGroup := rfl
@[simp] theorem setRcd_core_haltReq (s : State) (r : Rec) : (setRcd s r).core.haltReq = s.core.haltReq := rfl
@[simp] theorem setRcd_core_resume (s : State) (r : Rec) : (setRcd s r).core.resume = s.core.resume := rfl
@[simp] theorem setRcd_core_ranFor (s : State) (r : Rec) : (setRcd s r).core.ranFor = s.core.ranFor := rfl
@[simp] theorem setRcd_core_plb (s : State) (r : Rec) : (setRcd s r).core.plb = s.core.plb := rfl
@[simp] theorem setRcd_core_galley (s : State) (r : Rec) : (setRcd s r).core.galley = s.core.galley := rfl
@[simp] theorem setRcd_core_fences (s : State) (r : Rec) : (setRcd s r).core.fences = s.core.fences := rfl
@[simp] theorem setRcd_core_engSeq (s : State) (r : Rec) : (setRcd s r).core.engSeq = s.core.engSeq := rfl
@[simp] theorem setRcd_core_gtcSeen (s : State) (r : Rec) : (setRcd s r).core.gtcSeen = s.core.gtcSeen := rfl
@[simp] theorem setRcd_core_accepted (s : State) (r : Rec) : (setRcd s r).core.accepted = s.core.accepted := rfl
@[simp] theorem setRcd_core_answer (s : State) (r : Rec) : (setRcd s r).core.answer = s.core.answer := rfl
@[simp] theorem setRcd_core_asked (s : State) (r : Rec) : (setRcd s r).core.asked = s.core.asked := rfl
@[simp] theorem setRcd_ctx_regs (s : State) (r : Rec) : (setRcd s r).core.ctx.regs = s.core.ctx.regs := rfl
@[simp] theorem setRcd_ctx_ctl (s : State) (r : Rec) : (setRcd s r).core.ctx.ctl = s.core.ctx.ctl := rfl
@[simp] theorem setRcd_ctx_rcd (s : State) (r : Rec) : (setRcd s r).core.ctx.rcd = r := rfl
@[simp] theorem setRcd_ctx_pc (s : State) (r : Rec) : (setRcd s r).core.ctx.pc = s.core.ctx.pc := rfl
@[simp] theorem setRcd_ctx_codePc (s : State) (r : Rec) : (setRcd s r).core.ctx.codePc = s.core.ctx.codePc := rfl
@[simp] theorem setRcd_ctx_window (s : State) (r : Rec) : (setRcd s r).core.ctx.window = s.core.ctx.window := rfl
@[simp] theorem setRcd_ctx_mailbox (s : State) (r : Rec) : (setRcd s r).core.ctx.mailbox = s.core.ctx.mailbox := rfl
@[simp] theorem setRcd_ctx_pend (s : State) (r : Rec) : (setRcd s r).core.ctx.pend = s.core.ctx.pend := rfl
@[simp] theorem setRcd_ctx_uncov (s : State) (r : Rec) : (setRcd s r).core.ctx.uncov = s.core.ctx.uncov := rfl
@[simp] theorem setRcd_ctx_why (s : State) (r : Rec) : (setRcd s r).core.ctx.why = s.core.ctx.why := rfl
@[simp] theorem setRcd_ctx_blockedAt (s : State) (r : Rec) : (setRcd s r).core.ctx.blockedAt = s.core.ctx.blockedAt := rfl
@[simp] theorem setRcd_ctx_acqUntil (s : State) (r : Rec) : (setRcd s r).core.ctx.acqUntil = s.core.ctx.acqUntil := rfl
@[simp] theorem setRcd_ctx_accepted (s : State) (r : Rec) : (setRcd s r).core.ctx.accepted = s.core.ctx.accepted := rfl
@[simp] theorem setRcd_ctx_idle (s : State) (r : Rec) : (setRcd s r).core.ctx.idle = s.core.ctx.idle := rfl
@[simp] theorem setRcd_ctx_syncSeq (s : State) (r : Rec) : (setRcd s r).core.ctx.syncSeq = s.core.ctx.syncSeq := rfl
@[simp] theorem setRcd_ctx_recent (s : State) (r : Rec) : (setRcd s r).core.ctx.recent = s.core.ctx.recent := rfl

/-! ### setHub -/

@[simp] theorem setHub_gtc (s : State) (h : Hub) : (setHub s h).gtc = s.gtc := rfl
@[simp] theorem setHub_cur (s : State) (h : Hub) : (setHub s h).cur = s.cur := rfl
@[simp] theorem setHub_core (s : State) (h : Hub) : (setHub s h).core = s.core := rfl
@[simp] theorem setHub_others (s : State) (h : Hub) : (setHub s h).others = s.others := rfl
@[simp] theorem setHub_mem (s : State) (h : Hub) : (setHub s h).mem = s.mem := rfl
@[simp] theorem setHub_tiles (s : State) (h : Hub) : (setHub s h).tiles = s.tiles := rfl
@[simp] theorem setHub_quads (s : State) (h : Hub) : (setHub s h).quads = s.quads := rfl
@[simp] theorem setHub_dies (s : State) (h : Hub) : (setHub s h).dies = s.dies := rfl
@[simp] theorem setHub_galleys (s : State) (h : Hub) : (setHub s h).galleys = s.galleys := rfl
@[simp] theorem setHub_net (s : State) (h : Hub) : (setHub s h).net = s.net := rfl
@[simp] theorem setHub_hub (s : State) (h : Hub) : (setHub s h).hub = h := rfl
@[simp] theorem setHub_races (s : State) (h : Hub) : (setHub s h).races = s.races := rfl
@[simp] theorem setHub_asides (s : State) (h : Hub) : (setHub s h).asides = s.asides := rfl
@[simp] theorem setHub_freeCtr (s : State) (h : Hub) : (setHub s h).freeCtr = s.freeCtr := rfl
@[simp] theorem setHub_agenda (s : State) (h : Hub) : (setHub s h).agenda = s.agenda := rfl

/-! ### setTile -/

@[simp] theorem setTile_gtc (n : Nat) (x : Tile) (s : State) : (setTile n x s).gtc = s.gtc := rfl
@[simp] theorem setTile_cur (n : Nat) (x : Tile) (s : State) : (setTile n x s).cur = s.cur := rfl
@[simp] theorem setTile_core (n : Nat) (x : Tile) (s : State) : (setTile n x s).core = s.core := rfl
@[simp] theorem setTile_others (n : Nat) (x : Tile) (s : State) : (setTile n x s).others = s.others := rfl
@[simp] theorem setTile_mem (n : Nat) (x : Tile) (s : State) : (setTile n x s).mem = s.mem := rfl
@[simp] theorem setTile_tiles (n : Nat) (x : Tile) (s : State) : (setTile n x s).tiles = tabSet {} s.tiles n x := rfl
@[simp] theorem setTile_quads (n : Nat) (x : Tile) (s : State) : (setTile n x s).quads = s.quads := rfl
@[simp] theorem setTile_dies (n : Nat) (x : Tile) (s : State) : (setTile n x s).dies = s.dies := rfl
@[simp] theorem setTile_galleys (n : Nat) (x : Tile) (s : State) : (setTile n x s).galleys = s.galleys := rfl
@[simp] theorem setTile_net (n : Nat) (x : Tile) (s : State) : (setTile n x s).net = s.net := rfl
@[simp] theorem setTile_hub (n : Nat) (x : Tile) (s : State) : (setTile n x s).hub = s.hub := rfl
@[simp] theorem setTile_races (n : Nat) (x : Tile) (s : State) : (setTile n x s).races = s.races := rfl
@[simp] theorem setTile_asides (n : Nat) (x : Tile) (s : State) : (setTile n x s).asides = s.asides := rfl
@[simp] theorem setTile_freeCtr (n : Nat) (x : Tile) (s : State) : (setTile n x s).freeCtr = s.freeCtr := rfl
@[simp] theorem setTile_agenda (n : Nat) (x : Tile) (s : State) : (setTile n x s).agenda = s.agenda := rfl

/-! ### setViceroy -/

@[simp] theorem setViceroy_gtc (q : Nat) (v : Viceroy) (s : State) : (setViceroy q v s).gtc = s.gtc := rfl
@[simp] theorem setViceroy_cur (q : Nat) (v : Viceroy) (s : State) : (setViceroy q v s).cur = s.cur := rfl
@[simp] theorem setViceroy_core (q : Nat) (v : Viceroy) (s : State) : (setViceroy q v s).core = s.core := rfl
@[simp] theorem setViceroy_others (q : Nat) (v : Viceroy) (s : State) : (setViceroy q v s).others = s.others := rfl
@[simp] theorem setViceroy_mem (q : Nat) (v : Viceroy) (s : State) : (setViceroy q v s).mem = s.mem := rfl
@[simp] theorem setViceroy_tiles (q : Nat) (v : Viceroy) (s : State) : (setViceroy q v s).tiles = s.tiles := rfl
@[simp] theorem setViceroy_quads (q : Nat) (v : Viceroy) (s : State) : (setViceroy q v s).quads = tabSet {} s.quads q v := rfl
@[simp] theorem setViceroy_dies (q : Nat) (v : Viceroy) (s : State) : (setViceroy q v s).dies = s.dies := rfl
@[simp] theorem setViceroy_galleys (q : Nat) (v : Viceroy) (s : State) : (setViceroy q v s).galleys = s.galleys := rfl
@[simp] theorem setViceroy_net (q : Nat) (v : Viceroy) (s : State) : (setViceroy q v s).net = s.net := rfl
@[simp] theorem setViceroy_hub (q : Nat) (v : Viceroy) (s : State) : (setViceroy q v s).hub = s.hub := rfl
@[simp] theorem setViceroy_races (q : Nat) (v : Viceroy) (s : State) : (setViceroy q v s).races = s.races := rfl
@[simp] theorem setViceroy_asides (q : Nat) (v : Viceroy) (s : State) : (setViceroy q v s).asides = s.asides := rfl
@[simp] theorem setViceroy_freeCtr (q : Nat) (v : Viceroy) (s : State) : (setViceroy q v s).freeCtr = s.freeCtr := rfl
@[simp] theorem setViceroy_agenda (q : Nat) (v : Viceroy) (s : State) : (setViceroy q v s).agenda = s.agenda := rfl

/-! ### setStackGalley -/

@[simp] theorem setStackGalley_gtc (n : Nat) (g : StackGalley) (s : State) : (setStackGalley n g s).gtc = s.gtc := rfl
@[simp] theorem setStackGalley_cur (n : Nat) (g : StackGalley) (s : State) : (setStackGalley n g s).cur = s.cur := rfl
@[simp] theorem setStackGalley_core (n : Nat) (g : StackGalley) (s : State) : (setStackGalley n g s).core = s.core := rfl
@[simp] theorem setStackGalley_others (n : Nat) (g : StackGalley) (s : State) : (setStackGalley n g s).others = s.others := rfl
@[simp] theorem setStackGalley_mem (n : Nat) (g : StackGalley) (s : State) : (setStackGalley n g s).mem = s.mem := rfl
@[simp] theorem setStackGalley_tiles (n : Nat) (g : StackGalley) (s : State) : (setStackGalley n g s).tiles = s.tiles := rfl
@[simp] theorem setStackGalley_quads (n : Nat) (g : StackGalley) (s : State) : (setStackGalley n g s).quads = s.quads := rfl
@[simp] theorem setStackGalley_dies (n : Nat) (g : StackGalley) (s : State) : (setStackGalley n g s).dies = s.dies := rfl
@[simp] theorem setStackGalley_galleys (n : Nat) (g : StackGalley) (s : State) : (setStackGalley n g s).galleys = tabSet {} s.galleys n g := rfl
@[simp] theorem setStackGalley_net (n : Nat) (g : StackGalley) (s : State) : (setStackGalley n g s).net = s.net := rfl
@[simp] theorem setStackGalley_hub (n : Nat) (g : StackGalley) (s : State) : (setStackGalley n g s).hub = s.hub := rfl
@[simp] theorem setStackGalley_races (n : Nat) (g : StackGalley) (s : State) : (setStackGalley n g s).races = s.races := rfl
@[simp] theorem setStackGalley_asides (n : Nat) (g : StackGalley) (s : State) : (setStackGalley n g s).asides = s.asides := rfl
@[simp] theorem setStackGalley_freeCtr (n : Nat) (g : StackGalley) (s : State) : (setStackGalley n g s).freeCtr = s.freeCtr := rfl
@[simp] theorem setStackGalley_agenda (n : Nat) (g : StackGalley) (s : State) : (setStackGalley n g s).agenda = s.agenda := rfl

/-! ### setPart -/

@[simp] theorem setPart_gtc (s : State) (p : BitVec 3) (x : Part) : (setPart s p x).gtc = s.gtc := rfl
@[simp] theorem setPart_cur (s : State) (p : BitVec 3) (x : Part) : (setPart s p x).cur = s.cur := rfl
@[simp] theorem setPart_core (s : State) (p : BitVec 3) (x : Part) : (setPart s p x).core = s.core := rfl
@[simp] theorem setPart_others (s : State) (p : BitVec 3) (x : Part) : (setPart s p x).others = s.others := rfl
@[simp] theorem setPart_mem (s : State) (p : BitVec 3) (x : Part) : (setPart s p x).mem = s.mem := rfl
@[simp] theorem setPart_tiles (s : State) (p : BitVec 3) (x : Part) : (setPart s p x).tiles = s.tiles := rfl
@[simp] theorem setPart_quads (s : State) (p : BitVec 3) (x : Part) : (setPart s p x).quads = s.quads := rfl
@[simp] theorem setPart_dies (s : State) (p : BitVec 3) (x : Part) : (setPart s p x).dies = s.dies := rfl
@[simp] theorem setPart_galleys (s : State) (p : BitVec 3) (x : Part) : (setPart s p x).galleys = s.galleys := rfl
@[simp] theorem setPart_net (s : State) (p : BitVec 3) (x : Part) : (setPart s p x).net = s.net := rfl
@[simp] theorem setPart_races (s : State) (p : BitVec 3) (x : Part) : (setPart s p x).races = s.races := rfl
@[simp] theorem setPart_asides (s : State) (p : BitVec 3) (x : Part) : (setPart s p x).asides = s.asides := rfl
@[simp] theorem setPart_freeCtr (s : State) (p : BitVec 3) (x : Part) : (setPart s p x).freeCtr = s.freeCtr := rfl
@[simp] theorem setPart_agenda (s : State) (p : BitVec 3) (x : Part) : (setPart s p x).agenda = s.agenda := rfl
@[simp] theorem setPart_hub_parts (s : State) (p : BitVec 3) (x : Part) : (setPart s p x).hub.parts = s.hub.parts.set p.toNat x p.isLt := rfl
@[simp] theorem setPart_hub_ovlp (s : State) (p : BitVec 3) (x : Part) : (setPart s p x).hub.ovlp = s.hub.ovlp := rfl
@[simp] theorem setPart_hub_rights (s : State) (p : BitVec 3) (x : Part) : (setPart s p x).hub.rights = s.hub.rights := rfl
@[simp] theorem setPart_hub_shoots (s : State) (p : BitVec 3) (x : Part) : (setPart s p x).hub.shoots = s.hub.shoots := rfl
@[simp] theorem setPart_hub_hints (s : State) (p : BitVec 3) (x : Part) : (setPart s p x).hub.hints = s.hub.hints := rfl
@[simp] theorem setPart_hub_acct (s : State) (p : BitVec 3) (x : Part) : (setPart s p x).hub.acct = s.hub.acct := rfl
@[simp] theorem setPart_hub_groups64 (s : State) (p : BitVec 3) (x : Part) : (setPart s p x).hub.groups64 = s.hub.groups64 := rfl
@[simp] theorem setPart_hub_hgOf (s : State) (p : BitVec 3) (x : Part) : (setPart s p x).hub.hgOf = s.hub.hgOf := rfl
@[simp] theorem setPart_hub_hgIdle (s : State) (p : BitVec 3) (x : Part) : (setPart s p x).hub.hgIdle = s.hub.hgIdle := rfl
@[simp] theorem setPart_hub_boot (s : State) (p : BitVec 3) (x : Part) : (setPart s p x).hub.boot = s.hub.boot := rfl
@[simp] theorem setPart_hub_mcs (s : State) (p : BitVec 3) (x : Part) : (setPart s p x).hub.mcs = s.hub.mcs := rfl
@[simp] theorem setPart_hub_links (s : State) (p : BitVec 3) (x : Part) : (setPart s p x).hub.links = s.hub.links := rfl
@[simp] theorem setPart_hub_ports (s : State) (p : BitVec 3) (x : Part) : (setPart s p x).hub.ports = s.hub.ports := rfl
@[simp] theorem setPart_hub_seals (s : State) (p : BitVec 3) (x : Part) : (setPart s p x).hub.seals = s.hub.seals := rfl
@[simp] theorem setPart_hub_vdevs (s : State) (p : BitVec 3) (x : Part) : (setPart s p x).hub.vdevs = s.hub.vdevs := rfl
@[simp] theorem setPart_hub_eps (s : State) (p : BitVec 3) (x : Part) : (setPart s p x).hub.eps = s.hub.eps := rfl
@[simp] theorem setPart_hub_queues (s : State) (p : BitVec 3) (x : Part) : (setPart s p x).hub.queues = s.hub.queues := rfl
@[simp] theorem setPart_hub_keys (s : State) (p : BitVec 3) (x : Part) : (setPart s p x).hub.keys = s.hub.keys := rfl
@[simp] theorem setPart_hub_keysSent (s : State) (p : BitVec 3) (x : Part) : (setPart s p x).hub.keysSent = s.hub.keysSent := rfl
@[simp] theorem setPart_hub_unsupported (s : State) (p : BitVec 3) (x : Part) : (setPart s p x).hub.unsupported = s.hub.unsupported := rfl
@[simp] theorem setPart_hub_govAt (s : State) (p : BitVec 3) (x : Part) : (setPart s p x).hub.govAt = s.hub.govAt := rfl
@[simp] theorem setPart_hub_harts (s : State) (p : BitVec 3) (x : Part) : (setPart s p x).hub.harts = s.hub.harts := rfl
@[simp] theorem setPart_hub_irq (s : State) (p : BitVec 3) (x : Part) : (setPart s p x).hub.irq = s.hub.irq := rfl
@[simp] theorem setPart_hub_cards (s : State) (p : BitVec 3) (x : Part) : (setPart s p x).hub.cards = s.hub.cards := rfl
@[simp] theorem setPart_hub_launches (s : State) (p : BitVec 3) (x : Part) : (setPart s p x).hub.launches = s.hub.launches := rfl
@[simp] theorem setPart_hub_groups (s : State) (p : BitVec 3) (x : Part) : (setPart s p x).hub.groups = s.hub.groups := rfl
@[simp] theorem setPart_hub_conts (s : State) (p : BitVec 3) (x : Part) : (setPart s p x).hub.conts = s.hub.conts := rfl
@[simp] theorem setPart_hub_jobs (s : State) (p : BitVec 3) (x : Part) : (setPart s p x).hub.jobs = s.hub.jobs := rfl
@[simp] theorem setPart_hub_decisions (s : State) (p : BitVec 3) (x : Part) : (setPart s p x).hub.decisions = s.hub.decisions := rfl
@[simp] theorem setPart_hub_out (s : State) (p : BitVec 3) (x : Part) : (setPart s p x).hub.out = s.hub.out := rfl

/-! ### setEndpoint -/

@[simp] theorem setEndpoint_gtc (ep : Nat) (x : Endpoint) (s : State) : (setEndpoint ep x s).gtc = s.gtc := rfl
@[simp] theorem setEndpoint_cur (ep : Nat) (x : Endpoint) (s : State) : (setEndpoint ep x s).cur = s.cur := rfl
@[simp] theorem setEndpoint_core (ep : Nat) (x : Endpoint) (s : State) : (setEndpoint ep x s).core = s.core := rfl
@[simp] theorem setEndpoint_others (ep : Nat) (x : Endpoint) (s : State) : (setEndpoint ep x s).others = s.others := rfl
@[simp] theorem setEndpoint_mem (ep : Nat) (x : Endpoint) (s : State) : (setEndpoint ep x s).mem = s.mem := rfl
@[simp] theorem setEndpoint_tiles (ep : Nat) (x : Endpoint) (s : State) : (setEndpoint ep x s).tiles = s.tiles := rfl
@[simp] theorem setEndpoint_quads (ep : Nat) (x : Endpoint) (s : State) : (setEndpoint ep x s).quads = s.quads := rfl
@[simp] theorem setEndpoint_dies (ep : Nat) (x : Endpoint) (s : State) : (setEndpoint ep x s).dies = s.dies := rfl
@[simp] theorem setEndpoint_galleys (ep : Nat) (x : Endpoint) (s : State) : (setEndpoint ep x s).galleys = s.galleys := rfl
@[simp] theorem setEndpoint_net (ep : Nat) (x : Endpoint) (s : State) : (setEndpoint ep x s).net = s.net := rfl
@[simp] theorem setEndpoint_races (ep : Nat) (x : Endpoint) (s : State) : (setEndpoint ep x s).races = s.races := rfl
@[simp] theorem setEndpoint_asides (ep : Nat) (x : Endpoint) (s : State) : (setEndpoint ep x s).asides = s.asides := rfl
@[simp] theorem setEndpoint_freeCtr (ep : Nat) (x : Endpoint) (s : State) : (setEndpoint ep x s).freeCtr = s.freeCtr := rfl
@[simp] theorem setEndpoint_agenda (ep : Nat) (x : Endpoint) (s : State) : (setEndpoint ep x s).agenda = s.agenda := rfl
@[simp] theorem setEndpoint_hub_parts (ep : Nat) (x : Endpoint) (s : State) : (setEndpoint ep x s).hub.parts = s.hub.parts := rfl
@[simp] theorem setEndpoint_hub_ovlp (ep : Nat) (x : Endpoint) (s : State) : (setEndpoint ep x s).hub.ovlp = s.hub.ovlp := rfl
@[simp] theorem setEndpoint_hub_rights (ep : Nat) (x : Endpoint) (s : State) : (setEndpoint ep x s).hub.rights = s.hub.rights := rfl
@[simp] theorem setEndpoint_hub_shoots (ep : Nat) (x : Endpoint) (s : State) : (setEndpoint ep x s).hub.shoots = s.hub.shoots := rfl
@[simp] theorem setEndpoint_hub_hints (ep : Nat) (x : Endpoint) (s : State) : (setEndpoint ep x s).hub.hints = s.hub.hints := rfl
@[simp] theorem setEndpoint_hub_acct (ep : Nat) (x : Endpoint) (s : State) : (setEndpoint ep x s).hub.acct = s.hub.acct := rfl
@[simp] theorem setEndpoint_hub_groups64 (ep : Nat) (x : Endpoint) (s : State) : (setEndpoint ep x s).hub.groups64 = s.hub.groups64 := rfl
@[simp] theorem setEndpoint_hub_hgOf (ep : Nat) (x : Endpoint) (s : State) : (setEndpoint ep x s).hub.hgOf = s.hub.hgOf := rfl
@[simp] theorem setEndpoint_hub_hgIdle (ep : Nat) (x : Endpoint) (s : State) : (setEndpoint ep x s).hub.hgIdle = s.hub.hgIdle := rfl
@[simp] theorem setEndpoint_hub_boot (ep : Nat) (x : Endpoint) (s : State) : (setEndpoint ep x s).hub.boot = s.hub.boot := rfl
@[simp] theorem setEndpoint_hub_mcs (ep : Nat) (x : Endpoint) (s : State) : (setEndpoint ep x s).hub.mcs = s.hub.mcs := rfl
@[simp] theorem setEndpoint_hub_links (ep : Nat) (x : Endpoint) (s : State) : (setEndpoint ep x s).hub.links = s.hub.links := rfl
@[simp] theorem setEndpoint_hub_ports (ep : Nat) (x : Endpoint) (s : State) : (setEndpoint ep x s).hub.ports = s.hub.ports := rfl
@[simp] theorem setEndpoint_hub_seals (ep : Nat) (x : Endpoint) (s : State) : (setEndpoint ep x s).hub.seals = s.hub.seals := rfl
@[simp] theorem setEndpoint_hub_vdevs (ep : Nat) (x : Endpoint) (s : State) : (setEndpoint ep x s).hub.vdevs = s.hub.vdevs := rfl
@[simp] theorem setEndpoint_hub_eps (ep : Nat) (x : Endpoint) (s : State) : (setEndpoint ep x s).hub.eps = tabSet {} s.hub.eps ep x := rfl
@[simp] theorem setEndpoint_hub_queues (ep : Nat) (x : Endpoint) (s : State) : (setEndpoint ep x s).hub.queues = s.hub.queues := rfl
@[simp] theorem setEndpoint_hub_keys (ep : Nat) (x : Endpoint) (s : State) : (setEndpoint ep x s).hub.keys = s.hub.keys := rfl
@[simp] theorem setEndpoint_hub_keysSent (ep : Nat) (x : Endpoint) (s : State) : (setEndpoint ep x s).hub.keysSent = s.hub.keysSent := rfl
@[simp] theorem setEndpoint_hub_unsupported (ep : Nat) (x : Endpoint) (s : State) : (setEndpoint ep x s).hub.unsupported = s.hub.unsupported := rfl
@[simp] theorem setEndpoint_hub_govAt (ep : Nat) (x : Endpoint) (s : State) : (setEndpoint ep x s).hub.govAt = s.hub.govAt := rfl
@[simp] theorem setEndpoint_hub_harts (ep : Nat) (x : Endpoint) (s : State) : (setEndpoint ep x s).hub.harts = s.hub.harts := rfl
@[simp] theorem setEndpoint_hub_irq (ep : Nat) (x : Endpoint) (s : State) : (setEndpoint ep x s).hub.irq = s.hub.irq := rfl
@[simp] theorem setEndpoint_hub_cards (ep : Nat) (x : Endpoint) (s : State) : (setEndpoint ep x s).hub.cards = s.hub.cards := rfl
@[simp] theorem setEndpoint_hub_launches (ep : Nat) (x : Endpoint) (s : State) : (setEndpoint ep x s).hub.launches = s.hub.launches := rfl
@[simp] theorem setEndpoint_hub_groups (ep : Nat) (x : Endpoint) (s : State) : (setEndpoint ep x s).hub.groups = s.hub.groups := rfl
@[simp] theorem setEndpoint_hub_conts (ep : Nat) (x : Endpoint) (s : State) : (setEndpoint ep x s).hub.conts = s.hub.conts := rfl
@[simp] theorem setEndpoint_hub_jobs (ep : Nat) (x : Endpoint) (s : State) : (setEndpoint ep x s).hub.jobs = s.hub.jobs := rfl
@[simp] theorem setEndpoint_hub_decisions (ep : Nat) (x : Endpoint) (s : State) : (setEndpoint ep x s).hub.decisions = s.hub.decisions := rfl
@[simp] theorem setEndpoint_hub_out (ep : Nat) (x : Endpoint) (s : State) : (setEndpoint ep x s).hub.out = s.hub.out := rfl

/-! ### setVdev -/

@[simp] theorem setVdev_gtc (v : Nat) (x : Vdev) (s : State) : (setVdev v x s).gtc = s.gtc := rfl
@[simp] theorem setVdev_cur (v : Nat) (x : Vdev) (s : State) : (setVdev v x s).cur = s.cur := rfl
@[simp] theorem setVdev_core (v : Nat) (x : Vdev) (s : State) : (setVdev v x s).core = s.core := rfl
@[simp] theorem setVdev_others (v : Nat) (x : Vdev) (s : State) : (setVdev v x s).others = s.others := rfl
@[simp] theorem setVdev_mem (v : Nat) (x : Vdev) (s : State) : (setVdev v x s).mem = s.mem := rfl
@[simp] theorem setVdev_tiles (v : Nat) (x : Vdev) (s : State) : (setVdev v x s).tiles = s.tiles := rfl
@[simp] theorem setVdev_quads (v : Nat) (x : Vdev) (s : State) : (setVdev v x s).quads = s.quads := rfl
@[simp] theorem setVdev_dies (v : Nat) (x : Vdev) (s : State) : (setVdev v x s).dies = s.dies := rfl
@[simp] theorem setVdev_galleys (v : Nat) (x : Vdev) (s : State) : (setVdev v x s).galleys = s.galleys := rfl
@[simp] theorem setVdev_net (v : Nat) (x : Vdev) (s : State) : (setVdev v x s).net = s.net := rfl
@[simp] theorem setVdev_races (v : Nat) (x : Vdev) (s : State) : (setVdev v x s).races = s.races := rfl
@[simp] theorem setVdev_asides (v : Nat) (x : Vdev) (s : State) : (setVdev v x s).asides = s.asides := rfl
@[simp] theorem setVdev_freeCtr (v : Nat) (x : Vdev) (s : State) : (setVdev v x s).freeCtr = s.freeCtr := rfl
@[simp] theorem setVdev_agenda (v : Nat) (x : Vdev) (s : State) : (setVdev v x s).agenda = s.agenda := rfl
@[simp] theorem setVdev_hub_parts (v : Nat) (x : Vdev) (s : State) : (setVdev v x s).hub.parts = s.hub.parts := rfl
@[simp] theorem setVdev_hub_ovlp (v : Nat) (x : Vdev) (s : State) : (setVdev v x s).hub.ovlp = s.hub.ovlp := rfl
@[simp] theorem setVdev_hub_rights (v : Nat) (x : Vdev) (s : State) : (setVdev v x s).hub.rights = s.hub.rights := rfl
@[simp] theorem setVdev_hub_shoots (v : Nat) (x : Vdev) (s : State) : (setVdev v x s).hub.shoots = s.hub.shoots := rfl
@[simp] theorem setVdev_hub_hints (v : Nat) (x : Vdev) (s : State) : (setVdev v x s).hub.hints = s.hub.hints := rfl
@[simp] theorem setVdev_hub_acct (v : Nat) (x : Vdev) (s : State) : (setVdev v x s).hub.acct = s.hub.acct := rfl
@[simp] theorem setVdev_hub_groups64 (v : Nat) (x : Vdev) (s : State) : (setVdev v x s).hub.groups64 = s.hub.groups64 := rfl
@[simp] theorem setVdev_hub_hgOf (v : Nat) (x : Vdev) (s : State) : (setVdev v x s).hub.hgOf = s.hub.hgOf := rfl
@[simp] theorem setVdev_hub_hgIdle (v : Nat) (x : Vdev) (s : State) : (setVdev v x s).hub.hgIdle = s.hub.hgIdle := rfl
@[simp] theorem setVdev_hub_boot (v : Nat) (x : Vdev) (s : State) : (setVdev v x s).hub.boot = s.hub.boot := rfl
@[simp] theorem setVdev_hub_mcs (v : Nat) (x : Vdev) (s : State) : (setVdev v x s).hub.mcs = s.hub.mcs := rfl
@[simp] theorem setVdev_hub_links (v : Nat) (x : Vdev) (s : State) : (setVdev v x s).hub.links = s.hub.links := rfl
@[simp] theorem setVdev_hub_ports (v : Nat) (x : Vdev) (s : State) : (setVdev v x s).hub.ports = s.hub.ports := rfl
@[simp] theorem setVdev_hub_seals (v : Nat) (x : Vdev) (s : State) : (setVdev v x s).hub.seals = s.hub.seals := rfl
@[simp] theorem setVdev_hub_vdevs (v : Nat) (x : Vdev) (s : State) : (setVdev v x s).hub.vdevs = tabSet {} s.hub.vdevs v x := rfl
@[simp] theorem setVdev_hub_eps (v : Nat) (x : Vdev) (s : State) : (setVdev v x s).hub.eps = s.hub.eps := rfl
@[simp] theorem setVdev_hub_queues (v : Nat) (x : Vdev) (s : State) : (setVdev v x s).hub.queues = s.hub.queues := rfl
@[simp] theorem setVdev_hub_keys (v : Nat) (x : Vdev) (s : State) : (setVdev v x s).hub.keys = s.hub.keys := rfl
@[simp] theorem setVdev_hub_keysSent (v : Nat) (x : Vdev) (s : State) : (setVdev v x s).hub.keysSent = s.hub.keysSent := rfl
@[simp] theorem setVdev_hub_unsupported (v : Nat) (x : Vdev) (s : State) : (setVdev v x s).hub.unsupported = s.hub.unsupported := rfl
@[simp] theorem setVdev_hub_govAt (v : Nat) (x : Vdev) (s : State) : (setVdev v x s).hub.govAt = s.hub.govAt := rfl
@[simp] theorem setVdev_hub_harts (v : Nat) (x : Vdev) (s : State) : (setVdev v x s).hub.harts = s.hub.harts := rfl
@[simp] theorem setVdev_hub_irq (v : Nat) (x : Vdev) (s : State) : (setVdev v x s).hub.irq = s.hub.irq := rfl
@[simp] theorem setVdev_hub_cards (v : Nat) (x : Vdev) (s : State) : (setVdev v x s).hub.cards = s.hub.cards := rfl
@[simp] theorem setVdev_hub_launches (v : Nat) (x : Vdev) (s : State) : (setVdev v x s).hub.launches = s.hub.launches := rfl
@[simp] theorem setVdev_hub_groups (v : Nat) (x : Vdev) (s : State) : (setVdev v x s).hub.groups = s.hub.groups := rfl
@[simp] theorem setVdev_hub_conts (v : Nat) (x : Vdev) (s : State) : (setVdev v x s).hub.conts = s.hub.conts := rfl
@[simp] theorem setVdev_hub_jobs (v : Nat) (x : Vdev) (s : State) : (setVdev v x s).hub.jobs = s.hub.jobs := rfl
@[simp] theorem setVdev_hub_decisions (v : Nat) (x : Vdev) (s : State) : (setVdev v x s).hub.decisions = s.hub.decisions := rfl
@[simp] theorem setVdev_hub_out (v : Nat) (x : Vdev) (s : State) : (setVdev v x s).hub.out = s.hub.out := rfl

/-! ### setBoot -/

@[simp] theorem setBoot_gtc (b : Boot) (s : State) : (setBoot b s).gtc = s.gtc := rfl
@[simp] theorem setBoot_cur (b : Boot) (s : State) : (setBoot b s).cur = s.cur := rfl
@[simp] theorem setBoot_core (b : Boot) (s : State) : (setBoot b s).core = s.core := rfl
@[simp] theorem setBoot_others (b : Boot) (s : State) : (setBoot b s).others = s.others := rfl
@[simp] theorem setBoot_mem (b : Boot) (s : State) : (setBoot b s).mem = s.mem := rfl
@[simp] theorem setBoot_tiles (b : Boot) (s : State) : (setBoot b s).tiles = s.tiles := rfl
@[simp] theorem setBoot_quads (b : Boot) (s : State) : (setBoot b s).quads = s.quads := rfl
@[simp] theorem setBoot_dies (b : Boot) (s : State) : (setBoot b s).dies = s.dies := rfl
@[simp] theorem setBoot_galleys (b : Boot) (s : State) : (setBoot b s).galleys = s.galleys := rfl
@[simp] theorem setBoot_net (b : Boot) (s : State) : (setBoot b s).net = s.net := rfl
@[simp] theorem setBoot_races (b : Boot) (s : State) : (setBoot b s).races = s.races := rfl
@[simp] theorem setBoot_asides (b : Boot) (s : State) : (setBoot b s).asides = s.asides := rfl
@[simp] theorem setBoot_freeCtr (b : Boot) (s : State) : (setBoot b s).freeCtr = s.freeCtr := rfl
@[simp] theorem setBoot_agenda (b : Boot) (s : State) : (setBoot b s).agenda = s.agenda := rfl
@[simp] theorem setBoot_hub_parts (b : Boot) (s : State) : (setBoot b s).hub.parts = s.hub.parts := rfl
@[simp] theorem setBoot_hub_ovlp (b : Boot) (s : State) : (setBoot b s).hub.ovlp = s.hub.ovlp := rfl
@[simp] theorem setBoot_hub_rights (b : Boot) (s : State) : (setBoot b s).hub.rights = s.hub.rights := rfl
@[simp] theorem setBoot_hub_shoots (b : Boot) (s : State) : (setBoot b s).hub.shoots = s.hub.shoots := rfl
@[simp] theorem setBoot_hub_hints (b : Boot) (s : State) : (setBoot b s).hub.hints = s.hub.hints := rfl
@[simp] theorem setBoot_hub_acct (b : Boot) (s : State) : (setBoot b s).hub.acct = s.hub.acct := rfl
@[simp] theorem setBoot_hub_groups64 (b : Boot) (s : State) : (setBoot b s).hub.groups64 = s.hub.groups64 := rfl
@[simp] theorem setBoot_hub_hgOf (b : Boot) (s : State) : (setBoot b s).hub.hgOf = s.hub.hgOf := rfl
@[simp] theorem setBoot_hub_hgIdle (b : Boot) (s : State) : (setBoot b s).hub.hgIdle = s.hub.hgIdle := rfl
@[simp] theorem setBoot_hub_boot (b : Boot) (s : State) : (setBoot b s).hub.boot = b := rfl
@[simp] theorem setBoot_hub_mcs (b : Boot) (s : State) : (setBoot b s).hub.mcs = s.hub.mcs := rfl
@[simp] theorem setBoot_hub_links (b : Boot) (s : State) : (setBoot b s).hub.links = s.hub.links := rfl
@[simp] theorem setBoot_hub_ports (b : Boot) (s : State) : (setBoot b s).hub.ports = s.hub.ports := rfl
@[simp] theorem setBoot_hub_seals (b : Boot) (s : State) : (setBoot b s).hub.seals = s.hub.seals := rfl
@[simp] theorem setBoot_hub_vdevs (b : Boot) (s : State) : (setBoot b s).hub.vdevs = s.hub.vdevs := rfl
@[simp] theorem setBoot_hub_eps (b : Boot) (s : State) : (setBoot b s).hub.eps = s.hub.eps := rfl
@[simp] theorem setBoot_hub_queues (b : Boot) (s : State) : (setBoot b s).hub.queues = s.hub.queues := rfl
@[simp] theorem setBoot_hub_keys (b : Boot) (s : State) : (setBoot b s).hub.keys = s.hub.keys := rfl
@[simp] theorem setBoot_hub_keysSent (b : Boot) (s : State) : (setBoot b s).hub.keysSent = s.hub.keysSent := rfl
@[simp] theorem setBoot_hub_unsupported (b : Boot) (s : State) : (setBoot b s).hub.unsupported = s.hub.unsupported := rfl
@[simp] theorem setBoot_hub_govAt (b : Boot) (s : State) : (setBoot b s).hub.govAt = s.hub.govAt := rfl
@[simp] theorem setBoot_hub_harts (b : Boot) (s : State) : (setBoot b s).hub.harts = s.hub.harts := rfl
@[simp] theorem setBoot_hub_irq (b : Boot) (s : State) : (setBoot b s).hub.irq = s.hub.irq := rfl
@[simp] theorem setBoot_hub_cards (b : Boot) (s : State) : (setBoot b s).hub.cards = s.hub.cards := rfl
@[simp] theorem setBoot_hub_launches (b : Boot) (s : State) : (setBoot b s).hub.launches = s.hub.launches := rfl
@[simp] theorem setBoot_hub_groups (b : Boot) (s : State) : (setBoot b s).hub.groups = s.hub.groups := rfl
@[simp] theorem setBoot_hub_conts (b : Boot) (s : State) : (setBoot b s).hub.conts = s.hub.conts := rfl
@[simp] theorem setBoot_hub_jobs (b : Boot) (s : State) : (setBoot b s).hub.jobs = s.hub.jobs := rfl
@[simp] theorem setBoot_hub_decisions (b : Boot) (s : State) : (setBoot b s).hub.decisions = s.hub.decisions := rfl
@[simp] theorem setBoot_hub_out (b : Boot) (s : State) : (setBoot b s).hub.out = s.hub.out := rfl

/-! ### setSeal -/

@[simp] theorem setSeal_gtc (l : Nat) (x : SealedLink) (s : State) : (setSeal l x s).gtc = s.gtc := rfl
@[simp] theorem setSeal_cur (l : Nat) (x : SealedLink) (s : State) : (setSeal l x s).cur = s.cur := rfl
@[simp] theorem setSeal_core (l : Nat) (x : SealedLink) (s : State) : (setSeal l x s).core = s.core := rfl
@[simp] theorem setSeal_others (l : Nat) (x : SealedLink) (s : State) : (setSeal l x s).others = s.others := rfl
@[simp] theorem setSeal_mem (l : Nat) (x : SealedLink) (s : State) : (setSeal l x s).mem = s.mem := rfl
@[simp] theorem setSeal_tiles (l : Nat) (x : SealedLink) (s : State) : (setSeal l x s).tiles = s.tiles := rfl
@[simp] theorem setSeal_quads (l : Nat) (x : SealedLink) (s : State) : (setSeal l x s).quads = s.quads := rfl
@[simp] theorem setSeal_dies (l : Nat) (x : SealedLink) (s : State) : (setSeal l x s).dies = s.dies := rfl
@[simp] theorem setSeal_galleys (l : Nat) (x : SealedLink) (s : State) : (setSeal l x s).galleys = s.galleys := rfl
@[simp] theorem setSeal_net (l : Nat) (x : SealedLink) (s : State) : (setSeal l x s).net = s.net := rfl
@[simp] theorem setSeal_races (l : Nat) (x : SealedLink) (s : State) : (setSeal l x s).races = s.races := rfl
@[simp] theorem setSeal_asides (l : Nat) (x : SealedLink) (s : State) : (setSeal l x s).asides = s.asides := rfl
@[simp] theorem setSeal_freeCtr (l : Nat) (x : SealedLink) (s : State) : (setSeal l x s).freeCtr = s.freeCtr := rfl
@[simp] theorem setSeal_agenda (l : Nat) (x : SealedLink) (s : State) : (setSeal l x s).agenda = s.agenda := rfl
@[simp] theorem setSeal_hub_parts (l : Nat) (x : SealedLink) (s : State) : (setSeal l x s).hub.parts = s.hub.parts := rfl
@[simp] theorem setSeal_hub_ovlp (l : Nat) (x : SealedLink) (s : State) : (setSeal l x s).hub.ovlp = s.hub.ovlp := rfl
@[simp] theorem setSeal_hub_rights (l : Nat) (x : SealedLink) (s : State) : (setSeal l x s).hub.rights = s.hub.rights := rfl
@[simp] theorem setSeal_hub_shoots (l : Nat) (x : SealedLink) (s : State) : (setSeal l x s).hub.shoots = s.hub.shoots := rfl
@[simp] theorem setSeal_hub_hints (l : Nat) (x : SealedLink) (s : State) : (setSeal l x s).hub.hints = s.hub.hints := rfl
@[simp] theorem setSeal_hub_acct (l : Nat) (x : SealedLink) (s : State) : (setSeal l x s).hub.acct = s.hub.acct := rfl
@[simp] theorem setSeal_hub_groups64 (l : Nat) (x : SealedLink) (s : State) : (setSeal l x s).hub.groups64 = s.hub.groups64 := rfl
@[simp] theorem setSeal_hub_hgOf (l : Nat) (x : SealedLink) (s : State) : (setSeal l x s).hub.hgOf = s.hub.hgOf := rfl
@[simp] theorem setSeal_hub_hgIdle (l : Nat) (x : SealedLink) (s : State) : (setSeal l x s).hub.hgIdle = s.hub.hgIdle := rfl
@[simp] theorem setSeal_hub_boot (l : Nat) (x : SealedLink) (s : State) : (setSeal l x s).hub.boot = s.hub.boot := rfl
@[simp] theorem setSeal_hub_mcs (l : Nat) (x : SealedLink) (s : State) : (setSeal l x s).hub.mcs = s.hub.mcs := rfl
@[simp] theorem setSeal_hub_links (l : Nat) (x : SealedLink) (s : State) : (setSeal l x s).hub.links = s.hub.links := rfl
@[simp] theorem setSeal_hub_ports (l : Nat) (x : SealedLink) (s : State) : (setSeal l x s).hub.ports = s.hub.ports := rfl
@[simp] theorem setSeal_hub_seals (l : Nat) (x : SealedLink) (s : State) : (setSeal l x s).hub.seals = tabSet {} s.hub.seals l x := rfl
@[simp] theorem setSeal_hub_vdevs (l : Nat) (x : SealedLink) (s : State) : (setSeal l x s).hub.vdevs = s.hub.vdevs := rfl
@[simp] theorem setSeal_hub_eps (l : Nat) (x : SealedLink) (s : State) : (setSeal l x s).hub.eps = s.hub.eps := rfl
@[simp] theorem setSeal_hub_queues (l : Nat) (x : SealedLink) (s : State) : (setSeal l x s).hub.queues = s.hub.queues := rfl
@[simp] theorem setSeal_hub_keys (l : Nat) (x : SealedLink) (s : State) : (setSeal l x s).hub.keys = s.hub.keys := rfl
@[simp] theorem setSeal_hub_keysSent (l : Nat) (x : SealedLink) (s : State) : (setSeal l x s).hub.keysSent = s.hub.keysSent := rfl
@[simp] theorem setSeal_hub_unsupported (l : Nat) (x : SealedLink) (s : State) : (setSeal l x s).hub.unsupported = s.hub.unsupported := rfl
@[simp] theorem setSeal_hub_govAt (l : Nat) (x : SealedLink) (s : State) : (setSeal l x s).hub.govAt = s.hub.govAt := rfl
@[simp] theorem setSeal_hub_harts (l : Nat) (x : SealedLink) (s : State) : (setSeal l x s).hub.harts = s.hub.harts := rfl
@[simp] theorem setSeal_hub_irq (l : Nat) (x : SealedLink) (s : State) : (setSeal l x s).hub.irq = s.hub.irq := rfl
@[simp] theorem setSeal_hub_cards (l : Nat) (x : SealedLink) (s : State) : (setSeal l x s).hub.cards = s.hub.cards := rfl
@[simp] theorem setSeal_hub_launches (l : Nat) (x : SealedLink) (s : State) : (setSeal l x s).hub.launches = s.hub.launches := rfl
@[simp] theorem setSeal_hub_groups (l : Nat) (x : SealedLink) (s : State) : (setSeal l x s).hub.groups = s.hub.groups := rfl
@[simp] theorem setSeal_hub_conts (l : Nat) (x : SealedLink) (s : State) : (setSeal l x s).hub.conts = s.hub.conts := rfl
@[simp] theorem setSeal_hub_jobs (l : Nat) (x : SealedLink) (s : State) : (setSeal l x s).hub.jobs = s.hub.jobs := rfl
@[simp] theorem setSeal_hub_decisions (l : Nat) (x : SealedLink) (s : State) : (setSeal l x s).hub.decisions = s.hub.decisions := rfl
@[simp] theorem setSeal_hub_out (l : Nat) (x : SealedLink) (s : State) : (setSeal l x s).hub.out = s.hub.out := rfl

/-! ### setHaltGroup -/

@[simp] theorem setHaltGroup_gtc (g : Nat) (x : HaltGroup) (s : State) : (setHaltGroup g x s).gtc = s.gtc := rfl
@[simp] theorem setHaltGroup_cur (g : Nat) (x : HaltGroup) (s : State) : (setHaltGroup g x s).cur = s.cur := rfl
@[simp] theorem setHaltGroup_core (g : Nat) (x : HaltGroup) (s : State) : (setHaltGroup g x s).core = s.core := rfl
@[simp] theorem setHaltGroup_others (g : Nat) (x : HaltGroup) (s : State) : (setHaltGroup g x s).others = s.others := rfl
@[simp] theorem setHaltGroup_mem (g : Nat) (x : HaltGroup) (s : State) : (setHaltGroup g x s).mem = s.mem := rfl
@[simp] theorem setHaltGroup_tiles (g : Nat) (x : HaltGroup) (s : State) : (setHaltGroup g x s).tiles = s.tiles := rfl
@[simp] theorem setHaltGroup_quads (g : Nat) (x : HaltGroup) (s : State) : (setHaltGroup g x s).quads = s.quads := rfl
@[simp] theorem setHaltGroup_dies (g : Nat) (x : HaltGroup) (s : State) : (setHaltGroup g x s).dies = s.dies := rfl
@[simp] theorem setHaltGroup_galleys (g : Nat) (x : HaltGroup) (s : State) : (setHaltGroup g x s).galleys = s.galleys := rfl
@[simp] theorem setHaltGroup_net (g : Nat) (x : HaltGroup) (s : State) : (setHaltGroup g x s).net = s.net := rfl
@[simp] theorem setHaltGroup_races (g : Nat) (x : HaltGroup) (s : State) : (setHaltGroup g x s).races = s.races := rfl
@[simp] theorem setHaltGroup_asides (g : Nat) (x : HaltGroup) (s : State) : (setHaltGroup g x s).asides = s.asides := rfl
@[simp] theorem setHaltGroup_freeCtr (g : Nat) (x : HaltGroup) (s : State) : (setHaltGroup g x s).freeCtr = s.freeCtr := rfl
@[simp] theorem setHaltGroup_agenda (g : Nat) (x : HaltGroup) (s : State) : (setHaltGroup g x s).agenda = s.agenda := rfl
@[simp] theorem setHaltGroup_hub_parts (g : Nat) (x : HaltGroup) (s : State) : (setHaltGroup g x s).hub.parts = s.hub.parts := rfl
@[simp] theorem setHaltGroup_hub_ovlp (g : Nat) (x : HaltGroup) (s : State) : (setHaltGroup g x s).hub.ovlp = s.hub.ovlp := rfl
@[simp] theorem setHaltGroup_hub_rights (g : Nat) (x : HaltGroup) (s : State) : (setHaltGroup g x s).hub.rights = s.hub.rights := rfl
@[simp] theorem setHaltGroup_hub_shoots (g : Nat) (x : HaltGroup) (s : State) : (setHaltGroup g x s).hub.shoots = s.hub.shoots := rfl
@[simp] theorem setHaltGroup_hub_hints (g : Nat) (x : HaltGroup) (s : State) : (setHaltGroup g x s).hub.hints = s.hub.hints := rfl
@[simp] theorem setHaltGroup_hub_acct (g : Nat) (x : HaltGroup) (s : State) : (setHaltGroup g x s).hub.acct = s.hub.acct := rfl
@[simp] theorem setHaltGroup_hub_groups64 (g : Nat) (x : HaltGroup) (s : State) : (setHaltGroup g x s).hub.groups64 = tabSet {} s.hub.groups64 g x := rfl
@[simp] theorem setHaltGroup_hub_hgOf (g : Nat) (x : HaltGroup) (s : State) : (setHaltGroup g x s).hub.hgOf = s.hub.hgOf := rfl
@[simp] theorem setHaltGroup_hub_hgIdle (g : Nat) (x : HaltGroup) (s : State) : (setHaltGroup g x s).hub.hgIdle = s.hub.hgIdle := rfl
@[simp] theorem setHaltGroup_hub_boot (g : Nat) (x : HaltGroup) (s : State) : (setHaltGroup g x s).hub.boot = s.hub.boot := rfl
@[simp] theorem setHaltGroup_hub_mcs (g : Nat) (x : HaltGroup) (s : State) : (setHaltGroup g x s).hub.mcs = s.hub.mcs := rfl
@[simp] theorem setHaltGroup_hub_links (g : Nat) (x : HaltGroup) (s : State) : (setHaltGroup g x s).hub.links = s.hub.links := rfl
@[simp] theorem setHaltGroup_hub_ports (g : Nat) (x : HaltGroup) (s : State) : (setHaltGroup g x s).hub.ports = s.hub.ports := rfl
@[simp] theorem setHaltGroup_hub_seals (g : Nat) (x : HaltGroup) (s : State) : (setHaltGroup g x s).hub.seals = s.hub.seals := rfl
@[simp] theorem setHaltGroup_hub_vdevs (g : Nat) (x : HaltGroup) (s : State) : (setHaltGroup g x s).hub.vdevs = s.hub.vdevs := rfl
@[simp] theorem setHaltGroup_hub_eps (g : Nat) (x : HaltGroup) (s : State) : (setHaltGroup g x s).hub.eps = s.hub.eps := rfl
@[simp] theorem setHaltGroup_hub_queues (g : Nat) (x : HaltGroup) (s : State) : (setHaltGroup g x s).hub.queues = s.hub.queues := rfl
@[simp] theorem setHaltGroup_hub_keys (g : Nat) (x : HaltGroup) (s : State) : (setHaltGroup g x s).hub.keys = s.hub.keys := rfl
@[simp] theorem setHaltGroup_hub_keysSent (g : Nat) (x : HaltGroup) (s : State) : (setHaltGroup g x s).hub.keysSent = s.hub.keysSent := rfl
@[simp] theorem setHaltGroup_hub_unsupported (g : Nat) (x : HaltGroup) (s : State) : (setHaltGroup g x s).hub.unsupported = s.hub.unsupported := rfl
@[simp] theorem setHaltGroup_hub_govAt (g : Nat) (x : HaltGroup) (s : State) : (setHaltGroup g x s).hub.govAt = s.hub.govAt := rfl
@[simp] theorem setHaltGroup_hub_harts (g : Nat) (x : HaltGroup) (s : State) : (setHaltGroup g x s).hub.harts = s.hub.harts := rfl
@[simp] theorem setHaltGroup_hub_irq (g : Nat) (x : HaltGroup) (s : State) : (setHaltGroup g x s).hub.irq = s.hub.irq := rfl
@[simp] theorem setHaltGroup_hub_cards (g : Nat) (x : HaltGroup) (s : State) : (setHaltGroup g x s).hub.cards = s.hub.cards := rfl
@[simp] theorem setHaltGroup_hub_launches (g : Nat) (x : HaltGroup) (s : State) : (setHaltGroup g x s).hub.launches = s.hub.launches := rfl
@[simp] theorem setHaltGroup_hub_groups (g : Nat) (x : HaltGroup) (s : State) : (setHaltGroup g x s).hub.groups = s.hub.groups := rfl
@[simp] theorem setHaltGroup_hub_conts (g : Nat) (x : HaltGroup) (s : State) : (setHaltGroup g x s).hub.conts = s.hub.conts := rfl
@[simp] theorem setHaltGroup_hub_jobs (g : Nat) (x : HaltGroup) (s : State) : (setHaltGroup g x s).hub.jobs = s.hub.jobs := rfl
@[simp] theorem setHaltGroup_hub_decisions (g : Nat) (x : HaltGroup) (s : State) : (setHaltGroup g x s).hub.decisions = s.hub.decisions := rfl
@[simp] theorem setHaltGroup_hub_out (g : Nat) (x : HaltGroup) (s : State) : (setHaltGroup g x s).hub.out = s.hub.out := rfl

/-! ### setGroup -/

@[simp] theorem setGroup_gtc (l : Nat) (g : BitVec 8) (x : Group) (s : State) : (setGroup l g x s).gtc = s.gtc := rfl
@[simp] theorem setGroup_cur (l : Nat) (g : BitVec 8) (x : Group) (s : State) : (setGroup l g x s).cur = s.cur := rfl
@[simp] theorem setGroup_core (l : Nat) (g : BitVec 8) (x : Group) (s : State) : (setGroup l g x s).core = s.core := rfl
@[simp] theorem setGroup_others (l : Nat) (g : BitVec 8) (x : Group) (s : State) : (setGroup l g x s).others = s.others := rfl
@[simp] theorem setGroup_mem (l : Nat) (g : BitVec 8) (x : Group) (s : State) : (setGroup l g x s).mem = s.mem := rfl
@[simp] theorem setGroup_tiles (l : Nat) (g : BitVec 8) (x : Group) (s : State) : (setGroup l g x s).tiles = s.tiles := rfl
@[simp] theorem setGroup_quads (l : Nat) (g : BitVec 8) (x : Group) (s : State) : (setGroup l g x s).quads = s.quads := rfl
@[simp] theorem setGroup_dies (l : Nat) (g : BitVec 8) (x : Group) (s : State) : (setGroup l g x s).dies = s.dies := rfl
@[simp] theorem setGroup_galleys (l : Nat) (g : BitVec 8) (x : Group) (s : State) : (setGroup l g x s).galleys = s.galleys := rfl
@[simp] theorem setGroup_net (l : Nat) (g : BitVec 8) (x : Group) (s : State) : (setGroup l g x s).net = s.net := rfl
@[simp] theorem setGroup_races (l : Nat) (g : BitVec 8) (x : Group) (s : State) : (setGroup l g x s).races = s.races := rfl
@[simp] theorem setGroup_asides (l : Nat) (g : BitVec 8) (x : Group) (s : State) : (setGroup l g x s).asides = s.asides := rfl
@[simp] theorem setGroup_freeCtr (l : Nat) (g : BitVec 8) (x : Group) (s : State) : (setGroup l g x s).freeCtr = s.freeCtr := rfl
@[simp] theorem setGroup_agenda (l : Nat) (g : BitVec 8) (x : Group) (s : State) : (setGroup l g x s).agenda = s.agenda := rfl
@[simp] theorem setGroup_hub_parts (l : Nat) (g : BitVec 8) (x : Group) (s : State) : (setGroup l g x s).hub.parts = s.hub.parts := rfl
@[simp] theorem setGroup_hub_ovlp (l : Nat) (g : BitVec 8) (x : Group) (s : State) : (setGroup l g x s).hub.ovlp = s.hub.ovlp := rfl
@[simp] theorem setGroup_hub_rights (l : Nat) (g : BitVec 8) (x : Group) (s : State) : (setGroup l g x s).hub.rights = s.hub.rights := rfl
@[simp] theorem setGroup_hub_shoots (l : Nat) (g : BitVec 8) (x : Group) (s : State) : (setGroup l g x s).hub.shoots = s.hub.shoots := rfl
@[simp] theorem setGroup_hub_hints (l : Nat) (g : BitVec 8) (x : Group) (s : State) : (setGroup l g x s).hub.hints = s.hub.hints := rfl
@[simp] theorem setGroup_hub_acct (l : Nat) (g : BitVec 8) (x : Group) (s : State) : (setGroup l g x s).hub.acct = s.hub.acct := rfl
@[simp] theorem setGroup_hub_groups64 (l : Nat) (g : BitVec 8) (x : Group) (s : State) : (setGroup l g x s).hub.groups64 = s.hub.groups64 := rfl
@[simp] theorem setGroup_hub_hgOf (l : Nat) (g : BitVec 8) (x : Group) (s : State) : (setGroup l g x s).hub.hgOf = s.hub.hgOf := rfl
@[simp] theorem setGroup_hub_hgIdle (l : Nat) (g : BitVec 8) (x : Group) (s : State) : (setGroup l g x s).hub.hgIdle = s.hub.hgIdle := rfl
@[simp] theorem setGroup_hub_boot (l : Nat) (g : BitVec 8) (x : Group) (s : State) : (setGroup l g x s).hub.boot = s.hub.boot := rfl
@[simp] theorem setGroup_hub_mcs (l : Nat) (g : BitVec 8) (x : Group) (s : State) : (setGroup l g x s).hub.mcs = s.hub.mcs := rfl
@[simp] theorem setGroup_hub_links (l : Nat) (g : BitVec 8) (x : Group) (s : State) : (setGroup l g x s).hub.links = s.hub.links := rfl
@[simp] theorem setGroup_hub_ports (l : Nat) (g : BitVec 8) (x : Group) (s : State) : (setGroup l g x s).hub.ports = s.hub.ports := rfl
@[simp] theorem setGroup_hub_seals (l : Nat) (g : BitVec 8) (x : Group) (s : State) : (setGroup l g x s).hub.seals = s.hub.seals := rfl
@[simp] theorem setGroup_hub_vdevs (l : Nat) (g : BitVec 8) (x : Group) (s : State) : (setGroup l g x s).hub.vdevs = s.hub.vdevs := rfl
@[simp] theorem setGroup_hub_eps (l : Nat) (g : BitVec 8) (x : Group) (s : State) : (setGroup l g x s).hub.eps = s.hub.eps := rfl
@[simp] theorem setGroup_hub_queues (l : Nat) (g : BitVec 8) (x : Group) (s : State) : (setGroup l g x s).hub.queues = s.hub.queues := rfl
@[simp] theorem setGroup_hub_keys (l : Nat) (g : BitVec 8) (x : Group) (s : State) : (setGroup l g x s).hub.keys = s.hub.keys := rfl
@[simp] theorem setGroup_hub_keysSent (l : Nat) (g : BitVec 8) (x : Group) (s : State) : (setGroup l g x s).hub.keysSent = s.hub.keysSent := rfl
@[simp] theorem setGroup_hub_unsupported (l : Nat) (g : BitVec 8) (x : Group) (s : State) : (setGroup l g x s).hub.unsupported = s.hub.unsupported := rfl
@[simp] theorem setGroup_hub_govAt (l : Nat) (g : BitVec 8) (x : Group) (s : State) : (setGroup l g x s).hub.govAt = s.hub.govAt := rfl
@[simp] theorem setGroup_hub_harts (l : Nat) (g : BitVec 8) (x : Group) (s : State) : (setGroup l g x s).hub.harts = s.hub.harts := rfl
@[simp] theorem setGroup_hub_irq (l : Nat) (g : BitVec 8) (x : Group) (s : State) : (setGroup l g x s).hub.irq = s.hub.irq := rfl
@[simp] theorem setGroup_hub_cards (l : Nat) (g : BitVec 8) (x : Group) (s : State) : (setGroup l g x s).hub.cards = s.hub.cards := rfl
@[simp] theorem setGroup_hub_launches (l : Nat) (g : BitVec 8) (x : Group) (s : State) : (setGroup l g x s).hub.launches = s.hub.launches := rfl
@[simp] theorem setGroup_hub_groups (l : Nat) (g : BitVec 8) (x : Group) (s : State) : (setGroup l g x s).hub.groups = tabSet {} s.hub.groups (256 * l + g.toNat) x := rfl
@[simp] theorem setGroup_hub_conts (l : Nat) (g : BitVec 8) (x : Group) (s : State) : (setGroup l g x s).hub.conts = s.hub.conts := rfl
@[simp] theorem setGroup_hub_jobs (l : Nat) (g : BitVec 8) (x : Group) (s : State) : (setGroup l g x s).hub.jobs = s.hub.jobs := rfl
@[simp] theorem setGroup_hub_decisions (l : Nat) (g : BitVec 8) (x : Group) (s : State) : (setGroup l g x s).hub.decisions = s.hub.decisions := rfl
@[simp] theorem setGroup_hub_out (l : Nat) (g : BitVec 8) (x : Group) (s : State) : (setGroup l g x s).hub.out = s.hub.out := rfl

/-! ### modCard -/

@[simp] theorem modCard_gtc (i : Nat) (f : Card → Card) (s : State) : (modCard i f s).gtc = s.gtc := rfl
@[simp] theorem modCard_cur (i : Nat) (f : Card → Card) (s : State) : (modCard i f s).cur = s.cur := rfl
@[simp] theorem modCard_core (i : Nat) (f : Card → Card) (s : State) : (modCard i f s).core = s.core := rfl
@[simp] theorem modCard_others (i : Nat) (f : Card → Card) (s : State) : (modCard i f s).others = s.others := rfl
@[simp] theorem modCard_mem (i : Nat) (f : Card → Card) (s : State) : (modCard i f s).mem = s.mem := rfl
@[simp] theorem modCard_tiles (i : Nat) (f : Card → Card) (s : State) : (modCard i f s).tiles = s.tiles := rfl
@[simp] theorem modCard_quads (i : Nat) (f : Card → Card) (s : State) : (modCard i f s).quads = s.quads := rfl
@[simp] theorem modCard_dies (i : Nat) (f : Card → Card) (s : State) : (modCard i f s).dies = s.dies := rfl
@[simp] theorem modCard_galleys (i : Nat) (f : Card → Card) (s : State) : (modCard i f s).galleys = s.galleys := rfl
@[simp] theorem modCard_net (i : Nat) (f : Card → Card) (s : State) : (modCard i f s).net = s.net := rfl
@[simp] theorem modCard_races (i : Nat) (f : Card → Card) (s : State) : (modCard i f s).races = s.races := rfl
@[simp] theorem modCard_asides (i : Nat) (f : Card → Card) (s : State) : (modCard i f s).asides = s.asides := rfl
@[simp] theorem modCard_freeCtr (i : Nat) (f : Card → Card) (s : State) : (modCard i f s).freeCtr = s.freeCtr := rfl
@[simp] theorem modCard_agenda (i : Nat) (f : Card → Card) (s : State) : (modCard i f s).agenda = s.agenda := rfl
@[simp] theorem modCard_hub_parts (i : Nat) (f : Card → Card) (s : State) : (modCard i f s).hub.parts = s.hub.parts := rfl
@[simp] theorem modCard_hub_ovlp (i : Nat) (f : Card → Card) (s : State) : (modCard i f s).hub.ovlp = s.hub.ovlp := rfl
@[simp] theorem modCard_hub_rights (i : Nat) (f : Card → Card) (s : State) : (modCard i f s).hub.rights = s.hub.rights := rfl
@[simp] theorem modCard_hub_shoots (i : Nat) (f : Card → Card) (s : State) : (modCard i f s).hub.shoots = s.hub.shoots := rfl
@[simp] theorem modCard_hub_hints (i : Nat) (f : Card → Card) (s : State) : (modCard i f s).hub.hints = s.hub.hints := rfl
@[simp] theorem modCard_hub_acct (i : Nat) (f : Card → Card) (s : State) : (modCard i f s).hub.acct = s.hub.acct := rfl
@[simp] theorem modCard_hub_groups64 (i : Nat) (f : Card → Card) (s : State) : (modCard i f s).hub.groups64 = s.hub.groups64 := rfl
@[simp] theorem modCard_hub_hgOf (i : Nat) (f : Card → Card) (s : State) : (modCard i f s).hub.hgOf = s.hub.hgOf := rfl
@[simp] theorem modCard_hub_hgIdle (i : Nat) (f : Card → Card) (s : State) : (modCard i f s).hub.hgIdle = s.hub.hgIdle := rfl
@[simp] theorem modCard_hub_boot (i : Nat) (f : Card → Card) (s : State) : (modCard i f s).hub.boot = s.hub.boot := rfl
@[simp] theorem modCard_hub_mcs (i : Nat) (f : Card → Card) (s : State) : (modCard i f s).hub.mcs = s.hub.mcs := rfl
@[simp] theorem modCard_hub_links (i : Nat) (f : Card → Card) (s : State) : (modCard i f s).hub.links = s.hub.links := rfl
@[simp] theorem modCard_hub_ports (i : Nat) (f : Card → Card) (s : State) : (modCard i f s).hub.ports = s.hub.ports := rfl
@[simp] theorem modCard_hub_seals (i : Nat) (f : Card → Card) (s : State) : (modCard i f s).hub.seals = s.hub.seals := rfl
@[simp] theorem modCard_hub_vdevs (i : Nat) (f : Card → Card) (s : State) : (modCard i f s).hub.vdevs = s.hub.vdevs := rfl
@[simp] theorem modCard_hub_eps (i : Nat) (f : Card → Card) (s : State) : (modCard i f s).hub.eps = s.hub.eps := rfl
@[simp] theorem modCard_hub_queues (i : Nat) (f : Card → Card) (s : State) : (modCard i f s).hub.queues = s.hub.queues := rfl
@[simp] theorem modCard_hub_keys (i : Nat) (f : Card → Card) (s : State) : (modCard i f s).hub.keys = s.hub.keys := rfl
@[simp] theorem modCard_hub_keysSent (i : Nat) (f : Card → Card) (s : State) : (modCard i f s).hub.keysSent = s.hub.keysSent := rfl
@[simp] theorem modCard_hub_unsupported (i : Nat) (f : Card → Card) (s : State) : (modCard i f s).hub.unsupported = s.hub.unsupported := rfl
@[simp] theorem modCard_hub_govAt (i : Nat) (f : Card → Card) (s : State) : (modCard i f s).hub.govAt = s.hub.govAt := rfl
@[simp] theorem modCard_hub_harts (i : Nat) (f : Card → Card) (s : State) : (modCard i f s).hub.harts = s.hub.harts := rfl
@[simp] theorem modCard_hub_irq (i : Nat) (f : Card → Card) (s : State) : (modCard i f s).hub.irq = s.hub.irq := rfl
@[simp] theorem modCard_hub_cards (i : Nat) (f : Card → Card) (s : State) : (modCard i f s).hub.cards = s.hub.cards.modify i f := rfl
@[simp] theorem modCard_hub_launches (i : Nat) (f : Card → Card) (s : State) : (modCard i f s).hub.launches = s.hub.launches := rfl
@[simp] theorem modCard_hub_groups (i : Nat) (f : Card → Card) (s : State) : (modCard i f s).hub.groups = s.hub.groups := rfl
@[simp] theorem modCard_hub_conts (i : Nat) (f : Card → Card) (s : State) : (modCard i f s).hub.conts = s.hub.conts := rfl
@[simp] theorem modCard_hub_jobs (i : Nat) (f : Card → Card) (s : State) : (modCard i f s).hub.jobs = s.hub.jobs := rfl
@[simp] theorem modCard_hub_decisions (i : Nat) (f : Card → Card) (s : State) : (modCard i f s).hub.decisions = s.hub.decisions := rfl
@[simp] theorem modCard_hub_out (i : Nat) (f : Card → Card) (s : State) : (modCard i f s).hub.out = s.hub.out := rfl

end Sys2Proof.Machine
end

