-- ==== Sys2Proof/Laws/Step.lean ====
section
/-! SUPPORT. What a step is: the event of the input that is due, the action of the unit that is next, or the end of the cycle. -/

namespace Sys2Proof.Machine

/-- The cases of `step`. -/
theorem step_cases (s : State) :
    (∃ i s1, nextInput s = some (i, s1) ∧ step s = if ofCore i then .next s1 else exec i s1) ∨
      (nextInput s = none ∧ ∃ u, nextUnit s = some u ∧ step s = unitStep u s) ∨ (nextInput s = none ∧ nextUnit s = none ∧ step s = execIssueCycle s) := by
  unfold step
  cases h : nextInput s with
  | some p => exact .inl ⟨p.1, p.2, rfl, rfl⟩
  | none =>
    cases h1 : nextUnit s with
    | some u => exact .inr (.inl ⟨rfl, u, rfl, rfl⟩)
    | none => exact .inr (.inr ⟨rfl, rfl, rfl⟩)

/-- The cases of a unit's action. -/
theorem unitStep_cases (u : Nat) (s : State) :
    (groupDue s u = true ∧ unitStep u s = .next (groupHaltCore u s)) ∨ (groupDue s u = false ∧ ∃ b, unitEvent s u = some b ∧ unitStep u s = boundary u b s) ∨
      (groupDue s u = false ∧ unitEvent s u = none ∧ unitStep u s = issueStep (focus s u)) := by
  unfold unitStep
  cases h : groupDue s u with
  | true => exact .inl ⟨rfl, rfl⟩
  | false =>
    cases h1 : unitEvent s u with
    | some b => exact .inr (.inl ⟨rfl, b, rfl, rfl⟩)
    | none => exact .inr (.inr ⟨rfl, rfl, rfl⟩)

/-- The cases of an issue. -/
theorem issueStep_cases (s : State) :
    ((fetchTrap s s.core.ctx.pc).isSome = true ∧ issueStep s = execNotLandedFetch (fetched s)) ∨
      ((fetchTrap s s.core.ctx.pc).isSome = false ∧ ((∃ i n, decodeAt s s.core.ctx.pc = .ok i n ∧ issueStep s = exec i (fetched s)) ∨
        ∃ r, decodeAt s s.core.ctx.pc = .reject r ∧ issueStep s = execIllegalInstruction (wordAtPc s) (fetched s))) := by
  unfold issueStep
  cases h : (fetchTrap s s.core.ctx.pc).isSome with
  | true => exact .inl ⟨rfl, rfl⟩
  | false =>
    refine .inr ⟨rfl, ?_⟩
    cases h1 : decodeAt s s.core.ctx.pc with
    | ok i n => exact .inl ⟨i, n, rfl, rfl⟩
    | reject r => exact .inr ⟨r, rfl, rfl⟩

end Sys2Proof.Machine
end

