-- ==== Sys2Proof/Laws/Trap.lean ====
section
/-! SUPPORT. Taking an exact trap: results completed, the loop state saved in the handler window, and what stands. -/

namespace Sys2Proof.Machine

/-- Writes of the handler window change the window alone. -/
theorem setWindowBytes_frame (c : Ctx) (off : Nat) (bs : List Byte) : ∃ w, setWindowBytes c off bs = { c with window := w } := by
  induction bs generalizing c off with
  | nil => exact ⟨c.window, rfl⟩
  | cons b bs ih =>
    obtain ⟨w, hw⟩ := ih (setWindowByte c off b) (off + 1)
    simp only [setWindowBytes]; rw [hw]
    unfold setWindowByte
    split
    · exact ⟨w, rfl⟩
    · exact ⟨w, rfl⟩

/-- Below offset 0x18 they are plain writes. -/
theorem setWindowBytes_low (c : Ctx) (off : Nat) (bs : List Byte) (h : off + bs.length ≤ 0x18) :
    setWindowBytes c off bs = { c with window := setBytes c.window off bs } := by
  induction bs generalizing c off with
  | nil => rfl
  | cons b bs ih =>
    simp only [List.length_cons] at h
    simp only [setWindowBytes, setBytes]
    rw [ih _ _ (by omega)]
    unfold setWindowByte
    rw [if_neg (by omega)]

/-- The saved loop state takes 24 bytes (R367). -/
theorem loopBytes_length (c : Ctx) : (loopBytes c).length = 0x18 := by
  unfold loopBytes
  rcases c.regs.lc with ⟨⟨l⟩, h⟩
  rcases c.regs.loops with ⟨⟨l2⟩, h2⟩
  match l, h with
  | [a, b, c], _ => match l2, h2 with
    | [a2, b2, c2], _ => simp [leBytes_length]

/-- Waking a context changes what it waits for, its wake bit and its state. -/
theorem ctxWake_form (on : WaitWhy → Bool) (c : Ctx) :
    ∃ why b w st pre, ctxWake on c = { c with why := why, blockedAt := b, ctl := { c.ctl with wake := w }, rcd := { c.rcd with state := st, pre := pre } } := by
  unfold ctxWake
  simp only
  split
  · split
    · split
      · exact ⟨_, _, _, _, c.rcd.pre, rfl⟩
      · exact ⟨_, _, c.ctl.wake, _, c.rcd.pre, rfl⟩
    · split
      · split
        · exact ⟨_, _, _, c.rcd.state, _, rfl⟩
        · exact ⟨_, _, c.ctl.wake, c.rcd.state, _, rfl⟩
      · exact ⟨c.why, c.blockedAt, c.ctl.wake, c.rcd.state, c.rcd.pre, rfl⟩
  · exact ⟨c.why, c.blockedAt, c.ctl.wake, c.rcd.state, c.rcd.pre, rfl⟩

/-- A post raises one COUNT, ends an IDLE and may wake the context. -/
theorem ctxPost_form (c : Ctx) (t : TokenName) :
    ∃ why b i w st pre, ctxPost c t = { ctxSetToken c t { ctxToken c t with count := (ctxToken c t).count + 1#16 } with
      why := why, blockedAt := b, idle := i, ctl := { c.ctl with wake := w }, rcd := { c.rcd with state := st, pre := pre } } := by
  unfold ctxPost
  obtain ⟨why, b, w, st, pre, h⟩ := ctxWake_form (fun w => w == .suspended)
    { ctxSetToken c t { ctxToken c t with count := (ctxToken c t).count + 1#16 } with
      idle := (ctxSetToken c t { ctxToken c t with count := (ctxToken c t).count + 1#16 }).idle.map fun _ => true,
      ctl := { (ctxSetToken c t { ctxToken c t with count := (ctxToken c t).count + 1#16 }).ctl with wake := true } }
  simp only at h ⊢
  rw [h]
  refine ⟨why, b, c.idle.map fun _ => true, w, st, pre, ?_⟩
  unfold ctxSetToken
  split <;> rfl

/-- What pending results leave alone. -/
theorem foldl_apply_loops (l : List (Nat × Pending)) (c : Ctx) :
    (l.foldl (fun c p => applyPending c p.2) c).regs.lc = c.regs.lc ∧ (l.foldl (fun c p => applyPending c p.2) c).regs.loops = c.regs.loops ∧
    (l.foldl (fun c p => applyPending c p.2) c).mailbox = c.mailbox ∧ (l.foldl (fun c p => applyPending c p.2) c).uncov = c.uncov ∧
    (l.foldl (fun c p => applyPending c p.2) c).window = c.window ∧ (l.foldl (fun c p => applyPending c p.2) c).pend = c.pend ∧
    (l.foldl (fun c p => applyPending c p.2) c).ctl.fitAbs = c.ctl.fitAbs ∧ (l.foldl (fun c p => applyPending c p.2) c).ctl.fitRel = c.ctl.fitRel ∧
    (l.foldl (fun c p => applyPending c p.2) c).rcd.chrys = c.rcd.chrys := by
  induction l generalizing c with
  | nil => simp
  | cons p l ih =>
    simp only [List.foldl_cons]
    obtain ⟨h1, h2, h3, h4, h5, h6, h7, h8, h9⟩ := ih (applyPending c p.2)
    rw [h1, h2, h3, h4, h5, h6, h7, h8, h9]
    cases p.2 with
    | writeG r x => simp only [applyPending, ctxPutG]; split <;> simp
    | writeV r x => simp [applyPending, ctxPutV]
    | writeM r x t => simp only [applyPending, ctxPutM]; split <;> simp
    | flags f => simp [applyPending]
    | post t =>
      simp only [applyPending]
      obtain ⟨why, b, i, w, st, pre, h⟩ := ctxPost_form c t
      rw [h]; unfold ctxSetToken; split <;> simp

/-- Completing every result leaves the loop state, the mailbox, the window and the like, and nothing pending. -/
theorem flush_keeps (c : Ctx) : (flush c).regs.lc = c.regs.lc ∧ (flush c).regs.loops = c.regs.loops ∧ (flush c).mailbox = c.mailbox ∧
    (flush c).uncov = c.uncov ∧ (flush c).window = c.window ∧ (flush c).pend = [] ∧ (flush c).ctl.fitAbs = c.ctl.fitAbs ∧ (flush c).ctl.fitRel = c.ctl.fitRel ∧
    (flush c).rcd.chrys = c.rcd.chrys := by
  have := foldl_apply_loops (c.pend.foldl (fun l p => insertDue p l) []) { c with pend := [] }
  exact this

/-- A number read below offset 0x18 of the window. -/
theorem windowLe_low (c : Ctx) (off n : Nat) (h : off + n ≤ 0x18) : windowLe c off n = getLe c.window off n := by
  unfold windowLe getLe
  congr 1
  induction n generalizing off with
  | zero => rfl
  | succ n ih =>
    rw [List.range_succ_eq_map]
    simp only [List.map_cons, List.map_map, getBytes, Nat.add_zero]
    congr 1
    · unfold windowByte; rw [if_neg (by omega)]
    · rw [← ih (off + 1) (by omega)]
      apply List.map_congr_left
      intro a _
      simp [Function.comp, Nat.add_comm, Nat.add_left_comm]

/-- Bytes read within a span that was written at 0. -/
theorem getBytes_sub {m : List Host.Cell} {off n : Nat} {bs : List Byte} (h : Memory.wf m = true) (hn : off + n ≤ bs.length) :
    getBytes (setBytes m 0 bs) off n = (bs.drop off).take n := by
  induction n generalizing off with
  | zero => simp [getBytes]
  | succ n ih =>
    simp only [getBytes]
    rw [ih (by omega)]
    have := getByte_setBytes (a := 0) (i := off) h (show off < bs.length by omega)
    rw [Nat.zero_add] at this
    rw [this]
    rw [List.drop_eq_getElem_cons (show off < bs.length by omega), List.take_succ_cons]

/-- The saved counts, starts and ends, read back (R182, R367). -/
theorem loop_read (c : Ctx) (n : Fin 3) :
    leNat (((loopBytes c).drop (4 * n)).take 4) = c.regs.lc[n].toNat ∧ leNat (((loopBytes c).drop (0xC + 2 * n)).take 2) = c.regs.loops[n].start.toNat ∧
    leNat (((loopBytes c).drop (0x12 + 2 * n)).take 2) = c.regs.loops[n].stop.toNat := by
  have e4 : ∀ x : BitVec 32, leNat [BitVec.ofNat 8 x.toNat, BitVec.ofNat 8 (x.toNat/256), BitVec.ofNat 8 (x.toNat/256/256), BitVec.ofNat 8 (x.toNat/256/256/256)] = x.toNat := by
    intro x
    have := leNat_leBytes 4 x.toNat
    rw [Nat.mod_eq_of_lt (show x.toNat < 256 ^ 4 from x.isLt)] at this
    exact this
  have e2 : ∀ x : BitVec 16, leNat [BitVec.ofNat 8 x.toNat, BitVec.ofNat 8 (x.toNat/256)] = x.toNat := by
    intro x
    have := leNat_leBytes 2 x.toNat
    rw [Nat.mod_eq_of_lt (show x.toNat < 256 ^ 2 from x.isLt)] at this
    exact this
  unfold loopBytes
  rcases c.regs.lc with ⟨⟨l⟩, h⟩
  rcases c.regs.loops with ⟨⟨l2⟩, h2⟩
  match l, h with
  | [a, b, c], _ => match l2, h2 with
    | [a2, b2, c2], _ =>
      rcases n with ⟨n, hn⟩
      interval_cases n
      · exact ⟨e4 a, e2 a2.start, e2 a2.stop⟩
      · exact ⟨e4 b, e2 b2.start, e2 b2.stop⟩
      · exact ⟨e4 c, e2 c2.start, e2 c2.stop⟩

/-- An exact trap from outside steward mode (R357): the exception registers, the mode and the PC, the loop levels inactive and saved, everything outside the core but the open sync region as before. -/
theorem takeTrapAt_user {s : State} {c : Cause} {pc : BitVec 56} (hs : s.core.ctx.ctl.steward = false) :
    let t := takeTrapAt pc c s
    t.core.ctx.ctl.trapPc = pc ∧ t.core.ctx.ctl.trapVal = c.2 ∧ t.core.ctx.ctl.cause = { async := false, reason := 0#8, code := c.1 } ∧ t.core.ctx.ctl.steward = true ∧ t.core.ctx.pc = 0xF000#16 ∧
      t.core.ctx.pend = [] ∧ t.core.ctx.ctl.savedAct = activeBits (flush s.core.ctx) ∧ (∀ n : Fin 3, t.core.ctx.regs.loops[n].active = false) ∧
      t.core.nextIssue = s.gtc + 6 ∧ t = { s with core := t.core, races := t.races } := by
  obtain ⟨w, hw⟩ := setWindowBytes_frame (flush s.core.ctx) 0 (loopBytes (flush s.core.ctx))
  unfold takeTrapAt steward
  rw [hs]
  simp only [Bool.false_eq_true, if_false]
  unfold enterHandler handlerCtx saveLoops endRegion
  rw [hw]
  refine ⟨rfl, rfl, rfl, rfl, rfl, (flush_keeps s.core.ctx).2.2.2.2.2.1, rfl, fun n => by simp, rfl, rfl⟩

end Sys2Proof.Machine
end

