-- ==== Sys2Proof/Laws/Units.lean ====
section
/-! SUPPORT. Reading a unit's, a partition's or a block's state after it has been replaced, and what `step` is by its cases. -/

namespace Sys2Proof.Machine

/-- A partition's registers after they are replaced. -/
theorem getPart_setPart (s : State) (p q : BitVec 3) (x : Part) : getPart (setPart s p x) q = if q = p then x else getPart s q := by
  unfold getPart
  simp only [setPart_hub_parts, Vector.getElem_set]
  by_cases h : q = p
  · subst h; simp
  · have : p.toNat ≠ q.toNat := fun e => h (BitVec.eq_of_toNat_eq e.symm)
    simp [h, this]

/-- A segment after one is replaced. -/
theorem segOf_setSeg (c : Core) (n m : BitVec 4) (x : Seg) : segOf (setSeg c n x) m = if m = n then x else segOf c m := by
  unfold segOf setSeg
  simp only [Vector.getElem_set]
  by_cases h : m = n
  · subst h; simp
  · have : n.toNat ≠ m.toNat := fun e => h (BitVec.eq_of_toNat_eq e.symm)
    simp [h, this]

/-- The core in focus after it is replaced. -/
theorem getCore_setCore_cur (s : State) (c : Core) : getCore (setCore s s.cur c) s.cur = c := by simp [getCore, setCore]

/-- A core after it is replaced, where the others keep their form. -/
theorem getCore_setCore {s : State} {u : Nat} {c : Core} (h : tabWf {} s.others = true) : getCore (setCore s u c) u = c := by
  unfold getCore setCore
  by_cases e : u = s.cur
  · simp [e]
  · simp only [e, if_false]; exact tabGet_tabSet_same h

/-- Another core after one is replaced. -/
theorem getCore_setCore_ne {s : State} {u v : Nat} {c : Core} (h : tabWf {} s.others = true) (e : v ≠ u) : getCore (setCore s u c) v = getCore s v := by
  unfold getCore setCore
  by_cases e1 : u = s.cur
  · have : v ≠ s.cur := fun x => e (x.trans e1.symm)
    simp [e1, this]
  · simp only [e1, if_false]
    split
    · rfl
    · exact tabGet_tabSet_other h e

/-- Replacing a core leaves memory, time, the hub and all else. -/
theorem setCore_frame (s : State) (u : Nat) (c : Core) : setCore s u c = { s with core := (setCore s u c).core, others := (setCore s u c).others } := by
  unfold setCore
  split <;> rfl

/-- The first number of a range that passes a test. -/
theorem find_range {n i : Nat} {p : Nat → Bool} (hi : i < n) (hp : p i = true) (h : ∀ j, j < i → p j = false) : (List.range n).find? p = some i := by
  rw [List.find?_range_eq_some]
  exact ⟨hp, by simpa using hi, fun j hj => by simp [h j hj]⟩

end Sys2Proof.Machine
end

