-- ==== Sys2Proof/Tests/Slice0.lean ====
section
/-! SUPPORT. Tests. (1) Ill-formed instructions that each check of `wellFormed` refuses. (2) One word of every encoding, written from the tables of R111 to R117 with
operand values of their own. (3) Witnesses: for every statement with hypotheses, small states and operands that meet them, clause by clause. (4) Single steps whose results are
taken from the spec's examples and tables. -/

namespace Sys2Proof.Tests

set_option Elab.async false
open Sys2Proof Sys2Proof.Machine Sys2Proof.Claim

/-! ### Ill-formed instructions (R118, R216, and the ranges of units in events) -/

/-- Vector element types: .t8 in VADD, .bf16 in a bitwise form, .i64 in VDOT2, .f32 in VMULW, code 13 in VCVT either way, a lane past the type's lanes. -/
theorem test_illformed_vectors :
    ([.vadd 0 10 1 2 3, .vsub 0 11 1 2 3, .vmul 0 12 1 2 3, .vmin 0 13 1 2 3, .vmax 0 15 1 2 3, .vabd 0 10 1 2 3, .vand 0 8 1 2 3, .vor 0 9 1 2 3, .vxor 0 8 1 2 3, .vshl 0 8 1 2 3,
      .vshr 0 9 1 2 3, .vsar 0 8 1 2 3, .vadds 0 8 1 2 3, .vsubs 0 9 1 2 3, .vfma 0 10 1 2 3, .vfms 0 10 1 2 3, .vfnma 0 10 1 2 3, .vdot2 0 3 1 2 3, .vmulw 0 9 1 2 3, .vcmp 0 10 1 2 0 1,
      .vsel 0 10 1 2 3, .vcvt 0 13 0 1 2, .vcvt 0 0 13 1 2, .vbcast 0 10 1 2, .vperm 0 10 1 2 3, .vext 0 3 4 1 2, .vins 0 9 8 1 2, .vabs 0 10 1 2, .vneg 0 10 1 2, .vmov 0 10 1 2,
      .vmsk 0 10 1 2, .vredAdd 0 10 1 2, .vredMin 0 10 1 2, .vredMax 0 10 1 2, .vscanAdd 0 10 1 2, .vscanMin 0 10 1 2, .vscanMax 0 10 1 2, .qred 0 10 1 2 3] : List Instr).all
      (fun i => !wellFormed i) = true := by decide +kernel

/-- Loop level 3, and a MBCNT selector past 2. -/
theorem test_illformed_control :
    ([.loopG 0 1 2 3, .loopi 0 1 2 3, .loopm 0 1 3, .lbrk 0 3, .mbcnt 0 3 1] : List Instr).all (fun i => !wellFormed i) = true := by decide +kernel

/-- Units, tiles, galleys, slots, segments and entries past the last. -/
theorem test_illformed_units :
    ([.qredSuspend 4368, .quireSuspend 4368, .tloadPerform 512, .tevalPerform 512, .queueDeadlock 0 256, .leaseGrant 512, .leaseTimeout 512, .pressEntryStart 512, .pressStartAdmit 512,
      .blockSlice 512, .sliceSumAccumulate 512, .pressEntryComplete 512, .pressShootdown 512 0, .stackCommandStart 256, .stackCommandComplete 256, .goSegmv 256, .goSefil 256, .goSecpy 256,
      .goSecmp 256, .goSered 256, .generationComplete 0 256, .cfetchCompletion 4368 0, .cfetchCompletion 0 16, .trainingStep 32 0, .trainingStep 0 16, .substitutionOutputs 32 0,
      .asyncTrap 4368, .loadCompletion 4368 0, .loadCompletion 0 16, .divideCompletion 4368 0, .storeAck 4368 0, .storeAck 0 32, .amoResponse 4368, .copyBeat 4368, .copyCompletion 4368,
      .tileCompletion 4368 0, .tileCompletion 0 512, .qaSlotReserve 4368, .slotLoad 4368 0, .slotLoad 0 8, .evictWriteback 4368 0, .evictWriteback 0 8, .slotSelect 4368, .sliceExpiry 4368,
      .pwSetWrite 4368 0, .pwSetApply 4368, .syncStopHalt 4368] : List Instr).all (fun i => !wellFormed i) = true := by decide +kernel

/-- Partitions, virtual devices, queues, endpoints, halt groups, harts, controllers and links past the last. -/
theorem test_illformed_blocks :
    ([.bindStart 8 false, .bindEvict 8 false, .bindEvictStart 8 false, .bindModify 8 false, .partMapWrite 8 0, .drainComplete 64 0, .drainComplete 0 256, .resetComplete 64 0,
      .resetComplete 0 256, .watchdogExpiry 64 0, .watchdogExpiry 0 256, .stopArm 8 false 0, .stopCancel 8, .stopResume 8 false 0, .sweepComplete 8, .hgHalt 64, .hgResume 64,
      .acctERead 64, .acctLateRead 64, .bootSetWrite 4 0, .hartRun 4 0, .mcPower 8, .mcEnable 8, .mcLaneRepair 8, .mcCaTraining 8, .mcReadTraining 8, .mcWriteTraining 8, .mcEyeCentring 8,
      .mcRefreshSetup 8, .mcStepComplete 8 true 0 0, .mcPwrok 8, .mcActive 8, .ulSideband 18, .ulTrain 18, .ulEnable 18, .ulSbup 18, .ulActive 18 0 0, .ptPll 8, .ptTxen 8, .ptLinkTraining 8,
      .ptMac 8, .ptFecRead 8, .portRetry 8, .pairKeyExchange ⟨8, 0⟩, .ptPlllock 8, .ptLtdone 8 0, .ptFeclock 8, .ptUp 8, .linkTagMismatch 72, .linkRekey 72 0, .linkRekey 0 2, .rmaWrite 65 0 [],
      .rmaRead 65 0 1, .sessionTimeout 65 1, .lockLeaseExpiry 65, .unsupportedPacket 65 .unreliable] : List Instr).all (fun i => !wellFormed i) = true := by decide +kernel

/-- Commands to an endpoint past the last. -/
theorem test_illformed_endpoints : ∀ c : HostCmd, wellFormed (.hostOpen 65 c) = false ∧ wellFormed (.hostClose 65 c) = false ∧ wellFormed (.hostLock 65 c) = false ∧
    wellFormed (.hostUnlock 65 c) = false ∧ wellFormed (.hostQcreate 65 c) = false ∧ wellFormed (.hostQopen 65 c) = false ∧ wellFormed (.hostLaunch 65 c) = false ∧
    wellFormed (.hostDrain 65 c) = false ∧ wellFormed (.hostReset 65 c) = false ∧ wellFormed (.hostQdestroy 65 c) = false ∧ wellFormed (.hostQstat 65 c) = false ∧
    wellFormed (.hostKeyload 65 c) = false ∧ wellFormed (.hostEvidence 65 c) = false ∧ wellFormed (.hostVcreate 65 c) = false ∧ wellFormed (.hostVdestroy 65 c) = false ∧
    wellFormed (.badopCommand 65 c) = false := fun _ => ⟨rfl, rfl, rfl, rfl, rfl, rfl, rfl, rfl, rfl, rfl, rfl, rfl, rfl, rfl, rfl, rfl⟩

/-! ### One word of every encoding (R111 to R117) -/

theorem test_decode_lds :
    decodeWord 0x8DA90603 = some (.ldb 2 3 26 18 12) ∧
    decodeWord 0xC7B39103 = some (.ldbz 3 1 59 7 2) ∧
    decodeWord 0x5DB1A403 = some (.ldh 1 7 27 3 8) ∧
    decodeWord 0x5C49B403 = some (.ldhz 1 7 4 19 8) ∧
    decodeWord 0xEE614983 = some (.ldw 3 11 38 2 19) ∧
    decodeWord 0xDC445103 = some (.ldwz 3 7 4 8 2) ∧
    decodeWord 0xF892E903 = some (.ldd 3 14 9 5 18) := by decide

theorem test_decode_sts :
    decodeWord 0x532B0E07 = some (.stb 1 316 18 22) ∧
    decodeWord 0x47339507 = some (.sth 1 106 19 7) ∧
    decodeWord 0x872BA207 = some (.stw 2 100 18 23) ∧
    decodeWord 0x642A3107 = some (.std 1 578 2 20) := by decide

theorem test_decode_vls :
    decodeWord 0x62C90C8B = some (.ldv 1 8 44 18 25) ∧
    decodeWord 0x9D3F1E8B = some (.stv 2 477 19 30) ∧
    decodeWord 0x968D278B = some (.stvm 2 47 3 8 26) ∧
    decodeWord 0x7324418B = some (.ldve8 1 12 50 8 3) ∧
    decodeWord 0xD6285E8B = some (.ldve16 3 5 34 16 29) ∧
    decodeWord 0xB1DA618B = some (.ldve32 2 12 29 20 3) ∧
    decodeWord 0x5CBCF28B = some (.ldve64 1 7 11 25 5) := by decide

theorem test_decode_alui :
    decodeWord 0x9B0B018F = some (.addi 2 432 22 3) ∧
    decodeWord 0xE4BD1E8F = some (.andi 3 587 26 29) ∧
    decodeWord 0x95DBA60F = some (.ori 2 349 23 12) ∧
    decodeWord 0xDFD9BD0F = some (.xori 3 509 19 26) ∧
    decodeWord 0x8471C48F = some (.slti 2 71 3 9) ∧
    decodeWord 0xACAB518F = some (.sltni 2 714 22 3) ∧
    decodeWord 0x42FBE98F = some (.slli 1 47 23 19) ∧
    decodeWord 0xD357EB8F = some (.srli 3 53 15 23) ∧
    decodeWord 0xA39B660F = some (.srai 2 57 22 12) := by decide

theorem test_decode_alu :
    decodeWord 0x40F60313 = some (.add 1 15 12 6) ∧
    decodeWord 0xC3010393 = some (.sub 3 16 2 7) ∧
    decodeWord 0x845C0413 = some (.andR 2 5 24 8) ∧
    decodeWord 0x86DF0E13 = some (.orR 2 13 30 28) ∧
    decodeWord 0x88330793 = some (.xorR 2 3 6 15) ∧
    decodeWord 0x8B248E93 = some (.andn 2 18 9 29) ∧
    decodeWord 0x4DC90493 = some (.sll 1 28 18 9) ∧
    decodeWord 0xCECB0E93 = some (.srl 3 12 22 29) ∧
    decodeWord 0x90828193 = some (.sra 2 8 5 3) ∧
    decodeWord 0x52540B13 = some (.slt 1 5 8 22) ∧
    decodeWord 0x55098313 = some (.sltn 1 16 19 6) ∧
    decodeWord 0x96128913 = some (.minS 2 1 5 18) ∧
    decodeWord 0x99498593 = some (.maxS 2 20 19 11) ∧
    decodeWord 0x5B7E0A13 = some (.minn 1 23 28 20) ∧
    decodeWord 0xDD6C0113 = some (.maxn 3 22 24 2) := by decide

theorem test_decode_muldiv :
    decodeWord 0x81DE0C97 = some (.mul 2 29 28 25) ∧
    decodeWord 0xC1A91697 = some (.mulh 3 26 18 13) ∧
    decodeWord 0x80D82397 = some (.mulhn 2 13 16 7) ∧
    decodeWord 0x50F33597 = some (.divS 1 4 15 6 11) ∧
    decodeWord 0xC532C917 = some (.divn 3 1 19 5 18) ∧
    decodeWord 0x683E5397 = some (.modS 1 10 3 28 7) ∧
    decodeWord 0xDC54E617 = some (.modn 3 7 5 9 12) := by decide

theorem test_decode_bits :
    decodeWord 0xC006081B = some (.clz 3 12 16) ∧
    decodeWord 0x420E081B = some (.ctz 1 28 16) ∧
    decodeWord 0x8408019B = some (.popc 2 16 3) ∧
    decodeWord 0x460C059B = some (.brev 1 24 11) ∧
    decodeWord 0xC804881B = some (.bswap 3 9 16) ∧
    decodeWord 0xCA60839B = some (.exts 3 6 1 7) ∧
    decodeWord 0xCCC28B9B = some (.extz 3 12 5 23) ∧
    decodeWord 0xCFE08C9B = some (.ins 3 30 1 25) := by decide

theorem test_decode_lih :
    decodeWord 0x87323E1F = some (.lih 553763 28) := by decide

theorem test_decode_addpc :
    decodeWord 0x174C8BA3 = some (.addpc 95432 23) := by decide

theorem test_decode_jal :
    decodeWord 0xD86F54A7 = some (.jal 886517 9) := by decide

theorem test_decode_jalr :
    decodeWord 0xD78F032B = some (.jalr 3 376 30 6) := by decide

theorem test_decode_br :
    decodeWord 0xB0890BAF = some (.beq 2 791 8 18) ∧
    decodeWord 0xF0B41F2F = some (.bne 3 798 11 8) ∧
    decodeWord 0xF3ACAFAF = some (.blt 3 831 26 25) ∧
    decodeWord 0x7286BD2F = some (.bge 1 826 8 13) ∧
    decodeWord 0xF283CBAF = some (.bltn 3 823 8 7) ∧
    decodeWord 0xDECC5CAF = some (.bgen 3 505 12 24) := by decide

theorem test_decode_loop :
    decodeWord 0x7F6D0133 = some (.loopG 1 1014 26 2) ∧
    decodeWord 0x90A315B3 = some (.loopi 2 266 50 3) ∧
    decodeWord 0xFD402133 = some (.loopm 3 980 2) ∧
    decodeWord 0x800031B3 = some (.lbrk 2 3) := by decide

theorem test_decode_iss :
    decodeWord 0xBD200037 = some (.dly 2 978) ∧
    decodeWord 0x85491837 = some (.waitImm 2 2640 1 4) ∧
    decodeWord 0x81482037 = some (.waitReg 2 1 4 16) ∧
    decodeWord 0xC1803F37 = some (.tkrd 3 1 8 30) ∧
    decodeWord 0xD7E044B7 = some (.tksetImm 3 11273 1 14) ∧
    decodeWord 0xC17D5037 = some (.tksetReg 3 1 7 26) := by decide

theorem test_decode_sys :
    decodeWord 0xB6300CBB = some (.crd 2915 25) ∧
    decodeWord 0x3318103B = some (.cwr 817 16) ∧
    decodeWord 0xE3A3203B = some (.cset 3642 6) ∧
    decodeWord 0x6F2D303B = some (.cclr 1778 26) ∧
    decodeWord 0xC0AAC03B = some (.trapI 3 341) ∧
    decodeWord 0x4200403B = some (.eret 1) ∧
    decodeWord 0xC4CB403B = some (.brk 3 406) ∧
    decodeWord 0x8600403B = some (.idle 2) ∧
    decodeWord 0x8806403B = some (.replay 2 12) := by decide

theorem test_decode_ord :
    decodeWord 0x4C00003F = some (.fnc 1 6) ∧
    decodeWord 0x4600103F = some (.qfnc 1 3) ∧
    decodeWord 0x4C4D22BF = some (.ldaq 1 3 4 26 5) ∧
    decodeWord 0xC96F303F = some (.strl 3 4 22 30) := by decide

theorem test_decode_amo :
    decodeWord 0xC397C5C3 = some (.amoadd 1 1 1 25 15 4 11) ∧
    decodeWord 0xC6B947C3 = some (.amoand 1 1 1 11 18 4 15) ∧
    decodeWord 0xCB743143 = some (.amoor 1 1 1 23 8 3 2) ∧
    decodeWord 0xCF714343 = some (.amoxor 1 1 1 23 2 4 6) ∧
    decodeWord 0xD37EEC43 = some (.amomin 1 1 1 23 29 6 24) ∧
    decodeWord 0xD70144C3 = some (.amomax 1 1 1 16 2 4 9) ∧
    decodeWord 0xDAC6B5C3 = some (.amominn 1 1 1 12 13 3 11) ∧
    decodeWord 0xDF05B4C3 = some (.amomaxn 1 1 1 16 11 3 9) ∧
    decodeWord 0xE234C6C3 = some (.amoswp 1 1 1 3 9 4 13) ∧
    decodeWord 0xE695EEC3 = some (.amocas 1 1 1 9 11 6 29) := by decide

theorem test_decode_var :
    decodeWord 0x612B8147 = some (.vadd 1 8 18 23 2) ∧
    decodeWord 0x430ECB47 = some (.vsub 1 4 16 29 22) ∧
    decodeWord 0xC4947B47 = some (.vmul 3 7 9 8 22) ∧
    decodeWord 0x870BC5C7 = some (.vmin 2 4 16 23 11) ∧
    decodeWord 0xC8CB76C7 = some (.vmax 3 7 12 22 13) ∧
    decodeWord 0x6B8E51C7 = some (.vand 1 13 24 28 3) ∧
    decodeWord 0x6C7C87C7 = some (.vor 1 8 7 25 15) ∧
    decodeWord 0x4F9EDA47 = some (.vxor 1 5 25 29 20) ∧
    decodeWord 0xB06EA447 = some (.vshl 2 10 6 29 8) ∧
    decodeWord 0x93EB7A47 = some (.vshr 2 7 30 22 20) ∧
    decodeWord 0x542A72C7 = some (.vsar 1 7 2 20 5) ∧
    decodeWord 0x977316C7 = some (.vabd 2 1 23 6 13) ∧
    decodeWord 0xB9D5CC47 = some (.vadds 2 12 29 11 24) ∧
    decodeWord 0x5BE325C7 = some (.vsubs 1 2 30 6 11) := by decide

theorem test_decode_vfm :
    decodeWord 0x41EC37CB = some (.vfma 1 3 30 24 15) ∧
    decodeWord 0x436C56CB = some (.vfms 1 5 22 24 13) ∧
    decodeWord 0xA46081CB = some (.vfnma 2 8 6 1 3) ∧
    decodeWord 0x87D97CCB = some (.vdot2 2 7 29 18 25) ∧
    decodeWord 0x48CCFD4B = some (.vmulw 1 7 12 25 26) := by decide

theorem test_decode_vms :
    decodeWord 0x81781E4F = some (.vcmp 2 1 23 16 3 4) ∧
    decodeWord 0x62444D4F = some (.vsel 1 12 4 8 26) ∧
    decodeWord 0xE47157CF = some (.vcvt 3 13 7 2 15) ∧
    decodeWord 0x660F514F = some (.vbcast 1 13 30 2) ∧
    decodeWord 0x8981CECF = some (.vperm 2 4 24 3 29) ∧
    decodeWord 0xCABA514F = some (.vext 3 5 11 20 2) ∧
    decodeWord 0xAD75CF4F = some (.vins 2 12 23 11 30) ∧
    decodeWord 0x8E00DC4F = some (.vabs 2 5 1 24) ∧
    decodeWord 0xF000D44F = some (.vneg 3 13 1 8) ∧
    decodeWord 0x720B87CF = some (.vmov 1 8 23 15) ∧
    decodeWord 0xB404D24F = some (.vmsk 2 13 9 4) := by decide

theorem test_decode_vrd :
    decodeWord 0x800F3853 = some (.vredAdd 2 3 30 16) ∧
    decodeWord 0x620F5C53 = some (.vredMin 1 13 30 24) ∧
    decodeWord 0xA40BECD3 = some (.vredMax 2 14 23 25) ∧
    decodeWord 0x660425D3 = some (.vscanAdd 1 10 8 11) ∧
    decodeWord 0xA8060D53 = some (.vscanMin 2 8 12 26) ∧
    decodeWord 0xCA03A6D3 = some (.vscanMax 3 2 7 13) ∧
    decodeWord 0x4C71C153 = some (.qred 1 4 7 3 2) := by decide

theorem test_decode_tbl :
    decodeWord 0x8C0E80D7 = some (.tload 2 3 29 1) ∧
    decodeWord 0x56441357 = some (.teval 1 5 1 4 8 6) ∧
    decodeWord 0x40302ED7 = some (.tstat 1 3 29) := by decide

theorem test_decode_msg :
    decodeWord 0xC2D4805B = some (.send 3 1 13 9) ∧
    decodeWord 0x4DA7905B = some (.sendg 1 6 26 15) ∧
    decodeWord 0x4000285B = some (.rcv 1 16) ∧
    decodeWord 0x4000305B = some (.wfm 1) ∧
    decodeWord 0x81E0465B = some (.mbcnt 2 30 12) := by decide

theorem test_decode_qui :
    decodeWord 0x4054005F = some (.qcfg 1 5 8) ∧
    decodeWord 0x404A19DF = some (.qres 1 4 20 19) ∧
    decodeWord 0x4026205F = some (.qpub 1 2 12) ∧
    decodeWord 0xC0E337DF = some (.qacq 3 14 6 15) ∧
    decodeWord 0xC05CC05F = some (.qrel 3 5 25) ∧
    decodeWord 0xC01A5BDF = some (.qstat 3 1 20 23) := by decide

theorem test_decode_prs :
    decodeWord 0xD0010063 = some (.pmac 3 4 2) ∧
    decodeWord 0x8C039063 = some (.pmacs 2 3 7) ∧
    decodeWord 0x800A2063 = some (.pzero 2 20) ∧
    decodeWord 0xEC0F3063 = some (.pdrain 3 11 30) ∧
    decodeWord 0x400045E3 = some (.pstat 1 11) ∧
    decodeWord 0x80005063 = some (.psync 2) := by decide

theorem test_decode_stk :
    decodeWord 0xE8038067 = some (.segmv 3 10 7) ∧
    decodeWord 0x74081067 = some (.sefil 1 13 16) ∧
    decodeWord 0xE00D2067 = some (.secpy 3 8 26) ∧
    decodeWord 0xAC093067 = some (.secmp 2 11 18) ∧
    decodeWord 0x6C094067 = some (.sered 1 11 18) ∧
    decodeWord 0x400356E7 = some (.sestat 1 6 13) := by decide

theorem test_decode_ext :
    decodeWord 0xD5BB016B = some (.xld 3 5 27 22 2) ∧
    decodeWord 0xAF3E9E6B = some (.xst 2 764 19 29) ∧
    decodeWord 0x9DB0AE6B = some (.xldv 2 7 27 1 28) ∧
    decodeWord 0xA876BA6B = some (.xstv 2 660 7 13) ∧
    decodeWord 0xC0D3C0EB = some (.xhint 3 13 7 1) := by decide

theorem test_decode_tsk :
    decodeWord 0x800E836F = some (.spawn 2 29 6) ∧
    decodeWord 0x800196EF = some (.deal 2 3 13) ∧
    decodeWord 0xC000206F = some (.susp 3) ∧
    decodeWord 0x8000306F = some (.exitI 2) ∧
    decodeWord 0x8010406F = some (.gbar 2 1) ∧
    decodeWord 0x403052EF = some (.grank 1 3 5) := by decide

theorem test_decode_own :
    decodeWord 0xC00D0F73 = some (.grant 3 26 30) ∧
    decodeWord 0xAA0C1373 = some (.revoke 2 10 1 24 6) ∧
    decodeWord 0x40062373 = some (.rtest 1 12 6) ∧
    decodeWord 0xC06F36F3 = some (.rdrop 3 6 30 13) := by decide

theorem test_decode_code :
    decodeWord 0x7D928CF7 = some (.jf 64293 25) ∧
    decodeWord 0x40029177 = some (.jfr 1 5 2) ∧
    decodeWord 0x84AF2077 = some (.cfetch 2 1 10 30) ∧
    decodeWord 0xC1203EF7 = some (.cseg 3 1 2 29) := by decide

theorem test_decode_fit :
    decodeWord 0xE8CE807B = some (.fitb 3 10 12 29) ∧
    decodeWord 0x40B0107B = some (.fite 1 11) ∧
    decodeWord 0x40A0207B = some (.fitk 1 10) ∧
    decodeWord 0x80AE33FB = some (.fitq 2 10 28 7) ∧
    decodeWord 0x8039C3FB = some (.fitw 2 3 19 7) := by decide

theorem test_decode_hint :
    decodeWord 0x4000007F = some (.nop 1) := by decide

theorem test_decode_compact :
    decodeParcel 0x33C4 = some (.cAddi 4 241) ∧
    decodeParcel 0x5170 = some (.cLi 4 92) ∧
    decodeParcel 0x6774 = some (.cLdd 1 6 29) ∧
    decodeParcel 0x8708 = some (.cStd 1 6 2) ∧
    decodeParcel 0xA2AC = some (.cDly 171) ∧
    decodeParcel 0xC000 = some (.cNop) ∧
    decodeParcel 0x0C81 = some (.cMv 3 1) ∧
    decodeParcel 0x1305 = some (.cAdd 4 6) ∧
    decodeParcel 0x0F09 = some (.cSub 3 6) ∧
    decodeParcel 0x100D = some (.cJr 4) ∧
    decodeParcel 0x0C11 = some (.cJalr 3) ∧
    decodeParcel 0x3191 = some (.cBeqz 4 100) ∧
    decodeParcel 0x597D = some (.cBnez 6 95) ∧
    decodeParcel 0x6E51 = some (.cJ 916) := by decide


/-! ### Small states -/

/-- Page tables that map page 0x100 of the heap to physical page 0x100 (R49, R50), owner 1 with two range entries over regions 1 (heap) and 2 (the pool of core 1), and the two regions (R55 to R57). -/
def tables : List Host.Cell :=
  let entry (base len id : Nat) : Nat := base + len * 2 ^ 44 + 0x1F * 2 ^ 84 + 2 ^ 92 + id * 2 ^ 108
  let live (base len : Nat) : Nat := base + len * 2 ^ 44 + 2 ^ 96 + 2 ^ 112 + 2 ^ 126
  [(0x0, 0x1001), (0x1000, 0x2001), (0x2000, 0x3001), (0x3000, 0x4001), (0x5000, 0x100003),
   (0x10010, 0x20000 + 2 * 2 ^ 64 + 8 * 2 ^ 84 + 2 ^ 127), (0x20000, entry 0x100 0x100 1), (0x20010, entry 0xF0000000080 0x80 2),
   (0x30010, live 0x100 0x100), (0x30020, live 0xF0000000080 0x80)].foldl (fun m p => setLe m p.1 16 p.2) []

/-- A context of owner 1 that runs at 0x100. -/
def ctx1 : Ctx := { ctl := { owner := 1 }, rcd := { state := .running, chrys := 0xF0000000041000 }, pc := 0x100 }

/-- Core 0 issues it from slot 0, with segment 0 LANDED. -/
def core1 : Core := { released := true, issuing := some 0, slots := (Vector.replicate 8 {}).set 0 { sst := .loaded, cont := 0xF0000000040000, part := some 0 }, ctx := ctx1
                      segs := (Vector.replicate 16 {}).set 0 { st := .landed } }

/-- The machine around it. -/
def w : State := { gtc := 100000, core := core1, mem := tables, hub := { rights := { ownTbl := 0x10000, rgnTbl := 0x30000, rgnCap := 8 } } }

/-- `w` with general registers. -/
def wg (l : List (Reg × Word)) : State := setCtx w (l.foldl (fun c p => ctxPutG c p.1 p.2) w.core.ctx)

/-- A state in steward mode. -/
def asSteward (s : State) : State := setCtl s { s.core.ctx.ctl with steward := true }

/-- The state at channel core 0 of stack 0. -/
def onChannel (s : State) : State := { s with cur := 4096 }

/-- A check that lets an access go to the network. -/
def goesRemote (r : Except Cause (Stamp × Route × State)) : Bool := match r with | .ok (_, .remote, _) => true | _ => false


/-! ### Witnesses: integer instructions and control flow -/

/-- The scoreboard lets an instruction issue where the context does not check (EN = 0), whatever it reads and writes. -/
theorem witness_underWait : underWait w [.g 1, .g 2, .g 31] (some (.g 31, 1)) = none ∧ underWait w [] (some (.g 0, 3)) = none ∧ underWait w [] (some (.v 31, 3)) = none ∧
    underWait w [.v 1, .v 2, .v 31] (some (.v 31, 6)) = none ∧ underWait w [.v 1, .v 2] (some (.m 7, 4)) = none := by decide +kernel

/-- ... and where it checks, with its operands covered: here g2 has a pending write and g1 none. -/
theorem witness_underWait_checking :
    let s := setCtx w { w.core.ctx with pend := [(100001, .writeG 2 5)], ctl := { w.core.ctx.ctl with chkEn := true } }
    underWait s [.g 1] (some (.g 3, 1)) = none ∧ underWait s [.g 2] (some (.g 3, 1)) ≠ none ∧ underWait s [] (some (.g 3, 3)) = none := by decide +kernel

/-- BitFields: a field of the full width, one of no bits, and one that the register's end cuts. -/
theorem witness_bitFields :
    (((0x1000 : Word).extractLsb' 0 6).toNat = 0 ∧ min ((0x1000 : Word).extractLsb' 6 7).toNat (64 - 0) = 64) ∧
    (((0x3F : Word).extractLsb' 0 6).toNat = 63 ∧ min ((0x3F : Word).extractLsb' 6 7).toNat (64 - 63) = 0) ∧
    (((0x1FFF : Word).extractLsb' 0 6).toNat = 63 ∧ min ((0x1FFF : Word).extractLsb' 6 7).toNat (64 - 63) = 1) := by decide +kernel

/-- IDLE: nothing pending, with and without an event that has come; and a pending result. -/
theorem witness_idle :
    w.core.ctx.pend = [] ∧ w.core.ctx.idle ≠ some true ∧ (setCtx w { w.core.ctx with idle := some true }).core.ctx.pend = [] ∧
    (setCtx w { w.core.ctx with pend := [(100001, .writeG 2 5)] }).core.ctx.pend ≠ [] := by decide

/-- Jumps: a target in the landed segment, at its first parcel too, by JAL, by JALR from a register and by the compact forms. -/
theorem witness_jumps :
    (fetchTrap w 0x0FFE = none ∧ (0x0FFE : BitVec 16) = w.core.ctx.pc + BitVec.ofInt 16 ((0x77F : BitVec 20).toInt * 2)) ∧
    (fetchTrap w 0 = none ∧ (0 : BitVec 16) = w.core.ctx.pc + BitVec.ofInt 16 ((0xFFF80 : BitVec 20).toInt * 2)) ∧
    (let s := wg [(1, 0x200)]; rdG s 1 + (0x3FE : BitVec 10).signExtend 64 = (0x1FE : BitVec 16).setWidth 64 ∧ (0x1FE : BitVec 16).getLsbD 0 = false ∧ fetchTrap s 0x1FE = none) ∧
    (let s := wg [(8, 0x200)]; rdG s 8 = (0x200 : BitVec 16).setWidth 64 ∧ (0x200 : BitVec 16).getLsbD 0 = false ∧ fetchTrap s 0x200 = none) ∧
    (0x0FE : BitVec 16) = w.core.ctx.pc + BitVec.ofInt 16 ((0x7FF : BitVec 11).toInt * 2) := by decide +kernel

/-- Branches: equal operands, unequal ones, and operands whose order differs signed and unsigned; a compact branch on zero and on nonzero. -/
theorem witness_branches :
    let s := wg [(1, 5), (2, 5), (3, 0xFFFFFFFFFFFFFFFF), (8, 0), (9, 1)]
    let x := s.core.ctx.pc + BitVec.ofInt 16 ((0x200 : BitVec 10).toInt * 2)
    let y := s.core.ctx.pc + BitVec.ofInt 16 ((0x3FF : BitVec 10).toInt * 2)
    (fetchTrap s x = some (7, 0xD00) ∧ fetchTrap s y = none) ∧ rdG s 1 = rdG s 2 ∧ rdG s 1 ≠ rdG s 3 ∧ (rdG s 3).toInt < (rdG s 1).toInt ∧ (rdG s 2).toInt ≤ (rdG s 1).toInt ∧
    (rdG s 1).toNat < (rdG s 3).toNat ∧ (rdG s 2).toNat ≤ (rdG s 1).toNat ∧ rdG s 8 = 0 ∧ rdG s 9 ≠ 0 := by decide +kernel

/-- TransferFaults: a segment that is not landed, the steward's segment 15, an address past the instruction memory, and an odd one. -/
theorem witness_transferFaults :
    (w.core.ctx.ctl.steward = false ∧ Memory.wf w.core.ctx.window = true) ∧ fetchTrap w 0x1000 = some (7, 0) ∧
    (let s := { w with core := { w.core with segs := w.core.segs.set 15 { st := .landed, base := 5 } } }; fetchTrap s 0xF000 = some (3, 0x5000)) ∧
    2 ^ 16 ≤ (rdG (wg [(1, 0xFFFF)]) 1 + (1 : BitVec 10).signExtend 64).toNat ∧ (rdG (wg [(1, 0x101)]) 1 + (0 : BitVec 10).signExtend 64).getLsbD 0 = true := by decide +kernel

/-- Loops: counts 1, 2^32 − 1 and one that saturates; a count of 0 with a landed end; a mailbox word as count; an active level to leave and one that is not active. -/
theorem witness_loops :
    (min (rdG (wg [(1, 1)]) 1).toNat (2 ^ 32 - 1) ≠ 0 ∧ min (rdG (wg [(1, 0xFFFFFFFFFFFFFFFF)]) 1).toNat (2 ^ 32 - 1) = 2 ^ 32 - 1) ∧
    (rdG w 1 = 0 ∧ fetchTrap w (w.core.ctx.pc + 4 + BitVec.ofNat 16 (2 * (10 : BitVec 10).toNat)) = none) ∧
    inbox (setCtx w { w.core.ctx with mailbox := [7] }) = [7] ∧
    (let s := setRegs w { w.core.ctx.regs with loops := w.core.ctx.regs.loops.set 2 { start := 0x80, stop := 0x120, active := true } }
     s.core.ctx.regs.loops[2].active = true ∧ fetchTrap s s.core.ctx.regs.loops[2].stop = none ∧ s.core.ctx.regs.loops[1].active = false) := by decide +kernel

/-! ### Witnesses: tokens and control registers -/

/-- Waits: a satisfied WAIT; one that holds; with the scoreboard, an ordinal one past ISSUED; a handler token in steward mode and a token of the other bank there. -/
theorem witness_waits :
    let t (k : BitVec 4) : TokenName := { handler := false, num := k }
    let s := setCtx w (ctxSetToken w.core.ctx (t 3) { count := 0xFFFE, issued := 0xFFFF })
    let c := setCtl s { s.core.ctx.ctl with chkEn := true }
    (tokenBank s 0 3 = some (t 3) ∧ ((ctxToken s.core.ctx (t 3)).count - 0xFFFE).toNat < 2 ^ 15 ∧ ¬((ctxToken s.core.ctx (t 3)).count - 0xFFFF).toNat < 2 ^ 15 ∧
      (0xFFFF - (ctxToken s.core.ctx (t 3)).issued).toNat = 0) ∧
    (c.core.ctx.ctl.chkEn = true ∧ 1 ≤ ((0 : BitVec 16) - (ctxToken c.core.ctx (t 3)).issued).toNat ∧ ¬((ctxToken c.core.ctx (t 3)).count - 0).toNat < 2 ^ 15) ∧
    tokenBank (asSteward s) 0 3 = some { handler := true, num := 3 } ∧ tokenBank (asSteward s) 1 3 = some (t 3) ∧ tokenBank s 1 3 = none := by decide +kernel

/-- TokenReadAndSet: a quiescent token, and one with operations outstanding. -/
theorem witness_tokenReadAndSet :
    let t : TokenName := { handler := false, num := 0 }
    let s := setCtx w (ctxSetToken w.core.ctx t { count := 4, issued := 5 })
    tokenBank w 0 0 = some t ∧ (ctxToken w.core.ctx t).count = (ctxToken w.core.ctx t).issued ∧ (ctxToken s.core.ctx t).count ≠ (ctxToken s.core.ctx t).issued := by decide +kernel

/-- TokenArithmetic: two tokens that differ, of either kind. -/
theorem witness_tokenArithmetic :
    let t : TokenName := { handler := true, num := 3 }
    let t' : TokenName := { handler := false, num := 15 }
    (t.handler = true → t.num.toNat < 4) ∧ (t'.handler = true → t'.num.toNat < 4) ∧ t' ≠ t := by decide

/-- DeviceTimeReads: a core that has shown a time two cycles ahead. -/
theorem witness_deviceTime : let s : State := { w with core := { w.core with gtcSeen := 100002 } }; s.core.gtcSeen ≤ s.gtc + 2 := by decide

/-- ControlRegisterReads and ControlRegisterWrites: steward mode and its registers; user mode and its own. -/
theorem witness_controlRegisters :
    (asSteward w).core.ctx.ctl.steward = true ∧ ((0x041, 0x800000000000FFFF) : BitVec 12 × Word) ∈ stewardWritable ∧ ((0x006, 1) : BitVec 12 × Word) ∈ writable w.cur ∧
    (0xC ∈ [0x00C, 0x01F, 0x022, 0x045, 0xFFF] ∧ (0x00C : BitVec 12).toNat = 0xC) := by decide

/-- StewardRegisterWrites: a PART_WORD that is not legal; one that is, with no engine work into the pool; and one that waits for a copy. -/
theorem witness_stewardRegisterWrites :
    let s := asSteward w
    s.core.ctx.ctl.steward = true ∧ partOk s.cur 0 = false ∧ partOk s.cur 0x1018 = false ∧ partOk s.cur 0x0718 = true ∧ partWaits s s.cur = false ∧
    (let c : Copy := { tid := 1, regs := {}, owner := 1, ctx := s.core.ctx.rcd.chrys, record := 0, steward := false, token := none, tmap := none, launchedAt := 0 }
     partWaits { s with core := { s.core with copies := [c] } } s.cur = true) := by decide +kernel

/-- OwnerWrites: the write of the owner's own number, entry from no owner, entry through a code right, and one that R61 refuses. -/
theorem witness_ownerWrites :
    MayEnter w 1 ∧ MayEnter (setCtl w { w.core.ctx.ctl with owner := 0 }) 1 ∧ ¬MayEnter w 2 ∧ MayEnter (asSteward w) 0 ∧ ¬MayEnter (asSteward w) 2 ∧
    (let m := setLe (setLe (setLe w.mem 0x10010 16 (0x20000 + 8 * 2 ^ 84 + 2 ^ 64 + 2 ^ 127)) 0x20000 16 (0x100 * 2 ^ 44 + 0x1F * 2 ^ 84 + 2 ^ 92 + 3 * 2 ^ 108))
       0x30030 16 (0x100 * 2 ^ 44 + 2 ^ 96 + 2 * 2 ^ 112 + 2 ^ 126)
     MayEnter { w with mem := setLe m 0x10020 16 (2 ^ 127) } 2) := by
  refine ⟨?_, ?_, ?_, ?_, ?_, ?_⟩
  · exact .inl rfl
  · exact .inr (.inl ⟨rfl, by decide +kernel⟩)
  · unfold MayEnter; decide +kernel
  · exact .inl rfl
  · unfold MayEnter; decide +kernel
  · exact .inr (.inr ⟨by decide, by decide, by decide +kernel,
      { region := 3, gen := 1, rights := 0x1F, len := 0x100, base := 0 }, by decide +kernel, by decide, by decide +kernel, by decide +kernel⟩)

/-! ### Witnesses: traps and returns -/

/-- TrapEntry: a context outside steward mode, no group armed, and a PC whose fetch fails. -/
theorem witness_trapEntry :
    (w.core.ctx.ctl.steward = false ∧ Memory.wf w.core.ctx.window = true) ∧ armedGroup w w.cur = none ∧ fetchTrap (setCtx w { w.core.ctx with pc := 0x2000 }) 0x2000 = some (7, 0) := by decide +kernel

/-- TrapInStewardMode: a slot that issues in steward mode. -/
theorem witness_trapInStewardMode : (asSteward w).core.ctx.ctl.steward = true ∧ (asSteward w).core.issuing = some 0 := by decide

/-- TrapReturn and TrapThenReturn: TRAP_PC in a landed segment, no late fault held. -/
theorem witness_trapReturn :
    let s := setCtl (asSteward w) { (asSteward w).core.ctx.ctl with trapPc := 0x104 }
    s.core.ctx.ctl.steward = true ∧ s.core.issuing.isSome = true ∧ (∀ n : Fin 16, discarded s.core.ctx.rcd.chrys s.core.log[n] = false) ∧
    pendTraps s.core s.core.ctx.rcd.chrys = [] ∧ resolve (setCtl s { s.core.ctx.ctl with steward := false }) (s.core.ctx.ctl.trapPc.setWidth 64) = .ok 0x104 ∧
    w.core.ctx.pend = [] ∧ resolve w ((codeVa w w.core.ctx.pc + 4#56).setWidth 64) = .ok (w.core.ctx.pc + 4#16) ∧
    (match exec (.trapI 0 7) w with | .next _ => true | _ => false) = true := by decide +kernel


/-! ### Witnesses: loads, stores and read-modify-writes -/

/-- The token k0 may be used, and no acquire is pending. -/
theorem witness_loadReady : acquirePending w = false ∧ tokenOf w 15 = some { handler := false, num := 15 } ∧
    ((ctxToken w.core.ctx { handler := false, num := 15 }).issued - (ctxToken w.core.ctx { handler := false, num := 15 }).count).toNat < 2 ^ 15 - 1 ∧
    tokenOf (asSteward w) 3 = some { handler := true, num := 3 } ∧ tokenOf (asSteward w) 4 = none := by decide +kernel

/-- PrivateLoads and PrivateStores: the first and the last bytes of the scratchpad of core 0, 30 units long, by an offset in either direction. -/
theorem witness_ownBytes :
    let s := wg [(1, 491512), (2, 0)]
    (∃ L, loadOf (.ldd 0 0 0 1 3) s = some L ∧ L.ea.toNat % 2 ^ L.log = 0 ∧ OwnBytes s L.ea (2 ^ L.log) false none) ∧
    (∃ L, loadOf (.ldb 0 0 0x3F 1 3) s = some L ∧ L.ea.toNat % 2 ^ L.log = 0 ∧ OwnBytes s L.ea (2 ^ L.log) false none) ∧
    (∃ S, storeOf (.stv 0 0 4 2) s = some S ∧ S.ea.toNat % 2 ^ S.log = 0 ∧ OwnBytes s S.ea (2 ^ S.log) true none ∧ Memory.wf s.mem = true) ∧
    (∃ S, storeOf (.stvm 0 0 1 4 2) s = some S ∧ S.ea.toNat % 2 ^ S.log = 0 ∧ OwnBytes s S.ea (2 ^ S.log) true none) := by
  refine ⟨⟨_, rfl, ?_, ?_⟩, ⟨_, rfl, ?_, ?_⟩, ⟨_, rfl, ?_, ?_, ?_⟩, ⟨_, rfl, ?_, ?_⟩⟩ <;> first | decide +kernel | (unfold OwnBytes Unraced; decide +kernel)

/-- LoggedLoads and PostedStores: the pool of core 1 under owner 1's rights, with every entry free, with the first taken, and with all taken. -/
theorem witness_logged :
    let s := wg [(1, 0x00F0000000080040)]
    let e : LogEntry := { seqNo := 0, word := 0, base := 0, ea := 0, sizeLog := 0, kind := .vec, dest := 1, vecDest := false, token := {}, owner := 1, steward := false, ctx := 0x41000, stamp := none }
    let j : JnlEntry := { seqNo := 0, ea := 0, bytes := [], sizeLog := 0, data := 0, owner := 1, ctx := 0x41000, stamp := none }
    Memory.wf s.mem = true ∧ goesRemote (checkRoute s 0x00F0000000080040 8 [.I]) = true ∧ goesRemote (checkRoute s 0x00F0000000080040 8 [.W]) = true ∧ goesRemote (checkRoute s 0x00F0000000080040 8 [.I, .W]) = true ∧
    (∀ n : Fin 16, (Vector.replicate 16 (some e))[n] ≠ none) ∧ (s.core.log.set 0 (some e))[1] = none ∧ (∀ m : Fin 16, m < 1 → (s.core.log.set 0 (some e))[m] ≠ none) ∧ s.core.log[0] = none ∧
    (∀ n : Fin 32, (Vector.replicate 32 (some j))[n] ≠ none) ∧ s.core.journal[31] = none ∧
    ((storeOf (.stvm 0 0 1 4 1) s).map (·.cells)) = some [] ∧ ((storeOf (.std 0 0 4 1) s).map (fun S => decide (S.cells ≠ []))) = some true := by decide +kernel

/-- LoadFaults and StoreFaults: a misaligned address, the first address whose 8 bytes pass the scratchpad, and a token with 2^15 − 1 operations outstanding. -/
theorem witness_loadFaults :
    let s := wg [(1, 491513), (2, 491520)]
    let t : TokenName := { handler := false, num := 0 }
    let u := setCtx s (ctxSetToken s.core.ctx t { count := 1, issued := 0x8000 })
    (rdG s 1).toNat % 2 ^ 3 ≠ 0 ∧ ((rdG s 2).toNat % 2 ^ 3 = 0 ∧ place (onCompute s) (rdG s 2).toNat = .priv (rdG s 2).toNat ∧ scratchSize s.cur s.core < (rdG s 2).toNat + 8) ∧
    2 ^ 15 - 1 ≤ ((ctxToken u.core.ctx t).issued - (ctxToken u.core.ctx t).count).toNat ∧ 491512 + 8 ≤ scratchSize u.cur u.core := by decide +kernel

/-- AcquireAndRelease and Fences: no earlier access pending; and one, so that STRL and FNC hold. -/
theorem witness_acquireAndRelease :
    let s := wg [(1, 0x100)]
    let e : LogEntry := { seqNo := 0, word := 0, base := 0, ea := 0, sizeLog := 0, kind := .vec, dest := 1, vecDest := false, token := {}, owner := 1, steward := false, ctx := s.core.ctx.rcd.chrys, stamp := none }
    (rdG s 1).toNat % 8 = 0 ∧ strlPending s = false ∧ OwnBytes s (rdG s 1) 8 false (some (scopeOf 4)) ∧ OwnBytes (synced s) (rdG s 1) 8 true (some (scopeOf 7)) ∧ allPerformed s = true ∧
    allPerformed { s with core := { s.core with log := s.core.log.set 0 (some e) } } = false := by
  refine ⟨?_, ?_, ?_, ?_, ?_, ?_⟩ <;> first | decide +kernel | (unfold OwnBytes Unraced; decide +kernel)

/-- PrivateAmos and RemoteAmos: both widths at an aligned address, with and without a release. -/
theorem witness_amos :
    let s := wg [(1, 0x104), (2, 0x108)]
    s.core.amo = none ∧ acquirePending s = false ∧ strlPending s = false ∧ (rdG s 1).toNat % 4 = 0 ∧ (rdG s 2).toNat % 8 = 0 ∧ allPerformed s = true ∧ Memory.wf s.mem = true ∧
    OwnBytes s (rdG s 1) 4 true (some (scopeOf 0)) ∧ OwnBytes (synced s) (rdG s 1) 4 false (some (scopeOf 0)) ∧ amoBytes 32 (amoValue 9 32 5 1 2) = [] ∧ amoBytes 32 (amoValue 9 32 5 1 5) ≠ [] ∧ (amoOf (.amocas 1 1 1 5 1 2 6)).isSome = true ∧ (rdG (wg [(1, 0x00F0000000080044)]) 1).toNat % 4 = 0 := by
  refine ⟨?_, ?_, ?_, ?_, ?_, ?_, ?_, ?_, ?_, ?_, ?_, ?_, ?_⟩ <;> first | decide +kernel | (unfold OwnBytes Unraced; decide +kernel)

/-- An AMO in flight to core 1's pool. -/
def amoFlight : AmoFlight := { op := 9, wide := false, ea := 0x00F0000000080044, y := 1, cmp := 0, dest := 4, owner := 1, sco := 0, stamp := some (2, 1) }

/-- AmoResponse: it lands. -/
theorem witness_amoResponse :
    let s : State := { w with core := { w.core with amo := some amoFlight } }
    Memory.wf s.mem = true ∧ amoFlight.op.toNat ≤ 9 ∧ olderPending s s.core s.core.seqNo amoFlight.ea 4 = false ∧ syncWaits s s.core.ctx.rcd.chrys amoFlight.ea true (some amoFlight.sco) = false ∧
    landing s s.cur amoFlight.ea.toNat amoFlight.stamp = .ok 0x00F0000000080044 ∧ place true amoFlight.ea.toNat = .pool 1 0x44 ∧
    olderElsewhere s s.cur s.core.ctx.rcd.chrys (s.gtc + 1) = false ∧
    Unraced s (remoteAccess s.cur s.core.ctx.rcd.chrys 0x00F0000000080044 true (some amoFlight.sco) s.gtc (anyCore (coreWaits s.core.ctx.rcd.chrys) s)) := by
  unfold Unraced; decide +kernel

/-- A store and a load in flight to core 1's pool. -/
def jnlEntry (st : Stamp) : JnlEntry :=
  { seqNo := 1, ea := 0x00F0000000080040, bytes := [(0, 1), (1, 2)], sizeLog := 1, data := 0x201, owner := 1, ctx := 0xF0000000041000, stamp := st }
def logEntry (st : Stamp) : LogEntry :=
  { seqNo := 1, word := 0, base := 0, ea := 0x00F0000000080040, sizeLog := 3, kind := .scalar true, dest := 5, vecDest := false, token := {}, owner := 1, steward := false,
    ctx := 0xF0000000041000, stamp := st }

/-- The detector's notes of a context that has been performed at two places out of order, and of another that came between. -/
def outOfOrder (key : Nat) : List OpenAccess :=
  [{ agent := 0xF0000000041000, granule := key / 32, write := true, priv := false, unit := 0, at_ := 10 }, { agent := 7, granule := key / 32, write := true, priv := false, unit := 1 }]

/-- StoreAck: a store that lands, one whose stamp is of an old generation, and one that a younger access has overtaken in a race. -/
theorem witness_storeAck :
    let s (st : Stamp) : State := { w with core := { w.core with journal := w.core.journal.set 31 (some (jnlEntry st)) } }
    (∀ st, (s st).core.journal[31] = some (jnlEntry st)) ∧ (let s := s (some (2, 1)); let e := jnlEntry (some (2, 1))
      e.swept = none ∧ olderPending s s.core e.seqNo e.ea (2 ^ e.sizeLog) = false ∧ behindSync s.core e.ctx e.seqNo = false ∧ syncWaits s e.ctx e.ea true e.sync = false ∧ deadOf e.ctx = none ∧
      s.core.issuing.isSome = true ∧ s.core.ctx.rcd.chrys = e.ctx ∧ (e.bytes.map (·.1)).Nodup ∧ landing s s.cur e.ea.toNat e.stamp = .ok 0x00F0000000080040 ∧ place true e.ea.toNat = .pool 1 0x40 ∧
      olderElsewhere s s.cur e.ctx e.at_ = false ∧
      (let a := remoteAccess s.cur e.ctx 0x00F0000000080040 true e.sync e.at_ (overtakes s s.cur e.ctx e.seqNo e.at_)
       overtaken a s.races = false ∧ Unraced s a ∧ overtaken a (outOfOrder 0x00F0000000080040) = true)) ∧
    landing (s (some (2, 0))) 0 0x00F0000000080040 (some (2, 0)) = .error .protection := by
  unfold Unraced
  refine ⟨fun _ => rfl, ?_, ?_⟩ <;> decide +kernel

/-- LoadCompletion: a load that lands, and one that a freed region refuses. -/
theorem witness_loadCompletion :
    let s (st : Stamp) : State := { w with core := { w.core with log := w.core.log.set 15 (some (logEntry st)) } }
    (∀ st, (s st).core.log[15] = some (logEntry st)) ∧ (let s := s (some (2, 1)); let e := logEntry (some (2, 1))
      e.swept = none ∧ olderPending s s.core e.seqNo e.ea (2 ^ e.sizeLog) = false ∧ behindSync s.core e.ctx e.seqNo = false ∧ syncWaits s e.ctx e.ea false e.sync = false ∧
      deadOf e.ctx = none ∧ s.core.ctx.rcd.chrys = e.ctx ∧ landing s s.cur e.ea.toNat e.stamp = .ok 0x00F0000000080040 ∧
      olderElsewhere s s.cur e.ctx e.at_ = false ∧
      (let a := remoteAccess s.cur e.ctx 0x00F0000000080040 false e.sync e.at_ (overtakes s s.cur e.ctx e.seqNo e.at_)
       overtaken a s.races = false ∧ Unraced s a ∧ overtaken a (outOfOrder 0x00F0000000080040) = true)) ∧
    (let s := s (some (2, 1)); landing { s with mem := setLe s.mem 0x30020 16 (0xF0000000080 + 0x80 * 2 ^ 44 + 2 * 2 ^ 96 + 2 ^ 112 + 3 * 2 ^ 126) } 0 0x00F0000000080040 (some (2, 1)) = .error .stale) := by
  unfold Unraced
  refine ⟨fun _ => rfl, ?_, ?_⟩ <;> decide +kernel

/-- Divides: a divisor, a divisor of 0, and a divide that is 6 cycles old. -/
theorem witness_divides :
    let s := wg [(1, 0x8000000000000000), (2, 0xFFFFFFFFFFFFFFFF)]
    let v : Divide := { issuedAt := 99994, ctx := w.core.ctx.rcd.chrys, dest := 3, token := {}, result := 7 }
    rdG s 2 ≠ 0 ∧ rdG s 3 = 0 ∧ v.issuedAt + 6 ≤ s.gtc ∧ s.core.ctx.rcd.chrys = v.ctx ∧ (v.token.handler = true → v.token.num.toNat < 4) := by decide +kernel

/-! ### Witnesses: vectors -/

/-- A register of distinctive lanes and a mask. -/
def wv : State := setCtx w (ctxPutM (ctxPutV (ctxPutV w.core.ctx 1 0x7F80000080000000FFFFFFFF3F8000000102030405060708FFFEFDFC) 2 0x3F8000003F8000003F8000003F800000) 1 5 2)

/-- Every type of each kind, its bounds at a boundary: .n64 is the last integer type and .f32 the last that VADD takes; lane 3 of .i64 is its last; a NaN lane and a lane that is none. -/
theorem witness_vectors :
    (7 : BitVec 4).toNat < 8 ∧ (9 : BitVec 4).toNat ≤ 9 ∧ 8 ≤ (8 : BitVec 4).toNat ∧ (12 : BitVec 4).toNat ≤ 12 ∧ (3 : BitVec 4) = 2 + 1 ∧ elemWidth 2 ≠ 64 ∧ (3 : BitVec 5).toNat < elemLanes 3 ∧
    elemLanes 3 ≤ (4 : BitVec 5).toNat ∧ 10 ≤ (10 : BitVec 4).toNat ∧ 12 < (13 : BitVec 4).toNat ∧ elemIsTapered 12 = true ∧ (7 : Nat) < 2 ^ elemWidth 12 ∧ 7 ≠ 2 ^ (elemWidth 12 - 1) ∧
    underWait wv [.v 1, .m 1, .v 2] (some (.v 2, 2)) = none ∧
    isNanNum (elemNum 9 0x7FC00000) = true ∧ (isNanNum (elemNum 9 (lane 9 (rdV wv 2) 0)) || isNanNum (elemNum 9 (lane 9 (rdV wv 2) 1))) = false ∧ (rdM wv 1).getLsbD 0 = true ∧
    (rdM wv 1).getLsbD 1 = false := by decide +kernel


/-! ### Witnesses: quires and tables -/

/-- A ring of 4 slots of 64 bytes at 0x40, usable by owner 1 in any group; `f` and `g` slots free and full. -/
def ring (f g : Nat) (l : List QSlot) : Quire :=
  { cfg := true, base := 0x40, slotB := 2, owner := 1, pgrp := 0x100, cgrp := 0x100, holder := 0xF0000000041000, free := f, full := g, slots := l }

/-- `w` with quire 15 of its core. -/
def wq (x : Quire) : State := { w with core := { w.core with quires := w.core.quires.set 15 x } }

/-- Slots: held by the context in a state, or free. -/
def held (st : QSlotState) : QSlot := { st := st, holder := some 0xF0000000041000 }

/-- QuireInstructions: the own core and core 1 as homes; a slot free, none free, a slot full, none full, one reserved and one acquired; a quire that is not configured. -/
theorem witness_quires :
    (HomeIs w 0 0 ∧ HomeIs (wg [(1, 0x00F0000000080000)]) 1 1) ∧
    (let s := wq (ring 4 0 (List.replicate 4 {})); quireOf s 0 15 = ring 4 0 (List.replicate 4 {}) ∧ Usable s (ring 4 0 []) ∧ InGroup s 0x1FF ∧ HoldsNone s (ring 4 0 (List.replicate 4 {})) .reserved ∧
      HoldsNone s (ring 4 0 (List.replicate 4 {})) .acquired) ∧ (ring 0 0 []).free = 0 ∧ (ring 4 1 []).full ≠ 0 ∧ slotsIn (ring 3 0 (held .reserved :: List.replicate 3 {})) .reserved = 1 ∧
    HoldsSlot w (ring 3 0 ({} :: held .reserved :: List.replicate 2 {})) .reserved 1 ∧ HoldsSlot w (ring 3 0 (held .acquired :: List.replicate 3 {})) .acquired 0 ∧
    (∀ n, w.core.ctx.why ≠ .deadlocked n) ∧ (quireOf w 0 0).cfg = false ∧ slotsIn (ring 0 0 (List.replicate 8 (held .acquired))) .acquired = 8 := by
  refine ⟨⟨.inl ⟨rfl, rfl⟩, .inr ⟨0, by decide +kernel, by decide⟩⟩, ⟨rfl, ⟨rfl, .inr rfl⟩, .inl rfl, ?_, ?_⟩, rfl, ?_, rfl, ?_, ?_, ?_, rfl, rfl⟩
  · unfold HoldsNone; decide +kernel
  · unfold HoldsNone; decide +kernel
  · decide
  · unfold HoldsSlot; decide +kernel
  · unfold HoldsSlot; decide +kernel
  · intro n h; cases h

/-- QuireConfigurationAndTraps: a legal descriptor at the limits of R251, one of no slots, one past the scratchpad; a quire with a slot taken; no home at a heap address; an owner and a group that are not the context's. -/
theorem witness_quireConfiguration :
    let d (b sb n : Nat) : Nat := b + sb * 2 ^ 32 + n * 2 ^ 64
    let s (x : Nat) : State := { wg [(1, 0x100)] with mem := setLe w.mem (poolKey 0 0x100) 16 x }
    (rdG (s 0) 1).toNat % 16 = 0 ∧ OwnBytes (s 0) (rdG (s 0) 1) 16 false none ∧ (quireOf (s 0) 0 15).cfg = false ∧ (∀ y ∈ (quireOf (s 0) 0 15).slots, y.st = .free ∧ y.open_ = 0) ∧
    (let x := getLe (s (d 0x40 2048 7)).mem (poolKey 0 0x100) 16
     field x 64 8 = 7 ∧ field x 32 16 = 2048 ∧ field x 0 19 % 64 = 0 ∧ field x 0 19 + 32 * field x 32 16 * field x 64 8 ≤ scratchSize 0 w.core) ∧
    field (getLe (s (d 0x40 2049 0)).mem (poolKey 0 0x100) 16) 64 8 = 0 ∧ ¬(32 * 2048 * 8 ≤ scratchSize 0 w.core) ∧ (held .full).st ≠ .free ∧
    (∀ h, ¬HomeIs (wg [(1, 0x100000)]) 1 h) ∧ (ring 0 0 []).owner ≠ 2 ∧ ¬InGroup w 0x000 ∧ HoldsNone w (ring 4 0 []) .reserved := by
  refine ⟨?_, ?_, ?_, ?_, ?_, ?_, ?_, ?_, ?_, ?_, ?_, ?_⟩
  · decide +kernel
  · unfold OwnBytes Unraced; decide +kernel
  · decide +kernel
  · decide +kernel
  · decide +kernel
  · decide +kernel
  · decide +kernel
  · decide
  · intro h hh
    rcases hh with ⟨h0, _⟩ | ⟨off, h1, _⟩
    · revert h0; decide +kernel
    · have : place true (rdG (wg [(1, 0x100000)]) 1).toNat = .heap := by decide +kernel
      exact absurd (this.symm.trans h1) (by intro e; cases e)
  · decide
  · rintro (h | ⟨i, _, h, _⟩)
    · revert h; decide
    · revert h; simp [w, core1, ctx1]
  · intro y hy; simp [ring] at hy

/-- QuireReductionAndWaits: nothing to reduce; a full slot; a wait of 256 cycles on each instruction; a group blocked for 4,096 cycles. -/
theorem witness_quireReduction :
    let s := { wq (ring 3 1 ({ st := .full } :: List.replicate 3 {})) with races := [] }
    let b (word : BitVec 32) : State := { w with core := { w.core with ir := word, ctx := { w.core.ctx with blockedAt := some 99744 }, holdSince := some 99744 } }
    rdG s 1 = 0 ∧ (rdG (wg [(1, 5)]) 1 ≠ 0 ∧ min (5 : Nat) (32 * 2 / 8) > 0 ∧ (quireOf s 0 15).full ≠ 0 ∧ allPerformed s = true) ∧ slotsIn (quireOf s 0 15) .acquired < 8 ∧
    HoldsNone s (quireOf s 0 15) .acquired ∧ (∀ r ∈ s.races ++ [{ agent := s.core.ctx.rcd.chrys.toNat, granule := 0, write := true, priv := true }, { agent := 7, granule := 0, write := true, priv := true, closed := true }],
      r.agent = s.core.ctx.rcd.chrys.toNat ∨ r.closed = true) ∧
    ((b 0).core.issuing = some (BitVec.ofNat 3 (0 : Fin 8)) ∧ (b 0).core.slots[(0 : Fin 8)].sst = .loaded ∧ (∀ j : Fin 8, j ≠ 0 → (b 0).core.slots[j].ctx.rcd.chrys ≠ (b 0).core.ctx.rcd.chrys) ∧
      99744 + 256 ≤ (b 0).gtc ∧ (b 0).core.ctx.pend = [] ∧ decodeWord 0x0030155F = some (.qres 0 3 0 10)) ∧
    (decodeWord 0x0030355F = some (.qacq 0 3 0 10)) ∧ (b 0).core.ctx.idle = none ∧ (b 0).core.ctx.why = .none ∧
    (∀ n m, (ring n m []).cfg = true ∧ (ring n m []).retired = false) ∧ (ring 0 4 []).free = 0 ∧ (ring 4 0 []).full = 0 ∧ (ring 4 0 []).free ≠ 0 ∧ (ring 0 4 []).full ≠ 0 ∧
    slotsIn (ring 0 0 (List.replicate 8 (held .reserved))) .reserved = 8 ∧
    (let y : Group := { stuck := some 95904, live := [w.core.ctx.rcd.chrys] }
     y.stuck = some 95904 ∧ 95904 + 4096 ≤ w.gtc ∧ w.core.ctx.rcd.state = .running ∧ tabGet {} (tabSet {} [] (256 * 0 + 255) y) (256 * 0 + 255) = y) ∧
    (setCtx w { w.core.ctx with why := .deadlocked 3 }).core.ctx.why = .deadlocked 3 := by
  unfold HoldsNone
  refine ⟨?_, ?_, ?_, ?_, ?_, ?_, ?_, ?_, ?_, fun _ _ => ⟨rfl, rfl⟩, ?_⟩ <;> decide +kernel

/-- TableInstructions: a table that is EMPTY and one of the owner, an image address in the heap on a channel core's rights and in the pool, a full queue, and a table of another owner. -/
theorem witness_tables :
    let t : TokenName := { handler := false, num := 0 }
    let q : TableReq := { num := 0, unit := 1, ctx := 0, owner := 2, table := 0, token := t }
    let full : State := { w with tiles := [(0, { tq := List.replicate 32 q })] }
    let other : State := { w with tiles := [(0, { tables := (Vector.replicate 8 {}).set 7 { st := .ready, owner := 2 } })] }
    (onCompute w = true ∧ acquirePending w = false ∧ (myTile w).tq.length < 32 ∧ w.core.fences = [] ∧ tokenOf w 0 = some t ∧ (myTile w).tables[(7 : Fin 8)].st = .empty) ∧
    (let s := wg [(1, 0x00F0000000080040)]; (1 : Reg) ≠ 0 ∧ (rdG s 1).toNat % 64 = 0 ∧ (check s (acting s) (rdG s 1) 64 .I).isOk = true) ∧
    32 ≤ (myTile full).tq.length ∧ (myTile other).tables[(7 : Fin 8)].st ≠ .empty ∧ (myTile other).tables[(7 : Fin 8)].owner ≠ other.core.ctx.ctl.owner ∧
    (myTile other).tables[(7 : Fin 8)].owner ≠ 0 ∧ (rdG (wg [(1, 0x20)]) 1).toNat % 64 ≠ 0 := by decide +kernel

/-- TableEngine: an emptying, a load, an evaluation with contents, and a request of a context that has ended. -/
theorem witness_tableEngine :
    let r : TableReq := { num := 0, unit := 0, ctx := w.core.ctx.rcd.chrys, owner := 1, table := 7, token := {} }
    let s (q : List TableReq) (y : Table) : State := { w with tiles := [(0, { tq := q, tables := (Vector.replicate 8 {}).set 7 y })] }
    let img : TabImage := { lo := 0, scale := 0, segs := [] }
    (tabGet {} (s [r] {}).tiles 0).tq = r :: [] ∧ r.table = BitVec.ofNat 3 (7 : Fin 8) ∧ (r.token.handler = true → r.token.num.toNat < 4) ∧
    ((s [r] {}).core.issuing.isSome = true ∧ (s [r] {}).core.ctx.rcd.chrys = r.ctx ∧ deadOf r.ctx = none) ∧ r.eval = none ∧ r.addr = none ∧
    (match (readImage { r with addr := some 0x00F0000000080040, stamp := some (2, 1) } 0x00F0000000080040 (s [r] {})).1 with | .error _ => true | .ok _ => false) = true ∧
    (match (readImage { r with stamp := some (2, 1) } 0x00F0000000080040 { s [r] {} with mem := setLe w.mem 0x00F0000000080040 32 (1 + 0x3F800000 * 2 ^ 64) }).1 with | .ok _ => true | .error _ => false) = true ∧
    ({ r with eval := some (3, 5, true) } : TableReq).eval = some (3, 5, true) ∧ (tabGet {} (s [r] { image := some img }).tiles 0).tables[(7 : Fin 8)].image = some img ∧
    (deadOf (deadCtx 3)).isSome = true := by decide +kernel

/-! ### Witnesses: messages -/

/-- MessageInstructions: handles of a compute core and of the last channel core, a set of one tile, a mailbox with a message, an empty one in a slot that runs, handles that name no core. -/
theorem witness_messageInstructions :
    HandleNames 0x00FFF00000000041 0xFFF ∧ HandleNames (0x0810F00000000041 : Word) (4096 + 0x10F) ∧ (0x0810F00000000041 : Word).extractLsb' 60 3 = 0 ∧ samePart w w.cur 5 = true ∧
    samePart { w with hub := { w.hub with parts := w.hub.parts.set 1 { map := 1 } } } 0 4095 = false ∧ entriesTaken w < 8 ∧
    (let x := 0x80000000; field x 40 24 = 0 ∧ field x 32 3 = 0 ∧ field x 21 3 = 0 ∧ field x 0 6 = 0 ∧ field x 24 8 ≠ 0 ∧ field x 6 3 ≤ field x 9 3 ∧ field x 12 3 ≤ field x 15 3) ∧ setOf 0x80000000 = [7] ∧ (∀ u ∈ setOf 0x80000000, samePart w w.cur u = true) ∧
    (∀ u, ¬HandleNames (0x0811000000000041 : Word) u) ∧ (0x1000000000000041 : Word).extractLsb' 60 3 ≠ 0 ∧
    (setCtx w { w.core.ctx with mailbox := [7, 8] }).core.ctx.mailbox = 7 :: [8] ∧ RunsIn w 0 ∧ w.core.ctx.mailbox = [] ∧ (areaOf w = [] ∧ w.core.ctx.idle = none) ∧ areaOf (setCtl w { w.core.ctx.ctl with mbaCnt := 1 }) = 0 :: [] ∧ 2 < (3 : Reg).toNat ∧
    (let m : NetMsg := { handle := 0, body := 0, sender := some 0, colour := 0 }
     entriesTaken { w with net := (List.range 8).map fun i => { m with entry := i } } = 8) := by
  refine ⟨.inl ⟨by decide, by decide⟩, .inr ⟨by decide, by decide, by decide⟩, by decide, by decide +kernel, by decide +kernel, by decide +kernel, by decide, by decide +kernel, by decide +kernel, ?_,
    by decide, rfl, ⟨rfl, rfl, rfl, rfl⟩, rfl, by decide +kernel, by decide +kernel, by decide, by decide +kernel⟩
  rintro u (⟨h, _⟩ | ⟨_, h, _⟩) <;> revert h <;> decide

/-- MessageDelivery: a message to the context in slot 0; a mailbox of 32; one to an empty slot with no image; an answer to a combining entry that is the last, and one that is not. -/
theorem witness_messageDelivery :
    let h : Word := BitVec.ofNat 64 0xF0000000041
    let m (x : Word) : NetMsg := { handle := x, body := 7, sender := some 0, colour := 0 }
    let s : State := { w with net := [m h] }
    let e : Combine := { handle := h, tid := 7, expect := 2 }
    (HandleNames h 0 ∧ h.extractLsb' 56 3 = BitVec.ofNat 3 (0 : Fin 8) ∧ h.msb = false ∧ s.core.ctx.rcd.chrys = h.extractLsb' 0 44 ++ 0#12 ∧ RunsIn s 0) ∧
    (s.core.ctx.mailbox.length + s.core.ctx.ctl.mbaCnt.toNat < 32 ∧ 32 ≤ (List.replicate 32 (0 : BitVec 128)).length + s.core.ctx.ctl.mbaCnt.toNat) ∧
    (let h2 : Word := h + 0x0700000000000000; h2.extractLsb' 56 3 = BitVec.ofNat 3 (7 : Fin 8) ∧ s.core.slots[(7 : Fin 8)].sst = .empty ∧ imageRecord s (h2.extractLsb' 0 44 ++ 0#12) = 0 ∧ h2.msb = false) ∧
    (let c := m (h ||| 0x8000000000000000); c.handle.msb = true ∧ isFabric 0 = false ∧ e.handle.setWidth 63 = c.handle.setWidth 63 ∧ e.handle.msb = false ∧ e.tid = c.body.extractLsb' 0 8 ∧
      e ∉ ([] : List Combine) ∧ e.count + 1 < e.expect ∧ ({ e with count := 1 } : Combine).expect ≤ 1 + 1) := by
  refine ⟨⟨.inl ⟨by decide, by decide⟩, by decide, by decide, by decide +kernel, ⟨rfl, rfl, rfl, rfl⟩⟩, by decide +kernel, by decide +kernel, by decide +kernel⟩


/-! ### Witnesses: presses and stacks -/

/-- PressInstructions: a descriptor at the end of the scratchpad; a galley with room, a full one; a misaligned descriptor. -/
theorem witness_pressInstructions :
    let e : PressEntry := { desc := 0, seqNo := 1, owner := 1, op := 2, token := none, ctx := 0 }
    let s := wg [(1, 491456), (2, 32)]
    DescriptorAt s 1 (getLe (ownRead s 491456 64).mem (poolKey 0 491456) 64) ∧ s.core.galley.entries.length < 64 ∧ TokenRoom s 5 { num := 5 } ∧ 64 ≤ (List.replicate 64 e).length ∧
    (rdG s 2).toNat % 64 ≠ 0 ∧ s.core.galley.entries = [] ∧ [e] ≠ [] ∧ (rdG s 1).toNat + 64 = scratchSize s.cur s.core ∧
    (let u := setCtx s (ctxSetToken s.core.ctx { num := 5 } { issued := 0x7FFF }); 2 ^ 15 - 1 ≤ ((ctxToken u.core.ctx { num := 5 }).issued - (ctxToken u.core.ctx { num := 5 }).count).toNat) := by
  unfold DescriptorAt OwnBytes Unraced
  refine ⟨⟨?_, ?_, ?_⟩, ?_, ⟨?_, ?_⟩, ?_, ?_, ?_, ?_, ?_, ?_⟩ <;> decide +kernel

/-- StackInstructions: SEFIL's destination at the first and last byte of the mapped page, with the right W and a galley with room; a head operand with no right; SESTAT's address. -/
theorem witness_stackInstructions :
    let m := setLe (setLe w.mem (poolKey 0 0x40) 64 (0x100000 + 2 ^ 279)) (poolKey 0 0x80) 64 0x900000
    let s : State := { wg [(1, 0x40), (2, 0x80), (3, 0x100FFF)] with mem := m }
    stackCommand (.sefil 0 5 1) = some (1, 0, 5, 1) ∧ DescriptorAt s 1 (0x100000 + 2 ^ 279) ∧ (headOperand s 1 (0x100000 + 2 ^ 279)).1 = 0x100000 ∧ place (onCompute s) 0x100000 = .heap ∧
    (check s s.core.ctx.ctl.owner 0x100000 1 .W).isOk = true ∧ GalleyAt s 0x100000 0 ∧ s.core.fences = [] ∧ (tabGet ({} : StackGalley) s.galleys 0).entries.length < 64 ∧
    field (0x100000 + 2 ^ 279) 279 1 = 1 ∧ field 0x100000 279 1 = 0 ∧ TokenRoom s 5 { num := 5 } ∧ (check s s.core.ctx.ctl.owner 0x900000 1 .I).isOk = false ∧
    (place (onCompute s) (rdG s 3).toNat = .heap ∧ (check s (acting s) (rdG s 3) 1 .I).isOk = true ∧ GalleyAt s (rdG s 3).toNat 0) := by
  unfold DescriptorAt OwnBytes Unraced
  refine ⟨rfl, ⟨?_, ?_, ?_⟩, ?_, ?_, ?_, ⟨?_, ⟨0x5000, 0x100003, 0, 0x100000⟩, 0, 0, ?_, ?_, ?_⟩, ?_, ?_, ?_, ?_, ⟨?_, ?_⟩, ?_, ?_, ?_,
    ⟨?_, ⟨0x5000, 0x100003, 0, 0x100FFF⟩, 0, 0, ?_, ?_, ?_⟩⟩ <;> decide +kernel

/-- A PZERO of one element at core 1, whose pool owner 1 may write, with its press, its lease and one accumulator unit. -/
def pzero : PressEntry := { desc := BitVec.ofNat 512 (2 ^ 91 + 2 ^ 101), seqNo := 1, owner := 1, op := 2, token := none, ctx := 0xF0000000041000 }
/-- A PMAC whose block list has one block and one slice. -/
def pmac : PressEntry := { pzero with op := 0, desc := BitVec.ofNat 512 (2 ^ 91 + 2 ^ 101 + 2 ^ 112) }

/-- Core 1 with one entry, in tile 0. -/
def wp (e : PressEntry) (x : Tile) : State := { w with others := [(1, { core1 with acc := 1, galley := { entries := [e] } })], tiles := [(0, x)] }

/-- PressEvents: a grant to the first ready galley after the last holder; a lease that is over; an entry that passes, one that is refused; a start admitted and one not; a slice and the last one; a sum;
a shootdown; a governor window that has run; an entry that ends with a status and one that ends with its blocks. -/
theorem witness_pressEvents :
    (let s := wp pzero { lastHolder := 7 }
     (tabGet {} s.tiles 0).lease = none ∧ (1 : BitVec 3) = (tabGet {} s.tiles 0).lastHolder + BitVec.ofNat 3 (1 + 1) ∧ galleyReady s 1 = true ∧
       ∀ m, m < 1 → galleyReady s (((tabGet {} s.tiles 0).lastHolder + BitVec.ofNat 3 (m + 1)).toNat) = false) ∧
    (let s := wp pzero { lease := some 1, leaseAt := 41808 }; (tabGet {} s.tiles 0).run = none ∧ (tabGet {} s.tiles 0).leaseAt + 8192 ≤ s.gtc / 2) ∧
    (let s := wp pzero { lease := some 1, leaseAt := 49999 }
     leaseHolder s 0 = some 1 ∧ (getCore s 1).galley.entries = pzero :: [] ∧ sumsOut s 0 = false ∧ (getCore s 1).fences = [] ∧ (pressStatus s 1 pzero).isOk = true ∧ s.races = [] ∧ pzero.op = 2 ∧
     pmac.op = 0 ∧ (pressStatus s 1 { pzero with desc := 0 }).isOk = false ∧ pdM pzero.desc = 1 ∧ pdN pzero.desc = 1) ∧
    (let s := wp pmac { lease := some 1, leaseAt := 49999, run := some { core := 1 }, request := some 49999 }
     nextAdmitted s (dieOfTile 0) = some 0 ∧ ((tabGet {} s.dies 0).starts.filter fun p => decide (s.gtc / 2 < p + 8)).length < 4 ∧ 4 ≤ ([50000, 50000, 50000, 50000] : List Nat).length) ∧
    (let r : PressRun := { core := 1, admitted := true }
     let s := wp pmac { run := some r }
     r.status = none ∧ r.block < pdBlocks pmac.desc ∧ badSlice s r.core pmac r.block r.slice = false ∧ tileOf r.core = 0 ∧ tileOf ((pdMembers r.core pmac.desc).getD 0 1) = 0 ∧
     (pdK pmac.desc + 127) / 128 ≤ r.slice + 1 ∧ 0 + 1 < (129 + 127) / 128 ∧ pdBlocks pmac.desc ≤ 1) ∧
    (let x : Shoot := { region := 2, freed := true, for_ := .rfree }
     let e := { pmac with stamps := [(2, 1)] }
     x.region = 2 ∧ (x.region, (1 : BitVec 16)) ∈ e.stamps ∧ (∀ a b, x.for_ ≠ .rdrop a b)) ∧
    (w.hub.govAt + 256 ≤ w.gtc / 2 ∧ [(0, ({} : Tile))] = [(0, {})]) ∧
    (let s : State := { w with core := { w.core with galley := { entries := [pzero] } }, tiles := [(0, { run := some { core := 0, status := some 4 } })] }
     s.core.galley.entries = pzero :: [] ∧ sumsOut s 0 = false ∧ s.core.issuing.isSome = true ∧ s.core.ctx.rcd.chrys = pzero.ctx ∧ deadOf pzero.ctx = none ∧ pzero.token = none) := by
  refine ⟨⟨?_, ?_, ?_, ?_⟩, ?_, ?_, ?_, ?_, ⟨?_, ?_, fun _ _ h => ShootFor.noConfusion h⟩, ?_, ?_⟩ <;> decide +kernel

/-- StackEvents: a dead issuer; a SEFIL of no beat, one of one beat into the mapped page, one that is misaligned; its completion with and without a completion word; the hart port with room and without. -/
theorem witness_stackEvents :
    let e (d : Nat) (c : BitVec 56) (b : Bool) : StackEntry := { desc := BitVec.ofNat 512 d, op := 1, seqNo := 7, owner := 1, by_ := some (0, c), token := none, started := b }
    let me : BitVec 56 := 0xF0000000041000
    let f := e (0x100000 + 64 * 2 ^ 192) me false
    (deadOf (deadCtx 64)).isSome = true ∧ deadOf me = none ∧
    (let len := field f.desc.toNat 192 64; len = 64 ∧ len % 64 = 0 ∧ len ≤ 2 ^ 32 ∧ field f.desc.toNat 0 64 % 64 = 0 ∧ isStackSpan w 0x100000 len = true) ∧
    (field (e 0x100000 me false).desc.toNat 192 64 = 0 ∧ isStackSpan w 0x100000 0 = true ∧ (writeSpan (stackAgent 0 f) f 0x100000 [] w).1 = none) ∧
    field (e (0x100000 + 63 * 2 ^ 192) me false).desc.toNat 192 64 % 64 ≠ 0 ∧ field (e (0x100000 + 4 * 2 ^ 448) me false).desc.toNat 448 64 % 8 ≠ 0 ∧ field f.desc.toNat 448 64 % 8 = 0 ∧
    (writeSpan (stackAgent 0 f) f 0x100000 (List.replicate 64 7#8) w).1 = none ∧
    (field f.desc.toNat 448 64 = 0 ∧ (e 0 me true).started = true ∧ w.core.issuing.isSome = true ∧ w.core.ctx.rcd.chrys = me) ∧
    (let g := e (0x00F0000000080040 * 2 ^ 448) me true
     let a := field g.desc.toNat 448 64
     a ≠ 0 ∧ a % 8 = 0 ∧ place true a = .pool 1 0x40 ∧ (agentCheck w 1 (isCompute 0) a .W).isOk = true ∧ locate w 0 a = .ok 0x00F0000000080040) ∧
    (tabGet ({} : StackGalley) w.galleys 255).entries.length < 64 ∧ 64 ≤ (List.replicate 64 f).length := by decide +kernel

/-! ### Witnesses: channel cores, work and groups -/

/-- Channel core 0 of stack 0, with general registers. -/
def wch (l : List (Reg × Word)) : State := onChannel (wg l)

/-- HeapAccesses and Hints: the mapped page from a channel core, an address that is no heap address, a compute core; a hint of no bytes, an accepted one, a full ring. -/
theorem witness_channelCores :
    let s := wch [(1, 0x100000), (2, 0x40), (3, 1)]
    let h : Machine.Hints := { base := 0x60, log := 6 }
    onCompute s = false ∧ place true (rdG s 1).toNat = .heap ∧ goesRemote (checkRoute s (rdG s 1) 8 [.I]) = true ∧ goesRemote (checkRoute s (rdG s 1) 32 [.W]) = true ∧ s.core.log[0] = none ∧ s.core.journal[0] = none ∧
    place true (rdG s 2).toNat ≠ .heap ∧ onCompute w = true ∧ (loadOf (.ldd 0 0 0 1 5) s).isSome = true ∧ (storeOf (.stv 0 0 5 1) s).isSome = true ∧
    Memory.wf s.mem = true ∧ (rdG s 4).toNat = 0 ∧ ((rdG s 3).toNat ≠ 0 ∧ (rdG s 1).toNat + (rdG s 3).toNat ≤ 0x00F0000000000000 ∧ (check s (acting s) (rdG s 1) 1 .I).isOk = true) ∧
    (¬(h.log.toNat < 6 ∨ 2 ^ h.log.toNat ≤ (h.tail - h.head).toNat)) ∧ 2 ^ h.log.toNat ≤ (({ h with tail := 64 } : Machine.Hints).tail - h.head).toNat := by decide +kernel

/-- The issuing continuation, registered with queue 0 of virtual device 0 in launch 0. -/
def cont1 : Cont := { record := 0xF0000000040000, chrys := 0xF0000000041000, vdev := 0, queue := 0, launch := 0, card := none, owner := 1, fresh := false }

/-- `w` with that continuation, its queue OPEN, a spawn ring of one entry at 0x60000 and an event ring with room. -/
def wt (l : List (Reg × Word)) : State :=
  { wg l with
    mem := setLe (setLe w.mem 0x60000 16 (0xF0000000042000 + 0xF0000000043000 * 2 ^ 64)) (poolKey 0 0x40) 32 0x200
    hub := { w.hub with conts := [cont1], queues := [(0, { st := .open_, owner := 1 })], launches := [{}]
                        parts := w.hub.parts.set 0 { spnBase := 0x60, spnLog := 6, spnTail := 1, evtLog := 6, evtBase := 0x61 } } }

/-- SpawnAndDeal: a legal descriptor, one with an odd PC and one with a group the context has not; an access still out; a queue that runs and one that does not; a ring with an entry and one without; groups that nest;
an event ring with room and without; a card that cannot be read and one that is read; misaligned addresses. -/
theorem witness_spawnAndDeal :
    let s := wt [(1, 0x40), (2, 0x41), (3, 0x900000)]
    let desc (x : Nat) : State := { s with mem := setLe s.mem (poolKey 0 0x40) 32 x }
    let s1 := ownRead s (rdG s 1) 32
    contAt s s.core.ctx.rcd.chrys = some cont1 ∧ (rdG s 1).toNat % 32 = 0 ∧ OwnBytes s (rdG s 1) 32 false none ∧ OwnBytes (desc 0x201) (rdG s 1) 32 false none ∧
    acquirePending (setCtx s { s.core.ctx with acqUntil := 100001 }) = true ∧ s.core.ctx.rcd.cwref.extractLsb' 24 8 = 0 ∧
    (let x (u : State) := getLe (ownRead u (rdG s 1) 32).mem (poolKey s.cur (rdG s 1).toNat) 32
     x s = 0x200 ∧ field (x s) 0 1 = 0 ∧ (∀ i, i < 4 → field (x s) (160 + i) 1 = 1 → i < s.core.ctx.rcd.ngrp.toNat) ∧ field (x (desc 0x201)) 0 1 = 1 ∧
      field (x (desc (0x200 + 2 ^ 163))) (160 + 3) 1 = 1 ∧ ¬(3 < s.core.ctx.rcd.ngrp.toNat)) ∧ allPerformed s1 = true ∧ allPerformed s = true ∧
    allPerformed { s1 with core := { s1.core with journal := s1.core.journal.set 0 (some (jnlEntry none)) } } = false ∧
    (tabGet ({} : Queue) s.hub.queues 0).st = .open_ ∧ (tabGet ({} : Queue) w.hub.queues 0).st = .none ∧ spawnEntry s1 0 = some (0xF0000000042000, 0xF0000000043000) ∧ spawnEntry w 0 = none ∧
    wouldNest (launchOf s 0) [] = false ∧ wouldNest { without := [(1, 2)], members := [1] } [2] = false ∧ wouldNest { members := [1] } [2] = true ∧ ringFull (getPart s 0) = false ∧
    ringFull { getPart s 0 with evtTail := 64 } = true ∧
    ((rdG s 3).extractLsb' 56 8 = 0 ∧ (rdG s 3).toNat % 64 = 0 ∧ dealRead s (rdG s 3).toNat = none ∧ (dealRead s (rdG s 1).toNat).isSome = true) ∧ (rdG s 2).toNat % 64 ≠ 0 ∧ (rdG s 2).toNat % 32 ≠ 0 := by
  unfold OwnBytes Unraced
  decide +kernel

/-- GroupsAndEndings: the latch set and clear, a slot that runs, an arrival that is the last of EXPECT and one that is not, a rank of the first group, a group the context has not, an EXIT that may be and one that
may not, a generation that is complete and one that is not. -/
theorem witness_groupsAndEndings :
    let s : State := { w with hub := { w.hub with conts := [cont1] }, core := { w.core with ctx := { w.core.ctx with rcd := { w.core.ctx.rcd with ngrp := 1, groups := 9 } } } }
    (w.core.ctx.ctl.steward = false ∧ w.core.ctx.ctl.wake = false ∧ RunsIn w 0 ∧ w.core.ctx.pend = [] ∧ w.core.ctx.idle = none) ∧ (setCtl w { w.core.ctx.ctl with wake := true }).core.ctx.ctl.wake = true ∧
    ((0 : BitVec 2).toNat < s.core.ctx.rcd.ngrp.toNat ∧ contAt s s.core.ctx.rcd.chrys = some cont1 ∧ allPerformed s = true ∧ RunsIn s 0) ∧ w.core.ctx.rcd.ngrp.toNat ≤ (0 : BitVec 2).toNat ∧
    (mayExit w = true ∧ w.core.slots[(0 : Fin 8)].after = none) ∧ mayExit (setCtx w (ctxSetToken w.core.ctx { num := 15 } { issued := 1 })) = false ∧
    (let y : Group := { expect := 1, arrived := [1] }; y.arrived ≠ [] ∧ y.expect ≠ 0 ∧ y.arrived.length = y.expect.toNat) ∧ ({} : Group).arrived = [] := by
  refine ⟨⟨rfl, rfl, ⟨rfl, rfl, rfl, rfl⟩, rfl, rfl⟩, rfl, ⟨?_, ?_, ?_, ⟨rfl, rfl, rfl, rfl⟩⟩, ?_, ⟨?_, rfl⟩, ?_, ?_, rfl⟩ <;> decide +kernel

/-- GroupsAndEndings: the one slot of a quire that the context holds, in each state; a hold's first cycle and a later one; an ended context whose card runs, of the slot's partition and of none, with room for the event. -/
theorem witness_endings :
    let x (st : QSlotState) : Quire := { ring 0 0 [held st] with holder := 0 }
    let s : State := wt []
    let k : Cont := { cont1 with card := some 0 }
    let c : Card := { vdev := 0, queue := 0, launch := 0, addr := 0x100040, st := .running, bits := BitVec.ofNat 512 (5 * 2 ^ 128 + 2 ^ 156 + 2 * 2 ^ 192) }
    let z : State := { s with hub := { s.hub with conts := [k], cards := [c] }, core := { s.core with slots := s.core.slots.set 0 { s.core.slots[0] with part := none } } }
    (∀ st, st = .acquired ∨ st = .reserved → HoldsAlone s (x st) st 0) ∧ s.core.holdSince = none ∧ ({ s.core with holdSince := some 99999 } : Core).holdSince.isSome = true ∧
    (mayExit s = true ∧ RunsIn s 0 ∧ s.core.slots[(0 : Fin 8)].after = none ∧ s.core.slots[(0 : Fin 8)].part = some 0 ∧ ringFull (getPart s 0) = false) ∧
    (mayExit z = true ∧ RunsIn z 0 ∧ contAt z z.core.ctx.rcd.chrys = some k ∧ k.card = some 0 ∧ z.hub.cards[0]? = some c ∧ c.st = .running ∧ z.core.slots[(0 : Fin 8)].part = none ∧ cwNone (cardCw c.bits) = false ∧
      (∀ d ∈ z.hub.cards, d.st ≠ .pending) ∧ z.core.ctx.rcd.ngrp = 0 ∧ place true z.core.ctx.rcd.chrys.toNat = .pool 0 0x41000) ∧
    (∀ v (m : Fin 16), HoldsNone w (quireOf w v m) .acquired ∧ HoldsNone w (quireOf w v m) .reserved) := by
  refine ⟨?_, rfl, rfl, ⟨?_, ⟨?_, ?_, ?_, ?_⟩, ?_, ?_, ?_⟩, ⟨?_, ⟨?_, ?_, ?_, ?_⟩, ?_, ?_, ?_, ?_, ?_, ?_, ?_, ?_, ?_⟩, ?_⟩
  all_goals try decide +kernel
  · rintro st (rfl | rfl) <;>
      exact ⟨⟨by decide, rfl, rfl, fun j hj => absurd hj (Nat.not_lt_zero j)⟩, fun j h => by cases j with | zero => exact absurd rfl h | succ n => simp [ring], by decide, rfl⟩
  · intro v m
    have core0 : ∀ m : Fin 16, (quireOf w 0 m).slots = [] := by decide +kernel
    have others : ∀ v, v ≠ 0 → getCore w v = {} := fun v h => by simp [getCore, w, h, tabGet]
    have none_ : (quireOf w v m).slots = [] := by
      by_cases h : v = 0
      · subst h; exact core0 m
      · rw [quireOf, others v h]; exact (by decide +kernel : ∀ m : Fin 16, (({} : Core).quires.getD m {}).slots = []) m
    constructor <;> (intro y hy; rw [none_] at hy; cases hy)

/-! ### Witnesses: rights and regions -/

/-- A GRANT record for owner 2, which is VALID here, of granule 0x100 with I and W. -/
def grantRec : Nat := 0x100 + 1 * 2 ^ 44 + 3 * 2 ^ 84 + 2 * 2 ^ 92
def wr : State :=
  { wg [(1, 0x40), (2, 0x41), (3, 0x0100000000000000), (4, 0x100000), (5, 0x900000), (6, 0x00F4000000000000)] with
    mem := setLe (setLe w.mem (poolKey 0 0x40) 16 grantRec) 0x10020 16 (2 ^ 127 + 4 * 2 ^ 84) }

/-- Of `wr`'s regions only region 1 touches granule 0x100. -/
theorem witness_liesIn : LiesIn wr 0x100 1 1 := by
  refine ⟨by decide, by decide, by decide, by decide +kernel, by decide +kernel, by decide +kernel, fun j hj hc => ?_⟩
  have all : ∀ n, n < 8 → n ≠ 1 → (region wr (BitVec.ofNat 20 n)).st ≠ .free →
      ¬((region wr (BitVec.ofNat 20 n)).base < 0x100 + 1 ∧ 0x100 < (region wr (BitVec.ofNat 20 n)).base + (region wr (BitVec.ofNat 20 n)).len) := by decide +kernel
  have := all j.toNat hc (fun h => hj (BitVec.eq_of_toNat_eq h))
  rwa [BitVec.ofNat_toNat, BitVec.setWidth_eq] at this

/-- GrantAndTest: no region at all; a valid and an invalid target; a region that is dead; rights that the owner has and that no other owner has; a table that would pass RT_CAP and one that would not; RTEST at a
private alias, at no place, in the heap with an entry and without. -/
theorem witness_grantAndTest :
    (rdG wr 1).toNat % 16 = 0 ∧ OwnBytes wr (rdG wr 1) 16 false none ∧ getLe (ownRead wr (rdG wr 1) 16).mem (poolKey wr.cur (rdG wr 1).toNat) 16 = grantRec ∧ wr.hub.rights.rgnCap ≤ 2 ^ 20 ∧
    acquirePending wr = false ∧ acquirePending (setCtx wr { wr.core.ctx with acqUntil := 100001 }) = true ∧ (∀ id, ¬LiesIn { wr with hub := {} } 0x100 1 id) ∧
    (ownerDesc wr 3).valid = false ∧ (ownerDesc wr 2).valid = true ∧ (region wr 1).st = .live ∧
    (region { wr with mem := setLe [] 0x30010 16 (0x100 + 0x100 * 2 ^ 44 + 3 * 2 ^ 126) } 1).st ≠ .live ∧ coversWith wr (3 ||| 8) 0x100 0x101 (rangeTable wr 1) = true ∧ ¬MayGrant wr 2 3 0x100 ∧
    ((ownerDesc wr 2).cap < (List.replicate 5 ()).length ∧ [()].length ≤ (ownerDesc wr 2).cap) ∧ (rdG wr 2).toNat % 16 ≠ 0 ∧ (rdG wr 3).extractLsb' 56 8 ≠ 0 ∧
    place (onCompute wr) (rdG wr 1).toNat = .priv 0x40 ∧ place (onCompute wr) (rdG wr 6).toNat = .bad ∧
    place (onCompute wr) (rdG wr 4).toNat = .heap ∧ plbLookup wr wr.core 1 (rdG wr 5).toNat = none ∧ (plbLookup wr wr.core 1 (rdG wr 4).toNat).isSome = true := by
  refine ⟨?_, ?_, ?_, ?_, ?_, ?_, ?_, ?_, ?_, ?_, ?_, ?_, ?_, ?_, ?_, ?_, ?_, ?_, ?_, ?_, ?_⟩
  all_goals try decide +kernel
  · unfold OwnBytes Unraced; decide +kernel
  · rintro id ⟨_, _, h, _⟩; exact absurd h (Nat.not_lt_zero _)
  · rintro ⟨e, he, _⟩
    have : rangeTable wr 2 = [] := by decide +kernel
    rw [this] at he; cases he

/-- RevokeAndDrop: addresses in no region, in region 0 and in region 1; a creator and another owner; a region that is dead, one at its last generation; a range that is misaligned, one without entries and one
with; an RDROP that waits and one that is answered; a shootdown. -/
theorem witness_revokeAndDrop :
    let s := wg [(1, 0x100000), (2, 0x1000), (3, 0x900000), (4, 0x0100000000000000)]
    let shoot (f : ShootFor) : State := { s with hub := { s.hub with shoots := [{ region := 1, freed := true, for_ := f }] } }
    (rdG s 1).extractLsb' 56 8 = 0 ∧ (rdG s 4).extractLsb' 56 8 ≠ 0 ∧ TokenRoom s 5 { num := 5 } ∧ (s.core.issuing.isSome = true ∧ deadOf s.core.ctx.rcd.chrys = none) ∧ regionAt s (rdG s 3).toNat = none ∧
    regionAt { s with mem := setLe [] 0x30000 16 (0x100 + 2 ^ 44 + 2 ^ 126) } (rdG s 1).toNat = some 0 ∧ regionAt s (rdG s 1).toNat = some 1 ∧ acting s = (region s 1).creator ∧ (2 : BitVec 12) ≠ (region s 1).creator ∧
    (region s 1).st = .live ∧ (region s 1).gen ≠ 0xFFFE ∧ (region { s with mem := setLe [] 0x30010 16 (0x100 + 2 ^ 44 + 0xFFFE * 2 ^ 96 + 2 ^ 126) } 1).gen = 0xFFFE ∧ s.core.accepted = false ∧
    (rdG s 1).toNat % 4096 = 0 ∧ (rdG s 2).toNat % 4096 = 0 ∧ rdG s 2 ≠ 0 ∧
    (∀ e ∈ rangeTable s 1, 0x901 ≤ e.base ∨ e.base + e.len ≤ 0x900) ∧ (∃ e ∈ rangeTable s 1, e.base ≤ 0x100 ∧ 0x100 < e.base + e.len) ∧
    dropPending s s.core.ctx.rcd.chrys = false ∧ dropPending (shoot (.rdrop 0 0xF0000000041000)) s.core.ctx.rcd.chrys = true ∧
    ((rangeTable s 1).Pairwise fun p q => p.base + p.len ≤ q.base) ∧ (∀ e ∈ rangeTable s 1, e.len ≠ 0) ∧ (rangeTable s 1).length ≤ (ownerDesc s 1).cap ∧
    ((shoot .rfree).hub.shoots.find? fun y => y.region.toNat == 1) = some { region := 1, freed := true, for_ := .rfree } ∧ pressHolds (shoot .rfree) 1 = false ∧ (∀ x ∈ (shoot .rfree).hub.shoots, ∀ u c, x.for_ ≠ .rdrop u c) ∧
    pressHolds { shoot .rfree with others := [(1, { core1 with galley := { entries := [{ pmac with stamps := [(1, 1)] }] } })], tiles := [(0, { run := some { core := 1 } })] } 1 = true := by
  unfold TokenRoom
  and_intros
  all_goals try decide +kernel
  intro x hx u c h
  rw [List.mem_singleton.mp hx] at h
  cases h

/-- RegionCommands: an id past RGN_CAP; a live and a dead region, with and without holders; an allocation inside the space, outside it and over another region; owners that exist, that do not and that are in use. -/
theorem witness_regionCommands :
    let arg (a b : Word) : State := { w with hub := { w.hub with rights := { w.hub.rights with arg0 := a, arg1 := b } } }
    let s := arg 0x300 (0x10 + 2 ^ 40)
    let dead : State := { w with mem := setLe (setLe [] 0x30030 16 (0x300 + 2 ^ 44 + 3 * 2 ^ 126)) 0x10020 16 (2 ^ 127) }
    w.hub.rights.rgnCap ≤ (8 : BitVec 20).toNat ∧ (7 : BitVec 20).toNat < w.hub.rights.rgnCap ∧ (region w 1).st ≠ .tombstone ∧ (region dead 3).st = .tombstone ∧ plbRefs dead 3 = 0 ∧ inflight dead 3 = 0 ∧
    (rangeTable dead 1 = []) ∧ plbRefs { dead with core := { dead.core with plb := [{ owner := 1, region := 3, gen := 0, rights := 0, len := 1, base := 0x300 }] } } 3 ≠ 0 ∧
    inSpace 0x300 0x310 = true ∧ inSpace 0xF4000000000 0xF4000000001 = false ∧ (region s 7).st = .free ∧ (region s 7).gen.toNat < 0xFFFE ∧ ((region s 1).base < 0x100 + 0x10 ∧ 0x100 < (region s 1).base + (region s 1).len) ∧
    (ownerDesc s 1).valid = true ∧ (ownerDesc s 1).count < (ownerDesc s 1).cap ∧ (ownerDesc s 9).valid = false ∧ (region s 1).creator = 1 ∧ (ownerDesc s 1).count ≠ 0 ∧ (ownerDesc dead 2).count = 0 ∧ (ownerDesc dead 2).valid = true ∧ (region dead 3).creator ≠ 2 ∧ ownerBusy dead 2 = false ∧
    ownerBusy w 9 = false ∧ ownerBusy w 1 = true ∧ ownerBusy { w with hub := { w.hub with conts := [cont1] } } 1 = true ∧ (arg 0x10000 1).hub.rights.arg0.toNat % 16 = 0 ∧ (arg 0x10000 1).hub.rights.arg1.toNat % 2 ^ 20 ≠ 0 := by decide +kernel


/-! ### Witnesses: code, asynchronous traps and the cycle -/

/-- JumpsToCodeAndSegments: a code address of the landed segment, one that no segment holds, the steward's segment 15; a segment that may be replaced, the PC's own, and one that is LOADING. -/
theorem witness_codeSegments :
    let s := wg [(1, 0x200), (2, 0x7000), (3, 0x0100000000000000)]
    let l : State := { s with core := { s.core with segs := s.core.segs.set 5 { st := .loading } } }
    (fetchTrap s 0x200 = none ∧ resolve s (rdG s 1) = .ok 0x200 ∧ resolve s ((codeVa s s.core.ctx.pc).setWidth 64 + BitVec.ofInt 64 ((0x1FFFF : BitVec 17).toInt * 2)) = .ok 0xFE ∧ fetchTrap s 0xFE = none) ∧
    (resolve s (rdG s 2) = .error (7, 0x7000) ∧ resolve s (rdG s 3) = .error (2, rdG s 3) ∧ resolve s ((codeVa s s.core.ctx.pc).setWidth 64 + BitVec.ofInt 64 ((0x8000 : BitVec 17).toInt * 2)) = .error (7, 0x10100)) ∧
    (((5 : BitVec 4) = 15 → s.core.ctx.ctl.steward = true) ∧ (5 : BitVec 4) ≠ s.core.ctx.pc.extractLsb' 12 4 ∧ s.core.segs[5].st ≠ .loading) ∧
    ((15 : BitVec 4) = 15 ∧ s.core.ctx.ctl.steward = false) ∧ ((0 : BitVec 4) = s.core.ctx.pc.extractLsb' 12 4) ∧ l.core.segs[5].st = .loading := by decide +kernel

/-- CodeFetches: an aligned page with the right X, one without, a misaligned address; a fetch that lands and one that a revoked region fails. -/
theorem witness_codeFetches :
    let s := wg [(1, 0x00F0000000080000), (2, 0x00F0000000080040), (3, 0x900000)]
    let f (st : Stamp) : Fetch := { seg := 5, addr := 0x00F0000000080000, owner := 1, ctx := 0xF0000000041000, token := {}, stamp := st }
    ((rdG s 1).extractLsb' 56 8 = 0 ∧ (rdG s 1).extractLsb' 0 12 = 0 ∧ (check s (acting s) (rdG s 1) 4096 .X).isOk = true) ∧ ¬((rdG s 2).extractLsb' 56 8 = 0 ∧ (rdG s 2).extractLsb' 0 12 = 0) ∧
    (check s (acting s) (rdG s 3) 4096 .X).isOk = false ∧ fetchKey s 0 (f (some (2, 1))) = .ok 0x00F0000000080000 ∧ place true (f none).addr.toNat ≠ .heap ∧
    fetchKey s 0 (f (some (2, 0))) = .error .protection ∧ s.core.ctx.rcd.chrys = (f none).ctx ∧ ((f none).token.handler = true → (f none).token.num.toNat < 4) := by decide +kernel

/-- AsynchronousTraps: a held load first, a refused store first, neither in an IDLE and one in it; a steward with a held load, before and while it is replayed. -/
theorem witness_asynchronousTraps :
    let e := { logEntry (some (2, 1)) with held := some 9, reason := 4 }
    let j := { jnlEntry none with held := some 8, reason := 3 }
    let a : State := { w with core := { w.core with log := w.core.log.set 15 (some e) } }
    let b : State := { a with core := { a.core with journal := a.core.journal.set 31 (some j) } }
    let r := asSteward { w with core := { w.core with log := w.core.log.set 15 (some { e with replaying := true }) } }
    firstTrap (pendTraps a.core a.core.ctx.rcd.chrys) = some (9, 0, 15) ∧ firstTrap (pendTraps b.core b.core.ctx.rcd.chrys) = some (8, 1, 31) ∧ a.core.issuing.isSome = true ∧ a.core.ctx.pend = [] ∧ a.core.amo = none ∧ a.core.ctx.idle = none ∧
    ((setCtx a { a.core.ctx with idle := some false }).core.ctx.idle.isSome = true ∧ ∀ n : Fin 3, a.core.ctx.regs.loops[n].active = false) ∧
    a.core.accepted = false ∧ a.core.haltStop = false ∧ a.core.haltGroup = false ∧ (check (asSteward a) e.owner e.ea (2 ^ e.sizeLog) .I).isOk = true ∧ e.held.isSome = true ∧
    (r.core.ctx.ctl.steward = true ∧ olderPending r r.core e.seqNo e.ea (2 ^ e.sizeLog) = false ∧ behindSync r.core e.ctx e.seqNo = false ∧ syncWaits r e.ctx e.ea false e.sync = false ∧ landing r r.cur e.ea.toNat e.stamp = .ok 0x00F0000000080040 ∧
      olderElsewhere r r.cur e.ctx e.at_ = false ∧
      (let x := remoteAccess r.cur e.ctx 0x00F0000000080040 false e.sync e.at_ (overtakes r r.cur e.ctx e.seqNo e.at_)
       overtaken x r.races = false ∧ Unraced r x)) := by
  unfold Unraced
  decide +kernel

/-- TheCycle: no work of the firmware, no queue, no group, no divide; a result that falls due in the next cycle, and one a cycle later. -/
theorem witness_theCycle :
    w.hub.jobs = [] ∧ w.hub.decisions = [] ∧ w.hub.boot.powered = false ∧ w.hub.queues = [] ∧ w.hub.groups = [] ∧ w.core.divs = [] ∧ w.others = [] ∧ w.hub.acct.sw = 0 ∧ w.hub.acct.swc = 0 ∧
    (let s := setCtx w { w.core.ctx with pend := [(100001, .writeG 1 7)] }; s.core.ctx.pend = [(100001, .writeG 1 7)] ∧ 100001 ≤ s.gtc + 1 ∧ s.gtc + 1 < 100002) := by decide

/-! ### Witnesses: the viceroy -/

/-- A signature record: input g5, output g6, no hidden layer, B = 4, V = 1, S = 1, F = 1 (R395). -/
def fitRec : Nat := 5 + 2 ^ 48 + 2 ^ 52 + 6 * 2 ^ 64 + 4 * 2 ^ 128 + 2 ^ 136 + 2 ^ 144 + 2 ^ 148

/-- An entry of it for owner 1, region 3. -/
def fitE (st : FitState) : FitEntry := { owner := 1, n := 3, record := BitVec.ofNat 192 fitRec, weights := [0, 0], st := st, fea := 0x200, fev := true }

/-- `w` with the record at 0x40 and a viceroy entry. -/
def wf1 (v : Viceroy) (l : List (Reg × Word)) : State := { wg ((1, 0x40) :: l) with mem := setLe w.mem (poolKey 0 0x40) 64 fitRec, quads := if v = {} then [] else [(0, v)] }

/-- FittedRegionsBegin: a legal record, an ill-formed one and a full token; a FITB that has sent its inputs and holds; entries in each state; a record of another signature; a count that compares and one that
substitutes; a new key. -/
theorem witness_fittedRegionsBegin :
    let s := wf1 {} []
    let z : State := { s with mem := setLe s.mem (poolKey 0 0x40) 64 0 }
    let v (e : FitEntry) : Viceroy := { entries := [(2, some e)] }
    let sent : State := { s with core := { s.core with asked := some (BitVec.ofNat 192 fitRec, [7]) } }
    Asks s (ownRead s (rdG s 1) 64) 5 1 { num := 5 } (BitVec.ofNat 192 fitRec) [0] ∧ Asks sent sent 5 1 { num := 5 } (BitVec.ofNat 192 fitRec) [7] ∧
    ReadsRecord z 5 1 { num := 5 } 0 ∧ illFormed 0 = true ∧ Memory.wf s.core.ctx.window = true ∧
    (let u := setCtx s (ctxSetToken s.core.ctx { num := 5 } { issued := 0x7FFF }); ReadsRecord u 5 1 { num := 5 } fitRec ∧
      2 ^ 15 - 1 ≤ ((ctxToken u.core.ctx { num := 5 }).issued - (ctxToken u.core.ctx { num := 5 }).count).toNat) ∧
    findFit (v (fitE .collect)) 1 3 = some (2, fitE .collect) ∧ (fitE .train).record.extractLsb' 0 128 = (BitVec.ofNat 192 fitRec).extractLsb' 0 128 ∧
    (BitVec.ofNat 192 (fitRec + 1)).extractLsb' 0 128 ≠ (BitVec.ofNat 192 fitRec).extractLsb' 0 128 ∧ ({ fitE .active with cnt := 1 }.cnt + 1).toNat % 2 ^ frS (fitE .active).record = 0 ∧
    ((fitE .active).cnt + 1).toNat % 2 ^ frS (fitE .active).record ≠ 0 ∧ resolve s ((fitE .active).fea.setWidth 64) = .ok 0x200 ∧ fetchTrap s 0x200 = none ∧ findFit (myViceroy s) 1 3 = none ∧
    tabGet none (myViceroy s).entries 0 = none ∧ tabGet none (v (fitE .active)).entries 2 ≠ none ∧ (fitE .validate).st = .validate ∧ (fitE .invalid).st = .invalid := by
  unfold Asks ReadsRecord DescriptorAt OwnBytes Unraced
  refine ⟨.inl ⟨fitRec, ⟨?_, ?_, ?_, ?_, ?_, ?_, ?_, ?_⟩, rfl, ?_, ⟨?_, ?_⟩, rfl, ?_, ?_⟩, .inr ⟨?_, ?_, ?_, ?_, rfl⟩, ⟨?_, ?_, ?_, ?_, ?_, ?_, ?_, ?_⟩, ?_, ?_, ⟨⟨?_, ?_, ?_, ?_, ?_, ?_, ?_, ?_⟩, ?_⟩, ?_, ?_, ?_, ?_, ?_, ?_, ?_, ?_,
    ?_, ?_, ?_, ?_⟩ <;> decide +kernel

/-- FittedRegionsEnd: no execution open, another region's number, a substituted one, a true one of each kind; values that pass (0 against 0) and that do not. -/
theorem witness_fittedRegionsEnd :
    let s := wf1 {} []
    let c := s.core.ctx.ctl
    let x (k : OpenAs) : OpenExec := { ctx := s.core.ctx.rcd.chrys, entry := some 2, inputs := [0], outs := [.g 6], as_ := k }
    let v (e : FitEntry) (k : OpenAs) : Viceroy := { entries := [(2, some e)], execs := [x k] }
    let u (k : OpenAs) : State := setCtl (wf1 (v (fitE .validate) k) []) { c with fo := true, fn := 3 }
    c.fo = false ∧ (u .sample).core.ctx.ctl.fo = true ∧ (u .sample).core.ctx.ctl.fn ≠ 4 ∧ (u .sample).core.ctx.ctl.fs = false ∧ (setCtl w { c with fo := true, fs := true }).core.ctx.ctl.fs = true ∧
    ((v (fitE .collect) .sample).execs.find? fun z => z.ctx == s.core.ctx.rcd.chrys) = some (x .sample) ∧ underWait (u .sample) (x .sample).outs none = none ∧
    tabGet none (v (fitE .fallback) .sample).entries 2 = some (fitE .fallback) ∧ (fitE .validate).fev = true ∧ (fitE .validate).fea ≠ codeVa s s.core.ctx.pc ∧
    ({ fitE .validate with fea := codeVa s s.core.ctx.pc } : FitEntry).fea = codeVa s s.core.ctx.pc ∧ (x (.compare .validate 0)).as_ = .compare .validate (fitE .validate).made ∧
    fitPasses 0 0 [0] (fitAnswer (fitE .validate).record (fitE .validate).weights [0]) = true ∧ fitPasses 0 0 [0x3F800000] (fitAnswer (fitE .validate).record (fitE .validate).weights [0]) ≠ true ∧
    frV (fitE .validate).record ≤ (fitE .validate).good + 1 ∧ 0 + 1 < frV (BitVec.ofNat 192 (fitRec + 2 ^ 136)) ∧ frF (fitE .active).record ≤ (fitE .active).fb + 1 ∧
    0 + 1 < frF (BitVec.ofNat 192 (fitRec + 2 ^ 148)) ∧ findFit (v (fitE .active) .nothing) (acting s) 3 = some (2, fitE .active) ∧ (fitE .active).st ≠ .invalid ∧ findFit (myViceroy w) (acting w) 3 = none := by decide +kernel

/-- WeightImagesAndSteps: an image address, one with an entry, one in training; an image that is legal and one that is not; a step, and a substitution with one output of each kind. -/
theorem witness_weightImages :
    let v (e : FitEntry) : Viceroy := { entries := [(2, some e)] }
    let s := wf1 (v (fitE .active)) [(4, 0x1000)]
    imageAddr s (rdG s 4) = true ∧ findFit (myViceroy w) (acting w) 3 = none ∧ findFit (myViceroy s) (acting s) 3 = some (2, fitE .active) ∧ (fitE .train).st = .train ∧
    (∀ n ∈ [128, 136], privWaits s (poolKey s.cur 0x1000) n true none = false ∧ privWaits s (poolKey s.cur 0x1000) n false none = false) ∧ acquirePending s = false ∧ place true (rdG s 4).toNat = .priv 0x1000 ∧
    (fitImage (fitE .active)).length = 136 ∧ (imageAccess (rdG s 4) (fitImage (fitE .active)).length .W (ownBase s (rdG s 4))).isOk = true ∧
    (imageAccess (rdG s 4) 128 .I (ownBase s (rdG s 4))).isOk = true ∧ illFormed fitRec = false ∧ illFormed 0 = true ∧ field (3 : Nat) 0 3 < 5 ∧ 6 ≤ field (6 : Nat) 0 3 ∧ fitCount (frWidths (BitVec.ofNat 192 fitRec)) = 2 ∧
    (imageAccess (rdG s 4) (128 + 4 * 2) .I s).isOk = true ∧ tabGet none (tabGet {} s.quads 0).entries 2 = some (fitE .active) ∧
    (let z : Subst := { ctx := s.core.ctx.rcd.chrys, token := {}, outs := [(.g 6, 5)] }
     ({ substs := [z] } : Viceroy).substs[0]? = some z ∧ z.outs = [(.g 6, 5)] ∧ ({ z with outs := [(.v 6, 5)] } : Subst).outs = [(.v 6, 5)] ∧ s.core.issuing.isSome = true ∧ deadOf z.ctx = none) := by decide +kernel

/-! ### Witnesses: copies -/

/-- A copy of 64 bytes between private aliases, as its registers say. -/
def copy1 (flags : BitVec 23) (src dst : Word) (started : Bool) : Copy :=
  { tid := 0, regs := { src := src, dst := dst, len := 64, shape := 1, flags := flags }, owner := 1, ctx := 0xF0000000041000, record := 0, steward := false, token := some {}, tmap := none, launchedAt := 0, started := started }
def wc (c : Copy) : State := { w with core := { w.core with copies := [c] } }

/-- CopiesLaunch: an acquire pending, an id that is free, KEN set and clear, every id in use; with a map on a channel core. -/
theorem witness_copiesLaunch :
    let s (f : BitVec 23) : State := setCtl w { w.core.ctx.ctl with copy := { flags := f } }
    let m : State := onChannel (setCtl w { w.core.ctx.ctl with copy := { map := 0x1000 } })
    acquirePending (setCtx w { w.core.ctx with acqUntil := 100001 }) = true ∧ acquirePending w = false ∧ (s 0).core.ctx.ctl.copy.flags.getLsbD 9 = false ∧ (s 0).core.copies = [] ∧ (s 0).core.ctx.ctl.copy.flags.getLsbD 1 = false ∧ readMap (s 0) = none ∧
    (readMap m ≠ none ∧ acquirePending m = false ∧ m.core.ctx.ctl.copy.flags.getLsbD 9 = false ∧ m.core.ctx.ctl.copy.flags.getLsbD 1 = false ∧ m.core.copies = []) ∧
    (s 0x3E).core.ctx.ctl.copy.flags.getLsbD 1 = true ∧ TokenRoom (s 0x3E) ((s 0x3E).core.ctx.ctl.copy.flags.extractLsb' 2 4) { num := 15 } ∧
    (∀ x : BitVec 8, ∃ y ∈ (List.range 256).map fun i => { copy1 0 0 0 false with tid := BitVec.ofNat 8 i }, y.tid = x) := by
  refine ⟨?_, ?_, ?_, ?_, ?_, ?_, ?_, ?_, ⟨?_, ?_⟩, fun x => ⟨_, List.mem_map.2 ⟨x.toNat, List.mem_range.2 x.isLt, rfl⟩, by simp⟩⟩ <;> decide +kernel

/-- CopyBeats: the last 64 bytes of the scratchpad as source and destination, a source past it; a fenced copy; a status at the start; a QA copy to a ring with a slot, without one, RETIRED and unconfigured; a slot that the blocks of the source fit and one that they do not. -/
theorem witness_copyBeats :
    let c := copy1 0 491456 0x100 true
    let s := wc c
    (s.core.copies.find? fun x => !x.ended) = some c ∧ c.status = none ∧ (c.tmap = none ∧ c.regs.flags.extractLsb' 6 5 = 0 ∧ c.regs.len ≠ 0 ∧ c.beats < max 1 c.regs.shape.toNat * ((c.regs.len.toNat + 63) / 64) ∧ c.slot = none) ∧
    (∀ i, i < 64 → place (isCompute s.cur) (c.regs.src + BitVec.ofNat 64 i).toNat = .priv (c.regs.src.toNat + i)) ∧ (s.core.issuing.isSome = true ∧ s.core.ctx.rcd.chrys = c.ctx) ∧ s.races = [] ∧ s.core.freed = [] ∧
    491456 + 64 ≤ scratchSize s.cur s.core ∧ scratchSize s.cur s.core ≤ (491520 : Word).toNat ∧
    (let b := copy1 0 0x100000 0x100 false
     fenced { wc b with core := { (wc b).core with fences := [{ set := 3, mark := 0 }], galley := { entries := [{ pzero with eng := 0 }] } } } 0 0 0 = false ∧
     fenced { wc b with core := { (wc b).core with fences := [{ set := 3, mark := 1 }], galley := { entries := [{ pzero with eng := 0 }] } } } 0 0 1 = true ∧
     startStatus (wc b) 0 b = some 1 ∧ b.tiles = [] ∧ b.regs.flags.getLsbD 8 = false) ∧
    (let q := copy1 (0xF400 : BitVec 23) 0 0x00F0000000080000 true
     q.regs.flags.getLsbD 9 = false ∧ q.regs.flags.getLsbD 10 = true ∧ (q.regs.flags.extractLsb' 12 4).toNat = 15 ∧ copyHome 0 q = some 1) ∧
    ((ring 0 0 []).free = 0 ∧ (ring 4 0 (List.replicate 4 {})).free ≠ 0 ∧ (ring 4 0 (List.replicate 4 {})).res < 4 ∧ (ring 4 0 []).cfg = true ∧ slotsIn (ring 4 0 (List.replicate 4 {})) .reserved < 8 ∧
      8 ≤ slotsIn (ring 1 0 (List.replicate 8 (held .reserved))) .reserved ∧ (ring 4 0 []).retired = false ∧ ({ ring 4 0 [] with retired := true } : Quire).retired = true ∧ ({} : Quire).cfg = false) ∧
    (let q (src : Word) := copy1 (0xF400 : BitVec 23) src 0x00F0000000080000 true
     let p (src : Word) : State := { wc (q src) with others := [(1, { core1 with quires := core1.quires.set 15 (ring 4 0 (List.replicate 4 {})), tags := [(0, 1, 1)] })] }
     let at_ (src : Word) : Bool := badPlace (p src) 0 (q src) (slotBase (p src) (q src) 1 15 0)
     at_ 0x00F0000000080000 = true ∧ at_ 0x00F0000000080040 = false ∧ quireOf (p 0) 1 15 = ring 4 0 (List.replicate 4 {}) ∧ (ring 4 0 (List.replicate 4 {})).res = 0) := by decide +kernel

/-- CopyCompletions: a copy whose bytes are performed, one whose are not, one refused; with and without a message; a tile that is done, one that has sent and one whose every core has refused. -/
theorem witness_copyCompletions :
    let c := { copy1 1 0 0x100 true with beats := 1, bytes := 64 }
    let t : CopyTile := { tile := 5 }
    (((wc c).core.copies.find? fun x => !x.ended) = some c ∧ copyBeats c ≤ c.beats ∧ c.tiles = [] ∧ c.slot = none ∧ c.token = some {} ∧ c.regs.flags.getLsbD 0 = true ∧ (wc c).net = []) ∧
    (¬(copyBeats (copy1 0 0 0x100 true) ≤ 0) ∧ (copy1 0 0 0x100 true).status.isSome = false ∧ (copy1 0 0 0x100 true).regs.flags.getLsbD 0 = false) ∧ ({ c with status := some 3 } : Copy).status.isSome = true ∧
    ([t].find? fun y => y.tile == t.tile && !y.sent) = some t ∧ t.sent = false ∧ ({ t with status := 3 } : CopyTile).status ≠ 0 ∧
    (tileCores 0x03000005 5 = [40, 41] ∧ ∀ w ∈ tileCores 0x03000005 5, w ∈ ({ t with refused := [40, 41] } : CopyTile).refused) := by decide +kernel

/-- CopiesLaunch and CopyBeats: a map's two granules with nothing open; a copy at its start whose formats are read, by a compute core. -/
theorem witness_copyReads :
    let m : State := onChannel (setCtl w { w.core.ctx.ctl with copy := { map := 0x1000 } })
    let c := copy1 0 0x100000 0x100 false
    (∀ g ∈ [0, 32], Unraced m (engineAccess (engineAgent 0 m.cur m.core.engSeq) m.cur (poolKey m.cur m.core.ctx.ctl.copy.map.toNat + g) false)) ∧
    startStatus (readFormats (wc c).cur c (wc c)) (wc c).cur c = some 1 ∧ onCompute (wc c) = true ∧ fenced (wc c) (wc c).cur 0 c.eng = false := by
  unfold Unraced; decide +kernel


/-! ### Witnesses: slots, bind records and partitions -/

/-- `w` with slot 1 of core 0 as given, partition 0 of quad 0, its event ring of 64 entries and nothing issuing. -/
def wsl (a b : Slot) : State :=
  setPart { w with core := { w.core with issuing := none, slots := (w.core.slots.set 0 a).set 1 b } } 0 { map := 1, evtLog := 6 }

/-- A record of core 1's pool in state `st`, with the chrysalis 0xF0000000081000. -/
def recW (st : Nat) : Nat := st * 2 ^ 56 + 0xF0000000081000 * 2 ^ 64

/-- SlotsLoadAndLeave: a switch point; a BOUND slot with a record NEW, READY, STOPPED by itself; an EVICTING one with and without a successor; a ring with room and one without; a PC that RESOLVE maps and one that it does not, of a user and of a steward. -/
theorem witness_slotsLoadAndLeave :
    let s (st : Nat) : State := let s := wsl {} { sst := .bound, cont := 0xF0000000080000, part := some 0 }; { s with mem := setLe s.mem (poolKey 1 0) 64 (recW st) }
    let e (a : Option Incoming) : State := wsl {} { sst := .evicting, cont := 0xF0000000080000, part := some 0, after := a }
    let y : Incoming := { cont := 0xF0000000080000, pin := false, prio := 0, tag := 0, part := 0 }
    let r (st : Nat) : Machine.Rec := recOf (devGet (s st) 0xF0000000080000 64)
    let f (n : Nat) : State := { s 0 with mem := setLe (setLe (s 0).mem (poolKey 1 0) 64 (recW 1 + 0x7000)) (poolKey 1 0x15E4) 4 n }
    let mode (t : State) : Bool := match devKey t (recOf (devGet t 0xF0000000080000 64)).chrys.toNat with | some key => field (getLe t.mem (key + 0x5E4) 4) 7 1 == 1 | none => false
    let mapped (t : State) : Except Cause (BitVec 16) := resolve { t with core := { t.core with ctx := { ctl := { steward := mode t } } } } ((recPc (devGet t 0xF0000000080000 64)).setWidth 64)
    (atSwitch (s 0).gtc (s 0).core = true ∧ (s 0).core.issuing = none ∧ (s 0).core.slots[1].part = some 0 ∧ (s 0).core.slots[1].sst = .bound) ∧
    (atSwitch (e none).gtc (e none).core = true ∧ (e none).core.slots[1].sst = .evicting ∧ (e none).core.slots[1].after = none ∧ (e (some y)).core.slots[1].after = some y) ∧
    (r 0).state = .new ∧ (r 0).job = 0#56 ∧ (r 1).state = .ready ∧ devKey (s 1) (r 1).chrys.toNat = some (poolKey 1 0x1000) ∧ (r 4).state = .stopped ∧ (r 4).fstop = false ∧ haltedCore (s 0).core = false ∧
    (mapped (s 0) = .ok 0 ∧ mapped (s 1) = .ok 0 ∧ mapped (f 0) = .error (7, 0x7000) ∧ mode (f 0) = false ∧ mapped (f 0x80) = .error (7, 0x7000) ∧ mode (f 0x80) = true ∧
      (recOf (devGet (f 0) 0xF0000000080000 64)).fstop = false) ∧ (recOf (recW 4 + 2 ^ 188)).pre ≠ .new ∧ (recOf (recW 4)).pre = .new ∧ (r 4).job = 0#56 ∧ (recOf (recW 0 + 2 ^ 448)).stride ≠ 0#12 ∧
    ringFull (getPart (s 0) 0) = false ∧ ringFull (getPart w 0) = true ∧ Memory.wf (s 0).mem = true := by decide +kernel

/-- SlotsLoadAndLeave: a BOUND slot whose continuation is found CANCELLED; an EVICTING one whose record and image lie in pools, with room for its event; a first run of a STOPPED record. -/
theorem witness_slotsEnd :
    let s : State := let s := wsl {} { sst := .bound, cont := 0xF0000000080000, part := some 0 }; { s with mem := setLe s.mem (poolKey 1 0) 64 (recW 7) }
    let e : State := wsl {} { sst := .evicting, cont := 0xF0000000080000, part := some 0, ctx := { ctx1 with ctl := { ctx1.ctl with record := 0xF0000000080000 } } }
    (isFinal (recOf (devGet s 0xF0000000080000 64)).state = true ∧ s.core.slots[1].after = none ∧ s.core.slots[1].sst = .bound ∧ atSwitch s.gtc s.core = true) ∧
    (e.core.slots[1].sst = .evicting ∧ e.core.slots[1].ctx.pend = [] ∧ ringFull (getPart e 0) = false ∧ Memory.wf e.mem = true ∧ devKey e e.core.slots[1].ctx.rcd.chrys.toNat = some (poolKey 0 0x41000) ∧
      devKey e e.core.slots[1].ctx.ctl.record.toNat = some (poolKey 1 0)) ∧
    ((recOf (recW 4)).state = .stopped ∧ (recOf (recW 4)).pre = .new) := by decide +kernel

/-- ImageRoundTrip: empty memory and a context with registers and energy at its bound. -/
theorem witness_imageRoundTrip :
    let c := { ctx1 with ctl := { ctx1.ctl with energy := 2 ^ 60 - 1 } }
    Memory.wf [] = true ∧ c.regs.g[0] = 0#64 ∧ c.regs.mtag[0] = 0#2 ∧ c.ctl.energy < 2 ^ 60 := by decide +kernel

/-- SlotSelection: two READY slots of unequal and of equal priority; none; a slice that has ended and one that has not; no slice. -/
theorem witness_slotSelection :
    let a (p : BitVec 2) (t : Nat) : Slot := { sst := .loaded, prio := p, turn := t, part := some 0, ctx := { ctx1 with rcd := { ctx1.rcd with state := .ready }, codePc := codeVa w 0x100 } }
    let s := wsl (a 1 0) (a 2 0)
    let t := wsl (a 1 0) (a 1 1)
    let run (sl : Slot) (x : BitVec 24) : State := let q := setPart (wsl (a 1 0) sl) 0 { map := 1, evtLog := 6, slice := x }; { q with core := { q.core with issuing := some 0 } }
    (atSwitch s.gtc s.core = true ∧ haltedCore s.core = false ∧ selectable s.core 1 = true ∧ selectable s.core 0 = true ∧ (1 : BitVec 2).toNat < (2 : BitVec 2).toNat) ∧
    resolve { s with core := { s.core with ctx := s.core.slots[1].ctx } } (s.core.slots[1].ctx.codePc.setWidth 64) = .ok 0x100 ∧
    (t.core.slots[0].prio = t.core.slots[1].prio ∧ t.core.slots[0].turn < t.core.slots[1].turn) ∧ (∀ k : Fin 8, selectable (wsl {} {}).core k = false) ∧
    RunsIn (run (a 2 0) 65536) 0 ∧ (run (a 2 0) 65536).core.ctx.idle = none ∧ atSwitch (run (a 2 0) 65536).gtc (run (a 2 0) 65536).core = true ∧ selectable (run (a 2 0) 65536).core 1 = true ∧
    (sliceOf (run (a 1 1) 65536) 0 ≠ 0 ∧ (run (a 1 1) 65536).core.selectedAt + sliceOf (run (a 1 1) 65536) 0 ≤ 100000) ∧ 100000 < (run (a 1 1) 100001).core.selectedAt + sliceOf (run (a 1 1) 100001) 0 ∧
    sliceOf (run (a 1 1) 0) 0 = 0 ∧ (run (a 1 1) 100000).core.selectedAt + sliceOf (run (a 1 1) 100000) 0 ≤ 100000 := by
  refine ⟨?_, ?_, ?_, ?_, ⟨?_, ?_, ?_, ?_⟩, ?_, ?_, ?_, ?_, ?_, ?_, ?_⟩ <;> decide +kernel

/-- SlotSelection: the slot that a stop found issuing, READY again, beside one of equal priority whose turn comes first; and another that a stop found issuing. -/
theorem witness_slotResumes :
    let a (t : Nat) : Slot := { sst := .loaded, prio := 1, turn := t, part := some 0, ctx := { ctx1 with rcd := { ctx1.rcd with state := .ready }, codePc := codeVa w 0x100 } }
    let s (r : BitVec 3) : State := let s := wsl (a 0) (a 1); { s with core := { s.core with resume := some r, ranFor := 7 } }
    atSwitch (s 1).gtc (s 1).core = true ∧ (s 1).core.issuing = none ∧ (∀ k : Fin 8, selectable (s 1).core k = true → k = 0 ∨ k = 1) ∧ selectable (s 1).core 1 = true ∧ selectable (s 1).core 0 = true ∧
    (s 1).core.slots[0].prio = (s 1).core.slots[1].prio ∧ (s 1).core.resume = some (BitVec.ofNat 3 (1 : Fin 8)) ∧ (s 0).core.resume = some (BitVec.ofNat 3 (0 : Fin 8)) ∧ (s 2).core.resume ≠ some (BitVec.ofNat 3 (1 : Fin 8)) ∧
    (s 2).core.slots[0].turn < (s 2).core.slots[1].turn := by decide +kernel

/-- A bind record of partition 0 for slot 1 of core 0 and the record at 0xF0000000080000; bits 42 to 46 of it in `flags`. -/
def bindX (flags : Nat) : Nat := 7 + flags * 2 ^ 42 + 2 ^ 49 + 0xF0000000080000 / 64 * 2 ^ 72

/-- The head of partition 0's ring with slot 1 as given and a record in state `st`; region 2 is the device's own. -/
def wbind (flags st : Nat) (sl : Slot) (m : BitVec 32 := 1) : State :=
  let s := setPart (wsl {} sl) 0 { map := m, bindTail := 1, evtLog := 6 }
  { s with mem := setLe (setLe (setLe s.mem 0x1000001080000 16 (bindX flags)) (poolKey 1 0) 64 (recW st)) 0x30020 16 (0xF0000000080 + 0x80 * 2 ^ 44 + 2 ^ 96 + 2 ^ 126) }

/-- The same for a channel core's ring and channel core 0. -/
def wcbind : State :=
  let s := setPart (wsl {} {}) 0 { map := 1, cbindTail := 1, evtLog := 6 }
  { s with mem := setLe s.mem 0x1000001900000 16 (bindX 2), cur := 4096 }

/-- BindRecords: a START, an EVICT, an EVICT with START and a MODIFY, each with what its error asks and with what its success asks; rings of cores and of channel cores. -/
theorem witness_bindRecords :
    let c : BitVec 56 := 0xF0000000080000
    let held : Slot := { sst := .loaded, cont := c, part := some 0, ctx := { ctx1 with rcd := { ctx1.rcd with state := .stopped, fstop := true, chrys := 0xF0000000082000 } } }
    let cramped (f : Nat) (sl : Slot) : State := let s := wbind f 0 sl; { s with core := { s.core with rf := 1, slots := s.core.slots.set 2 { sst := .loaded, cont := 0x40, pin := true } } }
    (∀ f, f ∈ [2, 4, 6, 0, 1, 10] → Record (wbind f 0 {}) 0 false (bindX f) 1) ∧ Record wcbind 0 true (bindX 2) 1 ∧ contOfRecord (bindX 2) = c ∧ c = held.cont ∧
    (field (bindX 2) 43 1 = 1 ∧ field (bindX 2) 44 1 = 0 ∧ field (bindX 4) 44 1 = 1 ∧ field (bindX 4) 43 1 = 0 ∧ field (bindX 1) 42 1 = 1 ∧ field (bindX 10) 45 1 = 1 ∧ field (bindX 2) 46 1 = 0) ∧
    (partOf (wbind 2 0 {} 2) 0 ≠ some 0 ∧ (wbind 2 0 {}).core.released = true ∧ partOf (wbind 2 0 {}) 0 = some 0 ∧ isFabric 0 = false) ∧
    ((wbind 2 0 held).core.slots[1].sst ≠ .empty ∧ (boundAt (let s := wbind 2 0 {}; { s with core := { s.core with slots := s.core.slots.set 2 held } }) c).isSome = true ∧
      boundAt (wbind 2 0 {}) c = none ∧ badRecord (wbind 2 0 {}) false 0 c = false ∧ badRecord (wbind 2 6 {}) false 0 c = true ∧
      noRoom 0 (cramped 10 {}).core 1 = true ∧ noRoom 0 (wbind 10 0 {}).core 1 = false) ∧
    ((wbind 4 0 held).core.slots[1].cont = c ∧ (wbind 4 0 { held with cont := 0x40 }).core.slots[1].cont ≠ c ∧ (wbind 4 0 { sst := .bound, cont := c, part := some 0 }).core.slots[1].part = some 0) ∧
    (boundAt (wbind 6 0 { held with cont := 0x40 }) c = none ∧ badRecord (wbind 6 0 { held with cont := 0x40 }) false 0 c = false ∧ badRecord (wbind 6 6 { held with cont := 0x40 }) false 0 c = true ∧
      (boundAt (wbind 6 0 held) c).isSome = true) ∧
    (held.ctx.rcd.fstop = true ∧ (wbind 1 0 { held with ctx := ctx1 }).core.slots[1].ctx.rcd.fstop = false ∧ (wbind 1 0 held).core.issuing = none ∧
      (∀ j : Fin 8, j ≠ 1 → (wbind 1 0 held).core.slots[j].ctx.rcd.chrys ≠ held.ctx.rcd.chrys)) := by
  refine ⟨?_, ?_, ?_, ?_, ?_, ?_, ?_, ?_, ?_, ?_⟩ <;> (try unfold Record) <;> decide +kernel

/-- BindRecords: a START that waits for its virtual device and one that does not; PRIOV = 1 with a record in a pool; a MODIFY of a BOUND slot and of the slot that issues. -/
theorem witness_bindWaits :
    let c : BitVec 56 := 0xF0000000080000
    let of (r : Bool) : State := let s := wbind 2 0 {}; { s with hub := { s.hub with vdevs := [(0, { live := true, resident := r })], conts := [{ cont1 with record := c, chrys := 0xF0000000081000 }] } }
    let issuing : State := let s := wbind 0 0 { sst := .loaded, cont := c, part := some 0 }; { s with core := { s.core with issuing := some 1 } }
    startWaits (of false) false (bindX 2) = true ∧ startWaits (of true) false (bindX 2) = false ∧ startWaits (wbind 4 0 {}) false (bindX 4) = false ∧ startWaits (wbind 6 0 {}) false (bindX 6) = false ∧
    (field (bindX (2 + 16 + 2 * 32)) 46 1 = 1 ∧ field (bindX (2 + 16 + 2 * 32)) 47 2 = 2 ∧ place true c.toNat = .pool 1 0 ∧ Memory.wf (wbind 2 0 {}).mem = true) ∧
    Record (of true) 0 false (bindX 2) 1 ∧ Record issuing 0 false (bindX 0) 1 ∧
    (let b := wbind 0 0 { sst := .bound, cont := c, part := some 0 }; b.core.slots[1].sst = .bound ∧ b.core.slots[1].cont = c ∧ field (bindX 0) 42 1 = 0 ∧ field (bindX 0) 45 1 = 0) ∧
    (issuing.core.issuing = some (BitVec.ofNat 3 (1 : Fin 8)) ∧ issuing.core.slots[1].sst = .loaded ∧ issuing.core.slots[1].cont = c) := by
  unfold Record; decide +kernel

/-- PartitionWrites: a map that another partition's holds, one that is free, an occupied quad; a word that may be applied, one out of range, a core with a slot in use and one with a copy under way. -/
theorem witness_partitionWrites :
    let s : State := setPart w 1 { map := 2 }
    let e (v : BitVec 13) : State := { w with core := { w.core with issuing := none, slots := Vector.replicate 8 {}, pw := { pend := true, value := v } } }
    (∃ q : BitVec 3, q ≠ 0 ∧ (getPart s q).map &&& 2#32 ≠ 0#32) ∧ (¬∃ q : BitVec 3, q ≠ 0 ∧ (getPart s q).map &&& 4#32 ≠ 0#32) ∧ residentPart s 0 = false ∧
    quadsOccupied s (4#32 &&& ~~~(getPart s 0).map) = false ∧ residentPart (setPart w 0 { map := 1 }) 0 = true ∧ quadsOccupied w (1#32 &&& ~~~(getPart w 0).map) = true ∧
    ((e 0x200).core.pw.pend = true ∧ atSwitch (e 0x200).gtc (e 0x200).core = true ∧ ∀ i : Fin 8, (e 0x200).core.slots[i].sst = .empty) ∧ w.core.pw.pend = false ∧
    ((0x1000 : BitVec 13).extractLsb' 8 5).toNat = 16 ∧ ¬(((0x1100 : BitVec 13).extractLsb' 8 5).toNat ≤ 16) ∧ 16 + 0 + 1 ≤ poolUnits 0 ∧ partWaits (e 0x200) 0 = false ∧
    partWaits (let x := e 0x200; { x with core := { x.core with galley := { entries := [pzero] } } }) 0 = true ∧ Memory.wf w.mem = true := by decide +kernel

/-! ### Witnesses: dealing, dependences and stops -/

/-- `w` with a live, resident virtual device 0 of partition 0 and owner 1, its queue 0 with the completion words of the pages at 0x100000, and `cards`. -/
def wcard (cards : List Card) (q : QueueState := .open_) : State :=
  let s := setPart w 0 { map := 1, evtLog := 6, spnLog := 6, spnTail := 1 }
  { s with hub := { s.hub with vdevs := [(0, { live := true, owner := 1, resident := true })], cards := cards
                               queues := [(0, { st := q, owner := 1, cwBase := 0x100000, cwCap := 16, capLog := 4, cardBase := 0x100000, ivl := 1, wdRuns := true })] } }

/-- A card of COUNT `n`, MIN 0, affinity none, owner 1, its words 2; `deps` dependences on word 1. -/
def card (n deps : Nat) (st : CardStatus) : Card :=
  { vdev := 0, queue := 0, launch := 0, addr := 0x100040, st := st
    bits := BitVec.ofNat 512 (deps * 2 ^ 61 + 0xFF * 2 ^ 120 + n * 2 ^ 128 + 2 ^ 156 + 2 * 2 ^ 192 + 2 ^ 256) }

/-- DealtChunks: a running card with records left and a spawn entry; an empty spawn ring; a card that has been dealt; a record and a chrysalis of the pool apart. -/
theorem witness_dealtChunks :
    let c := card 600 0 .running
    let s := wcard [c]
    let full : State := { s with mem := setLe s.mem 0 16 (0xF0000000080000 + 0xF0000000081000 * 2 ^ 64) }
    (s.hub.cards[0]? = some c ∧ c.st = .running ∧ c.dealt < field c.bits.toNat 128 28 ∧ (tabGet ({} : Queue) s.hub.queues 0).st = .open_ ∧ (tabGet {} s.hub.vdevs c.vdev).resident = true ∧
      freshOf s 0 < partCores s 0 (c.bits.getLsbD 0) ∧ ringFull (getPart s 0) = false) ∧
    spawnEntry full 0 = some (0xF0000000080000, 0xF0000000081000) ∧ spawnEntry (setPart s 0 { map := 1, evtLog := 6, spnLog := 6 }) 0 = none ∧ ¬({ c with dealt := 600 } : Card).dealt < field c.bits.toNat 128 28 ∧
    place true 0xF0000000080000 = .pool 1 0 ∧ place true 0xF0000000081000 = .pool 1 0x1000 ∧ poolKey 1 0 + 64 ≤ poolKey 1 0x1000 ∧ field c.bits.toNat 120 8 = 0xFF ∧ Memory.wf full.mem = true := by decide +kernel

/-- Dependences: the target's word read as PENDING, DONE and CANCELLED; cards with a met, an unmet and a failed dependence, and with COUNT 0. -/
theorem witness_dependences :
    let s (st : Nat) (n : Nat) : State := let x := wcard [card n 1 .pending]; { x with mem := setLe x.mem 0x100008 8 (st * 2 ^ 60) }
    let d : BitVec 64 := ((card 5 1 .pending).bits.extractLsb' 256 64)
    let judged (st : Nat) : Option Bool := depJudge ((s st 5).hub.cards.foldl touchDeps (s st 5)) 0 d
    (s 3 5).hub.cards[0]? = some (card 5 1 .pending) ∧ (card 5 1 .pending).st = .pending ∧ cwRead (s 3 5) 0 (d.extractLsb' 0 32) = some (3 * 2 ^ 60) ∧ judged 3 = some true ∧ judged 4 = some false ∧ judged 1 = none ∧
    field (card 0 1 .pending).bits.toNat 128 28 = 0 ∧ field (card 5 1 .pending).bits.toNat 128 28 ≠ 0 ∧ (card 5 1 .pending).depBad = 0#4 ∧ min 4 (field (card 5 1 .pending).bits.toNat 61 3) = 1 := by decide +kernel

/-- SynchronisedStops: a partition at its lead of 4,096 cycles, one a cycle late; ARMED, HALTED with requests unswept, swept; a slot that is STOPPED. -/
theorem witness_synchronisedStops :
    let s (x : Part) : State := setPart w 0 { x with map := 1 }
    tabWf {} w.others = true ∧ ((s { stopGtc := 104096 }).hub.parts[0].stopGtc - BitVec.ofNat 64 100000).toInt = 4096 ∧ ((s { stopGtc := 104095 }).hub.parts[0].stopGtc - BitVec.ofNat 64 100000).toInt < 4096 ∧
    (getPart (s { armed := true }) 0).halted = false ∧ (getPart (s { halted := true }) 0).swept = false ∧ engineBusy (s { halted := true }) 0 = false ∧
    engineBusy (let x := s { halted := true }; { x with core := { x.core with issuing := none, galley := { entries := [pzero] }, slots := x.core.slots.set 0 { sst := .loaded, ctx := { ctx1 with rcd := { ctx1.rcd with state := .stopped } } } } }) 0 = true ∧ (getPart (s { halted := true, swept := true }) 0).swept = true ∧
    0 ∈ partUnits (s {}) 0 ∧ (∃ v ∈ partUnits (s {}) 0, v ≠ 0 ∧ (getCore (s {}) v).haltStop = false) ∧ (∀ v ∈ partUnits w 0, v ≠ w.cur → (getCore w v).haltStop = true) ∧ stopDue (s {}) 0 = false ∧
    RunsIn (s {}) 0 ∧ (∀ k : Fin 8, k ≠ 0 → (s {}).core.slots[k].sst = .empty) ∧ partOf (s {}) 0 = some 0 ∧ (getPart (s {}) 0).tear = none ∧ (s {}).core.ctx.pend = [] ∧ (s {}).core.haltGroup = false ∧ (s {}).core.ctx.idle = none ∧
    (∀ r : Bool, let v : State := let x := s { swept := true, halted := true }; { x with hub := { x.hub with vdevs := [(0, { live := true, resident := true, ran := r })] } }
      (getPart v 0).swept = true ∧ v.hub.vdevs = [(0, { live := true, resident := true, ran := r })] ∧ 0 ∈ partUnits v 0) := by
  refine ⟨?_, ?_, ?_, ?_, ?_, ?_, ?_, ?_, ?_, ⟨1, ?_⟩, ?_, ?_, ⟨?_, ?_, ?_, ?_⟩, ?_, ?_, ?_, ?_, ?_, ?_, ?_⟩ <;> decide +kernel

/-- SynchronisedStops: a partition halted with TEAR of queue 1, whose one continuation issues or is of another queue. -/
def wtear (q : BitVec 8) : State :=
  let s := setPart w 0 { map := 1, tear := some 1 }
  { s with core := { s.core with stopAt := 1 }, hub := { s.hub with conts := [{ cont1 with queue := q }], vdevs := [(0, { live := true, resident := true })] } }

/-- SynchronisedStops: a STOP_AT of 1 is due at once, whatever the core's local GTC shows. -/
theorem witness_stopDue : stopDue (wtear 1) 0 = true := by
  have h : (1 : Word).toNat ≤ localGtc (wtear 1) 0 := by
    have : (wtear 1).gtc = 100000 := rfl
    simp only [localGtc, this]; simp; omega
  have e : getCore (wtear 1) 0 = { w.core with stopAt := 1 } := rfl
  have a : awaitsAnswer (wtear 1) 0 = false := by decide +kernel
  simp only [stopDue, e, a]
  simp only [decide_eq_true h]
  rfl

/-- SynchronisedStops: what a tear asks. -/
theorem witness_tear :
    let k : Cont := { cont1 with queue := 1 }
    let s := wtear 1
    RunsIn s 0 ∧ (∀ n : Fin 8, n ≠ 0 → s.core.slots[n].sst = .empty) ∧ partOf s s.cur = some 0 ∧ s.core.slots[(0 : Fin 8)].part = some 0 ∧ s.core.slots[(0 : Fin 8)].after = none ∧ (getPart s 0).tear = some k.queue ∧
    s.hub.conts = [k] ∧ k.chrys = s.core.ctx.rcd.chrys ∧ (tabGet {} s.hub.vdevs k.vdev).part = 0 ∧ (tabGet {} s.hub.vdevs k.vdev).resident = true ∧ s.core.ctx.pend = [] ∧ Memory.wf s.mem = true ∧
    ((getPart (wtear 0) 0).tear = some 1 ∧ ∀ k ∈ (wtear 0).hub.conts, k.queue ≠ 1) := by
  refine ⟨⟨?_, ?_, ?_, ?_⟩, ?_, ?_, ?_, ?_, ?_, ?_, ?_, ?_, ?_, ?_, ?_, ?_⟩ <;> decide +kernel

/-- HaltGroupsAndWatchdogs: a group of this core alone, running and stopped; an AMO under way; a chain of two; a queue whose interval has passed and one without an interval. -/
theorem witness_haltGroupsAndWatchdogs :
    let s : State := { w with hub := { w.hub with hgOf := [(0, some 1)], groups64 := [(2, { xv := true, xg := 3 })] } }
    let stopped : State := let x := { s with core := { s.core with issuing := none } }; { x with core := { x.core with slots := x.core.slots.set 0 { sst := .loaded, ctx := { ctx1 with rcd := { ctx1.rcd with state := .stopped, pre := .running } } } } }
    let q : State := let x := wcard [card 5 0 .running]; { x with hub := { x.hub with conts := [{ record := 0xF0000000040000, chrys := 0xF0000000041000, vdev := 0, queue := 0, launch := 0, card := some 0, owner := 1 }] } }
    tabWf {} s.hub.groups64 = true ∧ (haltGroupOf s 1).xv = false ∧ groupMembers s 1 = [s.cur] ∧ RunsIn s 0 ∧ (∀ k : Fin 8, k ≠ 0 → s.core.slots[k].sst = .empty) ∧ s.core.ctx.pend = [] ∧ s.core.ctx.idle = none ∧ s.core.amo = none ∧
    s.core.accepted = false ∧ (haltGroupOf w 2).xv = false ∧ (haltGroupOf s 2).xv = true ∧ (haltGroupOf s ((haltGroupOf s 2).xg.toNat % 64)).halted = false ∧ (haltGroupOf s 2).xg.toNat % 64 ≠ 2 ∧
    (haltGroupOf s ((haltGroupOf s 2).xg.toNat % 64)).xv = false ∧ (∀ e ∈ ([] : Tab (Option (BitVec 6))), e.2 = none) ∧
    (stopped.core.haltStop = false ∧ stopped.core.issuing = none ∧ stopped.core.slots[0].sst = .loaded ∧ stopped.core.slots[0].ctx.rcd.state = .stopped ∧ stopped.core.slots[0].ctx.rcd.fstop = false ∧ groupMembers stopped 1 = [stopped.cur]) ∧
    watchdogDue q 0 0 = true ∧ (tabGet {} q.hub.queues 0).st = .open_ ∧ watchdogDue w 0 0 = false := by
  refine ⟨?_, ?_, ?_, ⟨?_, ?_, ?_, ?_⟩, ?_, ?_, ?_, ?_, ?_, ?_, ?_, ?_, ?_, ?_, ?_, ?_, ?_, ?_, ?_⟩ <;> decide +kernel

/-- HaltGroupsAndWatchdogs: the group's one member waits for an AMO's answer. -/
theorem witness_haltWhileAmo : ({ w with core := { w.core with amo := some { op := 0, wide := true, ea := 0, y := 0, cmp := 0, dest := 1, owner := 1, sco := 0, stamp := none } } } : State).core.amo ≠ none := by decide


/-! ### Witnesses: hosts -/

/-- `wcard` with an endpoint of virtual device 0 and the operator's, one session in each, and the interface lock as given. -/
def wh (cards : List Card) (q : QueueState := .open_) (lock : Option (BitVec 32 × Nat) := some (1, 100001)) (n : Nat := 1) : State :=
  let s := wcard cards q
  let e : Endpoint := { live := true, sessions := (List.range n).map fun i => { id := BitVec.ofNat 32 (i + 1), key := [], last := 0 }, lock := lock }
  { s with hub := { s.hub with eps := [(0, e), (1, e)] } }

/-- A command of session 1 on queue 0. -/
def cmd (op : BitVec 8) (arg0 : Word := 0) (payload : List Byte := []) : HostCmd :=
  { session := 1, seqNo := 7, arg1 := 0, arg0 := arg0, queue := 0, op := op, ver := 1, payload := payload }

/-- A command of those passes at an endpoint of `wh`. -/
theorem witness_passes (ep : Nat) (h : ep = 0 ∨ ep = 1) (c : List Card) (q : QueueState) (op : BitVec 8) (a : Word) (p : List Byte) (n : p.length ≤ 4064) (o : Accepted ep op) : Passes (wh c q) ep (cmd op a p) op true := by
  rcases h with rfl | rfl <;> exact ⟨⟨rfl, n⟩, rfl, rfl, ⟨_, List.mem_singleton.2 rfl, rfl⟩, o, fun _ => ⟨100001, rfl, (by decide : 100000 < 100001)⟩⟩

/-- HostRefusals: an endpoint that is not there; a wrong version; a session that is not known; a command its endpoint does not accept; a lock that has expired; a queue absent and one in the wrong state; payloads that a Send carries and one byte more. -/
theorem witness_hostRefusals :
    HostCommand 1 (cmd 9) (.hostReset 1 (cmd 9), 9#8, true, [.open_, .draining]) ∧ (endp w 1).live = false ∧ (endp (wh []) 1).live = true ∧ ({ cmd 9 with ver := 2 } : HostCmd).ver ≠ 1#8 ∧
    (∀ y ∈ (endp (wh []) 1).sessions, y.id ≠ 2) ∧ ¬Accepted 1 14#8 ∧ ¬Accepted 0 5#8 ∧ Accepted 1 9#8 ∧ ¬(100000 : Nat) < 100000 ∧ (cmdQueue (wh [] .none) 1 (cmd 9)).st = .none ∧
    (cmdQueue (wh [] .closed) 1 (cmd 9)).st ≠ .none ∧ (cmdQueue (wh [] .closed) 1 (cmd 9)).st ∉ [QueueState.open_, .draining] ∧ (15 < (cmd 16).op.toNat) ∧ (1 ≤ (cmd 1).op.toNat ∧ (cmd 15).op.toNat ≤ 15) ∧
    ((cmd 9).payload.length ≤ 4064 ∧ ¬(List.replicate 4065 (0 : Byte)).length ≤ 4064 ∧ (List.replicate 4064 (0 : Byte)).length < 2 ^ 16 ∧ (List.replicate 31 (0 : Byte)).length < 32 ∧
      4096 < (List.replicate 4097 (0 : Byte)).length) := by
  refine ⟨by simp [HostCommand], ?_, ?_, ?_, ?_, ?_, ?_, ?_, ?_, ?_, ?_, ?_, ?_, ?_, ?_⟩ <;> (try unfold Accepted) <;> decide +kernel

/-- Sessions: a payload of the right length that the free check of R435 accepts, with 63 and with 64 sessions open; one of another length; leases in range, at 60,000 and past it; a lock of another session, held and expired. -/
theorem witness_sessions :
    (∀ p : List Byte, p.length = 2880 → Config.falconVerify [] (p.take 1600) (p.drop 1600) = true →
      Arrives (wh [] .open_ none 63) 1 (cmd 1 0 p) ∧ (cmd 1 0 p).op = 1#8 ∧ (cmd 1 0 p).payload.length = 2880 ∧ Config.falconVerify (tabGet ({} : Vdev) (wh [] .open_ none 63).hub.vdevs 0).key ((cmd 1 0 p).payload.take 1600) ((cmd 1 0 p).payload.drop 1600) = true) ∧
    (endp (wh [] .open_ none 63) 1).sessions.length < 64 ∧ 64 ≤ (endp (wh [] .open_ none 64) 1).sessions.length ∧ (cmd 1).payload.length ≠ 2880 ∧
    ((cmd 3 0).arg0.toNat = 0 ∧ 60000 < (cmd 3 60001).arg0.toNat ∧ (cmd 3 60000).arg0.toNat ≤ 60000) ∧ (endp (wh [] .open_ none) 1).lock = none ∧ (endp (wh [] .open_ (some (2, 100001))) 1).lock = some (2, 100001) ∧
    (2 : BitVec 32) ≠ (cmd 3).session ∧ (wh []).gtc < 100001 ∧ (endp (wh [] .open_ (some (2, 100000))) 1).lock = some (2, 100000) ∧ 100000 ≤ (wh []).gtc ∧
    (let old : State := { wh [] with gtc := 36000000000 }
     (endp old 1).live = true ∧ (endp old 1).sessions.find? (fun z => z.id.toNat == 1) = some { id := 1, key := [], last := 0 } ∧ 0 + 36000000000 ≤ old.gtc) ∧
    (∀ y ∈ (endp (wh []) 1).sessions, y.id.toNat = 1 → (wh []).gtc < y.last + 36000000000) := by
  refine ⟨fun p h g => ⟨⟨by decide +kernel, by simp [cmd, h]⟩, rfl, h, g⟩, ?_, ?_, ?_, ?_, ?_, ?_, ?_, ?_, ?_, ?_, ?_, ?_⟩ <;> decide +kernel

/-- A queue's descriptor of 16 cards at 0x100000 and 16 completion words, owner `o`. -/
def qdesc (o : Nat) : List Byte := leBytes 64 (0x100000 * 2 ^ 320 + 4 * 2 ^ 376 + o * 2 ^ 380 + 0x100000 * 2 ^ 392 + 16 * 2 ^ 456)

/-- LaunchQueues: a descriptor that is well formed, one that is not; an owner that may and one that may not; the states of a queue; cards under way, and none. -/
theorem witness_launchQueues :
    let x := leNat (qdesc 1)
    (qdesc 1).length = 64 ∧ field x 376 4 ≠ 0 ∧ 2 ≤ field x 456 24 ∧ field x 392 56 % 8 = 0 ∧ field x 320 56 % 64 = 0 ∧ field x 448 4 = 0 ∧ field x 255 1 = 0 ∧ (cmd 5).payload.length ≠ 64 ∧
    mayEnter (wh []) 1 (BitVec.ofNat 12 (field x 380 12)) = true ∧ holdsSpan (wh []) 1 (field x 320 56) (64 * 2 ^ field x 376 4) [.I] = true ∧ holdsSpan (wh []) 1 (field x 392 56) (8 * field x 456 24) [.I, .W] = true ∧
    mayEnter (wh []) 1 (BitVec.ofNat 12 (field (leNat (qdesc 2)) 380 12)) = false ∧ tabWf {} (wh [] .closed).hub.queues = true ∧ Memory.wf (wh []).mem = true ∧
    (cmdQueue (wh [] .closed) 1 (cmd 6)).st = .closed ∧ (cmdQueue (wh [] .draining) 1 (cmd 6)).st = .draining ∧ (cmdQueue (wh [] .resetting) 1 (cmd 6)).st = .resetting ∧
    (∀ d ∈ (wh [] .draining).hub.cards, d.vdev = 0 → d.queue = 0 → d.st ≠ .pending ∧ d.st ≠ .running) ∧ (∃ d ∈ (wh [card 5 0 .running]).hub.cards, d.vdev = 0 ∧ d.queue = 0 ∧ (d.st = .pending ∨ d.st = .running)) ∧
    (tabGet ({} : Vdev) (wh []).hub.vdevs 0).resident = true ∧ (wh []).hub.conts = [] ∧ (getPart (wh []) 0).armed = false ∧ (getPart (wh []) 0).halted = false ∧
    (wh [card 5 0 .pending]).hub.cards[0]? = some (card 5 0 .pending) ∧ (card 5 0 .running).dealt < field (card 5 0 .running).bits.toNat 128 28 := by decide +kernel

/-- Launches: a TAIL one past the ring, one at its size. -/
theorem witness_launches :
    let q := cmdQueue (wh []) 1 (cmd 7)
    q.st = .open_ ∧ 2 ^ q.capLog.toNat < ((17 : Word).setWidth 32 - q.head).toNat ∧ ¬(2 ^ 31 ≤ ((16 : Word).setWidth 32 - q.tail).toNat ∨ 2 ^ q.capLog.toNat < ((16 : Word).setWidth 32 - q.head).toNat) := by decide +kernel

/-- Launches: a card at no place, which is refused, and a LAUNCH of no card, of which none is. -/
theorem witness_refusedCards :
    let s : State := let s := wh []; { s with hub := { s.hub with queues := [(0, { st := .open_, owner := 1, capLog := 4, cardBase := 0x00F4000000000000 })] } }
    let n (a : Word) : Nat := ((cmd 7 a).arg0.setWidth 32 - (cmdQueue s 1 (cmd 7 a)).head).toNat
    place true 0x00F4000000000000 = .bad ∧ n 2 = 2 ∧ refusedCard s 1 (cmd 7 2) 2 0 = true ∧ n 0 = 0 ∧ (∀ i, i < n 0 → refusedCard s 1 (cmd 7 0) 0 i = false) := by
  refine ⟨?_, ?_, ?_, ?_, fun i h => absurd h (Nat.not_lt_zero i)⟩ <;> decide +kernel

/-- KeysAndEvidence: a slot past the last and the last; a payload of 40 bytes whatever the unwrapping says; a slot in use; nonces of 15, 16, 64 and 65 bytes. -/
theorem witness_keysAndEvidence :
    let used : State := let s := wh []; { s with hub := { s.hub with queues := [(0, { st := .open_, kslot := 254 })] } }
    let e : Endpoint := { live := true, sessions := [{ id := 1, key := [], last := 0 }] }
    let z : State := { wh [] with hub := { (wh []).hub with queues := [(0, { st := .closed, kslot := 254 })], eps := [(0, e), (1, e)] } }
    (∃ y : Session, (endp (wh []) 1).sessions.find? (fun z => z.id == (cmd 12).session) = some y ∧ y.key = []) ∧ (List.replicate 40 (0 : Byte)).length = 40 ∧
    (∀ k, Config.aesUnwrap [] (List.replicate 40 0) = some k → Config.aesUnwrap [] (cmd 12 254 (List.replicate 40 0)).payload = some k) ∧ 254 < (cmd 12 255).arg0.toNat ∧ (cmd 12 254).arg0.toNat ≤ 254 ∧
    (∃ e ∈ used.hub.queues, e.2.kslot.toNat = (cmd 12 254).arg0.toNat ∧ (e.2.st = .open_ ∨ e.2.st = .draining)) ∧ (¬∃ e ∈ z.hub.queues, e.2.kslot.toNat = (cmd 12 254).arg0.toNat ∧ (e.2.st = .open_ ∨ e.2.st = .draining)) ∧
    (List.replicate 15 (0 : Byte)).length < 16 ∧ 16 ≤ (List.replicate 16 (0 : Byte)).length ∧ (List.replicate 64 (0 : Byte)).length ≤ 64 ∧ 64 < (List.replicate 65 (0 : Byte)).length ∧ z.gtc < 2 ^ 64 := by
  refine ⟨⟨_, rfl, rfl⟩, ?_, fun _ h => h, ?_, ?_, ?_, ?_, ?_, ?_, ?_, ?_, ?_⟩ <;> decide +kernel

/-- What VCREATE carries before the key: virtual device `v` of partition 0, owner `o`, colour `k`, one unit of registers. -/
def vdesc (v o k : Nat) : Nat := v + o * 2 ^ 16 + k * 2 ^ 32 + 2 ^ 56

/-- VirtualDevices: a well-formed payload whose key the free check accepts; one of another length; a device that exists, an owner that is not valid, a colour that is taken; a device with a queue, one without, and one that VDESTROY already takes down. -/
theorem witness_virtualDevices :
    let p (v o k : Nat) : List Byte := leBytes 64 (vdesc v o k) ++ List.replicate 1793 0
    let x := leNat ((p 1 1 1).take 64)
    ((p 1 1 1).length = 1857 ∧ field x 61 451 = 0 ∧ field x 41 7 = 0 ∧ field x 28 4 = 0 ∧ field x 11 5 = 0 ∧ field x 0 8 = 1 ∧ field x 38 2 ≠ 3 ∧ field x 56 5 = 1 ∧ field x 48 5 = 0 ∧
      (Config.falconKeyOk (List.replicate 1793 0) = true → Config.falconKeyOk ((p 1 1 1).drop 64) = true)) ∧ (cmd 14).payload.length ≠ 1857 ∧
    (tabGet ({} : Vdev) (wh []).hub.vdevs 0).live = true ∧ (tabGet ({} : Vdev) (wh []).hub.vdevs 1).live = false ∧ (ownerDesc (wh []) (BitVec.ofNat 12 (field x 16 12))).valid = true ∧ (ownerDesc (wh []) 2).valid = false ∧
    (∃ e ∈ (wh []).hub.vdevs, e.1 ≠ 1 ∧ e.2.live = true ∧ e.2.colour.toNat = field (vdesc 1 1 0) 32 6) ∧
    (¬((∃ e ∈ (wh []).hub.vdevs, e.1 ≠ 1 ∧ e.2.live = true ∧ e.2.colour.toNat = field x 32 6) ∨ (getPart (wh []) (BitVec.ofNat 3 (field x 8 3))).map = 0#32)) ∧
    (63 < (64 : Word).toNat ∧ (∃ q : BitVec 8, (tabGet ({} : Queue) (wh []).hub.queues (256 * 0 + q.toNat)).st ≠ .none) ∧ (∀ q : BitVec 8, (tabGet ({} : Queue) (wh [] .none).hub.queues (256 * 0 + q.toNat)).st = .none)) ∧
    tabWf {} (wh []).hub.vdevs = true ∧ tabWf {} (wh []).hub.eps = true ∧ (wh []).hub.jobs = [] ∧
    (let r : State := { wh [] with hub := { (wh []).hub with jobs := [.retire 0 [(0, cmd 15)] .writes] } }
     ∃ o st, Job.retire (cmd 15).arg0.toNat o st ∈ r.hub.jobs) := by
  refine ⟨⟨?_, ?_, ?_, ?_, ?_, ?_, ?_, ?_, ?_, ?_⟩, ?_, ?_, ?_, ?_, ?_, ?_, ?_, ⟨?_, ?_, ?_⟩, ?_, ?_, ?_, ⟨[(0, cmd 15)], .writes, List.mem_singleton.2 rfl⟩⟩ <;> first | decide +kernel | exact fun h => h

/-- RemoteMemory: the operator's endpoint; 64 MiB and a byte more; the heap where owner 1 may write, where no page is mapped, where no region lies, and an address outside the heap. -/
theorem witness_remoteMemory :
    let s := wh []
    (endp s 1).live = true ∧ (endp s 0).live = true ∧ (endp w 1).live = false ∧ (tabGet ({} : Vdev) s.hub.vdevs 0).owner = 1 ∧ 64 * 2 ^ 20 < 67108865 ∧ place true 0xF0000000080000 ≠ .heap ∧ place true 0xF0000000080000 ≠ .bad ∧
    place true 0x100040 = .heap ∧ (agentCheck s 1 true 0x100040 .W).isOk = true ∧ (agentCheck s 1 true 0x100040 .I).isOk = true ∧ locate s 0 0x100040 = .ok 0x100040 ∧ hostRefuses s 0x100040 = false ∧
    (place true 0x110000 = .heap ∧ walk s 0x110000 = none ∧ (agentCheck s 1 true 0x110000 .W).isOk = true ∧ (agentCheck s 1 true 0x110000 .I).isOk = true) ∧
    place true 0x900000 = .heap ∧ (agentCheck s 1 true 0x900000 .W).isOk = false ∧ (agentCheck s 1 true 0x900000 .I).isOk = false ∧ s.races = [] ∧ Memory.wf s.mem = true := by decide +kernel


/-! ### Witnesses: power, boot, links and registers -/

/-- The flash directory with the given kinds, lengths and offsets, in the order given. -/
def flash (l : List (Nat × Nat × Nat)) : List Host.Cell :=
  l.zipIdx.foldl (fun m e => setLe m (0x1000004000000 + 32 * e.2) 16 (e.1.1 + e.1.2.1 * 2 ^ 32 + e.1.2.2 * 2 ^ 64)) []

/-- The machine without power and with the flash's directory. -/
def off (l : List (Nat × Nat × Nat)) : State := { State.reset with mem := flash l }

/-- PoweringUp: no power; a recovery image that fits, one that is too long, none; a stage 1 beside helper data, whatever the check of R430 says. -/
theorem witness_poweringUp :
    (off []).hub.boot.powered = false ∧ entryOf (unpowered (off [])) 1 = none ∧ entryOf (unpowered (off [])) 8 = none ∧
    entryOf (unpowered (off [(8, 262144, 0x1000)])) 8 = some (8, 262144, 0x1000) ∧ (0 < 262144 ∧ 262144 ≤ 256 * 1024) ∧ entryOf (unpowered (off [(8, 262145, 0x1000)])) 8 = some (8, 262145, 0x1000) ∧ ¬262145 ≤ 256 * 1024 ∧
    (let s := unpowered (off [(1, 8224, 0x2000), (2, 16, 0x1000)]); entryOf s 1 = some (1, 8224, 0x2000) ∧ entryOf s 2 = some (2, 16, 0x1000)) ∧ entryOf (unpowered (off [(1, 8224, 0x2000)])) 2 = none ∧
    ({ (off []) with hub := { (off []).hub with boot := { powered := true } } } : State).hub.boot.powered = true ∧ Memory.wf (off [(1, 8224, 0x2000), (2, 16, 0x1000)]).mem = true := by decide +kernel

/-- The powered machine with a boot block. -/
def wboot (b : Boot) (l : List (Nat × Nat × Nat) := []) : State := { off l with hub := { State.reset.hub with boot := { b with powered := true } } }

/-- BootBlock: harts that run and that do not; H1 halted; stage 1 with its work before it, with a directory that is right and one that is not; CORE_REL not yet written and written; RECOVERY, before and after its enrolment, whose helper data go to a page other than the directory's. -/
theorem witness_bootBlock :
    let s := wboot { phase := 1, harts := 2, cdi1 := [0] } [(7, 4096, 0x3000), (9, 1793, 0x5000)]
    let es := (directory s).filter fun e => (3 ≤ e.1 && e.1 ≤ 7) || e.1 == 9
    let r : State := wboot { phase := 6, harts := 2 } [(1, 8224, 0x2000)]
    Running s 1 ∧ ¬Running s 0 ∧ ¬Running (wboot { harts := 2, h1Halted := true }) 1 ∧ Running (wboot { harts := 9 }) 3 ∧ Running (wboot { harts := 9 }) 0 ∧
    (s.hub.boot.phase = 1#4 ∧ (15 : BitVec 64).getLsbD 3 = true ∧ s.hub.boot.cdi1 ≠ []) ∧ (wboot { harts := 2 }).hub.boot.cdi1 = [] ∧ (7 : BitVec 64).extractLsb' 0 4 ≠ 5#4 ∧ (5 : BitVec 64).extractLsb' 0 4 = 5#4 ∧
    (es.countP (fun e => e.1 == 9) = 1 ∧ ∀ e ∈ es, (e.1 = 7 → e.2.1 = 4096) ∧ (e.1 = 9 → e.2.1 = 1793) ∧ (e.1 = 6 → e.2.1 ≤ 256 * 1024) ∧ e.2.1 ≤ 16 * 2 ^ 20) ∧ (∀ e ∈ es, ∀ f ∈ es, f.1 = e.1 → f = e) ∧
    (let h := wboot { phase := 1, harts := 2, cdi1 := [0] } [(3, 16, 0x3000), (6, 262144, 0x5000)]; (3, 16, 0x3000) ∈ directory h ∧ (6, 262144, 0x5000) ∈ directory h) ∧
    (r.hub.boot.phase = 6#4 ∧ r.hub.boot.pufLock = false ∧ r.hub.boot.h1Halted = false ∧ (directory r).findIdx? (fun e => e.1 == 1) = some 0 ∧ 32 * (0 + 2) ≤ 1 * 4096) ∧
    (wboot { pufLock := true }).hub.boot.pufLock = true ∧ (wboot {}).hub.boot.phase ≠ 6#4 ∧ (wboot { phase := 6, h1Halted := true }).hub.boot.h1Halted = true ∧
    ((directory (wboot {})).filter fun e => (3 ≤ e.1 && e.1 ≤ 7) || e.1 == 9).countP (fun e => e.1 == 9) ≠ 1 ∧ entryOf s 9 = some (9, 1793, 0x5000) ∧ entryOf s 7 = some (7, 4096, 0x3000) ∧
    (wboot {}).hub.boot.coreRel = false ∧ (wboot { coreRel := true }).hub.boot.coreRel = true ∧ (wboot { phase := 6 }).hub.boot.phase = 6#4 ∧ (1 : BitVec 64).getLsbD 0 = true ∧ (wboot {}).hub.boot.lroot = none ∧ (0 : Nat) < 4368 := by
  refine ⟨?_, ?_, ?_, ?_, ?_, ?_, ?_, ?_, ?_, ?_, ?_, ?_, ?_, ?_, ?_, ?_, ?_, ?_, ?_, ?_, ?_, ?_, ?_, ?_, ?_⟩ <;> (try unfold Running) <;> decide +kernel

/-- BringUp: a unit trains in every phase but RECOVERY; unit numbers in and out of range. -/
theorem witness_bringUp : (wboot {}).hub.boot.phase ≠ 6#4 ∧ (wboot { phase := 6 }).hub.boot.phase = 6#4 ∧ (7 < 8 ∧ ¬8 < 8 ∧ 17 < 18 ∧ ¬18 < 18) ∧ ({ pwr := true } : MemCtl) ≠ {} ∧ (0 < 4 ∧ 1023 < 1024) := by decide

/-- SealedLinks: a root key written and not; an LKEY that is good and one that is bad; links at the ends of the three ranges; the fifteenth and the sixteenth mismatch in 2^20 cycles; a port that is up. -/
theorem witness_sealedLinks :
    (LinkId 17 ∧ ¬LinkId 18 ∧ LinkId 32 ∧ LinkId 39 ∧ ¬LinkId 40 ∧ LinkId 64 ∧ LinkId 71 ∧ ¬LinkId 72) ∧ (wboot {}).hub.boot.lroot = none ∧ (wboot { lroot := some 1 }).hub.boot.lroot ≠ none ∧ (wboot {}).hub.boot.seBusy = false ∧
    (wboot { seBusy := true, seBad := true }).hub.boot.seBad = true ∧ (wboot { seBusy := true }).hub.boot.seBad = false ∧
    ((w.gtc :: ((List.replicate 14 99999).filter fun t => decide (w.gtc < t + 2 ^ 20))).length < 16 ∧ 16 ≤ (w.gtc :: ((List.replicate 15 99999).filter fun t => decide (w.gtc < t + 2 ^ 20))).length) ∧
    ({ up := true } : Port).up = true ∧ (wboot { lroot := some 1 }).hub.boot.phase ≠ 6#4 ∧ (tabGet ({} : Port) w.hub.ports 0).up = false := by
  unfold LinkId; decide +kernel

/-- SealedLinks: a peer with a pair key and one without; queues of each protection, one with its slot's key; the key that covers a packet; another hart than H1. -/
theorem witness_portKeys :
    let p : Port := { up := true, pairKeys := [(3, some { key := 9, sent := 5 })] }
    let s : State := { w with hub := { w.hub with ports := [(2, p)], queues := [(0, { st := .open_, prot := true, kslot := 1 }), (1, { st := .open_ })], keys := [(1, some (8, 0))] } }
    tabGet none p.pairKeys 3 = some { key := 9, sent := 5 } ∧ tabGet none p.pairKeys 4 = none ∧ (tabGet ({} : Queue) s.hub.queues 0).prot = true ∧ (tabGet ({} : Queue) s.hub.queues 1).prot = false ∧
    tabGet none s.hub.keys (tabGet ({} : Queue) s.hub.queues 0).kslot.toNat = some (8, 0) ∧ portKey s 2 (.peer 3) = .sealed (leBytes 32 9) 5 ∧ portKey s 2 (.queue 0 0 3) = .sealed (leBytes 32 8) 0 ∧
    portKey s 2 (.queue 0 0 4) = .waits ∧ tabWf {} s.hub.eps = true ∧ tabWf 0 s.hub.keysSent = true ∧ tabWf {} s.hub.ports = true ∧ tabWf none p.pairKeys = true ∧ (3 : Nat) ≠ 1 ∧
    tabWf {} s.hub.links = true ∧ tabWf {} s.hub.mcs = true := by decide +kernel

/-- BootBlock: the images that stay where a directory names a kind twice, and a message of the code's length. -/
theorem witness_lastImages :
    let s := wboot { phase := 1, harts := 2, cdi1 := [0] } [(3, 16, 0x1000), (7, 4096, 0x3000), (9, 1793, 0x5000), (7, 4096, 0x8000), (6, 32, 0x9000)]
    let es := (directory s).filter fun e => (3 ≤ e.1 && e.1 ≤ 7) || e.1 == 9
    ((es.filter fun e => e.1 == 7).getLast? = some (7, 4096, 0x8000) ∧ (es.filter fun e => e.1 == 3).getLast? = some (3, 16, 0x1000) ∧ (es.filter fun e => e.1 == 6).getLast? = some (6, 32, 0x9000)) ∧
    (List.replicate Config.messageLen.toNat (0 : Byte)).length = Config.messageLen.toNat := ⟨by decide +kernel, List.length_replicate ..⟩

/-- HartRegisters: the shared heap's storage at its ends; partition 0 occupied, free and halted; the registers' bounds; tables in their form. -/
theorem witness_hartRegisters :
    let s := setPart w 0 { map := 1 }
    (0 < 2 ^ 40 ∧ 0 % 2 ^ 37 < 80000000000 ∧ 7 * 2 ^ 37 + 79999999999 < 2 ^ 40 ∧ (7 * 2 ^ 37 + 79999999999) % 2 ^ 37 < 80000000000) ∧ s.hub.rights.locked = false ∧ (2 ^ 20 : BitVec 64).toNat ≤ 2 ^ 20 ∧
    ({ s.hub.rights with locked := true } : Rights).locked = true ∧ ¬((getPart s 0).halted = true ∨ residentPart s 0 = false) ∧ residentPart w 0 = false ∧ (getPart (setPart w 0 { map := 1, halted := true }) 0).halted = true ∧
    (getPart s 0).evtWait = [] ∧ (∀ n, n ∈ [1, 2, 3, 4, 5, 6, 7, 8] → field (BitVec.ofNat 64 (n * 2 ^ 56)).toNat 56 8 = n) ∧ field (0x100 : BitVec 64).toNat 8 8 = 1 ∧ field (0 : BitVec 64).toNat 0 3 = 0 ∧
    tabWf 0#64 w.hub.acct.total = true ∧ tabWf 0 w.hub.acct.late = true ∧ tabWf {} w.hub.mcs = true ∧ (3 : BitVec 64).getLsbD 6 = false ∧ Memory.wf s.mem = true := by decide +kernel

/-- The counter block of R439: counter in the upper half, link id from bit 48, direction in bit 47, block index below; a flit of the previous epoch is opened with the previous key (R442). -/
theorem test_counterBlock : counterBlock 32 1 { count := 5 } 3 = 0x00000000000000050020800000000003#128 ∧ epochKey { key := [1], prev := [2], epoch := 3 } false = [2] := by decide

/-! ### Witnesses: the machine as a whole -/

/-- The machine at its next issue, with the bytes of an instruction at the PC. -/
def issues (word : Nat) : State := State.withFetchWord w 32 word

/-- StepRunsDecoded: unit 0 issues next and may fetch; the bytes of ADDI, of LIH and of a compact form; a word that is no instruction; a segment that is not LANDED. -/
theorem witness_stepRunsDecoded :
    let s := issues 0x2784040F
    let u := issues 0x6408
    let v := issues 0xFFFFFF83
    let n : State := { s with core := { s.core with segs := s.core.segs.set 0 {} } }
    (nextInput s = none ∧ nextUnit s = some 0 ∧ groupDue s 0 = false ∧ unitEvent s 0 = none) ∧ fetchTrap s s.core.ctx.pc = none ∧ (wellFormed (.addi 0#2 0x278#10 8#5 8#5) = true ∧ (encode (.addi 0#2 0x278#10 8#5 8#5)).isSome = true) ∧
    (∀ i, i < 4 → imemByte (focus s 0) ((focus s 0).core.ctx.pc + BitVec.ofNat 16 i) = (encodeBytes (.addi 0#2 0x278#10 8#5 8#5)).getD i 0#8) ∧
    (∀ i, i < 2 → imemByte (focus u 0) ((focus u 0).core.ctx.pc + BitVec.ofNat 16 i) = (encodeBytes (.cLdd 1#3 0#3 2#5)).getD i 0#8) ∧ (encodeBytes (.addi 0#2 0x278#10 8#5 8#5)).length = 4 ∧
    ((segOf s.core (s.core.ctx.pc.extractLsb' 12 4)).st = .landed ∧ (segOf s.core ((s.core.ctx.pc + 2#16).extractLsb' 12 4)).st = .landed ∧ s.core.ctx.pc.extractLsb' 12 4 ≠ 15#4) ∧
    decodeAt (focus v 0) (focus v 0).core.ctx.pc = .reject (.unassigned 0xFFFFFF83) ∧ (nextUnit n = some 0 ∧ unitEvent n 0 = none ∧ (segOf n.core (n.core.ctx.pc.extractLsb' 12 4)).st ≠ .landed) := by
  refine ⟨⟨?_, ?_, ?_, ?_⟩, ?_, ?_, ?_, ?_, ?_, ?_, ?_, ?_, ?_⟩ <;> decide +kernel

/-- StepRunsDecoded: each event of a unit's boundary, an agenda that is due, a halt of its group that its answer has held up, and no unit that may act. -/
theorem witness_boundaryEvents :
    let e (sl : Slot) : State := let s := wsl {} sl; s
    let c : BitVec 56 := 0xF0000000080000
    let ready (p : BitVec 2) : Slot := { sst := .loaded, prio := p, turn := 1, part := some 0, ctx := { ctx1 with rcd := { ctx1.rcd with state := .ready }, codePc := codeVa w 0x100 } }
    let log : State := { w with core := { w.core with log := w.core.log.set 15 (some { seqNo := 0, word := 0, base := 0, ea := 0, sizeLog := 3, kind := .scalar false, dest := 1, vecDest := false, token := {}, owner := 1, steward := false, ctx := 0xF0000000041000, stamp := none, held := some 9, reason := 4 }) } }
    unitEvent (e { sst := .evicting, cont := c, part := some 0 }) 0 = some (.evictWriteback 1) ∧ unitEvent (e { sst := .bound, cont := c, part := some 0 }) 0 = some (.slotLoad 1) ∧ unitEvent (e (ready 0)) 0 = some .slotSelect ∧
    unitEvent { e {} with core := { (e {}).core with slots := Vector.replicate 8 {}, pw := { pend := true, value := 0x200 } } } 0 = some .pwSetApply ∧
    unitEvent (let q := setPart (wsl w.core.slots[0] (ready 0)) 0 { map := 1, evtLog := 6 }; { q with core := { q.core with issuing := some 0 } }) 0 = some .sliceExpiry ∧ unitEvent log 0 = some .asyncTrap ∧
    (let qw (ir : BitVec 32) : State := { w with core := { w.core with ir := ir, quires := (w.core.quires.set 3 (ring 0 0 [])).set 7 (ring 0 0 []), ctx := { w.core.ctx with blockedAt := some 99744 } } }
     unitEvent (qw 0x0030155F) 0 = some .quireSuspend ∧ unitEvent (qw 0x4C71C153) 0 = some .qredSuspend ∧ nextUnit (qw 0x0030155F) = some 0 ∧ groupDue (qw 0x0030155F) 0 = false) ∧
    (let h : State := { w with core := { w.core with haltReq := true } }; nextInput h = none ∧ nextUnit h = some 0 ∧ groupDue h 0 = true) ∧
    (∀ s, s ∈ [e { sst := .evicting, cont := c, part := some 0 }, e (ready 0), log] → nextInput s = none ∧ nextUnit s = some 0 ∧ groupDue s 0 = false) ∧
    ({ w with agenda := [(100000, .issueCycle)] } : State).agenda = [(100000, .issueCycle)] ∧ 100000 ≤ w.gtc ∧ (nextInput State.reset = none ∧ nextUnit State.reset = none) := by decide +kernel

/-- DecodeEncode: an instruction with its operands at their bounds. -/
theorem witness_decodeEncode : wellFormed (.addi 3#2 0x3FF#10 31#5 31#5) = true ∧ (encode (.addi 3#2 0x3FF#10 31#5 31#5)).isSome = true := by decide

/-- A next state. -/
def goesOn (o : Machine.Out) : Bool := match o with | .next _ => true | _ => false

/-- MemoryStaysCanonical: a state in the form, and a step of it that answers a next state. -/
theorem witness_memoryStaysCanonical : Memory.wf (issues 0x2784040F).mem = true ∧ goesOn (step (issues 0x2784040F)) = true := by decide +kernel

/-- ParcelsDecode: a first parcel of each quadrant. -/
theorem witness_parcels : (0x640B : BitVec 16).extractLsb' 0 2 = 3#2 ∧ (0x6408 : BitVec 16).extractLsb' 0 2 ≠ 3#2 ∧ (0x6409 : BitVec 16).extractLsb' 0 2 ≠ 3#2 ∧ (0x640A : BitVec 16).extractLsb' 0 2 ≠ 3#2 := by decide

/-- LihConstants: nothing under a wait, and the bounds of the range. -/
theorem witness_lihConstants : underWait w [] (some (.g 1, 1)) = none ∧ (-2 ^ 29 - 512 : Int) ≤ -2 ^ 29 - 512 ∧ (2 ^ 29 - 513 : Int) ≤ 2 ^ 29 - 513 ∧ (-2 ^ 29 - 512 : Int) ≤ 2 ^ 29 - 513 := by decide

/-- Breakpoints: an armed group of this core alone; a group that is not armed; user and steward mode. -/
theorem witness_breakpoints :
    let s (a : Bool) : State := { w with hub := { w.hub with hgOf := [(0, some 1)], groups64 := if a then [(1, { armed := true })] else [] } }
    tabGet none (s true).hub.hgOf (s true).cur = some 1 ∧ (haltGroupOf (s true) 1).armed = true ∧ (haltGroupOf (s true) 1).xv = false ∧ groupMembers (s true) 1 = [0] ∧ (s true).core.amo = none ∧ RunsIn (s true) 0 ∧
    (∀ m : Fin 8, m ≠ 0 → (s true).core.slots[m].sst = .empty) ∧ (∀ n : Fin 3, ¬EndsAt (s true) ((s true).core.ctx.pc + 4#16) n) ∧ (haltGroupOf (s false) 1).armed = false ∧ tabGet none w.hub.hgOf w.cur = none ∧
    w.core.ctx.ctl.steward = false ∧ (asSteward w).core.ctx.ctl.steward = true := by
  refine ⟨?_, ?_, ?_, ?_, ?_, ⟨?_, ?_, ?_, ?_⟩, ?_, ?_, ?_, ?_, ?_, ?_⟩ <;> (try unfold EndsAt) <;> decide +kernel


/-! ### Single steps: results from the spec's own rules and worked examples -/

/-- The instruction answers a next state of which `p` holds. -/
def runsTo (i : Instr) (s : State) (p : State → Bool) : Bool := match exec i s with | .next t => p t | _ => false

/-- The instruction writes g[d] := x at a latency, and nothing else is pending; a write of latency 1 stands before the next issue. -/
def gives (i : Instr) (s : State) (lat : Nat) (d : Reg) (x : Word) : Bool :=
  runsTo i s fun t => if lat = 1 then rdG t d == x && t.core.ctx.pend.isEmpty else t.core.ctx.pend == [(s.gtc + lat, .writeG d x)]

/-- The load writes g[d] := x and posts its token at latency 3. -/
def loads (i : Instr) (s : State) (d : Reg) (x : Word) : Bool := runsTo i s fun t => t.core.ctx.pend == [(s.gtc + 3, .writeG d x), (s.gtc + 3, .post {})]

/-- The instruction writes v[d] at a latency, whatever else is pending. -/
def givesV (i : Instr) (s : State) (lat : Nat) (d : Reg) (x : Vec) : Bool := runsTo i s fun t => t.core.ctx.pend.any fun p => p == (s.gtc + lat, .writeV d x)

/-- The instruction traps with a cause and a value. -/
def trapsWith (i : Instr) (s : State) (cause : BitVec 8) (val : Word) : Bool := runsTo i s fun t => t.core.ctx.ctl.steward && t.core.ctx.ctl.cause.code == cause && t.core.ctx.ctl.trapVal == val

/-- `w` with vector registers. -/
def withV (l : List (Reg × Vec)) : State := setCtx w (l.foldl (fun c p => ctxPutV c p.1 p.2) w.core.ctx)

/-- R170's example: a field at 4 of 8 bits. -/
theorem test_extz_field : gives (.extz 0 2 1 3) (wg [(1, 0xABCD), (2, 0x204)]) 1 3 0xBC = true := by decide +kernel
theorem test_exts_field : gives (.exts 0 2 1 3) (wg [(1, 0xABCD), (2, 0x204)]) 1 3 0xFFFFFFFFFFFFFFBC = true := by decide +kernel
/-- R170: INS leaves g[d] with a field of no bits, and replaces bits 11 to 4 with one of eight. -/
theorem test_ins_empty : gives (.ins 0 2 1 3) (wg [(1, 0xABCD), (2, 0x4), (3, 0x77)]) 1 3 0x77 = true := by decide +kernel
theorem test_ins_field : gives (.ins 0 2 1 3) (wg [(1, 0xABCD), (2, 0x204), (3, 0xFFFF)]) 1 3 0xFCDF = true := by decide +kernel
/-- The constant of R171's example, in its two instructions. -/
theorem test_lih : gives (.lih 0x48D16#20 8) w 1 8 0x12345800 = true := by decide +kernel
theorem test_addi_negative : gives (.addi 0 0x278#10 8 8) (wg [(8, 0x12345800)]) 1 8 0x12345678 = true := by decide +kernel
/-- R167: both halves of −1 × −1. -/
theorem test_mulh : gives (.mulh 0 2 1 3) (wg [(1, 0xFFFFFFFFFFFFFFFF), (2, 0xFFFFFFFFFFFFFFFF)]) 3 3 0 = true := by decide +kernel
theorem test_mulhn : gives (.mulhn 0 2 1 3) (wg [(1, 0xFFFFFFFFFFFFFFFF), (2, 0xFFFFFFFFFFFFFFFF)]) 3 3 0xFFFFFFFFFFFFFFFE = true := by decide +kernel
/-- R168: the quotient of −2^63 by −1, and of anything by 0. -/
theorem test_div_overflow : runsTo (.divS 0 5 2 1 3) (wg [(1, 0x8000000000000000), (2, 0xFFFFFFFFFFFFFFFF)]) (fun t => t.core.divs.map (·.result) == [0x8000000000000000]) = true := by decide +kernel
theorem test_div_zero : trapsWith (.divn 0 5 0 1 3) (wg [(1, 9)]) 12 9 = true := by decide +kernel
/-- R168, R167: a remainder has its dividend's sign. -/
theorem test_mod_sign : runsTo (.modS 0 5 2 1 3) (wg [(1, 0xFFFFFFFFFFFFFFF9), (2, 4)]) (fun t => t.core.divs.map (·.result) == [0xFFFFFFFFFFFFFFFD]) = true := by decide +kernel
/-- R166: −1 is the smaller signed and the larger unsigned; a shift takes six bits. -/
theorem test_slt : gives (.slt 0 2 1 3) (wg [(1, 0xFFFFFFFFFFFFFFFF), (2, 1)]) 1 3 1 = true := by decide +kernel
theorem test_sltn : gives (.sltn 0 2 1 3) (wg [(1, 0xFFFFFFFFFFFFFFFF), (2, 1)]) 1 3 0 = true := by decide +kernel
theorem test_sra_six_bits : gives (.sra 0 2 1 3) (wg [(1, 0x8000000000000000), (2, 0x7F)]) 1 3 0xFFFFFFFFFFFFFFFF = true := by decide +kernel
theorem test_sub_wraps : gives (.sub 0 2 1 3) (wg [(1, 0), (2, 1)]) 1 3 0xFFFFFFFFFFFFFFFF = true := by decide +kernel
/-- R169: the count of zero bits of 0; bytes reversed. -/
theorem test_clz_zero : gives (.clz 0 0 3) w 1 3 64 = true := by decide +kernel
theorem test_bswap : gives (.bswap 0 1 3) (wg [(1, 0x0102030405060708)]) 1 3 0x0807060504030201 = true := by decide +kernel
/-- R161: a byte at a private alias, sign- and zero-extended. -/
theorem test_ldb : loads (.ldb 0 0 0 1 3) { wg [(1, 0x100)] with mem := setLe w.mem (poolKey 0 0x100) 1 0x80 } 3 0xFFFFFFFFFFFFFF80 = true := by decide +kernel
theorem test_ldbz : loads (.ldbz 0 0 0 1 3) { wg [(1, 0x100)] with mem := setLe w.mem (poolKey 0 0x100) 1 0x80 } 3 0x80 = true := by decide +kernel
/-- R162: a word stored at a private alias is little-endian in the pool. -/
theorem test_std : runsTo (.std 0 1 2 1) (wg [(1, 0x100), (2, 0x0102030405060708)]) (fun t => getByte t.mem (poolKey 0 0x108) == 8 && getByte t.mem (poolKey 0 0x10F) == 1) = true := by decide +kernel
/-- The example of R217 and R219: VMSK of 3 .bf16 lanes, and STVM under it. -/
theorem test_vmsk : runsTo (.vmsk 0 8 1 1) (wg [(1, 3)]) (fun t => t.core.ctx.pend.any fun p => match p.2 with | .writeM 1 x tag => x == 7 && tag == 1 | _ => false) = true := by decide +kernel
theorem test_stvm : runsTo (.stvm 0 0 1 2 1) (let s := wg [(1, 0x100)]; { setCtx s { ctxPutV s.core.ctx 2 (BitVec.ofNat 256 0x222222222222222222222222) with regs := { (ctxPutV s.core.ctx 2 (BitVec.ofNat 256 0x222222222222222222222222)).regs with m := s.core.ctx.regs.m.set 1 7, mtag := s.core.ctx.regs.mtag.set 1 1 } } with
    mem := setLe w.mem (poolKey 0 0x100) 8 0x1111111111111111 }) (fun t => getLe t.mem (poolKey 0 0x100) 8 == 0x1111222222222222) = true := by decide +kernel
/-- R220: .i8 lanes wrap; R221 and R229: the absolute difference of −128 and 127, and |−128|. -/
theorem test_vadd_wraps : givesV (.vadd 0 0 2 1 3) (withV [(1, 0x7F), (2, 1)]) 2 3 0x80 = true := by decide +kernel
theorem test_vabd : givesV (.vabd 0 0 2 1 3) (withV [(1, 0x80), (2, 0x7F)]) 2 3 0xFF = true := by decide +kernel
theorem test_vabs : givesV (.vabs 0 0 1 3) (withV [(1, 0x80)]) 2 3 0x80 = true := by decide +kernel
/-- The tree of R213's example: 256, 1, 1, −256 and zeros in .bf16 give 1 with NX. -/
theorem test_vred_tree : treeRed (addLane 8#4 0#2) 4 ([0x4380, 0x3F80, 0x3F80, 0xC380] ++ List.replicate 12 0) = (0x3F80, flagNX) := by decide +kernel
/-- The roundings of R205's table: 150, 128, 100 and −5 to .t6 by .rne, −5 by .rdn and .rup, and 1,000. -/
theorem test_t6_roundings : [0x4316, 0x4300, 0x42C8, 0xC0A0].map (fun x => (convElem 11#4 8#4 0#2 x).1) = [0x1F, 0x1E, 0x1E, 0x28] := by decide +kernel
theorem test_t6_directed : (convElem 11#4 8#4 3#2 0xC0A0).1 = 0x27 ∧ (convElem 11#4 8#4 2#2 0xC0A0).1 = 0x28 ∧ convElem 11#4 8#4 0#2 0x447A = (0x1F, flagTS ||| flagNX) := by decide +kernel
/-- R240's example: a table of four segments at −3, 0.5, 1.5, 3 and NaN. -/
theorem test_teval_table :
    let img : TabImage := { lo := 0xC0000000, scale := 0x3F800000, segs := [(0, 0, 0), (0, 0, 0), (0, 0x3F000000, 0x3E800000), (0x3F400000, 0x3F800000, 0)] }
    [0xC040, 0x3F00, 0x3FC0, 0x4040].map (fun x => (evalLane img 8#4 x).1) = [0x0000, 0x3EA0, 0x3FA0, 0x3FE0] ∧ evalLane img 8#4 0x7FC1 = (0x7FC0, flagNV) := by decide +kernel
/-- R24's example: core c2 of tile (3, 6) on CD5 at pool offset 0x12340. -/
theorem test_global_alias : poolKey (5 * 512 + 6 * 64 + 3 * 8 + 2) 0x12340 = 0x00F000005CD12340 := by decide
/-- R49's example: every level's index of VA 0x0001008040201ABC is 1; the offset under a 4 KiB and under a 2 MiB leaf. -/
theorem test_walk :
    let at1 (l : List Nat) : Option Nat := (walk { w with mem := l.zipIdx.foldl (fun m e => setLe m (0x2000 * e.2 + 16) 16 e.1) [] } 0x0001008040201ABC).map (·.pa)
    at1 [0x2001, 0x4001, 0x6001, 0x8001, 0x500003] = some 0x500ABC ∧ at1 [0x2001, 0x4001, 0x6001, 0x400003] = some 0x401ABC := by decide +kernel
/-- R40's table of chunks. -/
theorem test_chunks : [10000, 9960, 9921, 2050, 2041, 5].map (fun n => chunkOf n 8 128) = [40, 39, 39, 9, 8, 5] := by decide
/-- R78's example: session 7 asks for 500 ms; session 9 is told who holds the lock and until when. -/
theorem test_lock_lease :
    let s (l : Option (BitVec 32 × Nat)) : State := { w with hub := { w.hub with eps := [(1, { live := true, sessions := [{ id := 7, key := [], last := 0 }, { id := 9, key := [], last := 0 }], lock := l })] } }
    let c (id : BitVec 32) : HostCmd := { session := id, seqNo := 1, arg1 := 0, arg0 := 500, queue := 0, op := 3, ver := 1, payload := [] }
    runsTo (.hostLock 1 (c 7)) (s none) (fun t => (tabGet ({} : Endpoint) t.hub.eps 1).lock == some (7, 600100000)) = true ∧
    runsTo (.hostLock 1 (c 9)) (s (some (7, 600100000))) (fun t => t.hub.out == [.response 1 9 1 0 3 1 7 600100000 []]) = true := by decide +kernel
/-- R189: TRAP takes the SOFTWARE trap with its code. -/
theorem test_trap_software : trapsWith (.trapI 0 5) w 13 5 = true := by decide +kernel
/-- R118: a word of no instruction traps with the word. -/
theorem test_illegal : runsTo (.illegalInstruction 0xFFFFFF83) w (fun t => t.core.ctx.ctl.cause.code == 1 && t.core.ctx.ctl.trapVal == 0xFFFFFF83) = true := by decide +kernel

end Sys2Proof.Tests
end

section
/-! Bring-up, sealed links and the registers of the harts: what each shared operation of those blocks leaves, and the statement about them assembled from it
(R5, R69, R423, R439 to R448). -/

namespace Sys2Proof.Proofs
open Sys2Proof Sys2Proof.Machine Sys2Proof.Claim

/-! ### Units that are tuned one at a time (R443, R445, R447) -/

/-- An entry set to what is not the default reads back, and the other entries stand. -/
theorem tabSet_tunes {α : Type} [DecidableEq α] {d y : α} (t : Tab α) (n : Nat) :
    (y ≠ d → tabGet d (tabSet d t n y) n = y) ∧ ∀ k, k ≠ n → y ≠ d → tabGet d (tabSet d t n y) k = tabGet d t k :=
  ⟨tabGet_tabSet_ne, fun _ hk hy => tabGet_tabSet_other_ne hy hk⟩

theorem trains_iff (s : State) : trains s = true ↔ s.hub.boot.phase ≠ 6#4 := by simp [trains]

theorem not_trains {s : State} (h : s.hub.boot.phase = 6#4) : ¬trains s = true := by rw [trains_iff]; exact not_not.mpr h

theorem setBoot_self (s : State) : setBoot s.hub.boot s = s := rfl

theorem raiseH3_false (s : State) : raiseH3 false s = s := rfl
theorem raiseH3_true (s : State) : raiseH3 true s = setHub s { s.hub with irq := s.hub.irq ||| 8#4 } := rfl

/-- A unit that does not exist raises no interrupt. -/
theorem raiseH3_out {n m : Nat} (h : m ≤ n) (s : State) : raiseH3 (decide (n < m)) s = s := by
  rw [decide_eq_false (Nat.not_lt.mpr h), raiseH3_false]
theorem raiseH3_in {n m : Nat} (h : n < m) (s : State) : raiseH3 (decide (n < m)) s = setHub s { s.hub with irq := s.hub.irq ||| 8#4 } := by
  rw [decide_eq_true h, raiseH3_true]

theorem modMc_in {n : Nat} (h : n < 8) (f : MemCtl → MemCtl) (s : State) :
    modMc n f s = setHub s { s.hub with mcs := tabSet {} s.hub.mcs n (f (tabGet {} s.hub.mcs n)) } := if_pos h
theorem modMc_out {n : Nat} (h : 8 ≤ n) (f : MemCtl → MemCtl) (s : State) : modMc n f s = s := if_neg (Nat.not_lt.mpr h)

theorem modUl_in {l : Nat} (h : l < 18) (f : UcieLink → UcieLink) (s : State) :
    modUl l f s = setHub s { s.hub with links := tabSet {} s.hub.links l (f (tabGet {} s.hub.links l)) } := if_pos h
theorem modUl_out {l : Nat} (h : 18 ≤ l) (f : UcieLink → UcieLink) (s : State) : modUl l f s = s := if_neg (Nat.not_lt.mpr h)

theorem modPort_in {p : Nat} (h : p < 8) (f : Port → Port) (s : State) :
    modPort p f s = setHub s { s.hub with ports := tabSet {} s.hub.ports p (f (tabGet {} s.hub.ports p)) } := if_pos h
theorem modPort_out {p : Nat} (h : 8 ≤ p) (f : Port → Port) (s : State) : modPort p f s = s := if_neg (Nat.not_lt.mpr h)

theorem raiseH3_modMc_boot (b : Bool) (n : Nat) (f : MemCtl → MemCtl) (s : State) : (raiseH3 b (modMc n f s)).hub.boot = s.hub.boot := by
  unfold modMc; cases b <;> split <;> rfl
theorem raiseH3_modUl_boot (b : Bool) (l : Nat) (f : UcieLink → UcieLink) (s : State) : (raiseH3 b (modUl l f s)).hub.boot = s.hub.boot := by
  unfold modUl; cases b <;> split <;> rfl

section MemoryControllers
variable {i : Instr} {s : State} {n : Nat} {f : MemCtl → MemCtl} {y : MemCtl} {b : Boot}

/-- A write of a memory controller's control register tunes that controller. -/
theorem tunesMc_of_write (h : exec i s = .next (modMc n f s)) (hy : f (tabGet {} s.hub.mcs n) = y) : TunesMc i s n false s.hub.boot y := by
  subst hy
  refine ⟨fun hn => ?_, (nomatch ·), fun hn _ => ⟨_, ?_, tabSet_tunes s.hub.mcs n⟩⟩
  · rw [h, modMc_out hn]
  · rw [h, modMc_in hn]; rfl

/-- An event of a memory controller tunes that controller, and H3 makes `b` of the boot block where the controller exists. -/
theorem tunesMc_of_judged (h : exec i s = if trains s then .next (setBoot (if n < 8 then b else s.hub.boot) (raiseH3 (n < 8) (modMc n f s))) else .next s)
    (hy : f (tabGet {} s.hub.mcs n) = y) : TunesMc i s n true b y := by
  subst hy
  refine ⟨fun hn => ?_, fun _ hp => ?_, fun hn hp => ⟨_, ?_, tabSet_tunes s.hub.mcs n⟩⟩
  · rw [h, if_neg (Nat.not_lt.mpr hn), modMc_out hn, raiseH3_out hn, setBoot_self, ite_self]
  · rw [h, if_neg (not_trains hp)]
  · rw [h, if_pos ((trains_iff s).mpr (hp.resolve_left nofun)), if_pos hn, modMc_in hn, raiseH3_in hn]; rfl

/-- An event of a memory controller in which H3 takes no part tunes that controller. -/
theorem tunesMc_of_event (h : exec i s = if trains s then .next (raiseH3 (n < 8) (modMc n f s)) else .next s)
    (hy : f (tabGet {} s.hub.mcs n) = y) : TunesMc i s n true s.hub.boot y := by
  refine tunesMc_of_judged (f := f) ?_ hy
  rw [h, ite_self, ← raiseH3_modMc_boot (decide (n < 8)) n f s, setBoot_self]

end MemoryControllers

section Links
variable {i : Instr} {s : State} {l : Nat} {f : UcieLink → UcieLink} {y : UcieLink} {b : Boot}

/-- A write of a link's control register tunes that link. -/
theorem tunesUl_of_write (h : exec i s = .next (modUl l f s)) (hy : f (tabGet {} s.hub.links l) = y) : TunesUl i s l false s.hub.boot y := by
  subst hy
  refine ⟨fun hl => ?_, (nomatch ·), fun hl _ => ⟨_, ?_, tabSet_tunes s.hub.links l⟩⟩
  · rw [h, modUl_out hl]
  · rw [h, modUl_in hl]; rfl

/-- An event of a link tunes that link, and H3 makes `b` of the boot block where the link exists. -/
theorem tunesUl_of_judged (h : exec i s = if trains s then .next (setBoot (if l < 18 then b else s.hub.boot) (raiseH3 (l < 18) (modUl l f s))) else .next s)
    (hy : f (tabGet {} s.hub.links l) = y) : TunesUl i s l true b y := by
  subst hy
  refine ⟨fun hl => ?_, fun _ hp => ?_, fun hl hp => ⟨_, ?_, tabSet_tunes s.hub.links l⟩⟩
  · rw [h, if_neg (Nat.not_lt.mpr hl), modUl_out hl, raiseH3_out hl, setBoot_self, ite_self]
  · rw [h, if_neg (not_trains hp)]
  · rw [h, if_pos ((trains_iff s).mpr (hp.resolve_left nofun)), if_pos hl, modUl_in hl, raiseH3_in hl]; rfl

/-- An event of a link in which H3 takes no part tunes that link. -/
theorem tunesUl_of_event (h : exec i s = if trains s then .next (raiseH3 (l < 18) (modUl l f s)) else .next s)
    (hy : f (tabGet {} s.hub.links l) = y) : TunesUl i s l true s.hub.boot y := by
  refine tunesUl_of_judged (f := f) ?_ hy
  rw [h, ite_self, ← raiseH3_modUl_boot (decide (l < 18)) l f s, setBoot_self]

end Links

section Ports
variable {i : Instr} {s : State} {p : Nat} {f : Port → Port} {y : Port}

/-- A write of a port's control register tunes that port. -/
theorem tunesPort_of_write (h : exec i s = .next (modPort p f s)) (hy : f (tabGet {} s.hub.ports p) = y) : TunesPort i s p false y := by
  subst hy
  refine ⟨fun hp => ?_, (nomatch ·), fun hp _ => ⟨_, ?_, tabSet_tunes s.hub.ports p⟩⟩
  · rw [h, modPort_out hp]
  · rw [h, modPort_in hp]; rfl

/-- An event of a port tunes that port. -/
theorem tunesPort_of_event (h : exec i s = if trains s then .next (raiseH3 (p < 8) (modPort p f s)) else .next s)
    (hy : f (tabGet {} s.hub.ports p) = y) : TunesPort i s p true y := by
  subst hy
  refine ⟨fun hp => ?_, fun _ hr => ?_, fun hp hr => ⟨_, ?_, tabSet_tunes s.hub.ports p⟩⟩
  · rw [h, modPort_out hp, raiseH3_out hp, ite_self]
  · rw [h, if_neg (not_trains hr)]
  · rw [h, if_pos ((trains_iff s).mpr (hr.resolve_left nofun)), modPort_in hp, raiseH3_in hp]; rfl

end Ports

/-! ### What H3 makes of a step or of a link's training (R444, R445) -/

/-- H3 runs and the boot has not failed. -/
def h3Acts (b : Boot) : Bool := b.harts.getLsbD 3 && b.phase != 15#4

theorem hartRuns_three (s : State) : hartRuns s 3 = s.hub.boot.harts.getLsbD 3 := by simp [hartRuns]

theorem stopBoot_eq (err : BitVec 8) (s : State) :
    stopBoot err s = setBoot (if h3Acts s.hub.boot = true then { s.hub.boot with phase := 15#4, err := err } else s.hub.boot) s := by
  unfold stopBoot h3Acts
  rw [hartRuns_three]
  split <;> rfl

/-- The boot block after H3 has judged a completed step by its failed channels (R444). -/
def judgedBoot (fail : BitVec 32) (b : Boot) : Boot :=
  if fail = BitVec.allOnes 32 then { b with phase := 15#4, err := 5#8 } else if fail ≠ 0#32 then { b with degraded := true } else b

theorem judgeStep_eq (fail : BitVec 32) (s : State) :
    judgeStep fail s = setBoot (if h3Acts s.hub.boot = true then judgedBoot fail s.hub.boot else s.hub.boot) s := by
  unfold judgeStep judgedBoot
  by_cases hall : fail = BitVec.allOnes 32
  · rw [if_pos hall, if_pos hall, stopBoot_eq]
  · rw [if_neg hall, if_neg hall, hartRuns_three]
    by_cases h3 : h3Acts s.hub.boot = true
    · obtain ⟨hr, hp⟩ : s.hub.boot.harts.getLsbD 3 = true ∧ s.hub.boot.phase ≠ 15#4 := by simpa [h3Acts] using h3
      by_cases hz : fail = 0#32
      · simp [hz, setBoot_self]
      · simp [hz, hr, hp, h3]
    · have hn : ¬(s.hub.boot.harts.getLsbD 3 = true ∧ s.hub.boot.phase ≠ 15#4) := by simpa [h3Acts] using h3
      rw [if_neg (fun h => hn h.2), if_neg h3, setBoot_self]

/-- STEP with GO starts a step, except in a recovery boot, without power or while one runs (R443). -/
theorem startStep_eq (s : State) (k : BitVec 4) (x : MemCtl) :
    startStep s k x = if s.hub.boot.phase ≠ 6#4 ∧ x.pwrok = true ∧ x.busy = false then { x with step := k, busy := true, pass := false } else { x with step := k } := by
  simp only [startStep, Bool.and_eq_true, trains_iff, Bool.not_eq_true', and_assoc]

/-- H3's verdict on an event, taken where the unit exists and the event calls for one, as one boot block: the form that `tunesMc_of_judged` and `tunesUl_of_judged` ask for. -/
theorem next_settled {P c : Prop} [Decidable P] [Decidable c] {s t : State} {b : Boot} (ht : t.hub.boot = s.hub.boot) :
    (if P ∧ c then setBoot b t else t) = setBoot (if P then (if c then b else s.hub.boot) else s.hub.boot) t := by
  by_cases hP : P <;> by_cases hc : c <;> simp [hP, hc, ← ht, setBoot_self]

theorem mcStepComplete_tunes (s : State) (n : Nat) (pass : Bool) (fail : BitVec 32) (lanes : BitVec 16) :
    let m : MemCtl := tabGet {} s.hub.mcs n
    TunesMc (.mcStepComplete n pass fail lanes) s n true (if m.busy = true ∧ h3Acts s.hub.boot = true then judgedBoot fail s.hub.boot else s.hub.boot)
      (if m.busy = true then { m with busy := false, fail := m.fail ||| fail, repair := m.repair ||| lanes, pass := stepPass pass fail } else m) := by
  intro m
  refine tunesMc_of_judged (f := fun x => if x.busy then { x with busy := false, pass := stepPass pass fail, fail := x.fail ||| fail, repair := x.repair ||| lanes } else x) ?_ rfl
  change (if trains s then Host.Outcome.next (if n < 8 ∧ m.busy = true then judgeStep fail _ else _) else _) = _
  rw [judgeStep_eq, raiseH3_modMc_boot, next_settled (raiseH3_modMc_boot _ _ _ s)]
  simp only [ite_and]

theorem ulActive_tunes (s : State) (l : Nat) (lanes repaired : BitVec 8) :
    let x : UcieLink := tabGet {} s.hub.links l
    TunesUl (.ulActive l lanes repaired) s l true
      (if x.train = true ∧ x.sbup = true ∧ lanes.toNat < Config.fullWidth.toNat ∧ h3Acts s.hub.boot = true then { s.hub.boot with phase := 15#4, err := 4#8 } else s.hub.boot)
      (if x.train = true ∧ x.sbup = true then { x with active := true, lanes := lanes, repaired := repaired } else x) := by
  intro x
  refine tunesUl_of_judged (f := fun x => if x.train && x.sbup then { x with active := true, lanes := lanes, repaired := repaired } else x) ?_ (by simp only [Bool.and_eq_true]; rfl)
  change (if trains s then Host.Outcome.next (if l < 18 ∧ (x.train && x.sbup) = true ∧ lanes.toNat < Config.fullWidth.toNat then stopBoot 4#8 _ else _) else _) = _
  rw [stopBoot_eq, raiseH3_modUl_boot, next_settled (raiseH3_modUl_boot _ _ _ s)]
  simp only [Bool.and_eq_true, ite_and]

/-- PT_FEC_READ (R447): the count is answered and is then 0. -/
theorem ptFecRead_counts (s : State) {n : Nat} (hn : n < 8) :
    let p : Port := tabGet {} s.hub.ports n
    ∃ t, exec (.ptFecRead n) s = .next t ∧ t.hub.out = s.hub.out ++ [.readValue (0x1000000D00010 + n * 0x1000) ((p.fec + Config.fecCount s.freeCtr).setWidth 64)] ∧
      t.freeCtr = s.freeCtr + 1 ∧ (({ p with fec := 0#32 } : Port) ≠ {} → tabGet {} t.hub.ports n = { p with fec := 0#32 }) ∧ t.core = s.core ∧ t.mem = s.mem := by
  intro p
  refine ⟨_, (if_pos hn : execPtFecRead n s = _), ?_⟩
  rw [modPort_in hn]
  exact ⟨rfl, rfl, tabGet_tabSet_ne, rfl, rfl⟩

theorem bringUp : BringUp := by
  intro s n pass fail lanes wide repaired cdr
  exact ⟨tunesMc_of_write rfl rfl, tunesMc_of_event rfl rfl,
    tunesMc_of_write rfl (startStep_eq ..), tunesMc_of_write rfl (startStep_eq ..), tunesMc_of_write rfl (startStep_eq ..), tunesMc_of_write rfl (startStep_eq ..),
    tunesMc_of_write rfl (startStep_eq ..), tunesMc_of_write rfl (startStep_eq ..),
    mcStepComplete_tunes s n pass fail lanes, tunesMc_of_write rfl rfl, tunesMc_of_event rfl rfl,
    tunesUl_of_write rfl rfl, tunesUl_of_event rfl rfl, tunesUl_of_write rfl rfl, ulActive_tunes s n wide repaired, tunesUl_of_write rfl rfl,
    tunesPort_of_write rfl rfl, tunesPort_of_event rfl rfl, tunesPort_of_write rfl rfl, tunesPort_of_write rfl rfl, tunesPort_of_event rfl rfl, tunesPort_of_event rfl rfl,
    tunesPort_of_write rfl rfl, tunesPort_of_event rfl rfl,
    tunesPort_of_write rfl (by simp only [Bool.and_eq_true, Bool.not_eq_true']), fun hn => if_neg (Nat.not_lt.mpr hn), ptFecRead_counts s⟩

/-! ### The key port (R440, R446) -/

theorem linkIdOk_iff (l : Nat) : linkIdOk l = true ↔ LinkId l := by simp [linkIdOk, LinkId, or_assoc]

theorem not_linkIdOk {l : Nat} (h : ¬LinkId l) : linkIdOk l = false := Bool.eq_false_iff.mpr (mt (linkIdOk_iff l).mp h)

/-- Only H1 writes the key port. -/
theorem keyPort_other (s : State) {hart : Nat} (link : BitVec 8) (x : BitVec 256) (h : hart ≠ 1) :
    exec (.seLrootWrite ⟨hart, x⟩) s = .next s ∧ exec (.lkey ⟨hart, link⟩) s = .next s := ⟨if_pos h, if_pos h⟩

theorem seLrootWrite_first (s : State) (x : BitVec 256) (h : s.hub.boot.lroot = none) : Boots (.seLrootWrite ⟨1, x⟩) s { s.hub.boot with lroot := some x } := by
  change Host.Outcome.next (setBoot { s.hub.boot with lroot := if s.hub.boot.lroot.isNone then some x else s.hub.boot.lroot } s) = _
  rw [h]; rfl

theorem seLrootWrite_again (s : State) (x : BitVec 256) (h : s.hub.boot.lroot ≠ none) : Boots (.seLrootWrite ⟨1, x⟩) s s.hub.boot := by
  change Host.Outcome.next (setBoot { s.hub.boot with lroot := if s.hub.boot.lroot.isNone then some x else s.hub.boot.lroot } s) = _
  rw [if_neg (by simpa using h)]; rfl

theorem lkey_starts (s : State) (link : BitVec 8) :
    ∃ bad, Boots (.lkey ⟨1, link⟩) s { s.hub.boot with seLink := link, seDone := false, seErr := false, seBusy := true, seBad := bad } ∧
      (bad = true ↔ s.hub.boot.lroot = none ∨ ¬LinkId link.toNat) :=
  ⟨_, rfl, by simp [← linkIdOk_iff]⟩

theorem lkeyDone_idle {s : State} (h : s.hub.boot.seBusy = false) : exec .lkeyDone s = .next s := if_pos (by simp [h])

theorem lkeyDone_bad {s : State} (hb : s.hub.boot.seBusy = true) (hx : s.hub.boot.seBad = true) :
    exec .lkeyDone s = .next (raiseH1 (setBoot { s.hub.boot with seBusy := false, seErr := true } s)) := by
  change execLkeyDone s = _
  simp only [execLkeyDone, hb, hx, Bool.not_true, if_true, Bool.false_eq_true, if_false]

theorem lkeyDone_good {s : State} (hb : s.hub.boot.seBusy = true) (hx : s.hub.boot.seBad = false) :
    let k := keyOf s.hub.boot s.hub.boot.seLink.toNat 0
    exec .lkeyDone s =
      .next (raiseH1 (setSeal s.hub.boot.seLink.toNat { west := { key := k }, east := { key := k } } (setBoot { s.hub.boot with seBusy := false, seDone := true } s))) := by
  change execLkeyDone s = _
  simp only [execLkeyDone, hb, hx, Bool.not_true, Bool.false_eq_true, if_false]
  rfl

/-! ### Sealed links (R442) -/

theorem linkRekey_none {s : State} {l dir : Nat} (h : ¬LinkId l) : exec (.linkRekey l dir) s = .next s := if_pos (not_linkIdOk h)

theorem linkRekey_next {s : State} {l dir : Nat} (h : LinkId l) :
    exec (.linkRekey l dir) s = .next (setSeal l (if dir = 0 then { sealOf s l with west := rekey s.hub.boot l (sealOf s l).west }
      else { sealOf s l with east := rekey s.hub.boot l (sealOf s l).east }) s) := if_neg (by simp [(linkIdOk_iff l).mpr h])

/-- A direction that has been rekeyed is past epoch 0. -/
theorem rekey_ne (b : Boot) (l : Nat) (x : Seal) : rekey b l x ≠ {} := fun h => Nat.succ_ne_zero _ (congrArg Seal.epoch h)

theorem linkRekey_seals {s : State} {l dir : Nat} (h : LinkId l) :
    let y : SealedLink := tabGet {} s.hub.seals l
    ∃ t, exec (.linkRekey l dir) s = .next t ∧ t = { s with hub := { s.hub with seals := t.hub.seals } } ∧
      tabGet {} t.hub.seals l = (if dir = 0 then { y with west := rekey s.hub.boot l y.west } else { y with east := rekey s.hub.boot l y.east }) ∧
      ∀ k, k ≠ l → tabGet ({} : SealedLink) t.hub.seals k = tabGet {} s.hub.seals k := by
  intro y
  have hne : (if dir = 0 then { y with west := rekey s.hub.boot l y.west } else { y with east := rekey s.hub.boot l y.east }) ≠ ({} : SealedLink) := by
    split
    · exact fun e => rekey_ne _ _ _ (congrArg SealedLink.west e)
    · exact fun e => rekey_ne _ _ _ (congrArg SealedLink.east e)
  exact ⟨_, linkRekey_next h, rfl, tabGet_tabSet_ne hne, fun k hk => tabGet_tabSet_other_ne hne hk⟩

/-- A link that the retry gives up changes in the links' and controllers' tables alone. -/
theorem takeDown_frame (l : Nat) (s : State) : takeDown l s = { s with hub := { s.hub with links := (takeDown l s).hub.links, mcs := (takeDown l s).hub.mcs } } := by
  unfold takeDown; split <;> rfl

theorem takeDown_link {l : Nat} {s : State} (hl : l < 18) (hw : tabWf {} s.hub.links = true) :
    (tabGet ({} : UcieLink) (takeDown l s).hub.links l).active = false ∧ (takeDown l s).hub.mcs = s.hub.mcs := by
  rw [takeDown, if_pos hl]
  exact ⟨congrArg UcieLink.active (tabGet_tabSet_same hw), rfl⟩

theorem takeDown_stack {l : Nat} {s : State} (hl : 32 ≤ l) (hw : tabWf {} s.hub.mcs = true) :
    (tabGet ({} : MemCtl) (takeDown l s).hub.mcs (l - 32)).active = false ∧ (takeDown l s).hub.links = s.hub.links := by
  rw [takeDown, if_neg (by omega)]
  exact ⟨congrArg MemCtl.active (tabGet_tabSet_same hw), rfl⟩

theorem linkTagMismatch_none {s : State} {l : Nat} (h : ¬LinkId l) : exec (.linkTagMismatch l) s = .next s := if_pos (by simp [not_linkIdOk h])

/-- A port drops and counts the packet. -/
theorem linkTagMismatch_port {s : State} {l : Nat} (h : LinkId l) (hl : 64 ≤ l) :
    ∃ t, exec (.linkTagMismatch l) s = .next t ∧ t = { s with hub := { s.hub with ports := t.hub.ports } } ∧
      tabGet ({} : Port) t.hub.ports (l - 64) = { (tabGet {} s.hub.ports (l - 64)) with droppedPkts := (tabGet ({} : Port) s.hub.ports (l - 64)).droppedPkts + 1 } := by
  refine ⟨_, (if_neg (by simp [(linkIdOk_iff l).mpr h])).trans (if_pos hl), rfl, tabGet_tabSet_ne fun e => ?_⟩
  exact Nat.succ_ne_zero _ (congrArg Port.droppedPkts e)

/-- The times of the mismatches that still count at the present one. -/
def recentMismatches (s : State) (l : Nat) : List Nat := s.gtc :: (sealOf s l).mismatches.filter fun t => decide (s.gtc < t + 2 ^ 20)

/-- The sealed link after a mismatch. -/
def mismatched (s : State) (l : Nat) : SealedLink :=
  { sealOf s l with mismatches := recentMismatches s l, down := (sealOf s l).down || decide (16 ≤ (recentMismatches s l).length) }

theorem mismatched_ne (s : State) (l : Nat) : mismatched s l ≠ {} := fun e => List.cons_ne_nil _ _ (congrArg SealedLink.mismatches e)

/-- A link resends; at the sixteenth recent mismatch it is taken down and H1 is interrupted. -/
theorem linkTagMismatch_link {s : State} {l : Nat} (h : LinkId l) (hl : l < 64) :
    exec (.linkTagMismatch l) s = .next
      (if 16 ≤ (recentMismatches s l).length then takeDown l (raiseH1 (setSeal l (mismatched s l) s)) else setSeal l (mismatched s l) s) :=
  (if_neg (by simp [(linkIdOk_iff l).mpr h])).trans (if_neg (Nat.not_le.mpr hl))

theorem linkTagMismatch_seals {s : State} {l : Nat} (h : LinkId l) (hl : l < 64) :
    let y : SealedLink := tabGet {} s.hub.seals l
    let recent := s.gtc :: y.mismatches.filter fun t => decide (s.gtc < t + 2 ^ 20)
    ∃ t, exec (.linkTagMismatch l) s = .next t ∧ t = { s with hub := { s.hub with seals := t.hub.seals, irq := t.hub.irq, links := t.hub.links, mcs := t.hub.mcs } } ∧
      (tabGet ({} : SealedLink) t.hub.seals l).west = y.west ∧ (tabGet ({} : SealedLink) t.hub.seals l).east = y.east ∧ (tabGet ({} : SealedLink) t.hub.seals l).mismatches = recent ∧
      (recent.length < 16 → (tabGet ({} : SealedLink) t.hub.seals l).down = y.down ∧ t.hub.irq = s.hub.irq ∧ t.hub.links = s.hub.links ∧ t.hub.mcs = s.hub.mcs) ∧
      (16 ≤ recent.length → (tabGet ({} : SealedLink) t.hub.seals l).down = true ∧ t.hub.irq.getLsbD 1 = true ∧
        (l < 18 → tabWf {} s.hub.links = true → (tabGet ({} : UcieLink) t.hub.links l).active = false ∧ t.hub.mcs = s.hub.mcs) ∧
        (32 ≤ l → tabWf {} s.hub.mcs = true → (tabGet ({} : MemCtl) t.hub.mcs (l - 32)).active = false ∧ t.hub.links = s.hub.links)) := by
  intro y recent
  have hget : tabGet {} (tabSet {} s.hub.seals l (mismatched s l)) l = mismatched s l := tabGet_tabSet_ne (mismatched_ne s l)
  by_cases hr : 16 ≤ recent.length
  · have hdown : (mismatched s l).down = true := by simp [mismatched, show 16 ≤ (recentMismatches s l).length from hr]
    have hframe := takeDown_frame l (raiseH1 (setSeal l (mismatched s l) s))
    refine ⟨_, (linkTagMismatch_link h hl).trans (congrArg _ (if_pos hr)), ?_⟩
    have hseals : (takeDown l (raiseH1 (setSeal l (mismatched s l) s))).hub.seals = tabSet {} s.hub.seals l (mismatched s l) := by rw [hframe]; rfl
    have hirq : (takeDown l (raiseH1 (setSeal l (mismatched s l) s))).hub.irq = s.hub.irq ||| 2#4 := by rw [hframe]; rfl
    rw [hseals, hirq, hget]
    exact ⟨hframe, rfl, rfl, rfl, fun hlt => absurd hr (Nat.not_le.mpr hlt), fun _ => ⟨hdown, by simp, fun h18 hw => takeDown_link h18 hw, fun h32 hw => takeDown_stack h32 hw⟩⟩
  · have hdown : (mismatched s l).down = y.down := by simp [mismatched, show ¬16 ≤ (recentMismatches s l).length from hr]; rfl
    refine ⟨_, (linkTagMismatch_link h hl).trans (congrArg _ (if_neg hr)), rfl, ?_⟩
    rw [setSeal_hub_seals, hget]
    exact ⟨rfl, rfl, rfl, fun _ => ⟨hdown, rfl, rfl, rfl⟩, fun h16 => absurd h16 hr⟩

/-! ### Pair keys and what crosses a port (R441) -/

theorem pairKeyExchange_down {s : State} {l : Nat} (peer : Nat) (h : (tabGet ({} : Port) s.hub.ports l).up = false) : exec (.pairKeyExchange ⟨l, peer⟩) s = .next s :=
  if_neg (Bool.eq_false_iff.mp h)

/-- A port that is up agrees a new key with the peer. -/
theorem pairKeyExchange_up {s : State} {l : Nat} (peer : Nat) (h : (tabGet ({} : Port) s.hub.ports l).up = true) (hl : l < 8) :
    ∃ t, exec (.pairKeyExchange ⟨l, peer⟩) s = .next t ∧
      tabGet ({} : Port) t.hub.ports l =
        { (tabGet {} s.hub.ports l) with pairKeys := tabSet none (tabGet ({} : Port) s.hub.ports l).pairKeys peer (some { key := Config.pairKey s.freeCtr }) } ∧ t.freeCtr = s.freeCtr + 1 ∧ t.core = s.core := by
  refine ⟨_, if_pos h, ?_⟩
  rw [modPort_in hl]
  refine ⟨tabGet_tabSet_ne fun e => ?_, rfl, rfl⟩
  exact Bool.false_ne_true ((congrArg Port.up e).symm.trans h)

theorem portKey_peer {s : State} {l n : Nat} {pk : PairKey} (h : pairKeyOf s l n = some pk) : portKey s l (.peer n) = .sealed (leBytes 32 pk.key.toNat) pk.sent := by
  simp only [portKey, h]

theorem portKey_queue_pair {s : State} {l n v : Nat} {q : BitVec 8} {pk : PairKey} (h : pairKeyOf s l n = some pk) (hp : (queueOf s v q).prot = false) :
    portKey s l (.queue v q n) = .sealed (leBytes 32 pk.key.toNat) pk.sent := by
  simp only [portKey, h, hp, Bool.false_eq_true, if_false]

theorem portKey_queue_slot {s : State} {l n v w : Nat} {q : BitVec 8} {pk : PairKey} {k : BitVec 256} (h : pairKeyOf s l n = some pk) (hp : (queueOf s v q).prot = true)
    (hk : tabGet none s.hub.keys (queueOf s v q).kslot.toNat = some (k, w)) :
    portKey s l (.queue v q n) = .sealed (leBytes 32 k.toNat) (tabGet 0 s.hub.keysSent (queueOf s v q).kslot.toNat) := by
  simp only [portKey, h, hp, hk, if_true]

theorem portKey_waits {s : State} {l n : Nat} (v : Nat) (q : BitVec 8) (h : pairKeyOf s l n = none) : portKey s l (.queue v q n) = .waits ∧ portKey s l (.peer n) = .waits := by
  simp only [portKey, h, and_self]

theorem portKey_collective (s : State) (l v : Nat) (q : BitVec 8) :
    ((queueOf s v q).prot = true → portKey s l (.collective v q) = .never) ∧ ((queueOf s v q).prot = false → portKey s l (.collective v q) = .clear) := by
  simp only [portKey]
  exact ⟨fun h => if_pos h, fun h => if_neg (by simp [h])⟩

/-- Counting `k` flits more under the key of slot `i`: what `countSealed` does for a protected queue. -/
def countSlot (i k : Nat) (s : State) : State := setHub s { s.hub with keysSent := tabSet 0 s.hub.keysSent i (tabGet 0 s.hub.keysSent i + k) }

/-- Counting `k` flits more under the key of the pair with device `n`: what `countSealed` does for other traffic with a peer. -/
def countPair (p n k : Nat) (s : State) : State :=
  let x := tabGet ({} : Port) s.hub.ports p
  setHub s { s.hub with ports := tabSet {} s.hub.ports p { x with pairKeys := tabSet none x.pairKeys n ((tabGet none x.pairKeys n).map fun y => { y with sent := y.sent + k }) } }

theorem pairKeyOf_countPair {s : State} {p n k : Nat} (hp : tabWf {} s.hub.ports = true) (hk : tabWf none (tabGet ({} : Port) s.hub.ports p).pairKeys = true) :
    pairKeyOf (countPair p n k s) p n = (pairKeyOf s p n).map fun y => { y with sent := y.sent + k } := by
  unfold pairKeyOf countPair
  rw [setHub_hub, tabGet_tabSet_same hp, tabGet_tabSet_same hk]

/-- The session that is found by its id is the one whose counter moves. -/
theorem find_map_sent (xs : List Session) (id : BitVec 32) (k : Nat) :
    (xs.map fun (y : Session) => if y.id = id then { y with sent := y.sent + k } else y).find? (fun x => x.id == id) =
      (xs.find? fun x => x.id == id).map fun y => { y with sent := y.sent + k } := by
  induction xs with
  | nil => rfl
  | cons x xs ih =>
    by_cases h : x.id = id
    · simp [h]
    · simp only [List.map_cons, if_neg h, List.find?_cons, beq_eq_false_iff_ne.mpr h, ih]

/-- Traffic with a peer is sealed under the pair key alone. -/
theorem portKey_peer_sealed {s : State} {l n m : Nat} {key : List Byte} (h : portKey s l (.peer m) = .sealed key n) :
    ∃ pk, pairKeyOf s l m = some pk ∧ leBytes 32 pk.key.toNat = key ∧ pk.sent = n := by
  cases hpair : pairKeyOf s l m with
  | none => rw [(portKey_waits 0 0#8 hpair).2] at h; cases h
  | some pk => rw [portKey_peer hpair] at h; cases h; exact ⟨pk, rfl, rfl, rfl⟩

/-- A packet of a queue is sealed under the pair key or, where the queue is protected, under its slot's key. -/
theorem portKey_queue_sealed {s : State} {l n m v : Nat} {q : BitVec 8} {key : List Byte} (h : portKey s l (.queue v q m) = .sealed key n) :
    ∃ pk, pairKeyOf s l m = some pk ∧
      ((queueOf s v q).prot = false ∧ leBytes 32 pk.key.toNat = key ∧ pk.sent = n ∨
        (queueOf s v q).prot = true ∧ ∃ k w, tabGet none s.hub.keys (queueOf s v q).kslot.toNat = some (k, w) ∧ leBytes 32 k.toNat = key ∧
          tabGet 0 s.hub.keysSent (queueOf s v q).kslot.toNat = n) := by
  cases hpair : pairKeyOf s l m with
  | none => rw [(portKey_waits v q hpair).1] at h; cases h
  | some pk =>
    refine ⟨pk, rfl, ?_⟩
    cases hprot : (queueOf s v q).prot with
    | false => rw [portKey_queue_pair hpair hprot] at h; cases h; exact .inl ⟨rfl, rfl, rfl⟩
    | true =>
      cases hkey : tabGet none s.hub.keys (queueOf s v q).kslot.toNat with
      | none => simp only [portKey, hpair, hprot, hkey, if_true] at h; cases h
      | some kw => rw [portKey_queue_slot hpair hprot hkey] at h; cases h; exact .inr ⟨rfl, kw.1, kw.2, rfl, rfl, rfl⟩

/-- A session's traffic is sealed under its key. -/
theorem portKey_session_sealed {s : State} {l n ep : Nat} {id : BitVec 32} {key : List Byte} (h : portKey s l (.session ep id) = .sealed key n) :
    ∃ x, (endpointOf s ep).sessions.find? (fun x => x.id == id) = some x ∧ x.key = key ∧ x.sent = n := by
  simp only [portKey] at h
  split at h
  · cases h; exact ⟨_, ‹_›, rfl, rfl⟩
  · cases h

/-- The counter of the key that covers a packet rises by the packet's flits. -/
theorem portKey_countSealed {s : State} {l n k : Nat} {tr : Traffic} {key : List Byte} (h : portKey s l tr = .sealed key n) (he : tabWf {} s.hub.eps = true)
    (hk : tabWf 0 s.hub.keysSent = true) (hp : tabWf {} s.hub.ports = true) (hpk : tabWf none (tabGet ({} : Port) s.hub.ports l).pairKeys = true) :
    portKey (countSealed l tr k s) l tr = .sealed key (n + k) := by
  cases tr with
  | session ep id =>
    obtain ⟨x, hx, rfl, rfl⟩ := portKey_session_sealed h
    have hfind : (endpointOf (countSealed l (.session ep id) k s) ep).sessions.find? (fun x => x.id == id) = some { x with sent := x.sent + k } := by
      change (tabGet {} (tabSet {} s.hub.eps ep _) ep).sessions.find? _ = _
      rw [tabGet_tabSet_same he, find_map_sent, hx, Option.map_some]
    simp only [portKey, hfind]
  | queue v q m =>
    obtain ⟨pk, hpair, ⟨hprot, rfl, rfl⟩ | ⟨hprot, x, w, hkey, rfl, rfl⟩⟩ := portKey_queue_sealed h
    · have hcount : countSealed l (.queue v q m) k s = countPair l m k s := if_neg (Bool.eq_false_iff.mp hprot)
      rw [hcount]
      exact portKey_queue_pair ((pairKeyOf_countPair hp hpk).trans (congrArg _ hpair)) hprot
    · have hcount : countSealed l (.queue v q m) k s = countSlot (queueOf s v q).kslot.toNat k s := if_pos hprot
      rw [hcount, ← tabGet_tabSet_same (x := tabGet 0 s.hub.keysSent (queueOf s v q).kslot.toNat + k) hk]
      exact portKey_queue_slot hpair hprot hkey
  | peer m =>
    obtain ⟨pk, hpair, rfl, rfl⟩ := portKey_peer_sealed h
    exact portKey_peer ((pairKeyOf_countPair hp hpk).trans (congrArg _ hpair))
  | collective v q =>
    simp only [portKey] at h
    split at h <;> cases h

/-- Counting flits leaves the core in focus and memory. -/
theorem countSealed_frame (l k : Nat) (tr : Traffic) (s : State) : (countSealed l tr k s).core = s.core ∧ (countSealed l tr k s).mem = s.mem := by
  cases tr with
  | queue v q m => simp only [countSealed]; split <;> exact ⟨rfl, rfl⟩
  | session ep id => exact ⟨rfl, rfl⟩
  | peer m => exact ⟨rfl, rfl⟩
  | collective v q => exact ⟨rfl, rfl⟩

theorem sealPacket_sealed {s : State} {l n : Nat} {tr : Traffic} {key : List Byte} (fs : List (List Byte)) (h : portKey s l tr = .sealed key n) :
    sealPacket l tr fs s = some (sealPayload l key n fs, countSealed l tr fs.length s) := by
  simp only [sealPacket, h]

theorem sealedLinks : SealedLinks := by
  intro s link l dir hart peer x
  refine ⟨seLrootWrite_first s x, seLrootWrite_again s x, keyPort_other s link x, lkey_starts s link, lkeyDone_idle, lkeyDone_bad,
    fun hb hx => ⟨_, lkeyDone_good hb hx, rfl, rfl, rfl, rfl, rfl⟩, linkRekey_none, linkRekey_seals, linkTagMismatch_none, linkTagMismatch_port, linkTagMismatch_seals,
    pairKeyExchange_down peer, pairKeyExchange_up peer, fun v q k w pk => ?_, fun tr key n fs h he hk hp hpk => ?_⟩
  · exact ⟨portKey_waits v q, fun h => ⟨portKey_peer h, portKey_queue_pair h, portKey_queue_slot h⟩, portKey_collective s l v q⟩
  · obtain ⟨hcore, hmem⟩ := countSealed_frame l fs.length tr s
    exact ⟨_, sealPacket_sealed fs h, portKey_countSealed h he hk hp hpk, hcore, hmem⟩

/-! ### Where a hart's write goes (R5, R48) -/

theorem noteAccess_frame (a : OpenAccess) (s : State) : noteAccess a s = { s with races := (noteAccess a s).races } := by
  unfold noteAccess; split <;> rfl

/-- The detector's record of a span of granules changes nothing else. -/
theorem noteSpan_frame (a : OpenAccess) (n key : Nat) (s : State) : noteSpan a n key s = { s with races := (noteSpan a n key s).races } := by
  unfold noteSpan
  induction List.range ((key % 32 + n + 31) / 32) generalizing s with
  | nil => rfl
  | cons i is ih => rw [List.foldl_cons, ih, noteAccess_frame]

theorem registerWrite_stack (s : State) {a : Nat} (x : BitVec 64) (ha : a < 2 ^ 40) (hs : a % 2 ^ 37 < 80000000000) :
    exec (.registerWrite (BitVec.ofNat 64 a) x) s = .next (writePhysical a x s) := by
  have hplain : plainStore a = true := by
    simp only [plainStore, physOk, Bool.or_eq_true, Bool.and_eq_true, decide_eq_true_eq]
    exact .inl (.inl (.inl ⟨ha, hs⟩))
  change execRegisterWrite (BitVec.ofNat 64 a) x s = _
  rw [execRegisterWrite, BitVec.toNat_ofNat, Nat.mod_eq_of_lt (by omega), if_pos hplain]

/-- A hart's store to a stack's memory changes its eight bytes (R48). -/
theorem registerWrite_stack_stores (s : State) {a : Nat} (x : BitVec 64) (ha : a < 2 ^ 40) (hs : a % 2 ^ 37 < 80000000000) :
    ∃ t, exec (.registerWrite (BitVec.ofNat 64 a) x) s = .next t ∧ t = { s with mem := t.mem, races := t.races } ∧
      (Memory.wf s.mem = true → getLe t.mem a 8 = x.toNat ∧ ∀ k, k < a ∨ a + 8 ≤ k → getByte t.mem k = getByte s.mem k) := by
  refine ⟨_, registerWrite_stack s x ha hs, ?_, fun hw => ?_⟩
  · rw [writePhysical, noteSpan_frame]
  · have hmem : (writePhysical a x s).mem = setLe s.mem a 8 x.toNat := rfl
    rw [hmem]
    refine ⟨(getLe_setLe hw).trans (Nat.mod_eq_of_lt x.isLt), fun k hk => ?_⟩
    exact getByte_setBytes_other hw (by rwa [leBytes_length])

/-- A hart's write at the offset `o` of HD0's blocks answers `out`. -/
def Writes (s : State) (x : BitVec 64) (o : Nat) (out : Machine.Out) : Prop := exec (.registerWrite (BitVec.ofNat 64 (0x1000000000000 + o)) x) s = out

/-- A write below the bind rings goes to the block of HD0 at its offset. -/
theorem writes_block (s : State) (x : BitVec 64) {o : Nat} (ho : o < 0x1080000) : Writes s x o (writeBlock o x s) := by
  have hplain : plainStore (0x1000000000000 + o) = false := by
    simp only [plainStore, physOk, Bool.or_eq_false_iff, Bool.and_eq_false_iff, decide_eq_false_iff_not]
    omega
  change execRegisterWrite (BitVec.ofNat 64 (0x1000000000000 + o)) x s = _
  rw [execRegisterWrite, BitVec.toNat_ofNat, Nat.mod_eq_of_lt (by omega), if_neg (Bool.eq_false_iff.mp hplain), if_pos (by omega), Nat.add_sub_cancel_left]

/-! ### The blocks of HD0 by their offsets -/

section Blocks
variable (s : State) (x : BitVec 64) {o n : Nat}

theorem writeBlock_none (h : 0xD08000 ≤ o) : writeBlock o x s = .next s := by
  unfold writeBlock
  repeat rw [if_neg (by omega)]

theorem writeBlock_dispatch (h : o < 0x1000) : writeBlock (0x200000 + o) x s = writeDispatch o x s := by
  unfold writeBlock
  repeat rw [if_neg (by omega)]
  rw [if_pos (by omega), Nat.add_sub_cancel_left]

theorem writeBlock_pwSet (h : n < 4368) : writeBlock (0x280000 + 8 * n) x s = execPwSetWrite n (x.extractLsb' 0 13) s := by
  unfold writeBlock
  repeat rw [if_neg (by omega)]
  rw [if_pos (by omega), Nat.add_sub_cancel_left, Nat.mul_div_cancel_left _ (by omega)]

theorem writeBlock_stack (h : o < 0x8000) (h8 : o % 8 = 0) : writeBlock (0x400000 + o) x s = writeStack o x s := by
  unfold writeBlock
  repeat rw [if_neg (by omega)]
  rw [if_pos (by omega), Nat.add_sub_cancel_left]

theorem writeBlock_stop (h : n < 8) (ho : o < 0x40) : writeBlock (0x600000 + o + 0x40 * n) x s = writeStop n o x s := by
  unfold writeBlock
  repeat rw [if_neg (by omega)]
  rw [if_pos (by omega)]
  congr 1 <;> omega

theorem writeBlock_watchdog (h : o < 0x40000) : writeBlock (0x700000 + o) x s = writeWatchdog o x s := by
  unfold writeBlock
  repeat rw [if_neg (by omega)]
  rw [if_pos (by omega), Nat.add_sub_cancel_left]

theorem writeBlock_acct (h : o < 0x1000) : writeBlock (0x900000 + o) x s = writeAcct o x s := by
  unfold writeBlock
  repeat rw [if_neg (by omega)]
  rw [if_pos (by omega), Nat.add_sub_cancel_left]

theorem writeBlock_mcCtl (h : n < 8) : writeBlock (0xB00000 + 0x1000 * n) x s = writeMc n 0 x s := by
  unfold writeBlock
  repeat rw [if_neg (by omega)]
  rw [if_pos (by omega)]
  congr 1 <;> omega

end Blocks

/-! ### The rights block (R69) -/

/-- A write of RGN_CMD clears DONE and carries out the command that OP names. -/
theorem regionCommand_ops (s : State) (x : BitVec 64) :
    let op := field x.toNat 56 8
    let cleared : State := { s with hub := { s.hub with rights := { s.hub.rights with staDone := false } } }
    let id := x.extractLsb' 0 20
    let o := x.extractLsb' 0 12
    (op = 1 → regionCommand x s = exec (.regionQuery id) cleared) ∧ (op = 2 → regionCommand x s = exec (.regionPurge id) cleared) ∧ (op = 3 → regionCommand x s = exec (.regionFree id) cleared) ∧
    (op = 4 → regionCommand x s = exec (.regionAlloc id) cleared) ∧ (op = 5 → regionCommand x s = exec (.regionRfree id) cleared) ∧ (op = 6 → regionCommand x s = exec (.ownerPurge o) cleared) ∧
    (op = 7 → regionCommand x s = exec (.ownerCreate o) cleared) ∧ (op = 8 → regionCommand x s = exec (.ownerDelete o) cleared) := by
  intro op cleared id o
  refine ⟨fun h => ?_, fun h => ?_, fun h => ?_, fun h => ?_, fun h => ?_, fun h => ?_, fun h => ?_, fun h => ?_⟩ <;>
  · have hb : bits x.toNat 56 8 = _ := h
    simp only [regionCommand, hb]
    rfl

/-! ### The dispatch block (R93, R96, R101, R340) -/

section Dispatch
variable (s : State) (x : BitVec 64) (p : BitVec 3)

theorem ofNat_three_toNat : BitVec.ofNat 3 p.toNat = p := by rw [BitVec.ofNat_toNat, BitVec.setWidth_eq]

theorem setPart_getPart : setPart s p (getPart s p) = s := by
  unfold setPart getPart
  rw [Vector.set_getElem_self]
  rfl

/-- A ring for which no event waits is left as it is. -/
theorem drainRing_empty (h : (getPart s p).evtWait = []) : drainRing p s = s := by
  have hself : { getPart s p with evtWait := [] } = getPart s p := by rw [← h]
  rw [drainRing, h, drainEvents, hself, setPart_getPart]

/-- The registers of partition `p` in the dispatch block, by their offset in its 64 bytes (R93). -/
def partRegister (o : Nat) : Machine.Out :=
  let y := getPart s p
  match o with
  | 0x00 => execPartMapWrite p.toNat (x.setWidth 32) s
  | 0x08 => .next (setPart s p { y with bindTail := bindTailOf y.bindTail y.bindHead (x.setWidth 32) })
  | 0x18 => .next (drainRing p (setPart s p { y with evtBase := x.extractLsb' 12 38, evtLog := x.extractLsb' 0 4 }))
  | 0x28 => .next (drainRing p (setPart s p { y with evtHead := x.setWidth 32 }))
  | 0x30 => .next (setPart s p { y with slice := x.extractLsb' 0 24 })
  | _ => .next s

theorem writes_part {o : Nat} (ho : o < 0x40) : Writes s x (0x200000 + o + 0x40 * p.toNat) (partRegister s x p o) := by
  have hp := p.isLt
  have hdiv : (o + 0x40 * p.toNat) / 0x40 = p.toNat := by omega
  have hmod : (o + 0x40 * p.toNat) % 0x40 = o := by omega
  have hdispatch : writeDispatch (o + 0x40 * p.toNat) x s = partRegister s x p o := by
    simp only [writeDispatch, hdiv, hmod, ofNat_three_toNat]
    exact if_pos (by omega)
  rw [← hdispatch, ← writeBlock_dispatch s x (by omega), Nat.add_assoc]
  exact writes_block s x (by omega)

variable {s p} in
theorem partRegister_evtBase (h : (getPart s p).evtWait = []) :
    partRegister s x p 0x18 = .next (setPart s p { getPart s p with evtBase := x.extractLsb' 12 38, evtLog := x.extractLsb' 0 4 }) :=
  congrArg _ (drainRing_empty _ _ (by rw [getPart_setPart, if_pos rfl]; exact h))

variable {s p} in
theorem partRegister_evtHead (h : (getPart s p).evtWait = []) : partRegister s x p 0x28 = .next (setPart s p { getPart s p with evtHead := x.setWidth 32 }) :=
  congrArg _ (drainRing_empty _ _ (by rw [getPart_setPart, if_pos rfl]; exact h))

theorem writes_cbindTail : Writes s x (0x200300 + 16 * p.toNat)
    (.next (setPart s p { getPart s p with cbindTail := bindTailOf (getPart s p).cbindTail (getPart s p).cbindHead (x.setWidth 32) })) := by
  have hp := p.isLt
  have hdiv : (0x300 + 16 * p.toNat - 0x300) / 16 = p.toNat := by omega
  refine (writes_block s x (by omega)).trans ?_
  rw [show 0x200300 + 16 * p.toNat = 0x200000 + (0x300 + 16 * p.toNat) by omega, writeBlock_dispatch s x (by omega)]
  unfold writeDispatch
  rw [if_neg (by omega), if_neg (by omega), if_pos (by omega), hdiv, ofNat_three_toNat]

/-- The spawn registers of partition `p`, by their offset in its 32 bytes (R340). -/
def spawnRegister (o : Nat) : Machine.Out :=
  match o with
  | 0x00 => .next (setPart s p { getPart s p with spnBase := x.extractLsb' 12 38, spnLog := x.extractLsb' 0 4 })
  | 0x08 => .next (setPart s p { getPart s p with spnTail := x.setWidth 32 })
  | _ => .next s

theorem writes_spawn {o : Nat} (ho : o < 32) : Writes s x (0x200400 + o + 32 * p.toNat) (spawnRegister s x p o) := by
  have hp := p.isLt
  have hdiv : (0x400 + o + 32 * p.toNat - 0x400) / 32 = p.toNat := by omega
  have hmod : (0x400 + o + 32 * p.toNat) % 32 = o := by omega
  refine (writes_block s x (by omega)).trans ?_
  rw [show 0x200400 + o + 32 * p.toNat = 0x200000 + (0x400 + o + 32 * p.toNat) by omega, writeBlock_dispatch s x (by omega)]
  unfold writeDispatch
  rw [if_neg (by omega), if_neg (by omega), if_neg (by omega), if_pos (by omega), hdiv, hmod, ofNat_three_toNat]
  rfl

end Dispatch

/-! ### The stop registers (R375, R382) -/

section Stops
variable (s : State) (x : BitVec 64) (p : BitVec 3)

theorem writes_stop {o : Nat} (ho : o < 0x40) : Writes s x (0x600000 + o + 0x40 * p.toNat) (writeStop p.toNat o x s) := by
  have hp := p.isLt
  rw [← writeBlock_stop s x hp ho]
  exact writes_block s x (by omega)

theorem writeStop_gtc : writeStop p.toNat 0x00 x s = .next (setPart s p { getPart s p with stopGtc := x }) := by
  simp only [writeStop, ofNat_three_toNat]

theorem writeStop_spill : writeStop p.toNat 0x20 x s = .next (setPart s p { getPart s p with spill := x.extractLsb' 21 29 }) := by
  simp only [writeStop, ofNat_three_toNat]

theorem writeStop_vtMode : writeStop p.toNat 0x38 x s = .next (setPart s p { getPart s p with vtWall := x.getLsbD 0 }) := by
  simp only [writeStop, ofNat_three_toNat]

theorem stopCommand_ops (n : Nat) :
    let op := field x.toNat 56 8
    (op = 1 → stopCommand n x s = exec (.stopArm n (x.getLsbD 16) (x.extractLsb' 8 8)) s) ∧ (op = 2 → stopCommand n x s = exec (.stopCancel n) s) ∧
    (op = 3 → stopCommand n x s = exec (.stopResume n (x.getLsbD 17) (x.extractLsb' 0 6)) s) := by
  intro op
  refine ⟨fun h => ?_, fun h => ?_, fun h => ?_⟩ <;>
  · have hb : bits x.toNat 56 8 = _ := h
    simp only [stopCommand, hb]
    rfl

/-- Virtual time is set while the partition is halted or not resident. -/
theorem writeStop_free (h : (getPart s p).halted = true ∨ residentPart s p = false) :
    writeStop p.toNat 0x28 x s = .next (setPart s p { getPart s p with vtBase := x }) ∧ writeStop p.toNat 0x30 x s = .next (setPart s p { getPart s p with vtGtc := x }) := by
  have hfree : ((getPart s p).halted || !residentPart s p) = true := by simpa using h
  simp only [writeStop, ofNat_three_toNat, hfree, if_true, and_self]

/-- While a partition is resident and runs, neither COLOUR nor virtual time is set. -/
theorem writeStop_busy (h : ¬((getPart s p).halted = true ∨ residentPart s p = false)) :
    writeStop p.toNat 0x18 x s = .next s ∧ writeStop p.toNat 0x28 x s = .next s ∧ writeStop p.toNat 0x30 x s = .next s := by
  have hbusy : ((getPart s p).halted || !residentPart s p) = false := by simpa using h
  simp only [writeStop, ofNat_three_toNat, hbusy, Bool.false_eq_true, if_false, and_self]

end Stops

/-! ### Single registers of the other blocks -/

section Singles
variable (s : State) (x : BitVec 64)

theorem writes_pwSet {v : Nat} (hv : v < 4368) : Writes s x (0x280000 + 8 * v) (exec (.pwSetWrite v (x.extractLsb' 0 13)) s) :=
  (writes_block s x (by omega)).trans (writeBlock_pwSet s x hv)

/-- GO with the command of a SEGMV through the hart port of a galley (R284). -/
theorem writes_goSegmv {v : Nat} (hv : v < 256) (h : field x.toNat 0 3 = 0) : Writes s x (0x400040 + 0x80 * v) (exec (.goSegmv v) s) := by
  have hdiv : (0x40 + 0x80 * v) / 0x80 = v := by omega
  have hmod : (0x40 + 0x80 * v) % 0x80 = 0x40 := by omega
  have hb : bits x.toNat 0 3 = 0 := h
  have hgo : writeStack (0x40 + 0x80 * v) x s = exec (.goSegmv v) s := by
    simp only [writeStack, hdiv, hmod, hb]
    rfl
  rw [← hgo, ← writeBlock_stack s x (by omega) (by omega), ← Nat.add_assoc]
  exact writes_block s x (by omega)

theorem writes_watchdogIvl {v : Nat} (hv : v < 16384) : Writes s x (0x700000 + 16 * v)
    (.next { s with hub := { s.hub with queues := tabSet {} s.hub.queues v { (tabGet {} s.hub.queues v) with ivl := x.setWidth 32 } } }) := by
  refine (writes_block s x (by omega)).trans ?_
  rw [writeBlock_watchdog s x (by omega), writeWatchdog, if_pos (by omega), Nat.mul_div_cancel_left v (by omega)]
  rfl

theorem writes_acctWeight (c : Fin 8) : Writes s x (0x900000 + 8 * c.val)
    (.next { s with hub := { s.hub with acct := { s.hub.acct with w := s.hub.acct.w.set c (x.extractLsb' 0 24) } } }) := by
  have hc := c.isLt
  refine (writes_block s x (by omega)).trans ?_
  rw [writeBlock_acct s x (by omega)]
  simp only [writeAcct, Nat.mul_div_cancel_left c.val (show 0 < 8 by omega)]
  rw [dif_pos hc, if_pos (by omega)]
  rfl

/-- MC_CTL without GO sets power, enable and the step (R443). -/
theorem writes_mcCtl {v : Nat} (hv : v < 8) (h : x.getLsbD 6 = false) :
    Writes s x (0xB00000 + 0x1000 * v) (.next (modMc v (fun y => { y with pwr := x.getLsbD 0, enable := x.getLsbD 1, step := x.extractLsb' 2 4 }) s)) := by
  refine (writes_block s x (by omega)).trans ?_
  rw [writeBlock_mcCtl s x hv]
  exact if_neg (Bool.eq_false_iff.mp h)

theorem writes_mcCtl_tunes {v : Nat} (hv : v < 8) (h : x.getLsbD 6 = false) :
    ∃ t, Writes s x (0xB00000 + 0x1000 * v) (.next t) ∧ t = { s with hub := { s.hub with mcs := t.hub.mcs } } ∧ (tabWf {} s.hub.mcs = true →
      tabGet {} t.hub.mcs v = { (tabGet ({} : MemCtl) s.hub.mcs v) with pwr := x.getLsbD 0, enable := x.getLsbD 1, step := x.extractLsb' 2 4 }) := by
  refine ⟨_, writes_mcCtl s x hv h, ?_⟩
  rw [modMc_in hv]
  exact ⟨rfl, tabGet_tabSet_same⟩

/-- An entry cleared reads the default, and the other entries stand. -/
theorem tabGet_tabSet_default {α : Type} [DecidableEq α] {d : α} {t : Tab α} (h : tabWf d t = true) (v k : Nat) :
    tabGet d (tabSet d t v d) k = if k = v then d else tabGet d t k := by
  split
  · subst k; exact tabGet_tabSet_same h
  · exact tabGet_tabSet_other h ‹_›

/-- Reading ACCT_E answers the sum and clears it (R423). -/
theorem acctERead_clears (v : Nat) :
    ∃ t, exec (.acctERead v) s = .next t ∧ t.hub.out = s.hub.out ++ [.readValue (0x1000000000000 + 0x900100 + 16 * v) (tabGet 0#64 s.hub.acct.total v)] ∧ t.core = s.core ∧ t.mem = s.mem ∧
      t.hub.acct.late = s.hub.acct.late ∧ (tabWf 0#64 s.hub.acct.total = true → ∀ k, tabGet 0#64 t.hub.acct.total k = if k = v then 0#64 else tabGet 0#64 s.hub.acct.total k) :=
  ⟨_, rfl, rfl, rfl, rfl, rfl, fun h k => tabGet_tabSet_default h v k⟩

/-- Reading ACCT_LATE answers the whole counts and clears the fraction with them (R423). -/
theorem acctLateRead_clears (v : Nat) :
    ∃ t, exec (.acctLateRead v) s = .next t ∧ t.hub.out = s.hub.out ++ [.readValue (0x1000000000000 + 0x900108 + 16 * v) (BitVec.ofNat 64 (min (2 ^ 64 - 1) (tabGet 0 s.hub.acct.late v / 2 ^ 12)))] ∧
      t.core = s.core ∧ t.mem = s.mem ∧ t.hub.acct.total = s.hub.acct.total ∧
      (tabWf 0 s.hub.acct.late = true → ∀ k, tabGet 0 t.hub.acct.late k = if k = v then 0 else tabGet 0 s.hub.acct.late k) :=
  ⟨_, rfl, rfl, rfl, rfl, rfl, fun h k => tabGet_tabSet_default h v k⟩

/-- The four table registers stand once they are locked. -/
theorem writes_rights_locked (h : s.hub.rights.locked = true) :
    Writes s x 0x100000 (.next s) ∧ Writes s x 0x100008 (.next s) ∧ Writes s x 0x100010 (.next s) ∧ Writes s x 0x100018 (.next s) :=
  ⟨(writes_block s x (by omega)).trans (if_pos h), (writes_block s x (by omega)).trans (if_pos h),
    (writes_block s x (by omega)).trans (if_pos h), (writes_block s x (by omega)).trans (if_pos h)⟩

/-- Before that each takes what is written. -/
theorem writes_rights_unlocked (h : s.hub.rights.locked = false) :
    let put (r : Rights) : Machine.Out := .next { s with hub := { s.hub with rights := r } }
    Writes s x 0x100000 (put { s.hub.rights with xltRoot := x.extractLsb' 0 50 }) ∧ Writes s x 0x100008 (put { s.hub.rights with ownTbl := x.extractLsb' 0 50 }) ∧
    Writes s x 0x100010 (put { s.hub.rights with rgnTbl := x.extractLsb' 0 50 }) ∧ Writes s x 0x100018 (put { s.hub.rights with rgnCap := x.toNat }) :=
  have hn : ¬s.hub.rights.locked = true := Bool.eq_false_iff.mp h
  ⟨(writes_block s x (by omega)).trans (if_neg hn), (writes_block s x (by omega)).trans (if_neg hn),
    (writes_block s x (by omega)).trans (if_neg hn), (writes_block s x (by omega)).trans (if_neg hn)⟩

end Singles

/-- Each clause by the lemma of its register; a register at a fixed offset by `writes_block` and the block's own match. -/
theorem hartRegisters : HartRegisters := by
  intro s a x v p c base writes hub y op cleared id o free
  obtain ⟨hop1, hop2, hop3, hop4, hop5, hop6, hop7, hop8⟩ := regionCommand_ops s x
  obtain ⟨harm, hcancel, hresume⟩ := stopCommand_ops s x p.toNat
  have hrgn : Writes s x 0x100030 (regionCommand x s) := writes_block s x (by omega)
  have hstop {o : Nat} (ho : o < 0x40) : Writes s x (0x600000 + o + 0x40 * p.toNat) (writeStop p.toNat o x s) := writes_stop s x p ho
  have hcmd : Writes s x (0x600008 + 0x40 * p.toNat) (stopCommand p.toNat x s) := hstop (o := 0x08) (by omega)
  exact ⟨registerWrite_stack_stores s x, fun hlo hhi => (writes_block s x hhi).trans (writeBlock_none s x hlo),
    -- the rights block
    writes_block s x (by omega), writes_block s x (by omega), writes_rights_locked s x, writes_rights_unlocked s x, writes_block s x (by omega),
    fun h => hrgn.trans (hop1 h), fun h => hrgn.trans (hop2 h), fun h => hrgn.trans (hop3 h), fun h => hrgn.trans (hop4 h),
    fun h => hrgn.trans (hop5 h), fun h => hrgn.trans (hop6 h), fun h => hrgn.trans (hop7 h), fun h => hrgn.trans (hop8 h),
    -- the dispatch block, PW_SET, hints and the stacks' hart port
    writes_part s x p (o := 0x00) (by omega), writes_part s x p (o := 0x08) (by omega), writes_cbindTail s x p,
    fun h => ⟨(writes_part s x p (o := 0x18) (by omega)).trans (partRegister_evtBase x h), (writes_part s x p (o := 0x28) (by omega)).trans (partRegister_evtHead x h)⟩,
    writes_part s x p (o := 0x30) (by omega), writes_spawn s x p (o := 0x00) (by omega), writes_spawn s x p (o := 0x08) (by omega), writes_block s x (by omega),
    writes_pwSet s x, writes_block s x (by omega), writes_block s x (by omega), writes_goSegmv s x,
    -- the stop registers
    fun h => hcmd.trans (harm h), fun h => hcmd.trans (hcancel h), fun h => hcmd.trans (hresume h),
    (hstop (o := 0x00) (by omega)).trans (writeStop_gtc s x p), (hstop (o := 0x20) (by omega)).trans (writeStop_spill s x p),
    fun h => have ⟨hbase, hgtc⟩ := writeStop_free s x p h; ⟨(hstop (o := 0x28) (by omega)).trans hbase, (hstop (o := 0x30) (by omega)).trans hgtc⟩,
    fun h => have ⟨hcolour, hbase, hgtc⟩ := writeStop_busy s x p h
      ⟨(hstop (o := 0x18) (by omega)).trans hcolour, (hstop (o := 0x28) (by omega)).trans hbase, (hstop (o := 0x30) (by omega)).trans hgtc⟩,
    (hstop (o := 0x38) (by omega)).trans (writeStop_vtMode s x p),
    -- the watchdog, accounting and boot blocks, the flash port and the memory controllers
    writes_watchdogIvl s x, writes_acctWeight s x c, writes_block s x (by omega), writes_block s x (by omega), writes_block s x (by omega), writes_block s x (by omega),
    writes_block s x (by omega), writes_block s x (by omega), writes_block s x (by omega), writes_mcCtl_tunes s x, acctERead_clears s v, acctLateRead_clears s v⟩

/-- Settles O52: each of its three parts by the lemmas about its own block. -/
theorem linksAndRegisters : Obligations.LinksAndRegisters := ⟨sealedLinks, bringUp, hartRegisters⟩

end Sys2Proof.Proofs
end

section
/-! The end of an issue cycle: each of its parts leaves the state alone where it has nothing to watch, and the statement about the cycle assembled from them
(R21, R127, R422, R442). -/

namespace Sys2Proof.Proofs
open Sys2Proof Sys2Proof.Machine Sys2Proof.Claim

/-! ### One core in the cycle (R127, R422) -/

/-- Without static energy no context is charged. -/
theorem chargeStatic_zero (c : Core) : chargeStatic 0 c = c := if_pos (.inr (Nat.zero_div _))

theorem cycleCore_free {a : Acct} (hc : a.sw = 0#24) (hh : a.swc = 0#24) (now u : Nat) (c : Core) :
    cycleCore a now u c = { clearRecent c with ctx := settle now (clearRecent c).ctx } := by
  have hw : (if isCompute u then a.sw.toNat else a.swc.toNat) = 0 := by rw [hc, hh]; exact ite_self _
  rw [cycleCore, hw, chargeStatic_zero]

/-- Results that are not due are still pending, in their order. -/
theorem settle_none {now : Nat} {c : Ctx} (h : ∀ p ∈ c.pend, now < p.1) : settle now c = c := by
  have hdue : c.pend.filter (fun p => decide (p.1 ≤ now)) = [] := by simpa using h
  have hrest : c.pend.filter (fun p => !decide (p.1 ≤ now)) = c.pend := by simpa using h
  rw [settle, hdue, hrest]
  rfl

/-- A single result that is due is applied. -/
theorem settle_single {now n : Nat} {p : Pending} {c : Ctx} (h : c.pend = [(n, p)]) (hn : n ≤ now) : settle now c = applyPending { c with pend := [] } p := by
  simp [settle, h, hn]

theorem writesG_ctxPutG {s : State} {c : Ctx} (hg : c.regs = s.core.ctx.regs) (d : Reg) (x : Word) : WritesG d x s (setCtx s (ctxPutG c d x)) := by
  have hread (r : Reg) : rdG (setCtx s (ctxPutG c d x)) r = if r = d ∧ d ≠ 0#5 then x else rdG s r := by
    have hc : ctxG c r = rdG s r := by rw [rdG, ctxG, ctxG, hg]
    exact (ctxG_put c d r x).trans (by rw [hc])
  refine ⟨fun r hr => by rw [hread, if_neg fun h => hr h.1], ?_⟩
  rw [hread]
  by_cases hd : d = 0#5
  · rw [if_neg fun h => h.2 hd, if_pos hd, hd]; rfl
  · rw [if_pos ⟨rfl, hd⟩, if_neg hd]

/-! ### Parts of the cycle with nothing to watch -/

/-- What holds of the default and of every entry holds of what a table answers. -/
theorem tabGet_all {α : Type} {d : α} {t : Tab α} {P : α → Prop} (hd : P d) (ht : ∀ x ∈ t, P x.2) (k : Nat) : P (tabGet d t k) := by
  induction t with
  | nil => exact hd
  | cons x t ih =>
    obtain ⟨hx, ht⟩ := List.forall_mem_cons.mp ht
    rw [tabGet]
    split
    · exact hx
    · split
      · exact hd
      · exact ih ht

theorem getCore_divs_nil {s : State} (hc : s.core.divs = []) (ho : ∀ x ∈ s.others, x.2.divs = []) (u : Nat) : (getCore s u).divs = [] := by
  rw [getCore]
  split
  · exact hc
  · exact tabGet_all (P := fun c : Core => c.divs = []) rfl ho u

/-- Without a divide no unit completes one. -/
theorem finishDivides_all_none {s : State} (hc : s.core.divs = []) (ho : ∀ x ∈ s.others, x.2.divs = []) (us : List Nat) :
    us.foldl (fun s u => finishDivides u s (getCore s u).divs.length) s = s := by
  induction us with
  | nil => rfl
  | cons u us ih => rw [List.foldl_cons, getCore_divs_nil hc ho]; exact ih

theorem noteRuns_none {s : State} (h : s.hub.queues = []) : noteRuns s = s := by
  rw [noteRuns, setHub, h, List.map_nil, ← h]

theorem watchAll_none {s : State} (h : s.hub.queues = []) : watchAll s = s := by
  rw [watchAll, h, List.foldl_nil]

theorem noteStuck_none {s : State} (h : s.hub.groups = []) : noteStuck s = s := by
  rw [noteStuck, setHub, h, List.map_nil, ← h]

theorem deadlockAll_none {s : State} (h : s.hub.groups = []) : deadlockAll s = s := by
  rw [deadlockAll, h, List.map_nil, List.foldl_nil]

theorem region0Due_not {s : State} (h : s.hub.boot.powered = false ∨ s.hub.rights.rgnCap = 0 ∨ (region s 0#20).st ≠ .free) : region0Due s = false := by
  obtain h | h | h := h <;> simp [region0Due, h]

/-- Firmware with region 0 in place, no decision and no task does nothing. -/
theorem firmware_none {s : State} (h0 : region0Due s = false) (hd : s.hub.decisions = []) (hj : s.hub.jobs = []) : firmware s = s := by
  have hdecided : setHub s { s.hub with decisions := [] } = s := by rw [setHub, ← hd]
  have hjobs : setHub s { s.hub with jobs := [] } = s := by rw [setHub, ← hj]
  calc firmware s
      = (fun u : State => runJobs u.hub.jobs (setHub u { u.hub with jobs := [] })) (setHub s { s.hub with decisions := [] }) := by
        rw [firmware, h0, if_neg Bool.false_ne_true, hd]; rfl
    _ = runJobs s.hub.jobs (setHub s { s.hub with jobs := [] }) := by rw [hdecided]
    _ = s := by rw [hj, hjobs, runJobs]

/-! ### Flits on the sealed links (R442) -/

theorem dropOld_prev (now d : Nat) (x : Seal) : dropOld now d x = { x with prev := (dropOld now d x).prev } ∧ ((dropOld now d x).prev = x.prev ∨ (dropOld now d x).prev = []) := by
  rw [dropOld]
  split
  · exact ⟨rfl, .inl rfl⟩
  · split
    · exact ⟨rfl, .inr rfl⟩
    · exact ⟨rfl, .inl rfl⟩

/-- A sealed link changes in nothing but the previous key of a direction, which may be dropped. -/
theorem flitsArrive_seals (s : State) : ∀ x ∈ (flitsArrive s).hub.seals, ∃ y ∈ s.hub.seals, x.1 = y.1 ∧
    (x.2.west.prev = y.2.west.prev ∨ x.2.west.prev = []) ∧ (x.2.east.prev = y.2.east.prev ∨ x.2.east.prev = []) ∧
    x.2 = { y.2 with west := { y.2.west with prev := x.2.west.prev }, east := { y.2.east with prev := x.2.east.prev } } := by
  intro x hx
  obtain ⟨y, hy, rfl⟩ := List.mem_map.mp hx
  refine ⟨y, hy, rfl, ?_⟩
  dsimp only
  split
  · exact ⟨.inl rfl, .inl rfl, rfl⟩
  · obtain ⟨hwest, hw⟩ := dropOld_prev s.gtc (2 * y.1) y.2.west
    obtain ⟨heast, he⟩ := dropOld_prev s.gtc (2 * y.1 + 1) y.2.east
    refine ⟨hw, he, ?_⟩
    dsimp only
    rw [← hwest, ← heast]

/-! ### The cycle -/

/-- The device as a cycle begins: the GTC has counted up and each core's results that fall due are written. -/
def cycleBegun (s : State) : State :=
  { s with gtc := s.gtc + 1, core := cycleCore s.hub.acct (s.gtc + 1) s.cur s.core, others := s.others.map fun (u, c) => (u, cycleCore s.hub.acct (s.gtc + 1) u c) }

theorem cycleCore_divs {a : Acct} (hc : a.sw = 0#24) (hh : a.swc = 0#24) (now u : Nat) (c : Core) : (cycleCore a now u c).divs = c.divs := by
  rw [cycleCore_free hc hh]; rfl

/-- An issue cycle with nothing to watch: beyond the cores, flits may arrive on sealed links. -/
theorem issueCycle_quiet {s : State} (hj : s.hub.jobs = []) (hd : s.hub.decisions = []) (h0 : region0Due s = false) (hq : s.hub.queues = []) (hg : s.hub.groups = [])
    (hc : s.core.divs = []) (ho : ∀ x ∈ s.others, x.2.divs = []) (hsw : s.hub.acct.sw = 0#24) (hswc : s.hub.acct.swc = 0#24) :
    exec .issueCycle s = .next (flitsArrive (cycleBegun s)) := by
  have hcore : (cycleBegun s).core.divs = [] := (cycleCore_divs hsw hswc _ _ _).trans hc
  have hothers : ∀ x ∈ (cycleBegun s).others, x.2.divs = [] := fun x hx => by
    obtain ⟨y, hy, rfl⟩ := List.mem_map.mp hx
    exact (cycleCore_divs hsw hswc _ _ _).trans (ho y hy)
  have hexec : exec .issueCycle s = .next (firmware (flitsArrive (deadlockAll (noteStuck (watchAll (noteRuns
      ((liveUnits (cycleBegun s)).foldl (fun s u => finishDivides u s (getCore s u).divs.length) (cycleBegun s)))))))) := rfl
  rw [hexec, finishDivides_all_none hcore hothers, noteRuns_none (s := cycleBegun s) hq, watchAll_none (s := cycleBegun s) hq,
    noteStuck_none (s := cycleBegun s) hg, deadlockAll_none (s := cycleBegun s) hg]
  exact congrArg _ (firmware_none (s := flitsArrive (cycleBegun s)) h0 hd hj)

/-- Settles O36: the cycle by `issueCycle_quiet`, and what falls due by the two cases of `settle`. -/
theorem theCycle : Obligations.TheCycle := by
  intro s fresh cycle
  refine ⟨fun hj hd h0 hq hg hc ho hsw hswc => ?_, fun d x n hp => ⟨fun hn => ?_, fun hn => ?_⟩⟩
  · have hcycle (u : Nat) (c : Core) : cycleCore s.hub.acct (s.gtc + 1) u c = cycle c := cycleCore_free hsw hswc _ u c
    refine ⟨_, issueCycle_quiet hj hd (region0Due_not h0) hq hg hc (fun x hx => (ho x hx).1) hsw hswc, rfl, hcycle _ _, ?_, rfl, rfl, flitsArrive_seals _⟩
    exact List.map_congr_left fun x _ => congrArg _ (hcycle x.1 x.2)
  · rw [settle_single hp hn]
    refine ⟨?_, writesG_ctxPutG (c := { s.core.ctx with pend := [] }) rfl d x⟩
    rw [applyPending, ctxPutG]
    split <;> rfl
  · exact settle_none (by simpa [hp] using hn)

end Sys2Proof.Proofs
end

section
/-! What an instruction that completes leaves, and what one that takes an exact trap outside steward mode leaves (R125, R127, R179, R357, R422). -/

namespace Sys2Proof.Proofs
open Sys2Proof Sys2Proof.Machine Sys2Proof.Claim

/-! ### Instructions that complete -/

/-- Completing without a transfer of control moves the PC, the loop state and ENERGY, and nothing else. -/
theorem retireBy_movesOn (size cls extra : Nat) (s : State) : MovesOn size extra s (retireBy size cls extra s) := by
  obtain ⟨e, b, n, pc, lc, loops, h, hflow⟩ := retireBy_eq size cls extra s
  rw [h]
  exact ⟨⟨fun _ => rfl, rfl⟩, rfl, rfl, hflow, rfl, rfl, rfl⟩

theorem retire_movesOn (sc : BitVec 2) (s : State) : MovesOn 4 sc.toNat s (retire sc s) := retireBy_movesOn 4 0 sc.toNat s

theorem completesAs_retire {i : Instr} {s s1 : State} {sc : BitVec 2} (h : exec i s = .next (retire sc s1)) : CompletesAs i s 4 sc.toNat s1 :=
  ⟨_, h, retire_movesOn sc s1⟩

/-- A result at a latency above 1 is pending, and no register reads differently yet (R127). -/
theorem givesGLater_of_movesOn {i : Instr} {s t : State} {size extra lat : Nat} {d : Reg} {x : Word} (h : exec i s = .next t)
    (hm : MovesOn size extra (putGLater lat d x s) t) : GivesGLater i s size extra lat d x := by
  rw [putGLater_form] at hm
  obtain ⟨hrest, hissue, hcontrol, hflow, hfiles, hg, hpend⟩ := hm
  refine ⟨t, h, hrest, hissue, hcontrol, hflow, hfiles, fun r => ?_, ?_⟩
  · rw [rdG, rdG, ctxG, ctxG, hg]
  · rw [hpend]
    split
    · exact List.append_nil _
    · rfl

/-! ### Charges and pending results -/

/-- A context whose ENERGY and whose sum of charges have moved. -/
def charged (c : Ctx) (n e : Nat) (b : Bool) : Ctx := { c with recent := n, ctl := { c.ctl with energy := e, energySat := b } }

theorem charge_charged (cls k : Nat) (s : State) : ∃ n e b, charge cls k s = setCtx s (charged s.core.ctx n e b) := by
  obtain ⟨e, b, h⟩ := addEnergy_frame s.core.ctx (chargeOf s cls k)
  exact ⟨_, e, b, by rw [charge, h]; rfl⟩

theorem ctxWake_charged (on : WaitWhy → Bool) (c : Ctx) (n e : Nat) (b : Bool) : ctxWake on (charged c n e b) = charged (ctxWake on c) n e b := by
  have hctl : (if (charged c n e b).why = .suspended then { (charged c n e b).ctl with wake := false } else (charged c n e b).ctl) =
      { (if c.why = .suspended then { c.ctl with wake := false } else c.ctl) with energy := e, energySat := b } := by
    by_cases hs : c.why = .suspended
    · rw [if_pos hs, if_pos (show (charged c n e b).why = .suspended from hs)]; rfl
    · rw [if_neg hs, if_neg (show ¬(charged c n e b).why = .suspended from hs)]; rfl
  rw [ctxWake, ctxWake, hctl]
  simp only [apply_ite (charged · n e b)]
  rfl

theorem ctxSetToken_charged (c : Ctx) (t : TokenName) (x : Token) (n e : Nat) (b : Bool) : ctxSetToken (charged c n e b) t x = charged (ctxSetToken c t x) n e b := by
  rw [ctxSetToken, ctxSetToken]
  split <;> rfl

theorem applyPending_charged (c : Ctx) (p : Pending) (n e : Nat) (b : Bool) : applyPending (charged c n e b) p = charged (applyPending c p) n e b := by
  cases p with
  | writeG r x => rw [applyPending, applyPending, ctxPutG, ctxPutG]; split <;> rfl
  | writeV r x => rfl
  | writeM r x t => rw [applyPending, applyPending, ctxPutM, ctxPutM]; split <;> rfl
  | flags f => rfl
  | post t =>
    have htoken : ctxToken (charged c n e b) t = ctxToken c t := rfl
    rw [applyPending, applyPending, ctxPost, ctxPost, htoken, ctxSetToken_charged]
    exact ctxWake_charged _ (let k := ctxSetToken c t { ctxToken c t with count := (ctxToken c t).count + 1#16 }
      { k with idle := k.idle.map fun _ => true, ctl := { k.ctl with wake := true } }) n e b

/-- A charge neither changes what pending results do nor is changed by them. -/
theorem flush_charged (c : Ctx) (n e : Nat) (b : Bool) : flush (charged c n e b) = charged (flush c) n e b := by
  have hfold (l : List (Nat × Pending)) (c : Ctx) :
      l.foldl (fun c p => applyPending c p.2) (charged c n e b) = charged (l.foldl (fun c p => applyPending c p.2) c) n e b := by
    induction l generalizing c with
    | nil => rfl
    | cons p l ih => rw [List.foldl_cons, List.foldl_cons, applyPending_charged, ih]
  exact hfold _ { c with pend := [] }

/-! ### The loop state in the handler window (R182, R367) -/

theorem saveLoops_eq (c : Ctx) : saveLoops c = { c with
    window := setBytes c.window 0 (loopBytes c), ctl := { c.ctl with savedAct := activeBits c }
    regs := { c.regs with loops := c.regs.loops.map fun l => { l with active := false } } } := by
  rw [saveLoops, setWindowBytes_low c 0 (loopBytes c) (by rw [loopBytes_length])]

theorem activeBits_getLsbD (c : Ctx) (n : Fin 3) : (activeBits c).getLsbD n = c.regs.loops[n].active := by
  have hbits : ∀ x y z : Bool, (BitVec.ofBool z ++ BitVec.ofBool y ++ BitVec.ofBool x : BitVec 3).getLsbD 0 = x ∧
      (BitVec.ofBool z ++ BitVec.ofBool y ++ BitVec.ofBool x : BitVec 3).getLsbD 1 = y ∧
      (BitVec.ofBool z ++ BitVec.ofBool y ++ BitVec.ofBool x : BitVec 3).getLsbD 2 = z := by decide
  exact (fin3_all fun m => (activeBits c).getLsbD m = c.regs.loops[m].active).mpr (hbits _ _ _) n

/-! ### Exact traps outside steward mode (R357) -/

/-- The context in the handler, from the one with its results written: the loop state saved, the trap registers set, and what its ENERGY has moved to. -/
def handled (f : Ctx) (c : Cause) (pc : BitVec 56) (n e : Nat) (b : Bool) : Ctx :=
  { f with
    window := setBytes f.window 0 (loopBytes f), pc := 0xF000#16, blockedAt := none, recent := n
    regs := { f.regs with loops := f.regs.loops.map fun l => { l with active := false } }
    ctl := { f.ctl with
      savedAct := activeBits f, trapPc := pc, trapVal := c.2, cause := { async := false, reason := 0#8, code := c.1 }, jnl := {}, steward := true, energy := e, energySat := b } }

theorem handlerCtx_charged (x : Ctx) (c : Cause) (pc : BitVec 56) (n e : Nat) (b : Bool) :
    handlerCtx { async := false, reason := 0#8, code := c.1 } c.2 pc {} (charged x n e b) = handled (flush x) c pc n e b := by
  rw [handlerCtx, flush_charged, saveLoops_eq]; rfl

/-- An instruction's charge comes before the trap that it takes (R422), and moves ENERGY alone. -/
theorem takeTrapAt_charge {s : State} (hu : s.core.ctx.ctl.steward = false) (c : Cause) (pc : BitVec 56) (cls k : Nat) :
    ∃ n e b, takeTrapAt pc c (charge cls k s) = { s with
      core := { s.core with
        ctx := handled (flush s.core.ctx) c pc n e b
        nextIssue := s.gtc + 6, holdSince := none, holdSwitch := false, accepted := false, answer := none, asked := none }
      races := openAfter s } := by
  obtain ⟨n, e, b, h⟩ := charge_charged cls k s
  refine ⟨n, e, b, ?_⟩
  rw [h, takeTrapAt, if_neg (show ¬steward (setCtx s (charged s.core.ctx n e b)) = true from Bool.eq_false_iff.mp hu), enterHandler, setCtx_core_ctx, handlerCtx_charged]
  rfl

/-- The saved counts, starts, ends and levels read back from the handler's context (R182, R367). -/
theorem handled_saved {f : Ctx} (hw : Memory.wf f.window = true) (c : Cause) (pc : BitVec 56) (n e : Nat) (b : Bool) (m : Fin 3) :
    windowLe (handled f c pc n e b) (4 * m) 4 = f.regs.lc[m].toNat ∧ windowLe (handled f c pc n e b) (0xC + 2 * m) 2 = f.regs.loops[m].start.toNat ∧
    windowLe (handled f c pc n e b) (0x12 + 2 * m) 2 = f.regs.loops[m].stop.toNat ∧ (handled f c pc n e b).ctl.savedAct.getLsbD m = f.regs.loops[m].active := by
  have hm := m.isLt
  have hread {off len : Nat} (h : off + len ≤ 0x18) : windowLe (handled f c pc n e b) off len = leNat (((loopBytes f).drop off).take len) := by
    rw [windowLe_low _ _ _ h, getLe, handled, getBytes_sub hw (by rw [loopBytes_length]; exact h)]
  obtain ⟨hlc, hstart, hstop⟩ := loop_read f m
  exact ⟨(hread (by omega)).trans hlc, (hread (by omega)).trans hstart, (hread (by omega)).trans hstop, activeBits_getLsbD f m⟩

/-- From offset 0x18 on the handler window stands. -/
theorem windowByte_handled {f : Ctx} (hw : Memory.wf f.window = true) (c : Cause) (pc : BitVec 56) (n e : Nat) (b : Bool) {i : Nat} (hi : 0x18 ≤ i) :
    windowByte (handled f c pc n e b) i = windowByte f i := by
  rw [windowByte, windowByte]
  split
  · rfl
  · exact getByte_setBytes_other hw (.inr (by rw [loopBytes_length]; omega))

theorem takeTrapAt_enters {s : State} (hu : User s) (c : Cause) (pc : BitVec 56) (cls k : Nat) : EntersHandler s (takeTrapAt pc c (charge cls k s)) c.1 c.2 pc := by
  obtain ⟨huser, hw⟩ := hu
  obtain ⟨n, e, b, h⟩ := takeTrapAt_charge huser c pc cls k
  obtain ⟨hlc, hloops, hmail, huncov, hwindow, hpend, habs, hrel, -⟩ := flush_keeps s.core.ctx
  have hsaved := handled_saved (hwindow ▸ hw) c pc n e b
  have hhigh {i : Nat} (hi : 0x18 ≤ i) : windowByte (handled (flush s.core.ctx) c pc n e b) i = windowByte s.core.ctx i := by
    rw [windowByte_handled (hwindow ▸ hw) c pc n e b hi, windowByte, windowByte, hwindow, fitWord, fitWord, habs, hrel]
  rw [hlc, hloops] at hsaved
  rw [h]
  constructor
  case saved => exact hsaved
  case idle => exact fun m => by simp [handled]
  case pend => exact hpend
  case kept => exact ⟨rfl, hmail, huncov, fun i hi => hhigh hi⟩
  case bytes => exact fun _ => rfl
  all_goals rfl

theorem trapAs_traps {i : Instr} {s : State} {c : Cause} (hu : User s) (h : exec i s = trapAs c s) : Traps i s c.1 c.2 (codeVa s s.core.ctx.pc) := by
  obtain ⟨n, e, b, hcharge⟩ := charge_charged (issueClass s.core.ir) 1 s
  have hpc : codeVa (charge (issueClass s.core.ir) 1 s) (charge (issueClass s.core.ir) 1 s).core.ctx.pc = codeVa s s.core.ctx.pc := by rw [hcharge]; rfl
  exact ⟨_, h, by rw [takeTrap, hpc]; exact takeTrapAt_enters hu c _ _ 1⟩

end Sys2Proof.Proofs
end

section
/-! Control registers: which accesses R187 allows, what each register reads, which bits a write leaves in it, and the statement about them assembled from that
(R21, R22, R187, R188, R244, R376, R382, R421). -/

namespace Sys2Proof.Proofs
open Sys2Proof Sys2Proof.Machine Sys2Proof.Claim

theorem checked_none {reads : List Dest} {wr : Option (Dest × Nat)} {s : State} (h : underWait s reads wr = none) (k : State → Machine.Out) : checked reads wr s k = k s := by
  rw [checked, h]

/-! ### Accesses (R187) -/

/-- What holds of the registers with some numbers holds of a register with one of them. -/
theorem of_toNat_mem {l : List Nat} {P : BitVec 12 → Prop} (hl : ∀ n ∈ l, P (BitVec.ofNat 12 n)) {crn : BitVec 12} (h : crn.toNat ∈ l) : P crn := by
  simpa using hl _ h

theorem crCheck_read {crn : BitVec 12} (h : crClass crn ≠ .unassigned ∧ crClass crn ≠ .stewardOnly) (s : State) : crCheck s crn false = none := by
  rw [crCheck]
  split
  · exact absurd ‹_› h.1
  · rfl
  · rfl
  · rfl
  · exact absurd ‹_› h.2

theorem crCheck_unassigned {crn : BitVec 12} (h : crClass crn = .unassigned) (s : State) (write : Bool) : crCheck s crn write = some (1#8, s.core.ir.setWidth 64) := by
  rw [crCheck, h]

theorem crCheck_readWrite {crn : BitVec 12} (h : crClass crn = .readWrite) (s : State) (write : Bool) : crCheck s crn write = none := by
  rw [crCheck, h]

theorem crCheck_stewardOnly {crn : BitVec 12} (h : crClass crn = .stewardOnly) (s : State) (write : Bool) :
    crCheck s crn write = if steward s then none else some (3#8, crn.setWidth 64) := by
  rw [crCheck, h]

theorem crCheck_write_user {crn : BitVec 12} (h : crClass crn = .readOnly ∨ crClass crn = .stewardWrite) {s : State} (hu : s.core.ctx.ctl.steward = false) :
    crCheck s crn true = some (1#8, s.core.ir.setWidth 64) := by
  obtain h | h := h
  · rw [crCheck, h]; rfl
  · have hu : steward s = false := hu
    rw [crCheck, h, hu]; rfl

theorem crd_traps {s : State} {crn : BitVec 12} {c : Cause} (hu : User s) (h : crCheck s crn false = some c) (d : Reg) : Traps (.crd crn d) s c.1 c.2 (codeVa s s.core.ctx.pc) :=
  trapAs_traps hu (show execCrd crn d s = _ by rw [execCrd, h])

theorem exec_cwr (crn : BitVec 12) (a : Reg) (s : State) : exec (.cwr crn a) s = crWrite (fun _ y => y) crn a s := rfl
theorem exec_cset (crn : BitVec 12) (a : Reg) (s : State) : exec (.cset crn a) s = crWrite (fun x y => x ||| y) crn a s := rfl
theorem exec_cclr (crn : BitVec 12) (a : Reg) (s : State) : exec (.cclr crn a) s = crWrite (fun x y => x &&& ~~~y) crn a s := rfl

/-- A refused write traps, whatever it would write. -/
theorem crWrite_traps {i : Instr} {s : State} {f : Word → Word → Word} {crn : BitVec 12} {a : Reg} {c : Cause} (hu : User s) (hi : exec i s = crWrite f crn a s)
    (h : crCheck s crn true = some c) : Traps i s c.1 c.2 (codeVa s s.core.ctx.pc) :=
  trapAs_traps hu (hi.trans (by rw [crWrite, h]))

theorem controlRegisterFaults : ControlRegisterFaults := by
  intro s a d hu
  refine ⟨fun crn h => ?_, fun crn h => ?_, fun crn h => ?_⟩
  · have hclass : crClass crn = .unassigned := of_toNat_mem (P := fun crn => crClass crn = .unassigned) (by decide) h
    exact ⟨crd_traps hu (crCheck_unassigned hclass s false) d, crWrite_traps hu (exec_cwr crn a s) (crCheck_unassigned hclass s true)⟩
  · have hclass : crClass crn = .readOnly ∨ crClass crn = .stewardWrite := of_toNat_mem (P := fun crn => crClass crn = .readOnly ∨ crClass crn = .stewardWrite) (by decide) h
    have hcheck := crCheck_write_user hclass hu.1
    exact ⟨crWrite_traps hu (exec_cwr crn a s) hcheck, crWrite_traps hu (exec_cset crn a s) hcheck, crWrite_traps hu (exec_cclr crn a s) hcheck⟩
  · have hclass : crClass crn = .stewardOnly := of_toNat_mem (P := fun crn => crClass crn = .stewardOnly) (by decide) h
    have hcheck (write : Bool) : crCheck s crn write = some (3#8, crn.setWidth 64) := (crCheck_stewardOnly hclass s write).trans (if_neg (Bool.eq_false_iff.mp hu.1))
    exact ⟨crd_traps hu (hcheck false) d, crWrite_traps hu (exec_cwr crn a s) (hcheck true)⟩

/-! ### Reads (R187, R188) -/

/-- A register whose value the core holds: any but those of device time and COPY_GO. -/
def Stored (crn : BitVec 12) : Prop := crn ≠ 0x018#12 ∧ crn ≠ 3#12 ∧ crn ≠ 4#12

theorem crd_givesGLater {s : State} {crn : BitVec 12} {d : Reg} (hc : crCheck s crn false = none) (hs : Stored crn) (hu : underWait s [] (some (.g d, 2)) = none) :
    GivesGLater (.crd crn d) s 4 0 2 d (crValue s crn) := by
  obtain ⟨hgo, hgtc, hvtime⟩ := hs
  have hexec : exec (.crd crn d) s = .next (retire 0#2 (putGLater 2 d (crValue s crn) s)) := by
    show execCrd crn d s = _
    rw [execCrd, hc]
    dsimp only
    rw [if_neg hgo, checked_none hu, if_neg (not_or.mpr ⟨hgtc, hvtime⟩)]
  exact givesGLater_of_movesOn hexec (retire_movesOn 0#2 _)

theorem oneIf_bool (b : Bool) : oneIf (b = true) = BitVec.ofNat 64 (boolNat b) := by cases b <;> rfl

/-- The registers that both modes read: each may be read, and the value listed is the register's. -/
theorem readable_crValue (s : State) : ∀ p ∈ readable s, (crClass p.1 ≠ .unassigned ∧ crClass p.1 ≠ .stewardOnly ∧ Stored p.1) ∧ crValue s p.1 = p.2 := by
  have hnumbers : (readable s).map (fun p => p.1.toNat) =
      [0x000, 0x001, 0x002, 0x005, 0x006, 0x007, 0x008, 0x009, 0x00A, 0x00B, 0x010, 0x011, 0x012, 0x013, 0x014, 0x015, 0x016, 0x017, 0x020, 0x021] := rfl
  have hclass {crn : BitVec 12} (h : crn.toNat ∈ (readable s).map fun p => p.1.toNat) :
      crClass crn ≠ .unassigned ∧ crClass crn ≠ .stewardOnly ∧ crn ≠ 0x018#12 ∧ crn ≠ 3#12 ∧ crn ≠ 4#12 :=
    of_toNat_mem (P := fun crn => crClass crn ≠ .unassigned ∧ crClass crn ≠ .stewardOnly ∧ crn ≠ 0x018#12 ∧ crn ≠ 3#12 ∧ crn ≠ 4#12) (by decide) (hnumbers ▸ h)
  have hpart : BitVec.ofNat 64 (s.core.acc.toNat + s.core.rf.toNat * 2 ^ 8) = BitVec.ofNat 64 (s.core.acc.toNat + 256 * s.core.rf.toNat) := congrArg _ (by omega)
  have hvalue : ∀ p ∈ readable s, crValue s p.1 = p.2 := by
    simp only [readable, List.forall_mem_cons]
    exact ⟨rfl, rfl, rfl, rfl, (oneIf_bool _).symm, hpart, rfl, rfl, rfl, rfl, rfl, rfl, rfl, rfl, rfl, rfl, rfl, rfl, rfl, rfl, fun _ h => absurd h List.not_mem_nil⟩
  exact fun p hp => ⟨hclass (List.mem_map_of_mem hp), hvalue p hp⟩

/-- The registers that only a steward reads. -/
theorem stewardReadable_crValue (s : State) : ∀ p ∈ stewardReadable s, (crClass p.1 = .stewardOnly ∧ Stored p.1) ∧ crValue s p.1 = p.2 := by
  have hnumbers : (stewardReadable s).map (fun p => p.1.toNat) = [0x040, 0x041, 0x042, 0x043, 0x044] := rfl
  have hclass {crn : BitVec 12} (h : crn.toNat ∈ (stewardReadable s).map fun p => p.1.toNat) : crClass crn = .stewardOnly ∧ crn ≠ 0x018#12 ∧ crn ≠ 3#12 ∧ crn ≠ 4#12 :=
    of_toNat_mem (P := fun crn => crClass crn = .stewardOnly ∧ crn ≠ 0x018#12 ∧ crn ≠ 3#12 ∧ crn ≠ 4#12) (by decide) (hnumbers ▸ h)
  have hbit (b : Bool) (k : Nat) : boolNat b * 2 ^ k = if b then 2 ^ k else 0 := by cases b <;> simp [boolNat]
  have hvalue : ∀ p ∈ stewardReadable s, crValue s p.1 = p.2 := by
    simp only [stewardReadable, List.forall_mem_cons]
    refine ⟨rfl, ?_, rfl, ?_, rfl, fun _ h => absurd h List.not_mem_nil⟩
    · show causeWord _ = _
      rw [causeWord, hbit, Nat.mul_comm (2 ^ 8)]
    · show jnlWord _ = _
      rw [jnlWord, hbit, hbit]
  exact fun p hp => ⟨hclass (List.mem_map_of_mem hp), hvalue p hp⟩

theorem controlRegisterReads : ControlRegisterReads := by
  intro s d hu
  refine ⟨fun p hp => ?_, fun hs p hp => ?_⟩
  · obtain ⟨⟨hassigned, hboth, hstored⟩, hvalue⟩ := readable_crValue s p hp
    rw [← hvalue]
    exact crd_givesGLater (crCheck_read ⟨hassigned, hboth⟩ s) hstored hu
  · obtain ⟨⟨hclass, hstored⟩, hvalue⟩ := stewardReadable_crValue s p hp
    rw [← hvalue]
    exact crd_givesGLater ((crCheck_stewardOnly hclass s false).trans (if_pos hs)) hstored hu

/-! ### Device time (R21, R22, R382) -/

theorem shownGtc_bounds {s : State} (h : s.core.gtcSeen ≤ s.gtc + 2) : s.gtc ≤ shownGtc s ∧ shownGtc s ≤ s.gtc + 2 := by
  rw [shownGtc, localGtc]
  omega

/-- A core that has shown the GTC remembers it (R22). -/
def timeShown (s : State) : State := nextFree { s with core := { s.core with gtcSeen := shownGtc s } }

/-- CRD of GTC or VTIME: the value at latency 2, and the core has shown its GTC. -/
theorem crd_time {s : State} {crn : BitVec 12} {d : Reg} (hcrn : crn = 3#12 ∨ crn = 4#12) (hu : underWait s [] (some (.g d, 2)) = none) :
    ∃ t, exec (.crd crn d) s = .next t ∧ t.core.gtcSeen = shownGtc s ∧ (d ≠ 0#5 → t.core.ctx.pend = s.core.ctx.pend ++ [(s.gtc + 2, .writeG d (crValue s crn))]) ∧
      (∀ a, getByte t.mem a = getByte s.mem a) ∧ NoG s t ∧ Follows 4 s t := by
  have hclass : (crClass crn ≠ .unassigned ∧ crClass crn ≠ .stewardOnly) ∧ crn ≠ 0x018#12 := by obtain rfl | rfl := hcrn <;> decide
  have hexec : exec (.crd crn d) s = .next (retire 0#2 (putGLater 2 d (crValue s crn) (timeShown s))) := by
    show execCrd crn d s = _
    rw [execCrd, crCheck_read hclass.1]
    dsimp only
    rw [if_neg hclass.2, checked_none hu, if_pos hcrn]
    rfl
  obtain ⟨e, b, n, pc, lc, loops, hretire, hflow⟩ := retireBy_eq 4 0 0 (putGLater 2 d (crValue s crn) (timeShown s))
  rw [putGLater_form] at hexec hretire hflow
  refine ⟨_, hexec.trans (congrArg _ hretire), rfl, fun hd => ?_, fun _ => rfl, fun _ => rfl, hflow⟩
  dsimp only
  rw [if_neg hd]
  rfl

theorem deviceTimeReads : DeviceTimeReads := by
  intro s d hu
  obtain ⟨t, hexec, hseen, hpend, hrest⟩ := crd_time (.inl rfl) hu
  obtain ⟨v, hexecV, -, hpendV, hrestV⟩ := crd_time (.inr rfl) hu
  refine ⟨⟨t, hexec, ?_, fun h => ?_, fun hd => ?_, hrest⟩, v, _, hexecV, hpendV, hrestV⟩
  · rw [hseen]; exact Nat.le_max_left ..
  · rw [hseen]; exact shownGtc_bounds h
  · rw [hseen]; exact hpend hd

/-! ### Plain writes (R187, R188) -/

theorem boolNat_getLsbD {w : Nat} (x : BitVec w) (i : Nat) : boolNat (x.getLsbD i) = x.toNat / 2 ^ i % 2 := by
  rw [← Nat.toNat_testBit, BitVec.getLsbD]
  cases x.toNat.testBit i <;> rfl

/-- A register that holds some of the low bits of a word holds the word under a mask. -/
theorem setWidth_and_setWidth {n : Nat} (x : Word) (m : BitVec n) : (x.setWidth n &&& m).setWidth 64 = x &&& m.setWidth 64 := by
  ext i hi
  by_cases h : i < n
  · simp [h, BitVec.getLsbD_eq_getElem hi]
  · simp [BitVec.getLsbD_of_ge m i (Nat.le_of_not_lt h)]

/-- The same where it holds all of them. -/
theorem setWidth_setWidth_and {n : Nat} (x : Word) : (x.setWidth n).setWidth 64 = x &&& (BitVec.allOnes n).setWidth 64 := by
  rw [← setWidth_and_setWidth, BitVec.and_allOnes]

theorem chkEn_masked (x : Word) : BitVec.ofNat 64 (boolNat (x.getLsbD 0)) = x &&& 1#64 := by
  apply BitVec.eq_of_toNat_eq
  have hmask : x.toNat &&& 1 = x.toNat % 2 := Nat.and_two_pow_sub_one_eq_mod x.toNat 1
  rw [BitVec.toNat_ofNat, BitVec.toNat_and, boolNat_getLsbD, show (1#64).toNat = 1 from rfl, hmask]
  omega

theorem maskFlags_masked (x : Word) : (maskFlags x).setWidth 64 = x &&& 0x7FF7FF#64 := setWidth_and_setWidth x (~~~(1#23 <<< 11))

theorem maskMap_masked (comp : Bool) (x : Word) : maskMap comp x = x &&& (if comp then 0xF8FF1FFFC0#64 else BitVec.allOnes 64) := by
  cases comp
  · exact (BitVec.and_allOnes).symm
  · rfl

theorem jnlWord_masked (x : Word) : jnlWord { valid := x.getLsbD 6, log := x.getLsbD 5, entry := x.setWidth 5 } = x &&& 0x7F#64 := by
  apply BitVec.eq_of_toNat_eq
  have hmask : x.toNat &&& 0x7F = x.toNat % 2 ^ 7 := Nat.and_two_pow_sub_one_eq_mod x.toNat 7
  rw [jnlWord, BitVec.toNat_ofNat, BitVec.toNat_and, boolNat_getLsbD, boolNat_getLsbD, BitVec.toNat_setWidth, show (0x7F#64).toNat = 0x7F from rfl, hmask]
  omega

theorem causeWord_masked (x : Word) : causeWord { async := x.getLsbD 63, reason := x.extractLsb' 8 8, code := x.setWidth 8 } = x &&& 0x800000000000FFFF#64 := by
  apply BitVec.eq_of_toNat_eq
  have hlow : x.toNat &&& 0xFFFF = x.toNat % 2 ^ 16 := Nat.and_two_pow_sub_one_eq_mod x.toNat 16
  have hhigh : x.toNat &&& 2 ^ 63 = x.toNat / 2 ^ 63 % 2 * 2 ^ 63 := by rw [Nat.and_two_pow, Nat.toNat_testBit]
  have hmask : x.toNat &&& 0x800000000000FFFF = x.toNat % 2 ^ 16 + x.toNat / 2 ^ 63 % 2 * 2 ^ 63 := by
    rw [show 0x800000000000FFFF = 2 ^ 63 ||| 0xFFFF from rfl, Nat.and_or_distrib_left, hlow, hhigh, Nat.mul_comm, ← Nat.two_pow_add_eq_or_of_lt (by omega), Nat.add_comm]
  rw [causeWord, BitVec.toNat_ofNat, BitVec.toNat_and, boolNat_getLsbD, BitVec.toNat_setWidth, BitVec.extractLsb'_toNat, Nat.shiftRight_eq_div_pow,
    show (0x800000000000FFFF#64).toNat = 0x800000000000FFFF from rfl, hmask]
  omega

/-- A register that holds the bits `mask` of what a plain write puts into it. -/
structure Plain (s : State) (crn : BitVec 12) (mask : Word) : Prop where
  put : ∀ x, crPut crn x s = .next (retire 0#2 (setCtl s (ctlWrite (isCompute s.cur) s.core.ctx.ctl crn x)))
  value : ∀ x, crValue (setCtl s (ctlWrite (isCompute s.cur) s.core.ctx.ctl crn x)) crn = x &&& mask

theorem writable_plain (s : State) : ∀ p ∈ writable s.cur, crClass p.1 = .readWrite ∧ Plain s p.1 p.2 := by
  have hwide (x : Word) : x = x &&& BitVec.allOnes 64 := BitVec.and_allOnes.symm
  have hlow (n : Nat) (x : Word) : (x.setWidth n).setWidth 64 = x &&& (BitVec.allOnes n).setWidth 64 := setWidth_setWidth_and x
  simp only [writable, List.forall_mem_cons]
  exact ⟨⟨rfl, fun _ => rfl, chkEn_masked⟩, ⟨rfl, fun _ => rfl, hlow 5⟩, ⟨rfl, fun _ => rfl, hwide⟩, ⟨rfl, fun _ => rfl, hwide⟩, ⟨rfl, fun _ => rfl, hlow 24⟩,
    ⟨rfl, fun _ => rfl, hwide⟩, ⟨rfl, fun _ => rfl, hwide⟩, ⟨rfl, fun _ => rfl, hlow 16⟩, ⟨rfl, fun _ => rfl, maskMap_masked _⟩, ⟨rfl, fun _ => rfl, maskFlags_masked⟩,
    ⟨rfl, fun _ => rfl, hlow 32⟩, ⟨rfl, fun _ => rfl, hlow 32⟩, fun _ h => absurd h List.not_mem_nil⟩

theorem stewardWritable_plain (s : State) : ∀ p ∈ stewardWritable, crClass p.1 = .stewardOnly ∧ Plain s p.1 p.2 := by
  have hwide (x : Word) : x = x &&& BitVec.allOnes 64 := BitVec.and_allOnes.symm
  simp only [stewardWritable, List.forall_mem_cons]
  exact ⟨⟨rfl, fun _ => rfl, setWidth_setWidth_and⟩, ⟨rfl, fun _ => rfl, causeWord_masked⟩, ⟨rfl, fun _ => rfl, hwide⟩, ⟨rfl, fun _ => rfl, jnlWord_masked⟩,
    fun _ h => absurd h List.not_mem_nil⟩

/-- Every field of the control state after a plain write: the one of the register written takes the bits that it has, every other one stands. -/
theorem ctlWrite_eq (comp : Bool) (c : Ctl) (crn : BitVec 12) (x : Word) : ctlWrite comp c crn x = { c with
    chkEn := if crn.toNat = 0x006 then x.getLsbD 0 else c.chkEn
    fpFlags := if crn.toNat = 0x008 then x.setWidth 5 else c.fpFlags
    copy := {
      src := if crn.toNat = 0x010 then x else c.copy.src
      dst := if crn.toNat = 0x011 then x else c.copy.dst
      len := if crn.toNat = 0x012 then x.setWidth 24 else c.copy.len
      sta := if crn.toNat = 0x013 then x else c.copy.sta
      stb := if crn.toNat = 0x014 then x else c.copy.stb
      shape := if crn.toNat = 0x015 then x.setWidth 16 else c.copy.shape
      map := if crn.toNat = 0x016 then maskMap comp x else c.copy.map
      flags := if crn.toNat = 0x017 then maskFlags x else c.copy.flags }
    fitAbs := if crn.toNat = 0x020 then x.setWidth 32 else c.fitAbs
    fitRel := if crn.toNat = 0x021 then x.setWidth 32 else c.fitRel
    trapPc := if crn.toNat = 0x040 then x.setWidth 56 else c.trapPc
    cause := if crn.toNat = 0x041 then { async := x.getLsbD 63, reason := x.extractLsb' 8 8, code := x.setWidth 8 } else c.cause
    trapVal := if crn.toNat = 0x042 then x else c.trapVal
    jnl := if crn.toNat = 0x043 then { valid := x.getLsbD 6, log := x.getLsbD 5, entry := x.setWidth 5 } else c.jnl } := by
  rw [ctlWrite]
  split <;> simp_all

@[simp] theorem shownGtc_setCtl (s : State) (c : Ctl) : shownGtc (setCtl s c) = shownGtc s := rfl
@[simp] theorem vtimeOf_setCtl (s : State) (c : Ctl) : vtimeOf (setCtl s c) = vtimeOf s := rfl

/-- A plain write of one register leaves the value of every other. -/
theorem crValue_ctlWrite_ne {c crn : BitVec 12} (h : c ≠ crn) (s : State) (x : Word) :
    crValue (setCtl s (ctlWrite (isCompute s.cur) s.core.ctx.ctl crn x)) c = crValue s c := by
  have hne : crn.toNat ≠ c.toNat := fun e => h (BitVec.eq_of_toNat_eq e.symm)
  rw [ctlWrite_eq, crValue, crValue]
  split <;> simp_all [energyWord]

/-- The registers that the issue of an instruction itself moves, ENERGY and the loop counts, take no plain write. -/
theorem crClass_counted : ∀ crn ∈ [0x005#12, 0x009#12, 0x00A#12, 0x00B#12], crClass crn = .stewardWrite ∨ crClass crn = .readOnly := by
  simp [crClass]

/-- Every other register reads as before the issue. -/
theorem crValue_retire {c : BitVec 12} (h : c ∉ [0x005#12, 0x009#12, 0x00A#12, 0x00B#12]) (sc : BitVec 2) (s : State) : crValue (retire sc s) c = crValue s c := by
  have hcounted : c.toNat ∉ [0x005, 0x009, 0x00A, 0x00B] := fun hc =>
    h (of_toNat_mem (P := fun c => c ∈ [0x005#12, 0x009#12, 0x00A#12, 0x00B#12]) (by decide) hc)
  obtain ⟨e, b, n, pc, lc, loops, hretire, -⟩ := retireBy_eq 4 0 sc.toNat s
  rw [retire, hretire, crValue, crValue]
  split
  any_goals rfl
  all_goals simp_all

/-- A write that leaves `x &&& mask` in a plain register (R187). -/
theorem writesCr_plain {i : Instr} {s : State} {crn : BitVec 12} {mask x : Word} (hclass : crClass crn = .readWrite ∨ crClass crn = .stewardOnly) (hp : Plain s crn mask)
    (h : exec i s = crPut crn x s) : WritesCr i s crn (x &&& mask) := by
  have hcounted : crn ∉ [0x005#12, 0x009#12, 0x00A#12, 0x00B#12] := fun hc => by
    obtain hc | hc := crClass_counted crn hc <;> simp [hc] at hclass
  obtain ⟨t, ht⟩ : ∃ t, t = retire 0#2 (setCtl s (ctlWrite (isCompute s.cur) s.core.ctx.ctl crn x)) := ⟨_, rfl⟩
  obtain ⟨hrest, hissue, -, hflow, hfiles, hg, hpend⟩ : MovesOn 4 0 _ t := ht ▸ retire_movesOn 0#2 _
  refine ⟨t, ht ▸ h.trans (hp.put x), hrest, hissue, hflow, hfiles, fun r => ?_, hpend, ?_, fun c hc hmoved => ?_⟩
  · rw [rdG, rdG, ctxG, ctxG, hg, setCtl_ctx_regs]
  · rw [ht, crValue_retire hcounted, hp.value]
  · rw [ht, crValue_retire hmoved, crValue_ctlWrite_ne hc]

theorem crWrite_next {s : State} {crn : BitVec 12} {a : Reg} (hc : crCheck s crn true = none) (hu : underWait s [.g a] none = none) (f : Word → Word → Word) :
    crWrite f crn a s = crPut crn (f (crValue s crn) (rdG s a)) s := by
  rw [crWrite, hc]
  exact checked_none hu _

theorem controlRegisterWrites : ControlRegisterWrites := by
  intro s a crn mask hu hmem
  obtain ⟨hclass, hcheck, hplain⟩ : (crClass crn = .readWrite ∨ crClass crn = .stewardOnly) ∧ crCheck s crn true = none ∧ Plain s crn mask := by
    obtain hmem | ⟨hs, hmem⟩ := hmem
    · obtain ⟨hclass, hplain⟩ := writable_plain s _ hmem
      exact ⟨.inl hclass, crCheck_readWrite hclass s true, hplain⟩
    · obtain ⟨hclass, hplain⟩ := stewardWritable_plain s _ hmem
      exact ⟨.inr hclass, (crCheck_stewardOnly hclass s true).trans (if_pos hs), hplain⟩
  have hwrites {i : Instr} {f : Word → Word → Word} (hi : exec i s = crWrite f crn a s) : WritesCr i s crn (f (crValue s crn) (rdG s a) &&& mask) :=
    writesCr_plain hclass hplain (hi.trans (crWrite_next hcheck hu f))
  exact ⟨hwrites (exec_cwr crn a s), hwrites (exec_cset crn a s), hwrites (exec_cclr crn a s)⟩

/-! ### A steward's writes (R244, R376, R421) -/

theorem stewardRegisterWrites : StewardRegisterWrites := by
  intro s a x hs hx hu written energy armed
  have hcwr {crn : BitVec 12} (hc : crClass crn = .stewardWrite ∨ crClass crn = .stewardOnly) : exec (.cwr crn a) s = crPut crn x s := by
    have hcheck : crCheck s crn true = none := by
      have hs : steward s = true := hs
      obtain hc | hc := hc
      · rw [crCheck, hc, hs]; rfl
      · rw [crCheck_stewardOnly hc, if_pos hs]
    rw [exec_cwr, crWrite_next hcheck hu, hx]
  have henergy : writeEnergy x s = .next (retire 0#2 energy) := by
    rw [writeEnergy, BitVec.extractLsb'_toNat, Nat.shiftRight_zero]
  have hcwrEnergy : exec (.cwr 0x005#12 a) s = writeEnergy x s := hcwr (.inl rfl)
  have henergyWrite : exec (.energyWrite x) s = writeEnergy x s := if_pos hs
  have hpart : exec (.cwr 0x007#12 a) s = writePartWord x s := hcwr (.inl rfl)
  have hpartWrite : exec (.partWordWrite x) s = writePartWord x s := if_pos hs
  refine ⟨completesAs_retire (hcwrEnergy.trans henergy), completesAs_retire (henergyWrite.trans henergy),
    completesAs_retire (sc := 0#2) (hcwr (.inr rfl)), completesAs_retire (sc := 0#2) (i := .stopAtWrite x) (if_pos hs), fun hbad => ?_, fun hok hfree => ?_, fun hok hwait => ?_⟩
  · have hput : writePartWord x s = .next (retire 0#2 s) := if_pos (by rw [hbad]; rfl)
    exact ⟨completesAs_retire (hpart.trans hput), completesAs_retire (hpartWrite.trans hput)⟩
  · have hput : writePartWord x s = .next (retire 0#2 (applyPart s.cur (x.setWidth 13) s)) := (if_neg (by rw [hok]; decide)).trans (if_neg (Bool.eq_false_iff.mp hfree))
    exact ⟨completesAs_retire (hpart.trans hput), completesAs_retire (hpartWrite.trans hput)⟩
  · have hput : writePartWord x s = .next (hold false s) := (if_neg (by rw [hok]; decide)).trans (if_pos hwait)
    exact ⟨⟨false, hpart.trans hput⟩, ⟨false, hpartWrite.trans hput⟩⟩

/-- Settles O9: each of its five parts by the lemmas about the accesses it speaks of. -/
theorem controlRegisters : Obligations.ControlRegisters :=
  ⟨controlRegisterReads, deviceTimeReads, controlRegisterWrites, controlRegisterFaults, stewardRegisterWrites⟩

end Sys2Proof.Proofs
end

section
/-! Commands of hosts: what one that passes R76's checks comes to, and the frame of its answer (R74 to R77). -/

namespace Sys2Proof.Proofs
open Sys2Proof Sys2Proof.Machine Sys2Proof.Claim

/-! ### Commands that pass (R76) -/

/-- The state in which a command is carried out: its session has been heard of (R74). -/
def heardOf (s : State) (ep : Nat) (c : HostCmd) : State := setEndpoint ep { endp s ep with sessions := heard s ep c } s

theorem sessionOf_isSome {s : State} {ep : Nat} {c : HostCmd} (h : InSession s ep c) : (sessionOf (endp s ep) c.session).isSome = true := by
  obtain ⟨y, hy, hid⟩ := h
  exact List.find?_isSome.mpr ⟨y, hy, by simp [hid]⟩

theorem holdsLock_of_locked {s : State} {ep : Nat} {c : HostCmd} (h : Locked s ep c) : holdsLock s (endp s ep) c.session = true := by
  obtain ⟨e, hlock, he⟩ := h
  simp [holdsLock, hlock, he]

theorem accepts_of_accepted {ep : Nat} {op : BitVec 8} (h : Accepted ep op) : accepts ep op = true := by
  rw [Accepted] at h
  rw [accepts]
  split at h
  · rename_i hep
    rw [if_pos hep]
    simpa [or_assoc] using h
  · rename_i hep
    rw [if_neg hep, Bool.and_eq_true, bne_iff_ne, bne_iff_ne]
    constructor <;> (rintro rfl; exact absurd h (by decide))

theorem command_passes {s : State} {ep : Nat} {c : HostCmd} {op : BitVec 8} {lock : Bool} (h : Passes s ep c op lock) (hop : op ≠ 1#8) (k : State → Machine.Out) :
    command op lock ep c s k = k (heardOf s ep c) := by
  obtain ⟨⟨hlive, hlen⟩, hc, hver, hses, hacc, hlock⟩ := h
  have hend : endpointOf s ep = endp s ep := rfl
  have hbegin : (!(endp s ep).live || c.op != op || !fitsSend c) = false := by simp [hlive, hc, fitsSend, hlen]
  have hlocked : (lock && !holdsLock s (endp s ep) c.session) = false := by
    cases lock with
    | false => rfl
    | true => simp [holdsLock_of_locked (hlock rfl)]
  have hsome := sessionOf_isSome hses
  simp only [command, hend, hbegin, hver, hop, accepts_of_accepted hacc, hlocked, Option.isNone_eq_false_iff.mpr hsome]
  rfl

/-- A session heard of moves nothing but its own endpoint. -/
theorem endp_heardOf_other {s : State} {ep e : Nat} {c : HostCmd} (hlive : (endp s ep).live = true) (he : e ≠ ep) : endp (heardOf s ep c) e = endp s e := by
  have hne : ({ endp s ep with sessions := heard s ep c } : Endpoint) ≠ {} := fun h => by
    have : (endp s ep).live = false := congrArg Endpoint.live h
    rw [hlive] at this
    cases this
  exact tabGet_tabSet_other_ne hne he

/-- A command that passes and is only answered. -/
theorem answer_heardOf {s : State} {ep : Nat} {c : HostCmd} (hlive : (endp s ep).live = true) (st : BitVec 8) (a0 a1 : Word) (pl : List Byte) :
    OnlyEndpoint s (respond ep c st a0 a1 pl (heardOf s ep c)) ep ∧
      (respond ep c st a0 a1 pl (heardOf s ep c)).hub.out = s.hub.out ++ [response ep c st a0 a1 pl] :=
  ⟨⟨rfl, fun _ he => endp_heardOf_other hlive he⟩, rfl⟩

end Sys2Proof.Proofs
end

section
/-! What the dealer's and the hub's shared operations leave alone: accesses that only mark pages, updates of completion words, and the dependences noted after one
(R34, R37, R52, R69, R450). -/

namespace Sys2Proof.Proofs
open Sys2Proof Sys2Proof.Machine Sys2Proof.Claim

/-! ### Accesses: memory, and the lock of the tables' registers (R69) -/

/-- `t` is `s` but for bytes of memory and the lock of the rights block's table registers. -/
def Touched (s t : State) : Prop := ∃ m l, t = { s with mem := m, hub := { s.hub with rights := { s.hub.rights with locked := l } } }

theorem Touched.refl (s : State) : Touched s s := ⟨s.mem, s.hub.rights.locked, rfl⟩

theorem Touched.trans {s t u : State} (h : Touched s t) (g : Touched t u) : Touched s u := by
  obtain ⟨m, l, rfl⟩ := h
  obtain ⟨m', l', rfl⟩ := g
  exact ⟨m', l', rfl⟩

theorem touched_mem (s : State) (m : List Host.Cell) : Touched s { s with mem := m } := ⟨m, s.hub.rights.locked, rfl⟩

theorem lockHeap_touched (va : Nat) (s : State) : Touched s (lockHeap va s) := by
  rw [lockHeap]
  split
  · exact ⟨s.mem, true, rfl⟩
  · exact .refl s

theorem touchPage_touched (w : Bool) (va : Nat) (s : State) : Touched s (touchPage w va s) := by
  rw [touchPage]
  split
  · split
    · exact (touched_mem s _).trans (lockHeap_touched va _)
    · exact lockHeap_touched va s
  · exact .refl s

theorem devPut_touched (s : State) (va n x : Nat) : Touched s (devPut s va n x) := by
  rw [devPut]
  split
  · exact (touched_mem s _).trans (touchPage_touched true va _)
  · exact .refl s

theorem foldl_touched {α : Type} {f : State → α → State} (hf : ∀ s a, Touched s (f s a)) (l : List α) (s : State) : Touched s (l.foldl f s) := by
  induction l generalizing s with
  | nil => exact .refl s
  | cons a l ih => exact (hf s a).trans (ih (f s a))

theorem touchDeps_touched (s : State) (c : Card) : Touched s (touchDeps s c) := by
  rw [touchDeps]
  split
  · exact .refl s
  · refine foldl_touched (fun s i => ?_) _ s
    dsimp only
    split
    · exact .refl s
    · exact touchPage_touched false _ s

theorem touchCw_touched (v : Nat) (ref : BitVec 32) (s : State) : Touched s (touchCw v ref s) := by
  rw [touchCw]
  split
  · exact .refl s
  · exact touchPage_touched false _ s

/-! ### Updates of completion words (R34, R37, R450) -/

/-- A queue but for its count of dropped messages. -/
def bareQueue (x : Queue) : Queue := { x with dropped := 0 }

/-- A card but for the dependences noted of it. -/
def bareCard (c : Card) : Card := { c with depOk := 0#4, depBad := 0#4 }

/-- The queues of two states agree but for counts of dropped messages. -/
def SameQueues (s t : State) : Prop := ∀ k, bareQueue (tabGet {} t.hub.queues k) = bareQueue (tabGet {} s.hub.queues k)

/-- The dealer's cards but for the dependences noted of them. -/
def bareCards (s : State) : List Card := s.hub.cards.map bareCard

/-- `t` is `s` but for memory, the lock of the table registers, counts of dropped messages, and the dealer's cards. -/
def CardWork (s t : State) : Prop :=
  SameQueues s t ∧ ∃ m l qs cs, t = { s with mem := m, hub := { s.hub with rights := { s.hub.rights with locked := l }, queues := qs, cards := cs } }

theorem CardWork.refl (s : State) : CardWork s s := ⟨fun _ => rfl, s.mem, s.hub.rights.locked, s.hub.queues, s.hub.cards, rfl⟩

theorem CardWork.trans {s t u : State} (h : CardWork s t) (g : CardWork t u) : CardWork s u := by
  obtain ⟨hq, m, l, qs, cs, rfl⟩ := h
  obtain ⟨gq, m', l', qs', cs', rfl⟩ := g
  exact ⟨fun k => (gq k).trans (hq k), m', l', qs', cs', rfl⟩

theorem Touched.cardWork {s t : State} (h : Touched s t) : CardWork s t := by
  obtain ⟨m, l, rfl⟩ := h
  exact ⟨fun _ => rfl, m, l, s.hub.queues, s.hub.cards, rfl⟩

theorem foldl_cardWork {α : Type} {f : State → α → State} (hf : ∀ s a, CardWork s (f s a)) (l : List α) (s : State) : CardWork s (l.foldl f s) := by
  induction l generalizing s with
  | nil => exact .refl s
  | cons a l ih => exact (hf s a).trans (ih (f s a))

theorem bareQueue_countDropped (v : Nat) (q : BitVec 8) (s : State) : SameQueues s (countDropped v q 1 s) := by
  intro k
  have hne : ({ queueOf s v q with dropped := (queueOf s v q).dropped + 1 } : Queue) ≠ {} := fun h => by
    have : (queueOf s v q).dropped + 1 = 0 := congrArg Queue.dropped h
    omega
  show bareQueue (tabGet {} (tabSet {} s.hub.queues (256 * v + q.toNat) _) k) = _
  by_cases hk : k = 256 * v + q.toNat
  · rw [hk, tabGet_tabSet_ne hne]; rfl
  · rw [tabGet_tabSet_other_ne hne hk]

theorem cwUpdate_cardWork (v : Nat) (ref : BitVec 32) (f : Nat → Nat) (s : State) : CardWork s (cwUpdate v ref f s) ∧ (cwUpdate v ref f s).hub.cards = s.hub.cards := by
  rw [cwUpdate]
  split
  · have h := (touched_mem s _).trans (touchPage_touched true (cwAddr s v ref) { s with mem := setLe s.mem ‹Nat› 8 (f (getLe s.mem ‹Nat› 8)) })
    refine ⟨h.cardWork, ?_⟩
    obtain ⟨m, l, h⟩ := h
    rw [h]
  · exact ⟨⟨bareQueue_countDropped v _ s, s.mem, s.hub.rights.locked, _, s.hub.cards, rfl⟩, rfl⟩

/-! ### Dependences noted (R37) -/

theorem noteCard_bare (s : State) (c : Card) : bareCard (noteCard s c) = bareCard c := by
  rw [noteCard]
  split
  · rfl
  · refine List.foldlRecOn (motive := fun d => bareCard d = bareCard c) _ _ rfl fun d hd i _ => ?_
    split
    · exact hd
    · split
      · exact hd
      · exact hd
      · exact hd

theorem noteDeps_cardWork (s : State) : CardWork s (noteDeps s) ∧ bareCards (noteDeps s) = bareCards s := by
  have h := foldl_touched touchDeps_touched s.hub.cards s
  obtain ⟨m, l, h⟩ := h
  rw [noteDeps, h]
  refine ⟨⟨fun _ => rfl, m, l, s.hub.queues, _, rfl⟩, ?_⟩
  show (s.hub.cards.map _).map bareCard = _
  rw [List.map_map]
  exact List.map_congr_left fun c _ => noteCard_bare _ c

/-- A completion word updated and the dependences noted after it. -/
theorem noteDeps_cwUpdate (v : Nat) (ref : BitVec 32) (f : Nat → Nat) (s : State) :
    CardWork s (noteDeps (cwUpdate v ref f s)) ∧ bareCards (noteDeps (cwUpdate v ref f s)) = bareCards s := by
  obtain ⟨hw, hc⟩ := cwUpdate_cardWork v ref f s
  obtain ⟨hw', hc'⟩ := noteDeps_cardWork (cwUpdate v ref f s)
  exact ⟨hw.trans hw', hc'.trans (by rw [bareCards, hc]; rfl)⟩

/-! ### A card's status (R34, R38) -/

theorem modCard_cardWork (i : Nat) (f : Card → Card) (s : State) : CardWork s (modCard i f s) :=
  ⟨fun _ => rfl, s.mem, s.hub.rights.locked, s.hub.queues, _, rfl⟩

theorem map_modify_comm {α β : Type} {g : α → β} {f : α → α} {f' : β → β} (h : ∀ a, g (f a) = f' (g a)) (l : List α) (i : Nat) :
    (l.modify i f).map g = (l.map g).modify i f' := by
  refine List.ext_getElem? fun j => ?_
  simp only [List.getElem?_map, List.getElem?_modify]
  cases l[j]? with
  | none => rfl
  | some a =>
    by_cases hj : i = j
    · simp [hj, h]
    · simp [hj]

/-- Card `i` moves, its completion word with it where it has one, and no other card. -/
def Moves (i : Nat) (f : Card → Card) (s t : State) : Prop := CardWork s t ∧ bareCards t = (bareCards s).modify i f

theorem Moves.refl {f : Card → Card} {i : Nat} {s : State} (h : ∀ c, (bareCards s)[i]? = some c → f c = c) : Moves i f s s := by
  refine ⟨.refl s, List.ext_getElem? fun j => ?_⟩
  rw [List.getElem?_modify]
  cases hl : (bareCards s)[j]? with
  | none => rfl
  | some c =>
    by_cases hj : i = j
    · simp [hj, h c (hj ▸ hl)]
    · simp [hj]

theorem Moves.trans {i : Nat} {f g : Card → Card} {s t u : State} (h : Moves i f s t) (h' : Moves i g t u) : Moves i (g ∘ f) s u :=
  ⟨h.1.trans h'.1, by rw [h'.2, h.2, List.modify_modify_eq]⟩

/-- What a move does to the card itself is all that counts. -/
theorem Moves.congr {i : Nat} {f g : Card → Card} {s t : State} {c : Card} (h : Moves i f s t) (hc : s.hub.cards[i]? = some c) (hg : f (bareCard c) = g (bareCard c)) :
    Moves i g s t := by
  refine ⟨h.1, h.2.trans (List.ext_getElem? fun j => ?_)⟩
  rw [List.getElem?_modify, List.getElem?_modify]
  by_cases hj : i = j
  · rw [← hj, bareCards, List.getElem?_map, hc]
    simpa using hg
  · simp [hj]

/-- Every card but the one that moves reads as before. -/
theorem Moves.other {i j : Nat} {f : Card → Card} {s t : State} (h : Moves i f s t) (hj : j ≠ i) : (bareCards t)[j]? = (bareCards s)[j]? := by
  rw [h.2, List.getElem?_modify_ne _ _ (Ne.symm hj)]

theorem modCard_moves {f : Card → Card} (hf : ∀ c, bareCard (f c) = f (bareCard c)) (i : Nat) (s : State) : Moves i f s (modCard i f s) :=
  ⟨modCard_cardWork i f s, map_modify_comm hf _ i⟩

theorem moves_of_update {i : Nat} {f : Card → Card} (hf : ∀ c, bareCard (f c) = f (bareCard c)) {s : State} {v : Nat} {ref : BitVec 32} {g : Nat → Nat} :
    Moves i f s (if cwNone ref then modCard i f s else noteDeps (cwUpdate v ref g (modCard i f s))) := by
  split
  · exact modCard_moves hf i s
  · obtain ⟨hw, hc⟩ := noteDeps_cwUpdate v ref g (modCard i f s)
    exact ⟨(modCard_cardWork i f s).trans hw, hc.trans (modCard_moves hf i s).2⟩

theorem startCard_moves {s : State} {i : Nat} {c : Card} {st : CardStatus} (h : cardAt s i = some c)
    (hst : cardCount c.bits = 0 ∧ st = .done ∨ cardCount c.bits ≠ 0 ∧ st = .running) : Moves i (fun d => { d with st := st }) s (startCard i s) := by
  rw [startCard, h]
  obtain ⟨h0, rfl⟩ | ⟨h0, rfl⟩ := hst
  · simp only [h0, if_true]
    refine moves_of_update ?_
    exact fun _ => rfl
  · simp only [h0, if_false]
    refine moves_of_update ?_
    exact fun _ => rfl

theorem cancelCard_moves {s : State} {i : Nat} {c : Card} (h : cardAt s i = some c) :
    Moves i (fun d => { d with st := .cancelled, lost := cardCount d.bits }) s (cancelCard i s) := by
  rw [cancelCard, h]
  refine moves_of_update ?_
  exact fun _ => rfl

theorem cancelCard_cardWork (i : Nat) (s : State) : CardWork s (cancelCard i s) := by
  cases h : cardAt s i with
  | none => rw [cancelCard, h]; exact .refl s
  | some c => exact (cancelCard_moves h).1

end Sys2Proof.Proofs
end

section
/-! What the ending of a continuation leaves of the dealer's own registers: what the device has sent, the queues but for their dropped counts, and every card of which
no continuation ends (R34, R88, R349, R416). -/

namespace Sys2Proof.Proofs
open Sys2Proof Sys2Proof.Machine Sys2Proof.Claim

/-! ### The dealer's desk -/

/-- What the dealer keeps and what the device has sent. -/
def desk (s : State) : List HostOut × Tab Queue × List Cont × List Card := (s.hub.out, s.hub.queues, s.hub.conts, s.hub.cards)

theorem desk_congr {s t : State} (h : t.hub = s.hub) : desk t = desk s := by rw [desk, desk, h]

theorem desk_foldl {α : Type} {f : State → α → State} (hf : ∀ s a, desk (f s a) = desk s) (l : List α) (s : State) : desk (l.foldl f s) = desk s := by
  induction l generalizing s with
  | nil => rfl
  | cons a l ih => exact (ih (f s a)).trans (hf s a)

theorem Touched.desk_eq {s t : State} (h : Touched s t) : desk t = desk s := by
  obtain ⟨m, l, rfl⟩ := h
  rfl

theorem desk_touchPage (w : Bool) (va : Nat) (s : State) : desk (touchPage w va s) = desk s := (touchPage_touched w va s).desk_eq

/-! ### Cores and contexts -/

theorem desk_setCore (s : State) (u : Nat) (c : Core) : desk (setCore s u c) = desk s := by rw [setCore_frame]; rfl

theorem desk_modCore (s : State) (u : Nat) (f : Core → Core) : desk (modCore s u f) = desk s := desk_setCore s u _

theorem desk_devPut (s : State) (va n x : Nat) : desk (devPut s va n x) = desk s := (devPut_touched s va n x).desk_eq

theorem desk_putCtxImage (s : State) (h : BitVec 56) (c : Ctx) : desk (putCtxImage s h c) = desk s := by
  rw [putCtxImage]
  dsimp only
  split
  · rfl
  · rw [desk_touchPage]; exact desk_congr rfl

theorem desk_putAbsent (s : State) (h : BitVec 56) (c : Ctx) : desk (putAbsent s h c) = desk s := by
  rw [putAbsent, putFields]
  split
  · exact desk_putCtxImage s h c
  · rw [desk_devPut, desk_putCtxImage]

theorem desk_modCtx (s : State) (h : BitVec 56) (f : Ctx → Ctx) : desk (modCtx s h f) = desk s := by
  rw [modCtx]
  split
  · rfl
  · split
    · rfl
    · split
      · exact desk_putAbsent s h _
      · rfl

theorem desk_writeEvent (p : BitVec 3) (e : BitVec 128) (s : State) : desk (writeEvent p e s) = desk s := by
  rw [writeEvent]
  dsimp only
  split <;> rfl

theorem desk_writeEventTo (p : Option (BitVec 3)) (e : BitVec 128) (s : State) : desk (writeEventTo p e s) = desk s := by
  cases p with
  | none => rfl
  | some p => exact desk_writeEvent p e s

theorem desk_touchCtx (s : State) (h : BitVec 56) (f : Ctx → Ctx) : desk (touchCtx s h f) = desk s := by
  rw [touchCtx]
  split
  · exact desk_modCtx s h f
  · split
    · rfl
    · dsimp only
      split
      · exact (desk_writeEventTo _ _ _).trans (desk_putAbsent s h _)
      · exact desk_putAbsent s h _

/-! ### Quires and groups -/

theorem desk_wakeAll (on : WaitWhy → Bool) (s : State) : desk (wakeAll on s) = desk s := desk_foldl (fun s _ => desk_touchCtx s _ _) _ _

theorem desk_setQuire (u n : Nat) (q : Quire) (s : State) : desk (setQuire u n q s) = desk s := by
  have hite {p : Prop} [Decidable p] (on : WaitWhy → Bool) (s : State) : desk (if p then wakeAll on s else s) = desk s := by
    split
    · exact desk_wakeAll on s
    · rfl
  exact (hite _ _).trans ((hite _ _).trans (desk_modCore s u _))

theorem desk_mapQuires (f : Quire → Quire) (u : Nat) (s : State) : desk (mapQuires f u s) = desk s := by
  refine desk_foldl (fun s n => ?_) _ s
  dsimp only
  split
  · rfl
  · exact desk_setQuire u n _ s

theorem desk_yieldQuires (h : BitVec 56) (s : State) : desk (yieldQuires h s) = desk s := desk_foldl (fun s u => desk_mapQuires _ u s) _ s

theorem desk_retireQuires (h : BitVec 56) (u : Nat) (s : State) : desk (retireQuires h u s) = desk s := by
  rw [retireQuires, desk_mapQuires, desk_modCore]

theorem desk_checkGen (l : Nat) (g : BitVec 8) (s : State) : desk (checkGen l g s) = desk s := by
  rw [checkGen]
  split
  · exact desk_foldl (fun s c => desk_touchCtx s c _) _ _
  · rfl

theorem desk_leaveGroups (l : Nat) (c d : BitVec 56) (gs : List (BitVec 8)) (s : State) : desk (leaveGroups l c d gs s) = desk s := by
  induction gs generalizing s with
  | nil => rfl
  | cons g gs ih => rw [leaveGroups]; exact (ih _).trans (desk_checkGen l g _)

/-! ### Slots, images and accounts -/

theorem desk_finalEnergy (v : Option Nat) (c : Ctx) (s : State) : desk (finalEnergy v c s) = desk s := by
  have h := desk_devPut s (c.rcd.chrys.toNat + 0x5E8) 8 (energyWord c.ctl)
  unfold finalEnergy
  generalize devPut s (c.rcd.chrys.toNat + 0x5E8) 8 (energyWord c.ctl) = t at h ⊢
  cases v <;> exact h

theorem desk_putLines (c : Ctx) (s : State) : desk (putLines c s) = desk s := by
  rw [putLines]
  split
  · rw [desk_touchPage]; exact desk_congr rfl
  · rfl

theorem desk_emptySlot (u i : Nat) (s : State) : desk (emptySlot u i s) = desk s := by
  rw [emptySlot]
  dsimp only
  split
  · exact (desk_modCore _ u _).trans (desk_modCore s u _)
  · exact desk_modCore s u _

theorem desk_endBefore (c : Ctx) (k : Option Cont) (s : State) : desk (endBefore c k s) = desk s := by
  unfold endBefore
  rw [desk_finalEnergy]
  cases k with
  | none => exact desk_yieldQuires _ s
  | some x => exact (desk_leaveGroups _ _ _ _ _).trans (desk_yieldQuires _ s)

/-! ### The ending itself -/

/-- `t` is `s` after endings of continuations that are of no card of `I`. -/
structure Ends (I : Nat → Prop) (s t : State) : Prop where
  out : t.hub.out = s.hub.out
  queues : SameQueues s t
  conts : t.hub.conts ⊆ s.hub.conts
  cards : ∀ i, I i → (bareCards t)[i]? = (bareCards s)[i]?

theorem Ends.refl (I : Nat → Prop) (s : State) : Ends I s s := ⟨rfl, fun _ => rfl, List.Subset.refl _, fun _ _ => rfl⟩

theorem Ends.trans {I : Nat → Prop} {s t u : State} (h : Ends I s t) (g : Ends I t u) : Ends I s u :=
  ⟨g.out.trans h.out, fun k => (g.queues k).trans (h.queues k), List.Subset.trans g.conts h.conts, fun i hi => (g.cards i hi).trans (h.cards i hi)⟩

theorem ends_of_desk {I : Nat → Prop} {s t : State} (h : desk t = desk s) : Ends I s t := by
  simp only [desk, Prod.mk.injEq] at h
  obtain ⟨hout, hqueues, hconts, hcards⟩ := h
  exact ⟨hout, fun k => by rw [hqueues], by rw [hconts]; exact List.Subset.refl _, fun i _ => by rw [bareCards, bareCards, hcards]⟩

theorem CardWork.ends {I : Nat → Prop} {s t : State} (h : CardWork s t) (hc : ∀ i, I i → (bareCards t)[i]? = (bareCards s)[i]?) : Ends I s t := by
  obtain ⟨hq, m, l, qs, cs, rfl⟩ := h
  exact ⟨rfl, hq, List.Subset.refl _, hc⟩

/-- Records of a card that end: how its counts and status move (R34). -/
def recordsEnded (c : Card) (n : Nat) (exited torn : Bool) (d : Card) : Card :=
  let dn := if exited then c.done + n else c.done
  let ls := if exited then c.lost else c.lost + n
  { d with done := dn, lost := ls, anyTorn := c.anyTorn || torn, st := if dn + ls = cardCount c.bits then cardFinal (c.anyTorn || torn) ls else c.st }

theorem endRecords_moves {s : State} {i : Nat} {c : Card} (h : cardAt s i = some c) (n : Nat) (exited torn : Bool) :
    Moves i (recordsEnded c n exited torn) s (endRecords i n exited torn s) := by
  rw [endRecords, h]
  dsimp only
  refine moves_of_update ?_
  exact fun _ => rfl

theorem endRecords_ends {I : Nat → Prop} {i : Nat} (hi : ¬I i) (n : Nat) (exited torn : Bool) (s : State) : Ends I s (endRecords i n exited torn s) := by
  cases h : cardAt s i with
  | none => rw [endRecords, h]; exact .refl I s
  | some c =>
    have hm := endRecords_moves h n exited torn
    exact hm.1.ends fun j hj => hm.other fun he => hi (he ▸ hj)

/-- The ending once a card's counts have moved: RECORD, STATE, work in flight, RETIRED quires, and the dealer's own record of the continuation (R139, R416, R419). -/
def endRest (c : Ctx) (dead : BitVec 56) (st : ContState) (s : State) : State :=
  let s3 := orphan c.rcd.chrys dead (putState c.ctl.record st (devPut s (c.rcd.chrys.toNat + 0x5F0) 8 0))
  let s4 := (liveUnits s3).foldl (fun s u => retireQuires c.rcd.chrys u s) { s3 with asides := tabSet {} s3.asides c.rcd.chrys.toNat {} }
  endRegion dead.toNat (setHub s4 { s4.hub with conts := s4.hub.conts.filter fun x => x.chrys != c.rcd.chrys })

theorem endRest_ends (I : Nat → Prop) (c : Ctx) (dead : BitVec 56) (st : ContState) (s : State) : Ends I s (endRest c dead st s) := by
  have hrecord : desk (putState c.ctl.record st (devPut s (c.rcd.chrys.toNat + 0x5F0) 8 0)) = desk s := by rw [putState, desk_devPut, desk_devPut]
  rw [endRest]
  generalize putState c.ctl.record st (devPut s (c.rcd.chrys.toNat + 0x5F0) 8 0) = s2 at hrecord ⊢
  have horphan : desk (orphan c.rcd.chrys dead s2) = desk s2 := rfl
  generalize orphan c.rcd.chrys dead s2 = s3 at horphan ⊢
  have hretire := desk_foldl (fun s u => desk_retireQuires c.rcd.chrys u s) (liveUnits s3) { s3 with asides := tabSet {} s3.asides c.rcd.chrys.toNat {} }
  dsimp only
  generalize (liveUnits s3).foldl (fun s u => retireQuires c.rcd.chrys u s) { s3 with asides := tabSet {} s3.asides c.rcd.chrys.toNat {} } = s4 at hretire ⊢
  have hs4 : desk s4 = desk s := hretire.trans (horphan.trans hrecord)
  exact (ends_of_desk hs4).trans ⟨rfl, fun _ => rfl, fun x hx => (List.mem_filter.mp hx).1, fun _ _ => rfl⟩

theorem endAfter_eq (c : Ctx) (k : Option Cont) (st : ContState) (s : State) :
    endAfter c k st s = endRest c (deadCtx ((k.map (·.vdev)).getD 64)) st
      (match k.bind (·.card) with | some i => endRecords i c.rcd.narg.toNat (st == .exited) (st == .torn) s | none => s) := rfl

theorem endAfter_ends {I : Nat → Prop} {k : Option Cont} (hk : ∀ x i, k = some x → I i → x.card ≠ some i) (c : Ctx) (st : ContState) (s : State) :
    Ends I s (endAfter c k st s) := by
  rw [endAfter_eq]
  refine Ends.trans ?_ (endRest_ends I c _ st _)
  split
  · rename_i i h
    obtain ⟨x, hx, hi⟩ := Option.bind_eq_some_iff.mp h
    exact endRecords_ends (fun hI => hk x i hx hI hi) _ _ _ s
  · exact .refl I s

/-- No continuation is of a card of `I`. -/
def FreeOf (I : Nat → Prop) (s : State) : Prop := ∀ k ∈ s.hub.conts, ∀ i, I i → k.card ≠ some i

theorem Ends.freeOf {I : Nat → Prop} {s t : State} (h : Ends I s t) (hf : FreeOf I s) : FreeOf I t := fun k hk => hf k (h.conts hk)

theorem endAbsent_ends {I : Nat → Prop} {k : Cont} (hk : ∀ i, I i → k.card ≠ some i) (st : ContState) (s : State) : Ends I s (endAbsent k st s) := by
  rw [endAbsent]
  refine ((ends_of_desk (desk_endBefore _ (some k) s)).trans (endAfter_ends (fun x i hx hi => ?_) _ st _)).trans (ends_of_desk (desk_writeEvent _ _ _))
  rw [← Option.some.inj hx]
  exact hk i hi

theorem endSlot_ends {I : Nat → Prop} {s : State} (hf : FreeOf I s) (u i : Nat) (st : ContState) : Ends I s (endSlot u i st s) := by
  have hended (c : Ctx) {s0 : State} (h0 : desk s0 = desk s) (n : Nat) :
      Ends I s (countMessages u n (endAfter c (contAt s c.rcd.chrys) st (endBefore c (contAt s c.rcd.chrys) s0))) :=
    ((ends_of_desk ((desk_endBefore c _ s0).trans h0)).trans
      (endAfter_ends (fun x j hx hj => hf x (List.mem_of_find?_eq_some hx) j hj) c st _)).trans (ends_of_desk (desk_modCore _ u _))
  have hslot (p : Option (BitVec 3)) (e : BitVec 128) {t : State} (h : Ends I s t) : Ends I s (emptySlot u i (writeEventTo p e t)) :=
    h.trans (ends_of_desk ((desk_emptySlot u i _).trans (desk_writeEventTo p e t)))
  rw [endSlot]
  dsimp only
  by_cases hb : ((getCore s u).slots.getD i {}).sst = .bound
  · rw [if_pos hb, if_pos hb]
    split
    · exact .refl I s
    · rw [if_pos hb]
      exact hended _ rfl _
  · rw [if_neg hb, if_neg hb]
    exact hslot _ _ (by dsimp only; rw [if_neg hb]; exact hended _ (desk_putLines _ s) _)

theorem endCont_ends {I : Nat → Prop} {s : State} {k : Cont} (hf : FreeOf I s) (hk : ∀ i, I i → k.card ≠ some i) (st : ContState) : Ends I s (endCont st s k) := by
  rw [endCont]
  split
  · exact endSlot_ends hf _ _ st
  · exact endAbsent_ends hk st s

theorem foldl_endCont_ends {I : Nat → Prop} {ks : List Cont} (hk : ∀ k ∈ ks, ∀ i, I i → k.card ≠ some i) (st : ContState) {s : State} (hf : FreeOf I s) :
    Ends I s (ks.foldl (endCont st) s) := by
  induction ks generalizing s with
  | nil => exact .refl I s
  | cons k ks ih =>
    obtain ⟨hk0, hks⟩ := List.forall_mem_cons.mp hk
    have h := endCont_ends (st := st) hf hk0
    exact h.trans (ih hks (h.freeOf hf))

end Sys2Proof.Proofs
end

section
/-! Launch queues: what a queue that stops dealing takes from its cards (R88 step 2). -/

namespace Sys2Proof.Proofs
open Sys2Proof Sys2Proof.Machine Sys2Proof.Claim

/-! ### A queue that deals nothing more (R88 step 2) -/

/-- What a queue that stops dealing takes from a card: a pending one is cancelled, the undealt records of a running one are lost. -/
def loseOf (v : Nat) (q : BitVec 8) (c : Card) : Card :=
  if c.vdev ≠ v ∨ c.queue ≠ q then c
  else if c.st = .pending then { c with st := .cancelled, lost := cardCount c.bits }
  else if c.st = .running ∧ c.dealt < cardCount c.bits then { recordsEnded c (cardCount c.bits - c.dealt) false false c with dealt := cardCount c.bits }
  else c

theorem loseOf_bare (v : Nat) (q : BitVec 8) (c : Card) : loseOf v q (bareCard c) = bareCard (loseOf v q c) := by
  unfold loseOf
  rw [apply_ite bareCard, apply_ite bareCard, apply_ite bareCard]
  rfl

theorem loseCard_moves (v : Nat) (q : BitVec 8) (s : State) (i : Nat) : Moves i (loseOf v q) s (loseCard v q s i) := by
  cases h : cardAt s i with
  | none =>
    have hbare : (bareCards s)[i]? = none := by rw [bareCards, List.getElem?_map, show s.hub.cards[i]? = none from h]; rfl
    rw [loseCard, h]
    exact .refl fun c hc => by rw [hbare] at hc; cases hc
  | some c =>
    have hbare {d : Card} (hd : (bareCards s)[i]? = some d) : d = bareCard c := by
      rw [bareCards, List.getElem?_map, show s.hub.cards[i]? = some c from h] at hd
      exact (Option.some.inj hd).symm
    have hkept (hl : loseOf v q c = c) : Moves i (loseOf v q) s s := .refl fun d hd => by rw [hbare hd, loseOf_bare, hl]
    rw [loseCard, h]
    dsimp only
    by_cases hq : c.vdev ≠ v ∨ c.queue ≠ q
    · rw [if_pos hq]
      exact hkept (by rw [loseOf, if_pos hq])
    rw [if_neg hq]
    by_cases hp : c.st = .pending
    · rw [if_pos hp]
      exact (cancelCard_moves h).congr h (by rw [loseOf_bare, loseOf, if_neg hq, if_pos hp]; rfl)
    rw [if_neg hp]
    by_cases hr : c.st = .running ∧ c.dealt < cardCount c.bits
    · rw [if_pos hr]
      exact ((endRecords_moves h _ false false).trans (modCard_moves (f := fun d => { d with dealt := cardCount d.bits }) (fun _ => rfl) i _)).congr h
        (by rw [loseOf_bare, loseOf, if_neg hq, if_neg hp, if_pos hr]; rfl)
    · rw [if_neg hr]
      exact hkept (by rw [loseOf, if_neg hq, if_neg hp, if_neg hr])

/-- A step for each card, in order, moves each card once. -/
theorem foldl_moves {g : State → Nat → State} {f : Card → Card} (hg : ∀ s i, Moves i f s (g s i)) (s : State) (n : Nat) :
    CardWork s ((List.range n).foldl g s) ∧ ∀ i, (bareCards ((List.range n).foldl g s))[i]? = if i < n then (bareCards s)[i]?.map f else (bareCards s)[i]? := by
  induction n with
  | zero => exact ⟨.refl s, fun _ => rfl⟩
  | succ n ih =>
    obtain ⟨hw, hc⟩ := ih
    rw [List.range_succ, List.foldl_append]
    refine ⟨hw.trans (hg _ n).1, fun i => ?_⟩
    show (bareCards (g _ n))[i]? = _
    rw [(hg _ n).2, List.getElem?_modify, hc]
    by_cases hn : n = i
    · simp [hn]
    · have hiff : i < n + 1 ↔ i < n := by omega
      simp [hn, hiff]

/-- A queue that stops dealing: nothing is sent, no queue changes, and each card of which no continuation is left loses what `loseOf` says. -/
theorem stopDealing_ends (v : Nat) (q : BitVec 8) (s : State) :
    (stopDealing v q s).hub.out = s.hub.out ∧ SameQueues s (stopDealing v q s) ∧
      ∀ i, (∀ k ∈ s.hub.conts, k.card ≠ some i) → (bareCards (stopDealing v q s))[i]? = (bareCards s)[i]?.map (loseOf v q) := by
  obtain ⟨hw, hcards⟩ := foldl_moves (loseCard_moves v q) s s.hub.cards.length
  have hout : ∀ i, ¬i < s.hub.cards.length → (bareCards s)[i]? = none := fun i hi => by
    rw [bareCards, List.getElem?_map, List.getElem?_eq_none (Nat.le_of_not_lt hi)]; rfl
  rw [stopDealing]
  generalize (List.range s.hub.cards.length).foldl (loseCard v q) s = s1 at hw hcards ⊢
  have hconts : s1.hub.conts = s.hub.conts := by obtain ⟨-, m, l, qs, cs, rfl⟩ := hw; rfl
  have hends := hw.ends (I := fun _ => False) fun _ h => h.elim
  have hfree : FreeOf (fun i => ∀ k ∈ s.hub.conts, k.card ≠ some i) s1 := fun k hk i hi => hi k (hconts ▸ hk)
  have hended := foldl_endCont_ends (st := .cancelled) (ks := s1.hub.conts.filter fun k => inQueue v q k && contState s1 k == .new)
    (fun k hk => hfree k (List.mem_filter.mp hk).1) hfree
  refine ⟨hended.out.trans hends.out, fun k => (hended.queues k).trans (hends.queues k), fun i hi => ?_⟩
  rw [hended.cards i hi, hcards]
  split
  · rfl
  · rw [hout i ‹_›]; rfl

end Sys2Proof.Proofs
end

section
/-! How a queue closes, its descriptor, and the refusals of QCREATE (R79, R80, R88). -/

namespace Sys2Proof.Proofs
open Sys2Proof Sys2Proof.Machine Sys2Proof.Claim

/-! ### A queue that closes (R88 steps 5 to 7) -/

theorem failPass_cardWork (s : State) : CardWork s (failPass s) := by
  refine foldl_cardWork (fun s i => ?_) _ s
  split
  · split
    · exact cancelCard_cardWork i s
    · exact .refl s
  · exact .refl s

theorem failAll_cardWork (n : Nat) (s : State) : CardWork s (failAll n s) := by
  induction n generalizing s with
  | zero => exact .refl s
  | succ n ih => exact (failPass_cardWork s).trans (ih _)

/-- The responses to the commands that waited for a queue, in their order (R77). -/
theorem foldl_respond (as : List (Nat × HostCmd)) (s : State) :
    as.foldl (fun s (ep, c) => respond ep c 0#8 0#64 0#64 [] s) s =
      setHub s { s.hub with out := s.hub.out ++ as.map fun a => response a.1 a.2 0#8 0#64 0#64 [] } := by
  induction as generalizing s with
  | nil => rw [List.map_nil, List.append_nil]; rfl
  | cons a as ih =>
    rw [List.foldl_cons, ih, List.map_cons, List.append_cons]
    rfl

theorem bareQueue_st {x y : Queue} (h : bareQueue x = bareQueue y) : x.st = y.st := congrArg (·.st) h
theorem bareQueue_head {x y : Queue} (h : bareQueue x = bareQueue y) : x.head = y.head := congrArg (·.head) h
theorem bareQueue_tail {x y : Queue} (h : bareQueue x = bareQueue y) : x.tail = y.tail := congrArg (·.tail) h
theorem bareQueue_answers {x y : Queue} (h : bareQueue x = bareQueue y) : x.answers = y.answers := congrArg (·.answers) h

/-- A closed queue has answered every command that waited for it. -/
theorem closeQueue_closes (s : State) (ep : Nat) (c : HostCmd) :
    (cmdQueue (closeQueue (ep - 1) c.queue s) ep c).st = .closed ∧ (cmdQueue (closeQueue (ep - 1) c.queue s) ep c).answers = [] ∧
      (closeQueue (ep - 1) c.queue s).hub.out = s.hub.out ++ (cmdQueue s ep c).answers.map fun a => response a.1 a.2 0#8 0#64 0#64 [] := by
  have hw := (noteDeps_cardWork s).1.trans (failAll_cardWork s.hub.cards.length (noteDeps s))
  rw [closeQueue]
  generalize failAll s.hub.cards.length (noteDeps s) = s1 at hw ⊢
  obtain ⟨hq, m, l, qs, cs, rfl⟩ := hw
  have hanswers := bareQueue_answers (hq (256 * (ep - 1) + c.queue.toNat))
  dsimp only
  rw [foldl_respond]
  generalize hx : queueOf _ (ep - 1) c.queue = x
  have hx : tabGet ({} : Queue) qs (256 * (ep - 1) + c.queue.toNat) = x := hx
  have hxa : x.answers = (cmdQueue s ep c).answers := by rw [← hx]; exact hanswers
  have hclosed : tabGet ({} : Queue) (tabSet {} qs (256 * (ep - 1) + c.queue.toNat) { x with st := .closed, answers := [] }) (256 * (ep - 1) + c.queue.toNat) =
      { x with st := .closed, answers := [] } := tabGet_tabSet_ne fun h => nomatch (congrArg Queue.st h : QueueState.closed = .none)
  refine ⟨?_, ?_, ?_⟩
  · exact congrArg Queue.st hclosed
  · exact congrArg Queue.answers hclosed
  · rw [← hxa]; rfl

/-! ### A queue's descriptor (R79) -/

/-- The fields of a descriptor. -/
theorem queueNat_fields (q : Queue) :
    field (queueNat q) 256 32 = q.tail.toNat ∧ field (queueNat q) 288 32 = q.head.toNat ∧ field (queueNat q) 320 56 = q.cardBase.toNat ∧ field (queueNat q) 376 4 = q.capLog.toNat ∧
      field (queueNat q) 380 12 = q.owner.toNat ∧ field (queueNat q) 392 56 = q.cwBase.toNat ∧ field (queueNat q) 448 4 = q.part.toNat ∧ field (queueNat q) 452 4 = queueCode q.st ∧
      field (queueNat q) 456 24 = q.cwCap.toNat ∧ field (queueNat q) 480 32 = q.wdog.toNat ∧ queueNat q < 256 ^ 64 := by
  have hkslot := q.kslot.isLt
  have hprot : boolNat q.prot < 2 := by cases q.prot <;> decide
  have htail := q.tail.isLt
  have hhead := q.head.isLt
  have hcard := q.cardBase.isLt
  have hcap := q.capLog.isLt
  have howner := q.owner.isLt
  have hcw := q.cwBase.isLt
  have hpart := q.part.isLt
  have hst : queueCode q.st < 5 := by cases q.st <;> decide
  have hcwCap := q.cwCap.isLt
  have hwdog := q.wdog.isLt
  unfold field queueNat
  refine ⟨?_, ?_, ?_, ?_, ?_, ?_, ?_, ?_, ?_, ?_, ?_⟩ <;> omega

/-! ### Commands on a queue (R80) -/

theorem onQueue_of_state {s : State} {ep : Nat} {c : HostCmd} {sts : List QueueState} (hne : (cmdQueue s ep c).st ≠ .none) (hmem : sts.contains (cmdQueue s ep c).st = true)
    (k : Nat → Queue → Machine.Out) : onQueue ep c sts (heardOf s ep c) k = k (ep - 1) (cmdQueue s ep c) := by
  have hq : queueOf (heardOf s ep c) (ep - 1) c.queue = cmdQueue s ep c := rfl
  rw [onQueue]
  rw [hq, if_neg hne, hmem]
  rfl

/-- Of what queues and cards are made of only the command's queue has changed, which is `x` now, and nothing is sent. -/
structure SetsQueue (s t : State) (ep : Nat) (c : HostCmd) (x : Queue) : Prop where
  core : t.core = s.core
  out : t.hub.out = s.hub.out
  cards : t.hub.cards = s.hub.cards
  conts : t.hub.conts = s.hub.conts
  parts : t.hub.parts = s.hub.parts
  queues : t.hub.queues = tabSet {} s.hub.queues (256 * (ep - 1) + c.queue.toNat) x

theorem setQueue_hub (v : Nat) (q : BitVec 8) (x : Queue) (s : State) :
    (setQueue v q x s).hub = { s.hub with queues := tabSet {} s.hub.queues (256 * v + q.toNat) x } := by dsimp only [setQueue, setHub]
theorem setQueue_core (v : Nat) (q : BitVec 8) (x : Queue) (s : State) : (setQueue v q x s).core = s.core := by dsimp only [setQueue, setHub]
theorem setQueue_mem (v : Nat) (q : BitVec 8) (x : Queue) (s : State) :
    (setQueue v q x s).mem = setLe s.mem ((Config.queueTable v).toNat * 2 ^ 14 + 64 * q.toNat) 64 (queueNat x) := by dsimp only [setQueue, setHub]

theorem setsQueue (s : State) (ep : Nat) (c : HostCmd) (x : Queue) : SetsQueue s (setQueue (ep - 1) c.queue x s) ep c x := by
  constructor
  case core => rw [setQueue_core]
  all_goals rw [setQueue_hub]

section
variable {s t u : State} {ep : Nat} {c : HostCmd} {x : Queue}

theorem SetsQueue.heard (h : SetsQueue (heardOf s ep c) t ep c x) : SetsQueue s t ep c x := ⟨h.core, h.out, h.cards, h.conts, h.parts, h.queues⟩

theorem SetsQueue.touched (h : SetsQueue s t ep c x) (g : Touched t u) : SetsQueue s u ep c x := by
  obtain ⟨m, l, rfl⟩ := g
  exact ⟨h.core, h.out, h.cards, h.conts, h.parts, h.queues⟩

theorem SetsQueue.noteOwner (h : SetsQueue s t ep c x) (v : Nat) (o : BitVec 12) : SetsQueue s (noteOwner v o t) ep c x :=
  ⟨h.core, h.out, h.cards, h.conts, h.parts, h.queues⟩

theorem SetsQueue.queue (h : SetsQueue s t ep c x) (hx : x ≠ {}) : cmdQueue t ep c = x := by
  rw [cmdQueue, h.queues, tabGet_tabSet_ne hx]

/-- The command answered, where the queue exists from now on. -/
theorem SetsQueue.answered (h : SetsQueue s t ep c x) (hx : x ≠ {}) (st : BitVec 8) (a0 a1 : Word) :
    Responds s (respond ep c st a0 a1 [] t) ep c st a0 a1 ∧ OnlyQueue s (respond ep c st a0 a1 [] t) ep c ∧ cmdQueue (respond ep c st a0 a1 [] t) ep c = x := by
  refine ⟨?_, ⟨h.core, h.cards, h.conts, h.parts, fun k hk => ?_⟩, h.queue hx⟩
  · show t.hub.out ++ [_] = _
    rw [h.out]; rfl
  · show tabGet {} t.hub.queues k = _
    rw [h.queues, tabGet_tabSet_other_ne hx hk]

/-- The same of a queue in a canonical table. -/
theorem SetsQueue.answered_wf (h : SetsQueue s t ep c x) (hw : tabWf {} s.hub.queues = true) (st : BitVec 8) (a0 a1 : Word) :
    Responds s (respond ep c st a0 a1 [] t) ep c st a0 a1 ∧ OnlyQueue s (respond ep c st a0 a1 [] t) ep c ∧ cmdQueue (respond ep c st a0 a1 [] t) ep c = x := by
  refine ⟨?_, ⟨h.core, h.cards, h.conts, h.parts, fun k hk => ?_⟩, ?_⟩
  · show t.hub.out ++ [_] = _
    rw [h.out]; rfl
  · show tabGet {} t.hub.queues k = _
    rw [h.queues]; exact tabGet_tabSet_other hw hk
  · show tabGet {} t.hub.queues _ = _
    rw [h.queues]; exact tabGet_tabSet_same hw

/-- A queue stops dealing in the state that it has been put into (R88 step 2). -/
theorem SetsQueue.stops (h : SetsQueue s t ep c x) (hx : x.st ≠ .none) :
    (cmdQueue (stopDealing (ep - 1) c.queue t) ep c).st = x.st ∧ (cmdQueue (stopDealing (ep - 1) c.queue t) ep c).answers = x.answers ∧
      (stopDealing (ep - 1) c.queue t).hub.out = s.hub.out ∧
      ∀ i, (∀ k ∈ s.hub.conts, k.card ≠ some i) → (bareCards (stopDealing (ep - 1) c.queue t))[i]? = (bareCards s)[i]?.map (loseOf (ep - 1) c.queue) := by
  obtain ⟨hout, hqueues, hcards⟩ := stopDealing_ends (ep - 1) c.queue t
  have hq := (hqueues (256 * (ep - 1) + c.queue.toNat)).trans (congrArg bareQueue (h.queue fun he => hx (congrArg Queue.st he)))
  refine ⟨bareQueue_st hq, bareQueue_answers hq, hout.trans h.out, fun i hi => ?_⟩
  rw [hcards i (h.conts ▸ hi), bareCards, bareCards, h.cards]

end

/-- A queue that exists is not the one that an unlisted key holds. -/
theorem queue_ne_default {x : Queue} (h : x.st ≠ .none) : x ≠ {} := fun he => h (congrArg Queue.st he)

/-! ### QCREATE (R79) -/

theorem toNat_ofNat_bits (x lo n : Nat) : (BitVec.ofNat n (bits x lo n)).toNat = bits x lo n := by rw [BitVec.toNat_ofNat, bits, Nat.mod_mod]

theorem ofNat_bits_eq_iff (x lo n y : Nat) (hy : y < 2 ^ n) : BitVec.ofNat n (bits x lo n) = BitVec.ofNat n y ↔ bits x lo n = y := by
  rw [← BitVec.toNat_inj, toNat_ofNat_bits, BitVec.toNat_ofNat, Nat.mod_eq_of_lt hy]

theorem bitAt_eq_true_iff (x i : Nat) : bitAt x i = true ↔ bits x i 1 = 1 := by rw [bitAt, beq_iff_eq, bits, Nat.pow_one]

/-- A payload that makes no queue (R79). -/
def MalformedQueue (s : State) (ep : Nat) (c : HostCmd) : Prop :=
  let x := leNat c.payload
  c.payload.length ≠ 64 ∨ field x 376 4 = 0 ∨ field x 456 24 < 2 ∨ field x 392 56 % 8 ≠ 0 ∨ field x 320 56 % 64 ≠ 0 ∨ 8 ≤ field x 448 4 ∨
    field x 448 4 ≠ (vdevOf s (ep - 1)).part.toNat ∨ (field x 255 1 = 1 ∧ field x 240 8 = 0xFF)

/-- The owner that a payload names may be entered, and holds its rings (R79). -/
def AllowedQueue (s : State) (ep : Nat) (c : HostCmd) : Prop :=
  let x := leNat c.payload
  let owner : BitVec 12 := BitVec.ofNat 12 (field x 380 12)
  mayEnter s (vdevOf s (ep - 1)).owner owner = true ∧ holdsSpan s owner (field x 320 56) (64 * 2 ^ field x 376 4) [.I] = true ∧
    holdsSpan s owner (field x 392 56) (8 * field x 456 24) [.I, .W] = true

theorem malformedQueue_iff (s : State) (ep : Nat) (c : HostCmd) :
    let q := queueOfPayload (leNat c.payload)
    (c.payload.length ≠ 64 ∨ q.capLog = 0#4 ∨ q.cwCap.toNat < 2 ∨ q.cwBase.toNat % 8 ≠ 0 ∨ q.cardBase.toNat % 64 ≠ 0 ∨ 8 ≤ q.part.toNat ∨
      q.part.toNat ≠ (vdevOf s (ep - 1)).part.toNat ∨ (q.prot = true ∧ q.kslot = 0xFF#8)) ↔ MalformedQueue s ep c := by
  have hcap := ofNat_bits_eq_iff (leNat c.payload) 376 4 0 (by decide)
  have hkslot := ofNat_bits_eq_iff (leNat c.payload) 240 8 0xFF (by decide)
  simp only [queueOfPayload, toNat_ofNat_bits, hcap, hkslot, bitAt_eq_true_iff]
  rfl

theorem allowedQueue_iff (s : State) (ep : Nat) (c : HostCmd) :
    let q := queueOfPayload (leNat c.payload)
    (!mayEnter s (vdevOf s (ep - 1)).owner q.owner || !holdsSpan s q.owner q.cardBase.toNat (64 * 2 ^ q.capLog.toNat) [.I] ||
      !holdsSpan s q.owner q.cwBase.toNat (8 * q.cwCap.toNat) [.I, .W]) = true ↔ ¬AllowedQueue s ep c := by
  simp only [queueOfPayload, toNat_ofNat_bits, Bool.or_eq_true, Bool.not_eq_true', ← Bool.not_eq_true, AllowedQueue, not_and_or, or_assoc]
  rfl

/-- The first refusal that QCREATE meets, in order (R79). -/
theorem qcreateError_cases (s : State) (ep : Nat) (c : HostCmd) :
    let e := qcreateError s (ep - 1) c (queueOfPayload (leNat c.payload))
    (MalformedQueue s ep c → e = 2#8) ∧ (¬MalformedQueue s ep c → (cmdQueue s ep c).st ≠ .none → e = 6#8) ∧
      (¬MalformedQueue s ep c → (cmdQueue s ep c).st = .none → ¬AllowedQueue s ep c → e = 8#8) ∧
      (¬MalformedQueue s ep c → (cmdQueue s ep c).st = .none → AllowedQueue s ep c → e = 0#8) := by
  have hq : queueOf s (ep - 1) c.queue = cmdQueue s ep c := rfl
  have hmal := malformedQueue_iff s ep c
  have hall := allowedQueue_iff s ep c
  dsimp only [qcreateError]
  rw [hq]
  refine ⟨fun h => if_pos (hmal.mpr h), fun h hst => ?_, fun h hst ha => ?_, fun h hst ha => ?_⟩
  · rw [if_neg (mt hmal.mp h), if_pos hst]
  · rw [if_neg (mt hmal.mp h), if_neg (not_not.mpr hst), if_pos (hall.mpr ha)]
  · rw [if_neg (mt hmal.mp h), if_neg (not_not.mpr hst), if_neg (mt hall.mp (not_not.mpr ha))]

end Sys2Proof.Proofs
end

section
/-! The commands on queues and their completions, as R79, R80 and R88 say. -/

namespace Sys2Proof.Proofs
open Sys2Proof Sys2Proof.Machine Sys2Proof.Claim

theorem exec_hostQcreate (ep : Nat) (c : HostCmd) (s : State) : exec (.hostQcreate ep c) s = execHostQcreate ep c s := rfl
theorem exec_hostQopen (ep : Nat) (c : HostCmd) (s : State) : exec (.hostQopen ep c) s = execHostQopen ep c s := rfl
theorem exec_hostQdestroy (ep : Nat) (c : HostCmd) (s : State) : exec (.hostQdestroy ep c) s = execHostQdestroy ep c s := rfl
theorem exec_hostQstat (ep : Nat) (c : HostCmd) (s : State) : exec (.hostQstat ep c) s = execHostQstat ep c s := rfl
theorem exec_hostDrain (ep : Nat) (c : HostCmd) (s : State) : exec (.hostDrain ep c) s = execHostDrain ep c s := rfl
theorem exec_hostReset (ep : Nat) (c : HostCmd) (s : State) : exec (.hostReset ep c) s = execHostReset ep c s := rfl
theorem exec_hostLaunch (ep : Nat) (c : HostCmd) (s : State) : exec (.hostLaunch ep c) s = execHostLaunch ep c s := rfl
theorem exec_drainComplete (v q : Nat) (s : State) : exec (.drainComplete v q) s = execDrainComplete v q s := rfl
theorem exec_resetComplete (v q : Nat) (s : State) : exec (.resetComplete v q) s = execResetComplete v q s := rfl

theorem answered {i : Instr} {s : State} {ep : Nat} {c : HostCmd} {st : BitVec 8} (hlive : (endp s ep).live = true) (h : exec i s = answer ep c st (heardOf s ep c)) :
    ∃ t, exec i s = .next t ∧ OnlyEndpoint s t ep ∧ Responds s t ep c st 0#64 0#64 :=
  ⟨_, h, answer_heardOf hlive st 0#64 0#64 []⟩

/-- QCREATE that passes R76: the refusals in order, or the queue (R79). -/
theorem hostQcreate_passes {s : State} {ep : Nat} {c : HostCmd} (h : Passes s ep c 5#8 true) :
    let q := queueOfPayload (leNat c.payload)
    let e := qcreateError s (ep - 1) c q
    (e ≠ 0#8 → exec (.hostQcreate ep c) s = answer ep c e (heardOf s ep c)) ∧
      (e = 0#8 → exec (.hostQcreate ep c) s =
        answer ep c 0#8 (clearStopWord q (noteOwner (ep - 1) q.owner (setQueue (ep - 1) c.queue { q with st := .open_, wdLast := s.gtc } (heardOf s ep c))))) := by
  have hexec := (exec_hostQcreate ep c s).trans (command_passes h (by decide) _)
  have herror : qcreateError (heardOf s ep c) (ep - 1) c (queueOfPayload (leNat c.payload)) = qcreateError s (ep - 1) c (queueOfPayload (leNat c.payload)) := rfl
  dsimp only at hexec ⊢
  rw [herror] at hexec
  exact ⟨fun he => hexec.trans (if_pos he), fun he => hexec.trans (if_neg (not_not.mpr he))⟩

/-- Cards of a queue that has stopped dealing (R88 step 2). -/
theorem lost_of_stopDealing {s t : State} {v : Nat} {q : BitVec 8}
    (h : ∀ i, (∀ k ∈ s.hub.conts, k.card ≠ some i) → (bareCards t)[i]? = (bareCards s)[i]?.map (loseOf v q)) {i : Nat} {d : Card}
    (hd : s.hub.cards[i]? = some d) (hv : d.vdev = v) (hq : d.queue = q) (hk : ∀ k ∈ s.hub.conts, k.card ≠ some i) :
    (d.st = .pending → ∃ e, t.hub.cards[i]? = some e ∧ e.st = .cancelled ∧ e.lost = field d.bits.toNat 128 28) ∧
      (d.st = .running → d.dealt < field d.bits.toNat 128 28 →
        ∃ e, t.hub.cards[i]? = some e ∧ e.dealt = field d.bits.toNat 128 28 ∧ e.lost = d.lost + (field d.bits.toNat 128 28 - d.dealt)) := by
  have hcount : cardCount d.bits = field d.bits.toNat 128 28 := by rw [cardCount, BitVec.extractLsb'_toNat, Nat.shiftRight_eq_div_pow, field]
  have hbare : (bareCards t)[i]? = some (bareCard (loseOf v q d)) := by
    rw [h i hk, bareCards, List.getElem?_map, hd, Option.map_some, Option.map_some, loseOf_bare]
  rw [bareCards, List.getElem?_map, Option.map_eq_some_iff] at hbare
  obtain ⟨e, he, hbare⟩ := hbare
  have hmine : ¬(d.vdev ≠ v ∨ d.queue ≠ q) := by simp [hv, hq]
  rw [← hcount]
  refine ⟨fun hp => ⟨e, he, ?_⟩, fun hr hlt => ⟨e, he, ?_⟩⟩
  · rw [loseOf, if_neg hmine, if_pos hp] at hbare
    exact ⟨congrArg Card.st hbare, congrArg Card.lost hbare⟩
  · rw [loseOf, if_neg hmine, if_neg (by rw [hr]; nofun), if_pos ⟨hr, hlt⟩] at hbare
    exact ⟨congrArg Card.dealt hbare, congrArg Card.lost hbare⟩

/-- QCREATE: the refusals in order (R79). -/
theorem hostQcreate_refused {s : State} {ep : Nat} {c : HostCmd} (h : Passes s ep c 5#8 true) {e : BitVec 8}
    (he : qcreateError s (ep - 1) c (queueOfPayload (leNat c.payload)) = e) (hne : e ≠ 0#8) :
    ∃ t, exec (.hostQcreate ep c) s = .next t ∧ OnlyEndpoint s t ep ∧ Responds s t ep c e 0#64 0#64 :=
  answered h.1.1 (he ▸ (hostQcreate_passes h).1 (he ▸ hne))

theorem prot_of_payload (x : Nat) : bitAt x 255 = decide (field x 255 1 = 1) := by
  rw [Bool.eq_iff_iff, bitAt_eq_true_iff, decide_eq_true_iff]
  rfl

theorem hostQcreate_makes {s : State} {ep : Nat} {c : HostCmd} (h : Passes s ep c 5#8 true) (he : qcreateError s (ep - 1) c (queueOfPayload (leNat c.payload)) = 0#8) :
    ∃ t, exec (.hostQcreate ep c) s = .next t ∧ Responds s t ep c 0#8 0#64 0#64 ∧ OnlyQueue s t ep c ∧
      cmdQueue t ep c = { queueOfPayload (leNat c.payload) with st := .open_, wdLast := s.gtc } :=
  ⟨_, (hostQcreate_passes h).2 he, (((setsQueue (heardOf s ep c) ep c _).heard.noteOwner _ _).touched (devPut_touched _ _ _ _)).answered (queue_ne_default (by nofun)) _ _ _⟩

/-- QOPEN (R80). -/
theorem hostQopen_opens {s : State} {ep : Nat} {c : HostCmd} (h : Passes s ep c 6#8 true) (hst : (cmdQueue s ep c).st = .closed) :
    ∃ t, exec (.hostQopen ep c) s = .next t ∧ Responds s t ep c 0#8 0#64 0#64 ∧ OnlyQueue s t ep c ∧
      cmdQueue t ep c = { cmdQueue s ep c with st := .open_, head := (cmdQueue s ep c).tail } :=
  ⟨_, (exec_hostQopen ep c s).trans ((command_passes h (by decide) _).trans (onQueue_of_state (by rw [hst]; nofun) (by rw [hst]; rfl) _)),
    ((setsQueue (heardOf s ep c) ep c _).heard.touched (devPut_touched _ _ _ _)).answered (queue_ne_default (by nofun)) _ _ _⟩

/-- QDESTROY, with the descriptor that it leaves in the queue table (R79, R80). -/
theorem hostQdestroy_destroys {s : State} {ep : Nat} {c : HostCmd} (h : Passes s ep c 10#8 true) (hst : (cmdQueue s ep c).st = .closed) (hw : tabWf {} s.hub.queues = true) :
    ∃ t, exec (.hostQdestroy ep c) s = .next t ∧ (Responds s t ep c 0#8 0#64 0#64 ∧ OnlyQueue s t ep c ∧ cmdQueue t ep c = { cmdQueue s ep c with st := .none }) ∧
      (Memory.wf s.mem = true → getLe t.mem ((Config.queueTable (ep - 1)).toNat * 2 ^ 14 + 64 * c.queue.toNat) 64 = queueNat { cmdQueue s ep c with st := .none }) := by
  obtain ⟨-, -, -, -, -, -, -, -, -, -, hlt⟩ := queueNat_fields { cmdQueue s ep c with st := .none }
  refine ⟨_, (exec_hostQdestroy ep c s).trans ((command_passes h (by decide) _).trans (onQueue_of_state (by rw [hst]; nofun) (by rw [hst]; rfl) _)),
    (setsQueue (heardOf s ep c) ep c _).heard.answered_wf hw _ _ _, fun hm => ?_⟩
  have hmem (t : State) : (respond ep c 0#8 0#64 0#64 [] t).mem = t.mem := rfl
  rw [hmem, setQueue_mem]
  exact (getLe_setLe hm).trans (Nat.mod_eq_of_lt hlt)

/-- QSTAT (R76, R80). -/
theorem hostQstat_answers {s : State} {ep : Nat} {c : HostCmd} (h : Passes s ep c 11#8 false) (hst : (cmdQueue s ep c).st ≠ .none) :
    exec (.hostQstat ep c) s = .next (respond ep c 0#8 (BitVec.ofNat 64 (cmdQueue s ep c).dropped) 0#64 (leBytes 64 (queueNat (cmdQueue s ep c))) (heardOf s ep c)) := by
  have hmem : [QueueState.open_, .draining, .resetting, .closed].contains (cmdQueue s ep c).st = true := by
    cases hs : (cmdQueue s ep c).st with
    | none => exact absurd hs hst
    | _ => rfl
  exact (exec_hostQstat ep c s).trans ((command_passes h (by decide) _).trans (onQueue_of_state hst hmem _))

/-- DRAIN (R88 steps 1 and 2). -/
theorem hostDrain_drains {s : State} {ep : Nat} {c : HostCmd} (h : Passes s ep c 8#8 true) (hst : (cmdQueue s ep c).st = .open_) :
    ∃ t, exec (.hostDrain ep c) s = .next t ∧ (cmdQueue t ep c).st = .draining ∧ (cmdQueue t ep c).answers = (cmdQueue s ep c).answers ++ [(ep, c)] ∧ t.hub.out = s.hub.out ∧
      ∀ i, (∀ k ∈ s.hub.conts, k.card ≠ some i) → (bareCards t)[i]? = (bareCards s)[i]?.map (loseOf (ep - 1) c.queue) :=
  ⟨_, (exec_hostDrain ep c s).trans ((command_passes h (by decide) _).trans (onQueue_of_state (by rw [hst]; nofun) (by rw [hst]; rfl) _)),
    (setsQueue (heardOf s ep c) ep c _).heard.stops (by nofun)⟩

/-- A reset begins on a queue in the state that a command has put it into (R80, R88 steps 1 and 2). -/
theorem SetsQueue.resets {s t : State} {ep : Nat} {c : HostCmd} {x : Queue} (h : SetsQueue s t ep c x) (hx : x.st = .open_ ∨ x.st = .draining) :
    (cmdQueue (beginReset (ep - 1) c.queue t) ep c).st = .resetting ∧ (cmdQueue (beginReset (ep - 1) c.queue t) ep c).answers = x.answers ∧
      (beginReset (ep - 1) c.queue t).hub.out = s.hub.out ∧
      ∀ i, (∀ k ∈ s.hub.conts, k.card ≠ some i) → (bareCards (beginReset (ep - 1) c.queue t))[i]? = (bareCards s)[i]?.map (loseOf (ep - 1) c.queue) := by
  have hq : queueOf t (ep - 1) c.queue = x := h.queue fun he => by rw [he] at hx; obtain hx | hx := hx <;> exact nomatch hx
  obtain ⟨hst, hanswers, hout, hcards⟩ := (setsQueue t ep c { x with st := .resetting }).stops nofun
  rw [beginReset, hq, if_pos hx]
  dsimp only
  generalize stopDealing (ep - 1) c.queue (setQueue (ep - 1) c.queue { x with st := .resetting } t) = u at *
  refine ⟨hst, hanswers, hout.trans h.out, fun i hi => (hcards i (h.conts ▸ hi)).trans ?_⟩
  rw [bareCards, bareCards, h.cards]

/-- RESET (R88 steps 1 and 2). -/
theorem hostReset_resets {s : State} {ep : Nat} {c : HostCmd} (h : Passes s ep c 9#8 true) (hst : (cmdQueue s ep c).st = .open_ ∨ (cmdQueue s ep c).st = .draining) :
    ∃ t, exec (.hostReset ep c) s = .next t ∧ (cmdQueue t ep c).st = .resetting ∧ (cmdQueue t ep c).answers = (cmdQueue s ep c).answers ++ [(ep, c)] ∧ t.hub.out = s.hub.out ∧
      ∀ i, (∀ k ∈ s.hub.conts, k.card ≠ some i) → (bareCards t)[i]? = (bareCards s)[i]?.map (loseOf (ep - 1) c.queue) := by
  have hne : (cmdQueue s ep c).st ≠ .none := by obtain h | h := hst <;> rw [h] <;> exact fun h => nomatch h
  have hmem : [QueueState.open_, .draining].contains (cmdQueue s ep c).st = true := by obtain h | h := hst <;> rw [h] <;> rfl
  exact ⟨_, (exec_hostReset ep c s).trans ((command_passes h (by decide) _).trans (onQueue_of_state hne hmem _)), (setsQueue (heardOf s ep c) ep c _).heard.resets hst⟩

theorem cardsOpen_iff (s : State) (v : Nat) (q : BitVec 8) :
    cardsOpen s v q = true ↔ ∃ d ∈ s.hub.cards, d.vdev = v ∧ d.queue = q ∧ (d.st = .pending ∨ d.st = .running) := by
  simp [cardsOpen, and_assoc]

theorem ofNat_queue (q : BitVec 8) : BitVec.ofNat 8 q.toNat = q := by simp

/-! ### Queues that close (R80, R88) -/

theorem drainComplete_cases (s : State) (ep : Nat) (c : HostCmd) :
    ((cmdQueue s ep c).st = .draining → cardsOpen s (ep - 1) c.queue = false →
      exec (.drainComplete (ep - 1) c.queue.toNat) s = .next (closeQueue (ep - 1) c.queue s)) ∧
    ((cmdQueue s ep c).st ≠ .draining ∨ cardsOpen s (ep - 1) c.queue = true → exec (.drainComplete (ep - 1) c.queue.toNat) s = .next s) := by
  have hq : queueOf s (ep - 1) c.queue = cmdQueue s ep c := rfl
  rw [exec_drainComplete, execDrainComplete]
  rw [ofNat_queue, hq]
  refine ⟨fun hst hc => if_pos ⟨hst, hc⟩, fun h => if_neg fun ⟨hst, hc⟩ => ?_⟩
  obtain h | h := h
  · exact h hst
  · rw [h] at hc; cases hc

/-- A queue of a resident virtual device resets once nothing of it is left and the stop of its partition is over. -/
theorem resetComplete_cases (s : State) (ep : Nat) (c : HostCmd) :
    let vd := vdevOf s (ep - 1)
    ((cmdQueue s ep c).st = .resetting → vd.resident = true → cardsOpen s (ep - 1) c.queue = false → (∀ k ∈ s.hub.conts, k.vdev = ep - 1 → k.queue ≠ c.queue) →
      (getPart s vd.part).armed = false → (getPart s vd.part).halted = false → exec (.resetComplete (ep - 1) c.queue.toNat) s = .next (closeQueue (ep - 1) c.queue s)) ∧
    ((cmdQueue s ep c).st ≠ .resetting → exec (.resetComplete (ep - 1) c.queue.toNat) s = .next s) ∧
    (vd.resident = true → cardsOpen s (ep - 1) c.queue = true → exec (.resetComplete (ep - 1) c.queue.toNat) s = .next s) := by
  have hq : queueOf s (ep - 1) c.queue = cmdQueue s ep c := rfl
  have htear (hres : (vdevOf s (ep - 1)).resident = true) : tearDescheduled (ep - 1) c.queue s = s := if_pos hres
  rw [exec_resetComplete, execResetComplete]
  dsimp only
  rw [ofNat_queue, hq]
  refine ⟨fun hst hres hc hk harm hhalt => ?_, fun hst => if_pos hst, fun hres hc => ?_⟩
  · have hnone : s.hub.conts.any (inQueue (ep - 1) c.queue) = false := by
      rw [List.any_eq_false]
      intro k hmem hin
      rw [inQueue, Bool.and_eq_true, beq_iff_eq, beq_iff_eq] at hin
      exact hk k hmem hin.1 hin.2
    rw [if_neg (not_not.mpr hst), htear hres, hnone, hc, harm, hhalt, hres]
    rfl
  · by_cases hst : (cmdQueue s ep c).st = .resetting
    · rw [if_neg (not_not.mpr hst), htear hres, hc, Bool.or_true]
      rfl
    · exact if_pos hst

/-! ### The statement about queues -/

theorem launchQueues : LaunchQueues := by
  intro s ep c q v x owner vd malformed allowed refused row closedUp cancels
  have herror := qcreateError_cases s ep c
  obtain ⟨hbad, hexists, hrights, hmake⟩ := herror
  obtain ⟨hdrained, hdrainWaits⟩ := drainComplete_cases s ep c
  obtain ⟨hreset, hresetWaits, hresetOpen⟩ := resetComplete_cases s ep c
  have hclosed : closedUp (closeQueue v c.queue s) := closeQueue_closes s ep c
  have hopen : (∀ d ∈ s.hub.cards, d.vdev = v → d.queue = c.queue → d.st ≠ .pending ∧ d.st ≠ .running) → cardsOpen s v c.queue = false := fun h => by
    rw [Bool.eq_false_iff]
    intro hc
    obtain ⟨d, hd, hv, hq, hst⟩ := (cardsOpen_iff s v c.queue).mp hc
    exact hst.elim (h d hd hv hq).1 (h d hd hv hq).2
  refine ⟨fun hp => ⟨fun hm => hostQcreate_refused hp (hbad hm) (by decide), fun hm hst => hostQcreate_refused hp (hexists hm hst) (by decide),
      fun hm hst ha => hostQcreate_refused hp (hrights hm hst ha) (by decide), fun hm hst ha => ?_⟩,
    fun hp hst => hostQopen_opens hp hst, fun hp hst hw => ?_, fun hp hst => ?_, fun hp hst => ?_, fun hp hst => ?_,
    fun hcards => ⟨fun hst => ⟨_, hdrained hst (hopen hcards), hclosed⟩, fun hst hres hk harm hhalt => ⟨_, hreset hst hres (hopen hcards) hk harm hhalt, hclosed⟩⟩,
    fun hcard => ?_, fun hst => hdrainWaits (.inl hst), hresetWaits⟩
  · obtain ⟨t, hexec, hresp, honly, hqueue⟩ := hostQcreate_makes hp (hmake hm hst ha)
    exact ⟨t, hexec, hresp, honly, hqueue.trans (by rw [← prot_of_payload]; rfl)⟩
  · obtain ⟨t, hexec, ⟨hresp, honly, hqueue⟩, hrow⟩ := hostQdestroy_destroys hp hst hw
    refine ⟨t, hexec, hresp, honly, hqueue, fun hm => ?_⟩
    obtain ⟨htail, hhead, -, -, -, -, -, hcode, -⟩ := queueNat_fields { q with st := .none }
    have hrow : row t = queueNat { q with st := .none } := hrow hm
    rw [hrow]
    exact ⟨hcode, htail, hhead⟩
  · obtain ⟨htail, hhead, hcard, hcap, howner, hcw, hpart, hcode, hcwCap, hwdog, hlt⟩ := queueNat_fields q
    obtain ⟨honly, hout⟩ := answer_heardOf hp.1.1 0#8 (BitVec.ofNat 64 q.dropped) 0#64 (leBytes 64 (queueNat q))
    have hnat : leNat (leBytes 64 (queueNat q)) = queueNat q := (leNat_leBytes 64 _).trans (Nat.mod_eq_of_lt hlt)
    refine ⟨_, leBytes 64 (queueNat q), hostQstat_answers hp hst, honly, hout, leBytes_length _ _, ?_⟩
    rw [hnat]
    exact ⟨htail, hhead, hcard, hcap, howner, hcw, hpart, hcwCap, hwdog, fun h => by rw [hcode, h]; rfl, fun h => by rw [hcode, h]; rfl,
      fun h => by rw [hcode, h]; rfl, fun h => by rw [hcode, h]; rfl⟩
  · obtain ⟨t, hexec, hst, hanswers, hout, hcards⟩ := hostDrain_drains hp hst
    exact ⟨t, hexec, hst, hanswers, hout, fun i d hd hv hq hk => lost_of_stopDealing hcards hd hv hq hk⟩
  · obtain ⟨t, hexec, hst, hanswers, hout, hcards⟩ := hostReset_resets hp hst
    exact ⟨t, hexec, hst, hanswers, hout, fun i d hd hv hq hk => lost_of_stopDealing hcards hd hv hq hk⟩
  · have hc := (cardsOpen_iff s v c.queue).mpr hcard
    exact ⟨hdrainWaits (.inr hc), fun hres => hresetOpen hres hc⟩

end Sys2Proof.Proofs
end

section
/-! LAUNCH: its cards are judged before any status is written, those that pass join the dealer's list, HEAD rises over all of them (R39, R46, R81). -/

namespace Sys2Proof.Proofs
open Sys2Proof Sys2Proof.Machine Sys2Proof.Claim

/-! ### Judging does not look at endpoints -/

/-- A state with other endpoints. -/
def withEps (e : Tab Endpoint) (s : State) : State := setHub s { s.hub with eps := e }

theorem touchPage_withEps (e : Tab Endpoint) (w : Bool) (va : Nat) (s : State) : touchPage w va (withEps e s) = withEps e (touchPage w va s) := by
  have hwalk : walk (withEps e s) va = walk s va := rfl
  have hlock (s : State) : lockHeap va (withEps e s) = withEps e (lockHeap va s) := by
    rw [lockHeap, lockHeap]; split <;> rfl
  rw [touchPage, touchPage, hwalk]
  split
  · split
    · exact hlock { s with mem := setAD s.mem _ w }
    · exact hlock s
  · rfl

theorem foldl_withEps {α : Type} {e : Tab Endpoint} {f : State → α → State} (hf : ∀ s a, f (withEps e s) a = withEps e (f s a)) (l : List α) (s : State) :
    l.foldl f (withEps e s) = withEps e (l.foldl f s) := by
  induction l generalizing s with
  | nil => rfl
  | cons a l ih => rw [List.foldl_cons, hf, ih, List.foldl_cons]

theorem hubRead_withEps (e : Tab Endpoint) (s : State) (o : BitVec 12) (va n : Nat) : hubRead (withEps e s) o va n = hubRead s o va n := rfl

theorem takeGroups_withEps (e : Tab Endpoint) (l : Nat) (o : BitVec 12) (a : Nat) (s : State) : takeGroups l o a (withEps e s) = withEps e (takeGroups l o a s) := by
  rw [takeGroups, takeGroups, hubRead_withEps]
  split
  · rfl
  · rw [touchPage_withEps]
    exact foldl_withEps (fun _ _ => rfl) _ _

theorem readCard_withEps (e : Tab Endpoint) (s : State) (q : Queue) (n : Nat) : readCard (withEps e s) q n = readCard s q n := rfl

/-! ### The verdicts (R81) -/

theorem isRefused_verdictOf (c : Card) : isRefused (verdictOf c) = false := by
  rw [verdictOf]
  split
  · rfl
  · split <;> rfl

theorem isRefused_launchVerdict (s : State) (v : Nat) (c : Queue) (q : BitVec 8) (l : Nat) (x : BitVec 512) : isRefused (launchVerdict s v c q l x) = !cardOk s v c l x := by
  rw [launchVerdict]
  cases cardOk s v c l x with
  | false => rfl
  | true => exact isRefused_verdictOf _

/-- A card that has been read and passes R39. -/
def passed (s : State) (v : Nat) (q : BitVec 8) (l : Nat) (c : Option (BitVec 56 × BitVec 512)) : Option (BitVec 512) :=
  match c with
  | some (_, x) => if cardOk s v (queueOf s v q) l x then some x else none
  | none => none

/-- A LAUNCH's card with its verdict. -/
abbrev Judgement := Option (BitVec 56 × BitVec 512) × Verdict

/-- The verdicts of the first pass. -/
def firstPass (s : State) (v : Nat) (q : BitVec 8) (l : Nat) (cs : List (Option (BitVec 56 × BitVec 512))) : List Judgement :=
  cs.map fun c => (c, match c with | some (_, x) => launchVerdict s v (queueOf s v q) q l x | none => .refuse false)

theorem firstPass_isRefused (s : State) (v : Nat) (q : BitVec 8) (l : Nat) (c : Option (BitVec 56 × BitVec 512)) :
    isRefused (match c with | some (_, x) => launchVerdict s v (queueOf s v q) q l x | none => .refuse false) = (passed s v q l c).isNone := by
  cases c with
  | none => rfl
  | some c =>
    obtain ⟨a, x⟩ := c
    dsimp only [passed]
    rw [isRefused_launchVerdict]
    cases cardOk s v (queueOf s v q) l x <;> rfl

/-- The group sets of the cards that pass. -/
def passedSets (s : State) (v : Nat) (q : BitVec 8) (l : Nat) (cs : List (Option (BitVec 56 × BitVec 512))) : List (List (BitVec 8)) :=
  (cs.filterMap (passed s v q l)).map cardGroupList

theorem judgeCards_eq (s : State) (v : Nat) (q : BitVec 8) (l : Nat) (cs : List (Option (BitVec 56 × BitVec 512))) :
    judgeCards s v q l cs = if setsNest (passedSets s v q l cs) then (firstPass s v q l cs).map fun p => match p with
      | (some (a, x), .refuse w) => (some (a, x), .refuse w)
      | (some (a, x), _) => (some (a, x), refusal s v x)
      | (none, d) => (none, d)
    else firstPass s v q l cs := by
  have hsets : (firstPass s v q l cs).filterMap (fun p => match p with | (_, .refuse _) => none | (c, _) => c.map fun c => cardGroupList c.2) = passedSets s v q l cs := by
    rw [firstPass, List.filterMap_map, passedSets, List.map_filterMap]
    refine List.filterMap_congr fun c _ => ?_
    cases c with
    | none => rfl
    | some c =>
      obtain ⟨a, x⟩ := c
      have hr := isRefused_launchVerdict s v (queueOf s v q) q l x
      dsimp only [Function.comp, passed]
      cases hc : cardOk s v (queueOf s v q) l x with
      | false => rw [launchVerdict, hc]; rfl
      | true =>
        rw [hc] at hr
        generalize launchVerdict s v (queueOf s v q) q l x = d at hr
        cases d with
        | refuse w => cases hr
        | _ => rfl
  rw [← hsets]
  rfl

/-- A card is refused where it does not pass, or where the groups of those that pass nest. -/
theorem judgeCards_isRefused (s : State) (v : Nat) (q : BitVec 8) (l : Nat) (cs : List (Option (BitVec 56 × BitVec 512))) :
    (judgeCards s v q l cs).map (fun j => isRefused j.2) = cs.map fun c => (passed s v q l c).isNone || setsNest (passedSets s v q l cs) := by
  rw [judgeCards_eq]
  cases setsNest (passedSets s v q l cs) with
  | false =>
    rw [if_neg Bool.false_ne_true, firstPass, List.map_map]
    exact List.map_congr_left fun c _ => (firstPass_isRefused s v q l c).trans (Bool.or_false _).symm
  | true =>
    rw [if_pos rfl, firstPass, List.map_map, List.map_map]
    refine List.map_congr_left fun c _ => ?_
    rw [Bool.or_true]
    cases c with
    | none => rfl
    | some c =>
      dsimp only [Function.comp]
      cases launchVerdict s v (queueOf s v q) q l c.2 <;> rfl

/-- A card that could not be read is refused. -/
theorem judgeCards_unread (s : State) (v : Nat) (q : BitVec 8) (l : Nat) (cs : List (Option (BitVec 56 × BitVec 512))) :
    ∀ j ∈ judgeCards s v q l cs, j.1 = none → isRefused j.2 = true := by
  have hfirst : ∀ j ∈ firstPass s v q l cs, j.1 = none → isRefused j.2 = true := by
    intro j hj hnone
    obtain ⟨c, -, rfl⟩ := List.mem_map.mp hj
    have hc : c = none := hnone
    rw [hc]
    rfl
  rw [judgeCards_eq]
  split
  · intro j hj hnone
    obtain ⟨⟨c, d⟩, hi, rfl⟩ := List.mem_map.mp hj
    cases c with
    | none => exact hfirst _ hi rfl
    | some c => cases d <;> cases hnone
  · exact hfirst

/-! ### Cards that join and statuses that are written (R81) -/

/-- What a LAUNCH may change of a state: memory, the lock of the table registers, queues, cards, groups, and the launches' own state. -/
def LaunchWork (s t : State) : Prop :=
  ∃ m l qs cs ls gs, t = { s with mem := m, hub := { s.hub with rights := { s.hub.rights with locked := l }, queues := qs, cards := cs, launches := ls, groups := gs } } ∧
    ls.length = s.hub.launches.length

theorem LaunchWork.refl (s : State) : LaunchWork s s := ⟨s.mem, s.hub.rights.locked, s.hub.queues, s.hub.cards, s.hub.launches, s.hub.groups, rfl, rfl⟩

theorem LaunchWork.trans {s t u : State} (h : LaunchWork s t) (g : LaunchWork t u) : LaunchWork s u := by
  obtain ⟨m, l, qs, cs, ls, gs, rfl, hl⟩ := h
  obtain ⟨m', l', qs', cs', ls', gs', rfl, hl'⟩ := g
  exact ⟨m', l', qs', cs', ls', gs', rfl, hl'.trans hl⟩

theorem CardWork.launchWork {s t : State} (h : CardWork s t) : LaunchWork s t := by
  obtain ⟨-, m, l, qs, cs, rfl⟩ := h
  exact ⟨m, l, qs, cs, s.hub.launches, s.hub.groups, rfl, rfl⟩

theorem setQueue_launchWork (v : Nat) (q : BitVec 8) (x : Queue) (s : State) : LaunchWork s (setQueue v q x s) :=
  ⟨_, s.hub.rights.locked, _, s.hub.cards, s.hub.launches, s.hub.groups, by dsimp only [setQueue, setHub], rfl⟩

theorem noteSet_launchWork (l : Nat) (gs : List (BitVec 8)) (s : State) : LaunchWork s (noteSet l gs s) := by
  rw [noteSet]
  split
  · exact .refl s
  · exact ⟨s.mem, s.hub.rights.locked, s.hub.queues, s.hub.cards, _, s.hub.groups, rfl, List.length_modify _ _ _⟩

theorem noteSet_keeps (l : Nat) (gs : List (BitVec 8)) (s : State) : (noteSet l gs s).hub.queues = s.hub.queues ∧ (noteSet l gs s).hub.cards = s.hub.cards := by
  rw [noteSet]
  split <;> exact ⟨rfl, rfl⟩

theorem foldl_setGroup_keeps {g : Nat → Group} (l : Nat) (ns : List Nat) (s : State) :
    LaunchWork s (ns.foldl (fun s n => setGroup l (BitVec.ofNat 8 n) (g n) s) s) ∧ SameQueues s (ns.foldl (fun s n => setGroup l (BitVec.ofNat 8 n) (g n) s) s) ∧
      (ns.foldl (fun s n => setGroup l (BitVec.ofNat 8 n) (g n) s) s).hub.cards = s.hub.cards := by
  induction ns generalizing s with
  | nil => exact ⟨.refl s, fun _ => rfl, rfl⟩
  | cons n ns ih =>
    obtain ⟨hw, hq, hc⟩ := ih (setGroup l (BitVec.ofNat 8 n) (g n) s)
    exact ⟨LaunchWork.trans ⟨s.mem, s.hub.rights.locked, s.hub.queues, s.hub.cards, s.hub.launches, _, rfl, rfl⟩ hw, hq, hc⟩

/-- Taking in a group table changes no queue and no card. -/
theorem takeGroups_keeps (l : Nat) (o : BitVec 12) (a : Nat) (s : State) :
    LaunchWork s (takeGroups l o a s) ∧ SameQueues s (takeGroups l o a s) ∧ (takeGroups l o a s).hub.cards = s.hub.cards := by
  rw [takeGroups]
  split
  · exact ⟨.refl s, fun _ => rfl, rfl⟩
  · have ht := touchPage_touched false a s
    obtain ⟨hw, hq, hc⟩ := foldl_setGroup_keeps (g := fun n => groupEntry (bits _ (128 * n) 128)) l (List.range 256) (touchPage false a s)
    refine ⟨ht.cardWork.launchWork.trans hw, fun k => (hq k).trans (ht.cardWork.1 k), hc.trans ?_⟩
    obtain ⟨m, l', ht⟩ := ht
    rw [ht]

/-- The card that a judgement adds to the dealer's list, if any. -/
def joining (v : Nat) (q : BitVec 8) (l : Nat) (j : Judgement) : Option Card :=
  match j with
  | (some (_, _), .refuse _) => none
  | (some (a, x), _) => some { vdev := v, queue := q, launch := l, addr := a, bits := x }
  | (none, _) => none

theorem joining_isSome {v : Nat} {q : BitVec 8} {l : Nat} {j : Judgement} (h : j.1 = none → isRefused j.2 = true) : (joining v q l j).isSome = !isRefused j.2 := by
  obtain ⟨c, d⟩ := j
  cases c with
  | none => rw [h rfl]; rfl
  | some c => cases d <;> rfl

/-- A card joins the dealer's list at its end. -/
theorem addCard_joins (v : Nat) (q : BitVec 8) (l : Nat) (a : BitVec 56) (x : BitVec 512) (s : State) :
    CardWork s (addCard v q l a x s) ∧ bareCards (addCard v q l a x s) = bareCards s ++ [{ vdev := v, queue := q, launch := l, addr := a, bits := x }] := by
  have ht := touchDeps_touched s { vdev := v, queue := q, launch := l, addr := a, bits := x }
  have hbare := noteCard_bare s { vdev := v, queue := q, launch := l, addr := a, bits := x }
  rw [addCard]
  dsimp only
  generalize touchDeps s { vdev := v, queue := q, launch := l, addr := a, bits := x } = s1 at ht ⊢
  obtain ⟨m, lk, rfl⟩ := ht
  refine ⟨⟨fun _ => rfl, m, lk, s.hub.queues, _, rfl⟩, ?_⟩
  show (s.hub.cards ++ [_]).map bareCard = _
  rw [List.map_append, List.map_singleton, hbare]
  rfl

theorem bareCards_of_touched {s t : State} (h : Touched s t) : bareCards t = bareCards s := by
  obtain ⟨m, l, rfl⟩ := h
  rfl

theorem joinCards_joins (v : Nat) (q : BitVec 8) (l : Nat) (js : List Judgement) (s : State) :
    LaunchWork s (joinCards v q l js s) ∧ SameQueues s (joinCards v q l js s) ∧ bareCards (joinCards v q l js s) = bareCards s ++ js.filterMap (joining v q l) := by
  induction js generalizing s with
  | nil => exact ⟨.refl s, fun _ => rfl, (List.append_nil _).symm⟩
  | cons j js ih =>
    have hstep {t : State} (hw : LaunchWork s t) (hq : SameQueues s t) (hc : bareCards t = bareCards s ++ (joining v q l j).toList) :
        LaunchWork s (joinCards v q l js t) ∧ SameQueues s (joinCards v q l js t) ∧ bareCards (joinCards v q l js t) = bareCards s ++ (j :: js).filterMap (joining v q l) := by
      obtain ⟨iw, iq, ic⟩ := ih t
      refine ⟨hw.trans iw, fun k => (iq k).trans (hq k), ic.trans ?_⟩
      rw [hc, List.append_assoc]
      cases hj : joining v q l j with
      | none => rw [List.filterMap_cons_none hj]; rfl
      | some c => rw [List.filterMap_cons_some hj]; rfl
    obtain ⟨c, d⟩ := j
    cases c with
    | none => exact hstep (.refl s) (fun _ => rfl) (List.append_nil _).symm
    | some c =>
      obtain ⟨a, x⟩ := c
      have ht := (touchPage_touched false a.toNat s).trans (touchCw_touched v (cardCw x) _)
      have hjoin : joining v q l (some (a, x), d) = some { vdev := v, queue := q, launch := l, addr := a, bits := x } →
          LaunchWork s (noteSet l (cardGroupList x) (addCard v q l a x (touchCw v (cardCw x) (touchPage false a.toNat s)))) ∧
          SameQueues s (noteSet l (cardGroupList x) (addCard v q l a x (touchCw v (cardCw x) (touchPage false a.toNat s)))) ∧
          bareCards (noteSet l (cardGroupList x) (addCard v q l a x (touchCw v (cardCw x) (touchPage false a.toNat s)))) =
            bareCards s ++ (joining v q l (some (a, x), d)).toList := by
        intro hj
        have hbare := bareCards_of_touched ht
        have hwork := ht.cardWork
        generalize touchCw v (cardCw x) (touchPage false a.toNat s) = t at hbare hwork ⊢
        obtain ⟨haw, hac⟩ := addCard_joins v q l a x t
        obtain ⟨hnq, hnc⟩ := noteSet_keeps l (cardGroupList x) (addCard v q l a x t)
        refine ⟨(hwork.trans haw).launchWork.trans (noteSet_launchWork l _ _), fun k => ?_, ?_⟩
        · rw [hnq]; exact (hwork.trans haw).1 k
        · rw [bareCards, hnc, hj, ← hbare]; exact hac
      cases d with
      | refuse w => exact hstep ht.cardWork.launchWork ht.cardWork.1 ((bareCards_of_touched ht).trans (List.append_nil _).symm)
      | cancel => obtain ⟨hw, hq, hc⟩ := hjoin rfl; exact hstep hw hq hc
      | start => obtain ⟨hw, hq, hc⟩ := hjoin rfl; exact hstep hw hq hc
      | pending => obtain ⟨hw, hq, hc⟩ := hjoin rfl; exact hstep hw hq hc

/-- What a card's status leaves alone: its virtual device, queue and launch, and how much of it has been dealt. -/
def skeleton (c : Card) : Nat × BitVec 8 × Nat × Nat := (c.vdev, c.queue, c.launch, c.dealt)

/-- The same of every card that the dealer has. -/
def skeletons (s : State) : List (Nat × BitVec 8 × Nat × Nat) := (bareCards s).map skeleton

theorem skeletons_getElem? (s : State) (i : Nat) : (skeletons s)[i]? = s.hub.cards[i]?.map skeleton := by
  rw [skeletons, List.getElem?_map, bareCards, List.getElem?_map, Option.map_map]
  rfl

theorem skeletons_length (s : State) : (skeletons s).length = s.hub.cards.length := by rw [skeletons, List.length_map, bareCards, List.length_map]

theorem Moves.skeletons {i : Nat} {f : Card → Card} {s t : State} (h : Moves i f s t) (hf : ∀ c, skeleton (f c) = skeleton c) : skeletons t = skeletons s := by
  have hmap := map_modify_comm (g := skeleton) (f := f) (f' := id) hf (bareCards s) i
  rw [Proofs.skeletons, h.2, hmap, List.modify_id]
  rfl

/-- A status written moves no card but by its status and its lost records. -/
theorem settleCard_keeps (v : Nat) (x : BitVec 512) (i : Nat) (d : Verdict) (s : State) : CardWork s (settleCard v x i d s) ∧ skeletons (settleCard v x i d s) = skeletons s := by
  have hupdate (f : Nat → Nat) : CardWork s (noteDeps (cwUpdate v (cardCw x) f s)) ∧ skeletons (noteDeps (cwUpdate v (cardCw x) f s)) = skeletons s := by
    obtain ⟨hw, hc⟩ := noteDeps_cwUpdate v (cardCw x) f s
    exact ⟨hw, congrArg (List.map skeleton) hc⟩
  have hsame : CardWork s s ∧ skeletons s = skeletons s := ⟨.refl s, rfl⟩
  cases d with
  | refuse w =>
    rw [settleCard]
    split
    · exact hupdate _
    · exact hsame
  | cancel =>
    rw [settleCard]
    cases h : cardAt s i with
    | none => rw [cancelCard, h]; exact hsame
    | some c => exact ⟨(cancelCard_moves h).1, (cancelCard_moves h).skeletons fun _ => rfl⟩
  | start =>
    rw [settleCard]
    cases h : cardAt s i with
    | none => rw [startCard, h]; exact hsame
    | some c =>
      by_cases h0 : cardCount c.bits = 0
      · exact ⟨(startCard_moves h (.inl ⟨h0, rfl⟩)).1, (startCard_moves h (.inl ⟨h0, rfl⟩)).skeletons fun _ => rfl⟩
      · exact ⟨(startCard_moves h (.inr ⟨h0, rfl⟩)).1, (startCard_moves h (.inr ⟨h0, rfl⟩)).skeletons fun _ => rfl⟩
  | pending =>
    rw [settleCard]
    split
    · exact hsame
    · exact hupdate _

theorem queueOf_setQueue {v : Nat} {q : BitVec 8} {x : Queue} (hx : x.st ≠ .none) (s : State) : queueOf (setQueue v q x s) v q = x := by
  rw [queueOf, setQueue_hub]
  exact tabGet_tabSet_ne (queue_ne_default hx)

/-- The status of a card that could be read is written. -/
def settleRead (v i : Nat) (c : Option (BitVec 56 × BitVec 512)) (d : Verdict) (s : State) : State :=
  match c with
  | none => s
  | some (_, x) => settleCard v x i d s

/-- The number of the next accepted card. -/
def nextNumber (i : Nat) (d : Verdict) : Nat := match d with | .refuse _ => i | _ => i + 1

theorem writeCards_cons (v : Nat) (q : BitVec 8) (i : Nat) (c : Option (BitVec 56 × BitVec 512)) (d : Verdict) (js : List Judgement) (s : State) :
    writeCards v q i ((c, d) :: js) s = writeCards v q (nextNumber i d) js
      (setQueue v q { queueOf (settleRead v i c d s) v q with head := (queueOf (settleRead v i c d s) v q).head + 1#32 } (settleRead v i c d s)) := rfl

/-- HEAD rises over every card of a launch; of the queue nothing else moves but its count of dropped messages. -/
theorem writeCards_rises {v : Nat} {q : BitVec 8} (js : List Judgement) (i : Nat) {s : State} (hst : (queueOf s v q).st ≠ .none) :
    LaunchWork s (writeCards v q i js s) ∧ skeletons (writeCards v q i js s) = skeletons s ∧
      bareQueue (queueOf (writeCards v q i js s) v q) = bareQueue { queueOf s v q with head := (queueOf s v q).head + BitVec.ofNat 32 js.length } := by
  induction js generalizing i s with
  | nil => exact ⟨.refl s, rfl, by rw [writeCards, List.length_nil, BitVec.add_zero]⟩
  | cons j js ih =>
    obtain ⟨c, d⟩ := j
    have hsettle : ∃ s1, settleRead v i c d s = s1 ∧ CardWork s s1 ∧ skeletons s1 = skeletons s := by
      cases c with
      | none => exact ⟨s, rfl, .refl s, rfl⟩
      | some c => exact ⟨_, rfl, settleCard_keeps v c.2 i d s⟩
    obtain ⟨s1, hs1, hwork, hskel⟩ := hsettle
    have hbare : bareQueue (queueOf s1 v q) = bareQueue (queueOf s v q) := hwork.1 (256 * v + q.toNat)
    have hst1 : (queueOf s1 v q).st ≠ .none := bareQueue_st hbare ▸ hst
    have hset := queueOf_setQueue (v := v) (q := q) (x := { queueOf s1 v q with head := (queueOf s1 v q).head + 1#32 }) hst1 s1
    obtain ⟨iw, isk, iq⟩ := ih (nextNumber i d)
      (s := setQueue v q { queueOf s1 v q with head := (queueOf s1 v q).head + 1#32 } s1) (by rw [hset]; exact hst1)
    have hcards : skeletons (setQueue v q { queueOf s1 v q with head := (queueOf s1 v q).head + 1#32 } s1) = skeletons s1 := by
      rw [skeletons, skeletons, bareCards, bareCards, setQueue_hub]
    rw [writeCards_cons, hs1]
    refine ⟨hwork.launchWork.trans ((setQueue_launchWork v q _ s1).trans iw), isk.trans (hcards.trans hskel), iq.trans ?_⟩
    rw [hset]
    have hhead : (queueOf s1 v q).head + 1#32 + BitVec.ofNat 32 js.length = (queueOf s v q).head + BitVec.ofNat 32 (js.length + 1) := by
      rw [bareQueue_head hbare, BitVec.add_assoc, BitVec.ofNat_add, BitVec.add_comm 1#32]
    dsimp only [List.length_cons]
    rw [hhead]
    exact congrArg (fun y : Queue => { y with head := (queueOf s v q).head + BitVec.ofNat 32 (js.length + 1) }) hbare

end Sys2Proof.Proofs
end

section
/-! LAUNCH: what is answered, and the queue and the cards afterwards (R81). -/

namespace Sys2Proof.Proofs
open Sys2Proof Sys2Proof.Machine Sys2Proof.Claim

/-- The launch begun. -/
def launchBegun (c : HostCmd) (v : Nat) (q : Queue) (s : State) : State :=
  takeGroups s.hub.launches.length q.owner c.arg1.toNat
    (setQueue v c.queue { q with tail := c.arg0.setWidth 32 } (setHub s { s.hub with launches := s.hub.launches ++ [{ vdev := v, queue := c.queue }] }))

/-- Its cards as read. -/
def launchCards (c : HostCmd) (v : Nat) (q : Queue) (s : State) : List (Option (BitVec 56 × BitVec 512)) :=
  (List.range ((c.arg0.setWidth 32 : BitVec 32) - q.head).toNat).map fun i => readCard (launchBegun c v q s) q (q.head + BitVec.ofNat 32 i).toNat

/-- Its cards judged. -/
def launchJudged (c : HostCmd) (v : Nat) (q : Queue) (s : State) : List Judgement := judgeCards (launchBegun c v q s) v c.queue s.hub.launches.length (launchCards c v q s)

/-- Its statuses written. -/
def launchWritten (c : HostCmd) (v : Nat) (q : Queue) (s : State) : State :=
  writeCards v c.queue (launchBegun c v q s).hub.cards.length (launchJudged c v q s) (joinCards v c.queue s.hub.launches.length (launchJudged c v q s) (launchBegun c v q s))

/-- The card number of the first refused card, or all ones. -/
def firstRefused (q : Queue) (js : List Judgement) : Word :=
  match js.findIdx? fun j => isRefused j.2 with | some i => (q.head + BitVec.ofNat 32 i).setWidth 64 | none => BitVec.allOnes 64

theorem launchNow_eq (ep : Nat) (c : HostCmd) (v : Nat) (q : Queue) (s : State) :
    ∃ x, launchNow ep c v q s = respond ep c 0#8 (BitVec.ofNat 64 ((launchJudged c v q s).countP fun j => isRefused j.2)) (firstRefused q (launchJudged c v q s)) []
      (setVdev v x (launchWritten c v q s)) := ⟨_, rfl⟩

/-! ### The verdicts are those of R81 -/

theorem setQueue_withEps (e : Tab Endpoint) (v : Nat) (n : BitVec 8) (q : Queue) (s : State) : setQueue v n q (withEps e s) = withEps e (setQueue v n q s) := by
  dsimp only [setQueue, withEps, setHub]

theorem launchBegun_heardOf (s : State) (ep : Nat) (c : HostCmd) :
    launchBegun c (ep - 1) (cmdQueue s ep c) (heardOf s ep c) = withEps (heardOf s ep c).hub.eps (judging s ep c) := by
  have hlen : (heardOf s ep c).hub.launches.length = s.hub.launches.length := rfl
  have hbegin : setHub (heardOf s ep c) { (heardOf s ep c).hub with launches := (heardOf s ep c).hub.launches ++ [{ vdev := ep - 1, queue := c.queue }] } =
    withEps (heardOf s ep c).hub.eps { s with hub := { s.hub with launches := s.hub.launches ++ [{ vdev := ep - 1, queue := c.queue }] } } := rfl
  rw [launchBegun, judging, hlen, hbegin, setQueue_withEps, takeGroups_withEps]

theorem passed_launchBegun (s : State) (ep : Nat) (c : HostCmd) (i : Nat) :
    passed (launchBegun c (ep - 1) (cmdQueue s ep c) (heardOf s ep c)) (ep - 1) c.queue s.hub.launches.length
      (readCard (launchBegun c (ep - 1) (cmdQueue s ep c) (heardOf s ep c)) (cmdQueue s ep c) ((cmdQueue s ep c).head + BitVec.ofNat 32 i).toNat) = passing s ep c i := by
  rw [launchBegun_heardOf, passing, readCard_withEps]
  generalize judging s ep c = w
  cases readCard w (cmdQueue s ep c) ((cmdQueue s ep c).head + BitVec.ofNat 32 i).toNat <;> rfl

/-- The refusals of a LAUNCH's cards, in order. -/
theorem launchJudged_isRefused (s : State) (ep : Nat) (c : HostCmd) :
    (launchJudged c (ep - 1) (cmdQueue s ep c) (heardOf s ep c)).map (fun j => isRefused j.2) =
      (List.range ((c.arg0.setWidth 32 : BitVec 32) - (cmdQueue s ep c).head).toNat).map
        (refusedCard s ep c ((c.arg0.setWidth 32 : BitVec 32) - (cmdQueue s ep c).head).toNat) := by
  have hlen : (heardOf s ep c).hub.launches.length = s.hub.launches.length := rfl
  have hpass := funext (passed_launchBegun s ep c)
  have hsets (n : Nat) : passedSets (launchBegun c (ep - 1) (cmdQueue s ep c) (heardOf s ep c)) (ep - 1) c.queue s.hub.launches.length
      ((List.range n).map fun i => readCard (launchBegun c (ep - 1) (cmdQueue s ep c) (heardOf s ep c)) (cmdQueue s ep c) ((cmdQueue s ep c).head + BitVec.ofNat 32 i).toNat) =
      ((List.range n).filterMap (passing s ep c)).map cardGroupList := by
    rw [passedSets, List.filterMap_map, ← hpass]
    rfl
  rw [launchJudged, judgeCards_isRefused, launchCards, hlen, hsets, List.map_map]
  refine List.map_congr_left fun i _ => ?_
  rw [refusedCard, ← passed_launchBegun]
  rfl

section
variable {js : List Judgement} {n : Nat} {r : Nat → Bool} (h : js.map (fun j => isRefused j.2) = (List.range n).map r)
include h

theorem judged_length : js.length = n := by simpa using congrArg List.length h

/-- How many cards are refused. -/
theorem judged_count : js.countP (fun j => isRefused j.2) = ((List.range n).filter r).length := by
  have hcount := congrArg (List.countP id) h
  rw [List.countP_map, List.countP_map] at hcount
  exact hcount.trans List.countP_eq_length_filter

/-- Which card is refused first. -/
theorem firstRefused_cases (q : Queue) :
    ((∀ i, i < n → r i = false) → firstRefused q js = BitVec.allOnes 64) ∧
      (∀ i, i < n → r i = true → (∀ j, j < i → r j = false) → firstRefused q js = (q.head + BitVec.ofNat 32 i).setWidth 64) := by
  have hfind := congrArg (List.findIdx? id) h
  rw [List.findIdx?_map, List.findIdx?_map] at hfind
  have hfind : (js.findIdx? fun j => isRefused j.2) = (List.range n).findIdx? r := hfind
  rw [firstRefused, hfind]
  refine ⟨fun hall => ?_, fun i hi hr hlt => ?_⟩
  · have hnone : (List.range n).findIdx? r = none := List.findIdx?_eq_none_iff.mpr fun i hi => hall i (List.mem_range.mp hi)
    rw [hnone]
  · have hsome : (List.range n).findIdx? r = some i := List.findIdx?_eq_some_iff_getElem.mpr
      ⟨by rwa [List.length_range], by rwa [List.getElem_range], fun j hj => by rw [List.getElem_range, hlt j hj]; exact Bool.false_ne_true⟩
    rw [hsome]

end

/-- How many of the judged cards join. -/
theorem joining_length {v : Nat} {q : BitVec 8} {l : Nat} {js : List Judgement} (h : ∀ j ∈ js, j.1 = none → isRefused j.2 = true) :
    (js.filterMap (joining v q l)).length = js.length - js.countP fun j => isRefused j.2 := by
  have hjoin : js.countP (fun j => (joining v q l j).isSome) = js.countP fun j => !isRefused j.2 :=
    List.countP_congr fun j hj => by rw [joining_isSome (h j hj)]
  have htotal := List.length_eq_countP_add_countP (fun j : Judgement => isRefused j.2) (l := js)
  have hnot : js.countP (fun j => !isRefused j.2) = js.countP fun j => decide ¬isRefused j.2 = true := List.countP_congr fun j _ => by cases isRefused j.2 <;> decide
  rw [List.length_filterMap_eq_countP, hjoin, hnot]
  omega

/-- The cards that join are the launch's, and none of them is dealt yet. -/
theorem skeleton_joining {v : Nat} {q : BitVec 8} {l : Nat} {j : Judgement} {d : Card} (h : joining v q l j = some d) : skeleton d = (v, q, l, 0) := by
  obtain ⟨c, x⟩ := j
  cases c with
  | none => cases h
  | some c => cases x <;> cases h <;> rfl

/-! ### The queue and the cards after it -/

/-- The launch's state before its group table is taken in. -/
theorem launchBegun_keeps (c : HostCmd) {v : Nat} {q : Queue} {s : State} (hst : q.st ≠ .none) :
    LaunchWork (setHub s { s.hub with launches := s.hub.launches ++ [{ vdev := v, queue := c.queue }] }) (launchBegun c v q s) ∧
      bareQueue (queueOf (launchBegun c v q s) v c.queue) = bareQueue { q with tail := c.arg0.setWidth 32 } ∧ (launchBegun c v q s).hub.cards = s.hub.cards := by
  obtain ⟨hw, hq, hc⟩ := takeGroups_keeps s.hub.launches.length q.owner c.arg1.toNat
    (setQueue v c.queue { q with tail := c.arg0.setWidth 32 } (setHub s { s.hub with launches := s.hub.launches ++ [{ vdev := v, queue := c.queue }] }))
  have hset := queueOf_setQueue (v := v) (q := c.queue) (x := { q with tail := c.arg0.setWidth 32 }) hst
    (setHub s { s.hub with launches := s.hub.launches ++ [{ vdev := v, queue := c.queue }] })
  refine ⟨(setQueue_launchWork v c.queue _ _).trans hw, (hq (256 * v + c.queue.toNat)).trans (congrArg bareQueue hset), hc.trans ?_⟩
  rw [setQueue_hub]
  rfl

/-- The whole launch. -/
theorem launchWritten_keeps (c : HostCmd) {v : Nat} {q : Queue} {s : State} (hst : q.st ≠ .none) :
    LaunchWork (setHub s { s.hub with launches := s.hub.launches ++ [{ vdev := v, queue := c.queue }] }) (launchWritten c v q s) ∧
      bareQueue (queueOf (launchWritten c v q s) v c.queue) =
        bareQueue { q with tail := c.arg0.setWidth 32, head := q.head + BitVec.ofNat 32 (launchJudged c v q s).length } ∧
      skeletons (launchWritten c v q s) = skeletons s ++ ((launchJudged c v q s).filterMap (joining v c.queue s.hub.launches.length)).map skeleton := by
  obtain ⟨bw, bq, bc⟩ := launchBegun_keeps c (v := v) hst
  obtain ⟨jw, jq, jc⟩ := joinCards_joins v c.queue s.hub.launches.length (launchJudged c v q s) (launchBegun c v q s)
  have hq1 : bareQueue (queueOf (joinCards v c.queue s.hub.launches.length (launchJudged c v q s) (launchBegun c v q s)) v c.queue) =
    bareQueue { q with tail := c.arg0.setWidth 32 } := (jq (256 * v + c.queue.toNat)).trans bq
  obtain ⟨ww, wc, wq⟩ := writeCards_rises (v := v) (q := c.queue) (launchJudged c v q s) (launchBegun c v q s).hub.cards.length
    (s := joinCards v c.queue s.hub.launches.length (launchJudged c v q s) (launchBegun c v q s)) (by rw [bareQueue_st hq1]; exact hst)
  refine ⟨(bw.trans jw).trans ww, wq.trans ?_, wc.trans ?_⟩
  · rw [bareQueue_head hq1]
    exact congrArg (fun y : Queue => { y with head := q.head + BitVec.ofNat 32 (launchJudged c v q s).length }) hq1
  · rw [skeletons, jc, List.map_append, bareCards, bc]
    rfl

/-- LAUNCH's refusal of a tail, or the launch. -/
theorem hostLaunch_passes {s : State} {ep : Nat} {c : HostCmd} (h : Passes s ep c 7#8 false) (hst : (cmdQueue s ep c).st = .open_) :
    exec (.hostLaunch ep c) s =
      if 2 ^ 31 ≤ ((c.arg0.setWidth 32 : BitVec 32) - (cmdQueue s ep c).tail).toNat ∨ 2 ^ (cmdQueue s ep c).capLog.toNat < ((c.arg0.setWidth 32 : BitVec 32) - (cmdQueue s ep c).head).toNat
      then answer ep c 7#8 (heardOf s ep c) else .next (launchNow ep c (ep - 1) (cmdQueue s ep c) (heardOf s ep c)) :=
  ((exec_hostLaunch ep c s).trans (command_passes h (by decide) _)).trans (onQueue_of_state (by rw [hst]; nofun) (by rw [hst]; rfl) _)

/-- What a LAUNCH that is accepted leaves, where `w` is the state with its statuses written. -/
theorem launch_leaves {s w : State} {ep : Nat} {c : HostCmd} {js : List Judgement} {n : Nat} {r : Nat → Bool} (hst : (cmdQueue s ep c).st = .open_)
    (hw : LaunchWork (setHub (heardOf s ep c) { (heardOf s ep c).hub with launches := (heardOf s ep c).hub.launches ++ [{ vdev := ep - 1, queue := c.queue }] }) w)
    (hqueue : bareQueue (queueOf w (ep - 1) c.queue) =
      bareQueue { cmdQueue s ep c with tail := c.arg0.setWidth 32, head := (cmdQueue s ep c).head + BitVec.ofNat 32 js.length })
    (hskel : skeletons w = skeletons (heardOf s ep c) ++ (js.filterMap (joining (ep - 1) c.queue s.hub.launches.length)).map skeleton)
    (hread : ∀ j ∈ js, j.1 = none → isRefused j.2 = true) (hr : js.map (fun j => isRefused j.2) = (List.range n).map r)
    (hn : n = ((c.arg0.setWidth 32 : BitVec 32) - (cmdQueue s ep c).head).toNat) :
    (w.core = s.core ∧ w.hub.out = s.hub.out ∧ w.hub.launches.length = s.hub.launches.length + 1) ∧
      ((queueOf w (ep - 1) c.queue).head = c.arg0.setWidth 32 ∧ (queueOf w (ep - 1) c.queue).tail = c.arg0.setWidth 32 ∧ (queueOf w (ep - 1) c.queue).st = .open_) ∧
      w.hub.cards.length = s.hub.cards.length + (n - ((List.range n).filter r).length) ∧
      ∀ (i : Nat) (d : Card), s.hub.cards.length ≤ i → w.hub.cards[i]? = some d → d.vdev = ep - 1 ∧ d.queue = c.queue ∧ d.launch = s.hub.launches.length ∧ d.dealt = 0 := by
  have hold : (skeletons (heardOf s ep c)).length = s.hub.cards.length := skeletons_length _
  have hlength := judged_length hr
  refine ⟨?_, ⟨(bareQueue_head hqueue).trans ?_, bareQueue_tail hqueue, (bareQueue_st hqueue).trans hst⟩, ?_, fun i d hi hd => ?_⟩
  · obtain ⟨m, l, qs, cs, ls, gs, rfl, hlen⟩ := hw
    exact ⟨rfl, rfl, hlen.trans (List.length_append ..)⟩
  · show (cmdQueue s ep c).head + BitVec.ofNat 32 js.length = _
    rw [hlength, hn, BitVec.ofNat_toNat, BitVec.setWidth_eq]
    exact add_sub_cancel (cmdQueue s ep c).head _
  · rw [← skeletons_length, hskel, List.length_append, List.length_map, hold, joining_length hread, hlength, judged_count hr]
  · have hsk := skeletons_getElem? w i
    rw [hd, hskel, List.getElem?_append_right (by omega), List.getElem?_map, Option.map_some, Option.map_eq_some_iff] at hsk
    obtain ⟨e, he, hsk⟩ := hsk
    obtain ⟨j, -, hj⟩ := List.mem_filterMap.mp (List.mem_of_getElem? he)
    have hsk : skeleton d = (ep - 1, c.queue, s.hub.launches.length, 0) := hsk.symm.trans (skeleton_joining hj)
    simpa [skeleton] using hsk

theorem launches : Launches := by
  intro s ep c hp hst q tail badTail n
  have hexec := hostLaunch_passes hp hst
  refine ⟨fun hbad => answered hp.1.1 (hexec.trans (if_pos hbad)), ?_⟩
  intro bad hgood
  have hne : (cmdQueue s ep c).st ≠ .none := by rw [hst]; nofun
  obtain ⟨x, hnow⟩ := launchNow_eq ep c (ep - 1) (cmdQueue s ep c) (heardOf s ep c)
  obtain ⟨hw, hqueue, hskel⟩ := launchWritten_keeps c (v := ep - 1) (s := heardOf s ep c) hne
  have hrefused := launchJudged_isRefused s ep c
  have hread : ∀ j ∈ launchJudged c (ep - 1) (cmdQueue s ep c) (heardOf s ep c), j.1 = none → isRefused j.2 = true := judgeCards_unread _ _ _ _ _
  have hexec := (hexec.trans (if_neg hgood)).trans (congrArg _ hnow)
  clear hnow
  generalize launchJudged c (ep - 1) (cmdQueue s ep c) (heardOf s ep c) = js at *
  generalize launchWritten c (ep - 1) (cmdQueue s ep c) (heardOf s ep c) = w at *
  obtain ⟨⟨hcore, hout, hlaunches⟩, ⟨hhead, htail, hopen⟩, hcards, hnew⟩ := launch_leaves hst hw hqueue hskel hread hrefused rfl
  obtain ⟨hnone, hfirst⟩ := firstRefused_cases hrefused (cmdQueue s ep c)
  refine ⟨_, _, hexec, ?_, hnone, hfirst, hhead, htail, hopen, hcards, hnew, hlaunches, hcore⟩
  rw [judged_count hrefused]
  exact congrArg (· ++ _) hout

/-- Settles O49: QCREATE to RESET by the state that `setQueue` leaves and what ends of a queue's continuations and cards; LAUNCH by what `judgeCards` refuses and what `writeCards` lets HEAD rise over. -/
theorem queuesAndLaunches : Obligations.QueuesAndLaunches := ⟨launchQueues, launches⟩

end Sys2Proof.Proofs
end

section
/-! What a dependence's target word decides, and what becomes of a PENDING card (R37, R38). -/

namespace Sys2Proof.Proofs
open Sys2Proof Sys2Proof.Machine Sys2Proof.Claim

theorem exec_dependenceSatisfied (i : Nat) (s : State) : exec (.dependenceSatisfied i) s = execDependenceSatisfied i s := rfl
theorem exec_dependenceFailed (i : Nat) (s : State) : exec (.dependenceFailed i) s = execDependenceFailed i s := rfl

/-- A bit field of a number is a slice of its bits. -/
theorem toNat_extractLsb'_field {w : Nat} (x : BitVec w) (lo n : Nat) : (x.extractLsb' lo n).toNat = field x.toNat lo n := by
  rw [BitVec.extractLsb'_toNat, Nat.shiftRight_eq_div_pow, field]

theorem judged_of_read {s : State} {v : Nat} {d : BitVec 64} {x : Nat} (h : cwRead s v (d.extractLsb' 0 32) = some x) : Judged x (field d.toNat 32 28) (depJudge s v d) := by
  have hjudge : depJudge s v d = if field x 60 4 = 3 ∨ (field d.toNat 32 28 ≠ 0 ∧ field d.toNat 32 28 ≤ field x 0 28 ∧ (field x 60 4 = 1 ∨ field x 60 4 = 2)) then some true
      else if field x 60 4 = 4 ∨ field x 60 4 = 5 ∨ field x 60 4 = 6 then some false else none := by
    rw [depJudge, h, toNat_extractLsb'_field]
    rfl
  rw [hjudge, Judged]
  generalize field x 60 4 = st
  by_cases hsat : st = 3 ∨ (field d.toNat 32 28 ≠ 0 ∧ field d.toNat 32 28 ≤ field x 0 28 ∧ (st = 1 ∨ st = 2))
  · rw [if_pos hsat]
    refine ⟨iff_of_true rfl hsat, iff_of_false (by decide) ?_⟩
    omega
  · rw [if_neg hsat]
    by_cases hfail : st = 4 ∨ st = 5 ∨ st = 6
    · rw [if_pos hfail]
      exact ⟨iff_of_false (by decide) hsat, iff_of_true rfl ⟨hfail, fun h => hsat (.inr h)⟩⟩
    · rw [if_neg hfail]
      exact ⟨iff_of_false (by decide) hsat, iff_of_false (by decide) fun h => hfail h.1⟩

/-! ### A card's dependences noted (R37) -/

/-- A card's dependence `k`, not decided so far, is decided as `b` by its target word. -/
def Decides (s : State) (c : Card) (b : Bool) (k : Nat) : Prop :=
  c.depOk.getLsbD k = false ∧ c.depBad.getLsbD k = false ∧ depJudge s c.vdev (cardDep c.bits k) = some b

/-- One dependence noted. -/
def noteDep (s : State) (c : Card) (i : Nat) : Card :=
  if c.depOk.getLsbD i || c.depBad.getLsbD i then c
  else match depJudge s c.vdev (cardDep c.bits i) with
    | some true => { c with depOk := c.depOk ||| (1#4 <<< i) }
    | some false => { c with depBad := c.depBad ||| (1#4 <<< i) }
    | none => c

theorem noteCard_pending {s : State} {c : Card} (h : c.st = .pending) : noteCard s c = (List.range (min 4 (cardNdep c.bits))).foldl (noteDep s) c := by
  rw [noteCard, if_neg (not_not.mpr h)]
  rfl

theorem getLsbD_or_bit (x : BitVec 4) {i : Nat} (hi : i < 4) (k : Nat) : (x ||| 1#4 <<< i).getLsbD k = true ↔ x.getLsbD k = true ∨ k = i := by
  have hbit : (1#4 <<< i).getLsbD k = (decide (i < 4) && decide (i = k)) := BitVec.getLsbD_twoPow i k
  rw [BitVec.getLsbD_or, hbit, Bool.or_eq_true, decide_eq_true hi, Bool.true_and, decide_eq_true_iff, eq_comm (a := i)]

theorem noteCard_st (s : State) (c : Card) : (noteCard s c).st = c.st := congrArg (·.st) (noteCard_bare s c)

/-- One dependence noted: its own bits alone, where its target word decides it. -/
theorem noteDep_bits (s : State) (c : Card) {i : Nat} (hi : i < 4) (k : Nat) :
    ((noteDep s c i).depOk.getLsbD k = true ↔ c.depOk.getLsbD k = true ∨ k = i ∧ Decides s c true i) ∧
      ((noteDep s c i).depBad.getLsbD k = true ↔ c.depBad.getLsbD k = true ∨ k = i ∧ Decides s c false i) := by
  rw [noteDep]
  cases hok : c.depOk.getLsbD i with
  | true => simp [Decides, hok]
  | false =>
    cases hbad : c.depBad.getLsbD i with
    | true => simp [Decides, hbad]
    | false =>
      rcases hj : depJudge s c.vdev (cardDep c.bits i) with _ | b
      · simp [Decides, hj]
      · cases b
        · have hbit := getLsbD_or_bit c.depBad hi k
          simpa [Decides, hj, hok, hbad] using hbit
        · have hbit := getLsbD_or_bit c.depOk hi k
          simpa [Decides, hj, hok, hbad] using hbit

theorem noteDep_bare (s : State) (c : Card) (i : Nat) : bareCard (noteDep s c i) = bareCard c := by
  rw [noteDep]
  split
  · rfl
  · split <;> rfl

theorem foldl_noteDep_bare (s : State) (c : Card) (l : List Nat) : bareCard (l.foldl (noteDep s) c) = bareCard c := by
  induction l generalizing c with
  | nil => rfl
  | cons i l ih => exact (ih (noteDep s c i)).trans (noteDep_bare s c i)

theorem or_lt_succ {k n : Nat} (p : Prop) (q : Nat → Prop) : (p ∨ k < n ∧ q k) ∨ k = n ∧ q n ↔ p ∨ k < n + 1 ∧ q k := by
  constructor
  · rintro ((hp | ⟨hlt, hq⟩) | ⟨rfl, hq⟩)
    · exact .inl hp
    · exact .inr ⟨by omega, hq⟩
    · exact .inr ⟨by omega, hq⟩
  · rintro (hp | ⟨hlt, hq⟩)
    · exact .inl (.inl hp)
    · obtain hlt | rfl := Nat.lt_succ_iff_lt_or_eq.mp hlt
      · exact .inl (.inr ⟨hlt, hq⟩)
      · exact .inr ⟨rfl, hq⟩

/-- The dependences below `n` noted. -/
theorem foldl_noteDep_bits (s : State) (c : Card) {n : Nat} (hn : n ≤ 4) (k : Nat) :
    (((List.range n).foldl (noteDep s) c).depOk.getLsbD k = true ↔ c.depOk.getLsbD k = true ∨ k < n ∧ Decides s c true k) ∧
      (((List.range n).foldl (noteDep s) c).depBad.getLsbD k = true ↔ c.depBad.getLsbD k = true ∨ k < n ∧ Decides s c false k) := by
  induction n generalizing k with
  | zero => simp
  | succ n ih =>
    rw [List.range_succ, List.foldl_append, List.foldl_cons, List.foldl_nil]
    have hbare := foldl_noteDep_bare s c (List.range n)
    obtain ⟨hok, hbad⟩ := ih (by omega) k
    obtain ⟨nok, nbad⟩ := ih (by omega) n
    generalize (List.range n).foldl (noteDep s) c = d at *
    have hdec (b : Bool) : Decides s d b n ↔ Decides s c b n := by
      have hbits : d.bits = c.bits := congrArg (·.bits) hbare
      have hvdev : d.vdev = c.vdev := congrArg (·.vdev) hbare
      have nok : d.depOk.getLsbD n = c.depOk.getLsbD n := Bool.eq_iff_iff.mpr (by simpa using nok)
      have nbad : d.depBad.getLsbD n = c.depBad.getLsbD n := Bool.eq_iff_iff.mpr (by simpa using nbad)
      rw [Decides, Decides, nok, nbad, hbits, hvdev]
    obtain ⟨sok, sbad⟩ := noteDep_bits s d (i := n) (by omega) k
    rw [sok, sbad, hok, hbad, hdec, hdec]
    exact ⟨or_lt_succ _ _, or_lt_succ _ _⟩

/-- A noted card's dependences are all satisfied where each was, or its target word decides so. -/
theorem depsMet_noteCard {s : State} {c : Card} (h : c.st = .pending) :
    depsMet (noteCard s c) = true ↔ ∀ k, k < min 4 (field c.bits.toNat 61 3) → c.depOk.getLsbD k = true ∨ Decides s c true k := by
  have hndep : cardNdep c.bits = field c.bits.toNat 61 3 := toNat_extractLsb'_field _ _ _
  have hbits : (noteCard s c).bits = c.bits := congrArg (·.bits) (noteCard_bare s c)
  rw [depsMet, hbits, noteCard_pending h, hndep, List.all_eq_true]
  refine forall_congr' fun k => ?_
  rw [List.mem_range, (foldl_noteDep_bits s c (Nat.min_le_left 4 _) k).1]
  exact forall_congr' fun hk => or_congr_right (and_iff_right hk)

/-- A noted card has a failed dependence where it had one, or a target word decides so. -/
theorem depBad_noteCard {s : State} {c : Card} (h : c.st = .pending) :
    (noteCard s c).depBad ≠ 0#4 ↔ c.depBad ≠ 0#4 ∨ ∃ k, k < min 4 (field c.bits.toNat 61 3) ∧ Decides s c false k := by
  have hndep : cardNdep c.bits = field c.bits.toNat 61 3 := toNat_extractLsb'_field _ _ _
  have hset (x : BitVec 4) : x ≠ 0#4 ↔ ∃ k, x.getLsbD k = true := by
    constructor
    · intro hx
      by_contra hnone
      exact hx (BitVec.eq_of_getLsbD_eq fun k _ => by simpa using fun hk => hnone ⟨k, hk⟩)
    · rintro ⟨k, hk⟩ rfl
      simp at hk
  rw [hset, hset, noteCard_pending h, hndep, ← exists_or]
  exact exists_congr fun k => (foldl_noteDep_bits s c (Nat.min_le_left 4 _) k).2

/-! ### What becomes of the card (R38) -/

/-- The card afterwards, where it alone moves. -/
theorem Moves.card {i : Nat} {f : Card → Card} {s t : State} {c : Card} (h : Moves i f s t) (hc : s.hub.cards[i]? = some c) :
    ∃ c', t.hub.cards[i]? = some c' ∧ bareCard c' = f (bareCard c) := by
  have hcard := congrArg (·[i]?) h.2
  rw [List.getElem?_modify_eq, bareCards, bareCards, List.getElem?_map, List.getElem?_map, hc] at hcard
  obtain ⟨c', hc', hbare⟩ := Option.map_eq_some_iff.mp hcard
  exact ⟨c', hc', hbare⟩

theorem cardAt_noteDeps {s : State} {i : Nat} {c : Card} (h : s.hub.cards[i]? = some c) : cardAt (noteDeps s) i = some (noteCard (s.hub.cards.foldl touchDeps s) c) := by
  have hcards : (s.hub.cards.foldl touchDeps s).hub.cards = s.hub.cards := by
    obtain ⟨m, l, ht⟩ := foldl_touched touchDeps_touched s.hub.cards s
    rw [ht]
  show ((s.hub.cards.foldl touchDeps s).hub.cards.map _)[i]? = _
  rw [hcards, List.getElem?_map, h]
  rfl

/-- What one of the two events makes of a PENDING card. -/
def Becomes (s : State) (i : Nat) (c : Card) (e : Instr) (p : Card → Prop) : Prop :=
  ∃ u c', exec e s = .next u ∧ u.hub.cards[i]? = some c' ∧ c'.bits = c.bits ∧ c'.dealt = c.dealt ∧ p c'

section
variable {s : State} {i : Nat} {c : Card} (hc : s.hub.cards[i]? = some c)
include hc

/-- It moves by `f`. -/
theorem becomes_of_moves {e : Instr} {p : Card → Prop} {u : State} {f : Card → Card} (hexec : exec e s = .next u) (h : Moves i f (noteDeps s) u)
    (hf : ∀ d, (f d).bits = d.bits ∧ (f d).dealt = d.dealt) (hp : ∀ d, bareCard d = f (bareCard c) → p d) : Becomes s i c e p := by
  obtain ⟨c', hc', hbare⟩ := h.card (cardAt_noteDeps hc)
  rw [noteCard_bare] at hbare
  have hbits : c'.bits = (f (bareCard c)).bits := congrArg (·.bits) hbare
  have hdealt : c'.dealt = (f (bareCard c)).dealt := congrArg (·.dealt) hbare
  exact ⟨u, c', hexec, hc', hbits.trans (hf _).1, hdealt.trans (hf _).2, hp c' hbare⟩

variable (hst : c.st = .pending)
include hst

theorem dependenceSatisfied_exec :
    exec (.dependenceSatisfied i) s = .next (if depsMet (noteCard (s.hub.cards.foldl touchDeps s) c) = true then startCard i (noteDeps s) else noteDeps s) := by
  have hnst : (noteCard (s.hub.cards.foldl touchDeps s) c).st = .pending := (noteCard_st _ c).trans hst
  rw [exec_dependenceSatisfied, execDependenceSatisfied]
  simp only [cardAt_noteDeps hc, hnst, true_and]
  split <;> rfl

theorem dependenceFailed_exec :
    exec (.dependenceFailed i) s = .next (if (noteCard (s.hub.cards.foldl touchDeps s) c).depBad ≠ 0#4 then cancelCard i (noteDeps s) else noteDeps s) := by
  have hnst : (noteCard (s.hub.cards.foldl touchDeps s) c).st = .pending := (noteCard_st _ c).trans hst
  rw [exec_dependenceFailed, execDependenceFailed]
  simp only [cardAt_noteDeps hc, hnst, true_and]
  split <;> rfl

end

theorem dependences : Dependences := by
  refine ⟨fun s v d x h => judged_of_read h, fun s i c hc hst => ?_⟩
  intro read count ndep judged met failed becomes
  have hcount : cardCount c.bits = count := toNat_extractLsb'_field _ _ _
  have hcard : cardAt (noteDeps s) i = some (noteCard read c) := cardAt_noteDeps hc
  have hbits : (noteCard read c).bits = c.bits := congrArg (·.bits) (noteCard_bare read c)
  have hsat := dependenceSatisfied_exec hc hst
  have hfail := dependenceFailed_exec hc hst
  have hmet : depsMet (noteCard read c) = true ↔ met := depsMet_noteCard hst
  have hfailed : (noteCard read c).depBad ≠ 0#4 ↔ failed := depBad_noteCard hst
  have hstays {e : Instr} (h : exec e s = .next (noteDeps s)) : becomes e fun c' => c'.st = .pending :=
    becomes_of_moves hc (f := id) h (.refl fun _ _ => rfl) (fun _ => ⟨rfl, rfl⟩) fun d hd => (congrArg (·.st) hd : _).trans hst
  refine ⟨fun hm h0 => ?_, fun hm h0 => ?_, fun hm => ?_, fun hf => ?_, fun hf => ?_⟩
  · exact becomes_of_moves hc (hsat.trans (congrArg _ (if_pos (hmet.mpr hm)))) (startCard_moves hcard (.inr ⟨by rwa [hbits, hcount], rfl⟩)) (fun _ => ⟨rfl, rfl⟩)
      fun d hd => congrArg (·.st) hd
  · exact becomes_of_moves hc (hsat.trans (congrArg _ (if_pos (hmet.mpr hm)))) (startCard_moves hcard (.inl ⟨by rwa [hbits, hcount], rfl⟩)) (fun _ => ⟨rfl, rfl⟩)
      fun d hd => congrArg (·.st) hd
  · exact hstays (hsat.trans (congrArg _ (if_neg (mt hmet.mp hm))))
  · exact becomes_of_moves hc (hfail.trans (congrArg _ (if_pos (hfailed.mpr hf)))) (cancelCard_moves hcard) (fun _ => ⟨rfl, rfl⟩)
      fun d hd => ⟨congrArg (·.st) hd, (congrArg (·.lost) hd : _).trans hcount⟩
  · exact hstays (hfail.trans (congrArg _ (if_neg (mt hfailed.mp hf))))

end Sys2Proof.Proofs
end

section
/-! A chunk dealt: the record and the registration that the dealer makes of the spawn ring's entry (R40, R42, R101, R342, R343, R449). -/

namespace Sys2Proof.Proofs
open Sys2Proof Sys2Proof.Machine Sys2Proof.Claim

theorem exec_dealChunk (i : Nat) (s : State) : exec (.dealChunk i) s = execDealChunk i s := rfl

/-! ### What creating a continuation leaves alone -/

/-- `t` is `s` but for memory, the race detector, the lock of the table registers, and groups. -/
def Prepared (s t : State) : Prop := ∃ m r l g, t = { s with mem := m, races := r, hub := { s.hub with rights := { s.hub.rights with locked := l }, groups := g } }

theorem Prepared.refl (s : State) : Prepared s s := ⟨s.mem, s.races, s.hub.rights.locked, s.hub.groups, rfl⟩

theorem Prepared.trans {s t u : State} (h : Prepared s t) (g : Prepared t u) : Prepared s u := by
  obtain ⟨m, r, l, k, rfl⟩ := h
  obtain ⟨m', r', l', k', rfl⟩ := g
  exact ⟨m', r', l', k', rfl⟩

theorem Touched.prepared {s t : State} (h : Touched s t) : Prepared s t := by
  obtain ⟨m, l, rfl⟩ := h
  exact ⟨m, s.races, l, s.hub.groups, rfl⟩

theorem touchAffinity_prepared (x : BitVec 512) (arg : Nat) (s : State) : Prepared s (touchAffinity x arg s) := by
  rw [touchAffinity]
  split
  · exact .refl s
  · split
    · exact (lockHeap_touched _ s).prepared
    · split
      · rename_i k _
        rw [noteSpan_frame]
        exact Prepared.trans ⟨s.mem, _, s.hub.rights.locked, s.hub.groups, rfl⟩ (touchPage_touched false _ _).prepared
      · exact .refl s

/-- A card that names no affinity slot is not read (R41). -/
theorem touchAffinity_none {x : BitVec 512} (h : cardAff x = 0xFF) (arg : Nat) (s : State) : touchAffinity x arg s = s := by rw [touchAffinity, if_pos h]

theorem joinGroups_prepared (l : Nat) (chrys : BitVec 56) (gs : List (BitVec 8)) (s : State) : Prepared s (joinGroups l chrys gs s).1 ∧ (joinGroups l chrys gs s).1.mem = s.mem := by
  induction gs generalizing s with
  | nil => exact ⟨.refl s, rfl⟩
  | cons g gs ih =>
    obtain ⟨hp, hm⟩ := ih (setGroup l g { groupOf s l g with live := (groupOf s l g).live ++ [chrys], nextRank := (groupOf s l g).nextRank + 1 } s)
    exact ⟨Prepared.trans ⟨s.mem, s.races, s.hub.rights.locked, _, rfl⟩ hp, hm⟩

theorem writeNew_prepared (record chrys : BitVec 56) (r : Rec) (owner : BitVec 12) (pc : BitVec 56) (ranks : List Nat) (s : State) :
    Prepared s (writeNew record chrys r owner pc ranks s) := by
  have hput := devPut_touched s record.toNat 64 (recNat { r with chrys := chrys } owner pc 0#16 0#4)
  rw [writeNew]
  split
  · exact (hput.trans ((touched_mem _ _).trans (touchPage_touched true _ _))).prepared
  · exact hput.prepared

section
variable {s t : State} (h : Prepared s t)
include h

theorem Prepared.cards : t.hub.cards = s.hub.cards := by obtain ⟨m, r, l, g, rfl⟩ := h; rfl
theorem Prepared.conts : t.hub.conts = s.hub.conts := by obtain ⟨m, r, l, g, rfl⟩ := h; rfl
theorem Prepared.part (p : BitVec 3) : getPart t p = getPart s p := by obtain ⟨m, r, l, g, rfl⟩ := h; rfl

end

/-- An event in a ring with room (R101). -/
theorem writeEvent_room {s : State} {p : BitVec 3} (h : ringFull (getPart s p) = false) (e : BitVec 128) :
    (writeEvent p e s).hub.cards = s.hub.cards ∧ (writeEvent p e s).hub.conts = s.hub.conts ∧
      getPart (writeEvent p e s) p = { getPart s p with evtTail := (getPart s p).evtTail + 1#32 } ∧ ∃ a, a < 2 ^ 52 ∧ (writeEvent p e s).mem = setLe s.mem a 16 e.toNat := by
  have hbase := (getPart s p).evtBase.isLt
  have hlog := Nat.mod_lt (getPart s p).evtTail.toNat (Nat.two_pow_pos (getPart s p).evtLog.toNat)
  have hsize : 2 ^ (getPart s p).evtLog.toNat ≤ 2 ^ 15 := Nat.pow_le_pow_right (by decide) (Nat.le_of_lt_succ (getPart s p).evtLog.isLt)
  have heq : writeEvent p e s = setPart { s with mem := setLe s.mem ((getPart s p).evtBase.toNat * 4096 + 16 * ((getPart s p).evtTail.toNat % 2 ^ (getPart s p).evtLog.toNat)) 16 e.toNat } p
      { getPart s p with evtTail := (getPart s p).evtTail + 1#32 } := by
    rw [writeEvent, h]
    rfl
  have haddr : (getPart s p).evtBase.toNat * 4096 + 16 * ((getPart s p).evtTail.toNat % 2 ^ (getPart s p).evtLog.toNat) < 2 ^ 52 := by omega
  rw [heq]
  generalize (getPart s p).evtBase.toNat * 4096 + 16 * ((getPart s p).evtTail.toNat % 2 ^ (getPart s p).evtLog.toNat) = a at haddr
  generalize hm : setLe s.mem a 16 e.toNat = m
  exact ⟨rfl, rfl, by rw [getPart_setPart, if_pos rfl], a, haddr, hm.symm⟩

/-- A continuation's registration, and the ring entries taken and written (R101, R342). -/
theorem createCont_registers {s : State} {p : BitVec 3} (hroom : ringFull (getPart s p) = false) (record chrys : BitVec 56) (r : Rec) (owner : BitVec 12) (pc : BitVec 56) (v : Nat)
    (q : BitVec 8) (l : Nat) (card : Option Nat) :
    (createCont p record chrys r owner pc v q l card s).hub.cards = s.hub.cards ∧
      (createCont p record chrys r owner pc v q l card s).hub.conts =
        s.hub.conts ++ [{ record := record, chrys := chrys, vdev := v, queue := q, launch := l, card := card, owner := owner, narg := r.narg }] ∧
      getPart (createCont p record chrys r owner pc v q l card s) p = { getPart s p with spnHead := (getPart s p).spnHead + 1#32, evtTail := (getPart s p).evtTail + 1#32 } ∧
      ∃ a e t ranks, a < 2 ^ 52 ∧ t.mem = s.mem ∧ (createCont p record chrys r owner pc v q l card s).mem = setLe (writeNew record chrys r owner pc ranks t).mem a 16 e := by
  obtain ⟨hjoin, hmem⟩ := joinGroups_prepared l chrys (recGroups r) (takeSpawn p s)
  have htake : getPart (takeSpawn p s) p = { getPart s p with spnHead := (getPart s p).spnHead + 1#32 } := by rw [takeSpawn, getPart_setPart, if_pos rfl]
  rw [createCont]
  generalize joinGroups l chrys (recGroups r) (takeSpawn p s) = j at *
  obtain ⟨t, ranks⟩ := j
  have hnew : Prepared (takeSpawn p s) (writeNew record chrys r owner pc ranks t) := hjoin.trans (writeNew_prepared record chrys r owner pc ranks t)
  dsimp only
  generalize hwrite : writeNew record chrys r owner pc ranks t = w at *
  have hpart := (hnew.part p).trans htake
  obtain ⟨ecards, econts, epart, a, ha, emem⟩ := writeEvent_room (p := p)
    (s := setHub w { w.hub with conts := w.hub.conts ++ [{ record := record, chrys := chrys, vdev := v, queue := q, launch := l, card := card, owner := owner, narg := r.narg }] })
    (by show ringFull (getPart w p) = false; rw [hpart]; exact hroom) (newcontEvent record)
  refine ⟨ecards.trans hnew.cards, econts.trans ?_, epart.trans ?_, a, (newcontEvent record).toNat, t, ranks, ha, hmem, emem.trans ?_⟩
  · exact congrArg (· ++ _) hnew.conts
  · show { getPart w p with evtTail := (getPart w p).evtTail + 1#32 } = _
    rw [hpart]
  · rw [hwrite]; rfl

/-! ### The record (R42) -/

theorem recNat_fields (r : Rec) (owner : BitVec 12) (pc : BitVec 56) (kout : BitVec 16) (hkout : BitVec 4) :
    let x := recNat r owner pc kout hkout
    field x 0 56 = pc.toNat ∧ field x 56 4 = contCode r.state ∧ field x 60 2 = r.prio.toNat ∧ field x 62 2 = r.rclass.toNat ∧ field x 64 56 = r.chrys.toNat ∧
      field x 128 56 = r.arg.toNat ∧ field x 352 28 = r.narg.toNat ∧ field x 384 56 = r.job.toNat ∧ field x 448 12 = r.stride.toNat ∧ field x 480 32 = r.cwref.toNat ∧
      field x 288 12 = owner.toNat ∧ field x 192 56 = r.affinity.toNat ∧ x < 256 ^ 64 := by
  have hpc := pc.isLt
  have hstate : contCode r.state < 8 := by cases r.state <;> decide
  have hpre : contCode r.pre < 8 := by cases r.pre <;> decide
  have hprio := r.prio.isLt
  have hrclass := r.rclass.isLt
  have hchrys := r.chrys.isLt
  have harg := r.arg.isLt
  have hngrp := r.ngrp.isLt
  have hfstop : boolNat r.fstop < 2 := by cases r.fstop <;> decide
  have haffinity := r.affinity.isLt
  have hgroups := r.groups.isLt
  have howner := owner.isLt
  have hkout1 := kout.isLt
  have hkout2 := hkout.isLt
  have hnarg := r.narg.isLt
  have hjob := r.job.isLt
  have hch : boolNat r.ch < 2 := by cases r.ch <;> decide
  have hstride := r.stride.isLt
  have hcwref := r.cwref.isLt
  unfold field recNat
  refine ⟨?_, ?_, ?_, ?_, ?_, ?_, ?_, ?_, ?_, ?_, ?_, ?_, ?_⟩ <;> omega

/-- The fields of a chunk's record whose card names no affinity slot (R40 to R42). -/
theorem chunkRec_fields (s : State) {c : Card} (chrys : BitVec 56) {n : Nat} (haff : cardAff c.bits = 0xFF) (hn : n < 2 ^ 28) :
    let x := recNat { chunkRec s c c.dealt n with chrys := chrys } (cardOwner c.bits) (cardEntry c.bits) 0#16 0#4
    field x 0 56 = field c.bits.toNat 1 55 * 2 ∧ field x 56 4 = 0 ∧ field x 60 2 = field c.bits.toNat 56 2 ∧ field x 62 2 = (vdevOf s c.vdev).rclass.toNat ∧
      field x 64 56 = chrys.toNat ∧ field x 128 56 = (field c.bits.toNat 64 56 + c.dealt * field c.bits.toNat 168 12) % 2 ^ 56 ∧ field x 352 28 = n ∧
      field x 384 56 = c.addr.toNat ∧ field x 448 12 = field c.bits.toNat 168 12 ∧ field x 480 32 = field c.bits.toNat 192 32 ∧
      field x 288 12 = field c.bits.toNat 156 12 ∧ field x 192 56 = 0 := by
  obtain ⟨hpc, hstate, hprio, hrclass, hchrys, harg, hnarg, hjob, hstride, hcw, howner, haffinity, -⟩ :=
    recNat_fields { chunkRec s c c.dealt n with chrys := chrys } (cardOwner c.bits) (cardEntry c.bits) 0#16 0#4
  have hbase : cardBaseArg c.bits = field c.bits.toNat 64 56 := toNat_extractLsb'_field _ _ _
  have hstep : cardStride c.bits = field c.bits.toNat 168 12 := toNat_extractLsb'_field _ _ _
  refine ⟨hpc.trans ?_, hstate, hprio.trans (toNat_extractLsb'_field _ _ _), hrclass, hchrys, harg.trans ?_, hnarg.trans ?_, hjob, hstride.trans ?_,
    hcw.trans (toNat_extractLsb'_field _ _ _), howner.trans (toNat_extractLsb'_field _ _ _), haffinity.trans ?_⟩
  · have hlt : field c.bits.toNat 1 55 < 2 ^ 55 := Nat.mod_lt _ (by decide)
    show (BitVec.ofNat 56 (field c.bits.toNat 1 55 * 2)).toNat = _
    rw [BitVec.toNat_ofNat, Nat.mod_eq_of_lt (by omega)]
  · show (BitVec.ofNat 56 (cardBaseArg c.bits + c.dealt * cardStride c.bits)).toNat = _
    rw [BitVec.toNat_ofNat, hbase, hstep]
  · show (BitVec.ofNat 28 n).toNat = _
    rw [BitVec.toNat_ofNat, Nat.mod_eq_of_lt hn]
  · show (BitVec.ofNat 12 (cardStride c.bits)).toNat = _
    rw [BitVec.toNat_ofNat, hstep, field, Nat.mod_mod]
  · show (affinityOf s c.bits _).toNat = 0
    rw [affinityOf, if_pos haff]
    rfl

/-! ### Where it is written -/

theorem getLe_congr {m m' : List Host.Cell} {a n : Nat} (h : ∀ b, a ≤ b → b < a + n → getByte m b = getByte m' b) : getLe m a n = getLe m' a n := by
  have hbytes : ∀ n a, (∀ b, a ≤ b → b < a + n → getByte m b = getByte m' b) → getBytes m a n = getBytes m' a n := by
    intro n
    induction n with
    | zero => exact fun _ _ => rfl
    | succ n ih =>
      intro a h
      rw [getBytes, getBytes, h a (Nat.le_refl a) (by omega), ih (a + 1) fun b hb hlt => h b (by omega) (by omega)]
  rw [getLe, getLe, hbytes n a h]

/-- A number stored elsewhere. -/
theorem getLe_setLe_other {m : List Host.Cell} {a b n k x : Nat} (h : Memory.wf m = true) (hb : b + k ≤ a ∨ a + n ≤ b) : getLe (setLe m a n x) b k = getLe m b k :=
  getLe_congr fun c hc hlt => getByte_setBytes_other h (by rw [leBytes_length]; omega)

theorem poolKey_ge (u off : Nat) : 2 ^ 55 ≤ poolKey u off := by
  rw [poolKey, coreBase]
  split
  · omega
  · split <;> omega

theorem ranks_length (ranks : List Nat) : ((ranks.take 4).flatMap fun r => leBytes 4 r).length ≤ 16 := by
  rw [List.length_flatMap]
  have hsum := List.sum_le_card_nsmul ((ranks.take 4).map fun r => (leBytes 4 r).length) 4 (by
    intro n hn
    obtain ⟨r, -, rfl⟩ := List.mem_map.mp hn
    exact le_of_eq (leBytes_length 4 r))
  rw [List.length_map, smul_eq_mul] at hsum
  have htake := List.length_take_le 4 ranks
  omega

theorem newImage_wf {m : List Host.Cell} (h : Memory.wf m = true) (key : Nat) (record : BitVec 56) (ranks : List Nat) : Memory.wf (newImage m key record ranks) = true :=
  setBytes_wf (setLe_wf (setLe_wf (setBytes_wf h)))

/-- A new image is written within its page. -/
theorem getLe_newImage {m : List Host.Cell} (h : Memory.wf m = true) {key a n : Nat} (ha : a + n ≤ key ∨ key + 4096 ≤ a) (record : BitVec 56) (ranks : List Nat) :
    getLe (newImage m key record ranks) a n = getLe m a n := by
  have hranks := ranks_length ranks
  refine getLe_congr fun b hb hlt => ?_
  rw [newImage]
  rw [getByte_setBytes_other (setLe_wf (setLe_wf (setBytes_wf h))) (by omega), setLe, getByte_setBytes_other (setLe_wf (setBytes_wf h)) (by rw [leBytes_length]; omega),
    setLe, getByte_setBytes_other (setBytes_wf h) (by rw [leBytes_length]; omega), getByte_setBytes_other h (by rw [List.length_replicate]; omega)]

theorem devKey_pool {s : State} {va u off : Nat} (h : place true va = .pool u off) : devKey s va = some (poolKey u off) := by rw [devKey, h]
theorem touchPage_pool {s : State} {va u off : Nat} (h : place true va = .pool u off) (w : Bool) : touchPage w va s = s := by rw [touchPage, h]

/-- A record and an image in pools. -/
theorem writeNew_pool {s : State} {record chrys : BitVec 56} {w off w' off' : Nat} (hrec : place true record.toNat = .pool w off) (himg : place true chrys.toNat = .pool w' off') (r : Rec)
    (owner : BitVec 12) (pc : BitVec 56) (ranks : List Nat) :
    (writeNew record chrys r owner pc ranks s).mem =
      newImage (setLe s.mem (poolKey w off) 64 (recNat { r with chrys := chrys } owner pc 0#16 0#4)) (poolKey w' off') record ranks := by
  rw [writeNew, devPut, devKey_pool hrec]
  dsimp only
  rw [touchPage_pool hrec, devKey_pool himg]
  dsimp only
  rw [touchPage_pool himg]

/-- The record as written reads back behind the image and the event. -/
theorem created_record {m : List Host.Cell} (h : Memory.wf m = true) {k k' a x e : Nat} (hk : 2 ^ 55 ≤ k) (himg : k + 64 ≤ k' ∨ k' + 4096 ≤ k) (ha : a < 2 ^ 52) (hx : x < 256 ^ 64)
    (record : BitVec 56) (ranks : List Nat) : getLe (setLe (newImage (setLe m k 64 x) k' record ranks) a 16 e) k 64 = x := by
  rw [getLe_setLe_other (newImage_wf (setLe_wf h) _ _ _) (by omega), getLe_newImage (setLe_wf h) himg, getLe_setLe h, Nat.mod_eq_of_lt hx]

/-! ### DEAL_CHUNK (R40) -/

/-- The state after a chunk. -/
def dealt (s : State) (i : Nat) (c : Card) (n : Nat) (record chrys : BitVec 56) : State :=
  createCont (vdevOf s c.vdev).part record chrys (chunkRec s c c.dealt n) (cardOwner c.bits) (cardEntry c.bits) c.vdev c.queue c.launch (some i)
    (touchAffinity c.bits (cardBaseArg c.bits + c.dealt * cardStride c.bits) s)

/-- The dealer can deal of a card (R40, R84, R88, R101). -/
def DealReady (s : State) (i : Nat) (c : Card) : Prop :=
  c.st = .running ∧ c.dealt < cardCount c.bits ∧ (queueOf s c.vdev c.queue).st = .open_ ∧ (vdevOf s c.vdev).resident = true ∧
    freshOf s i < partCores s (vdevOf s c.vdev).part (cardCh c.bits) ∧ ringFull (getPart s (vdevOf s c.vdev).part) = false

section
variable {s : State} {i : Nat} {c : Card} (hc : s.hub.cards[i]? = some c)
include hc

theorem dealChunk_exec : exec (.dealChunk i) s = .next s ∨ DealReady s i c := by
  have hat : cardAt s i = some c := hc
  rw [exec_dealChunk, execDealChunk, hat]
  dsimp only
  split
  · exact .inl rfl
  · rename_i h
    simp only [not_or, not_not, not_le, Bool.not_eq_false, Bool.not_eq_true] at h
    exact .inr h

theorem dealChunk_ready (h : DealReady s i c) :
    (spawnEntry s (vdevOf s c.vdev).part = none → exec (.dealChunk i) s = .next s) ∧
      ∀ record chrys, spawnEntry s (vdevOf s c.vdev).part = some (record, chrys) →
        ∃ n, n = chunkOf (cardCount c.bits - c.dealt) (cardMin c.bits) (partCores s (vdevOf s c.vdev).part (cardCh c.bits)) ∧
          exec (.dealChunk i) s = .next (modCard i (fun d => { d with dealt := d.dealt + n }) (dealt s i c n record chrys)) := by
  obtain ⟨hst, hleft, hq, hres, hfresh, hroom⟩ := h
  have hat : cardAt s i = some c := hc
  rw [exec_dealChunk, execDealChunk, hat]
  dsimp only
  rw [if_neg (by simp [hst, hq, hres, hroom, Nat.not_le.mpr hleft, Nat.not_le.mpr hfresh])]
  refine ⟨fun he => ?_, fun record chrys he => ⟨_, rfl, ?_⟩⟩
  · rw [he]
  · rw [he]
    rfl

end

/-- The record of a chunk, as bytes of memory. -/
theorem dealt_record {s : State} {i : Nat} {c : Card} {n : Nat} {record chrys : BitVec 56} (hroom : ringFull (getPart s (vdevOf s c.vdev).part) = false) {w off w' off' : Nat}
    (hw : Memory.wf s.mem = true) (hrec : place true record.toNat = .pool w off) (himg : place true chrys.toNat = .pool w' off')
    (hapart : poolKey w off + 64 ≤ poolKey w' off' ∨ poolKey w' off' + 4096 ≤ poolKey w off) (haff : cardAff c.bits = 0xFF) :
    getLe (dealt s i c n record chrys).mem (poolKey w off) 64 =
      recNat { chunkRec s c c.dealt n with chrys := chrys } (cardOwner c.bits) (cardEntry c.bits) 0#16 0#4 := by
  have hcreate := createCont_registers hroom record chrys (chunkRec s c c.dealt n) (cardOwner c.bits) (cardEntry c.bits) c.vdev c.queue c.launch (some i)
  rw [dealt, touchAffinity_none haff]
  obtain ⟨-, -, -, a, e, t, ranks, ha, hmem, hcreate⟩ := hcreate
  rw [hcreate, writeNew_pool hrec himg, hmem]
  obtain ⟨-, -, -, -, -, -, -, -, -, -, -, -, hlt⟩ := recNat_fields { chunkRec s c c.dealt n with chrys := chrys } (cardOwner c.bits) (cardEntry c.bits) 0#16 0#4
  exact created_record hw (poolKey_ge w off) hapart ha hlt record ranks

/-- The registration of a chunk. -/
theorem dealt_registers {s : State} {i : Nat} {c : Card} (hroom : ringFull (getPart s (vdevOf s c.vdev).part) = false) (n : Nat) (record chrys : BitVec 56) :
    (dealt s i c n record chrys).hub.cards = s.hub.cards ∧
      (dealt s i c n record chrys).hub.conts = s.hub.conts ++
        [{ record := record, chrys := chrys, vdev := c.vdev, queue := c.queue, launch := c.launch, card := some i, owner := cardOwner c.bits, narg := BitVec.ofNat 28 n }] ∧
      getPart (dealt s i c n record chrys) (vdevOf s c.vdev).part =
        { getPart s (vdevOf s c.vdev).part with spnHead := (getPart s (vdevOf s c.vdev).part).spnHead + 1#32, evtTail := (getPart s (vdevOf s c.vdev).part).evtTail + 1#32 } := by
  have ht := touchAffinity_prepared c.bits (cardBaseArg c.bits + c.dealt * cardStride c.bits) s
  rw [dealt]
  generalize touchAffinity c.bits (cardBaseArg c.bits + c.dealt * cardStride c.bits) s = t at ht ⊢
  obtain ⟨hcards, hconts, hpart, -⟩ := createCont_registers (by rw [ht.part]; exact hroom) record chrys (chunkRec s c c.dealt n) (cardOwner c.bits) (cardEntry c.bits)
    c.vdev c.queue c.launch (some i)
  exact ⟨hcards.trans ht.cards, hconts.trans (congrArg (· ++ _) ht.conts), hpart.trans (by rw [ht.part])⟩

theorem dealtChunks : DealtChunks := by
  intro s i c record chrys hc vd q count least cores rest n ready
  have hcount : cardCount c.bits = count := toNat_extractLsb'_field _ _ _
  have hmin : cardMin c.bits = least := congrArg (max 1) (toNat_extractLsb'_field _ _ _)
  have hready : ready ↔ DealReady s i c := by rw [DealReady, hcount]; exact Iff.rfl
  have hchunk : chunkOf (cardCount c.bits - c.dealt) (cardMin c.bits) cores = n := by rw [hcount, hmin]; rfl
  refine ⟨fun hr hent => ?_, fun hr hent => (dealChunk_ready hc (hready.mp hr)).1 hent, fun hr => (dealChunk_exec hc).resolve_right (mt hready.mpr hr)⟩
  obtain ⟨k, hk, hexec⟩ := (dealChunk_ready hc (hready.mp hr)).2 record chrys hent
  have hk : k = n := hk.trans hchunk
  have hroom : ringFull (getPart s vd.part) = false := hr.2.2.2.2.2
  obtain ⟨hcards, hconts, hpart⟩ := dealt_registers (i := i) hroom n record chrys
  rw [hk] at hexec
  refine ⟨_, hexec, ?_, hconts, ?_, ?_, fun w off w' off' hw hrec himg hapart haff => ?_⟩
  · show (dealt s i c n record chrys).hub.cards.modify i _ = _
    rw [hcards]
  · exact congrArg (·.spnHead) hpart
  · exact congrArg (·.evtTail) hpart
  · have haff : cardAff c.bits = 0xFF := (toNat_extractLsb'_field _ _ _).trans haff
    have hrecord := dealt_record (i := i) (n := n) hroom hw hrec himg hapart haff
    have hn : n < 2 ^ 28 := lt_of_le_of_lt ((Nat.min_le_left _ _).trans (Nat.sub_le _ _)) (Nat.mod_lt _ (by decide))
    have hrecord : getLe (modCard i (fun d => { d with dealt := d.dealt + n }) (dealt s i c n record chrys)).mem (poolKey w off) 64 = _ := hrecord
    rw [hrecord]
    exact chunkRec_fields s chrys haff hn

/-- Settles O46: the chunk by what `createCont` registers and writes at the spawn ring's entry, with the image and the event elsewhere; the dependences by what `noteCard` notes of each. -/
theorem dealingAndDependences : Obligations.DealingAndDependences := ⟨dealtChunks, dependences⟩

end Sys2Proof.Proofs
end

section
/-! Which slot a core selects, and what its selection and the end of a slice leave (R44, R99, R100, R109). -/

namespace Sys2Proof.Proofs
open Sys2Proof Sys2Proof.Machine Sys2Proof.Claim

theorem exec_slotSelect (u : Nat) (s : State) : exec (.slotSelect u) s = execSlotSelect u s := rfl
theorem exec_sliceExpiry (u : Nat) (s : State) : exec (.sliceExpiry u) s = execSliceExpiry u s := rfl

/-! ### The best slot (R100) -/

theorem slotOf_fin (c : Core) (i : Fin 8) : slotOf c i = c.slots[i] := by
  have hsize : (i : Nat) < c.slots.toArray.size := by rw [Vector.size_toArray]; exact i.isLt
  exact dif_pos hsize

/-- Slot `i` comes before slot `k`: its priority is higher, or the same and its turn earlier. -/
def Precedes (c : Core) (i k : Nat) : Prop :=
  (slotOf c k).prio.toNat < (slotOf c i).prio.toNat ∨ (slotOf c k).prio.toNat = (slotOf c i).prio.toNat ∧ (slotOf c i).turn < (slotOf c k).turn

theorem betterSlot_left {c : Core} {i k : Nat} (h : Precedes c i k) : betterSlot c i k = i := by
  rw [betterSlot]
  obtain h | ⟨h, ht⟩ := h
  · rw [if_neg (by omega), if_pos h]
  · rw [if_neg (by omega), if_neg (by omega), if_neg (by omega)]

theorem betterSlot_right {c : Core} {i k : Nat} (h : Precedes c i k) : betterSlot c k i = i := by
  rw [betterSlot]
  obtain h | ⟨h, ht⟩ := h
  · rw [if_pos h]
  · rw [if_neg (by omega), if_neg (by omega), if_pos ht]

theorem betterSlot_or (c : Core) (i k : Nat) : betterSlot c i k = i ∨ betterSlot c i k = k := by
  rw [betterSlot]
  split
  · exact .inr rfl
  · split
    · exact .inl rfl
    · split
      · exact .inr rfl
      · exact .inl rfl

theorem betterSlot_self (c : Core) (i : Nat) : betterSlot c i i = i := (betterSlot_or c i i).elim id id

/-- The best slot is one of those that can be selected. -/
theorem bestSlot_selectable {c : Core} {l : List Nat} {b : Nat} (h : bestSlot c l = some b) : b ∈ l ∧ selectable c b = true := by
  induction l generalizing b with
  | nil => cases h
  | cons i l ih =>
    rw [bestSlot] at h
    split at h
    · rename_i hi
      split at h
      · rename_i k hk
        obtain ⟨hmem, hsel⟩ := ih hk
        cases h
        obtain he | he := betterSlot_or c i k <;> rw [he]
        · exact ⟨List.mem_cons_self, hi⟩
        · exact ⟨List.mem_cons_of_mem _ hmem, hsel⟩
      · cases h
        exact ⟨List.mem_cons_self, hi⟩
    · obtain ⟨hmem, hsel⟩ := ih h
      exact ⟨List.mem_cons_of_mem _ hmem, hsel⟩

theorem bestSlot_none {c : Core} {l : List Nat} (h : ∀ k ∈ l, selectable c k = false) : bestSlot c l = none := by
  cases hb : bestSlot c l with
  | none => rfl
  | some b =>
    obtain ⟨hmem, hsel⟩ := bestSlot_selectable hb
    rw [h b hmem] at hsel
    cases hsel

theorem bestSlot_isSome {c : Core} {l : List Nat} {i : Nat} (hi : i ∈ l) (hsel : selectable c i = true) : ∃ b, bestSlot c l = some b := by
  induction l with
  | nil => cases hi
  | cons a l ih =>
    rw [bestSlot]
    by_cases ha : selectable c a = true
    · rw [if_pos ha]
      split
      · exact ⟨_, rfl⟩
      · exact ⟨_, rfl⟩
    · rw [if_neg ha]
      obtain rfl | hi := List.mem_cons.mp hi
      · exact absurd hsel ha
      · exact ih hi

/-- The best slot is the one that comes before every other. -/
theorem bestSlot_eq {c : Core} {l : List Nat} {i : Nat} (hi : i ∈ l) (hsel : selectable c i = true) (hfirst : ∀ k ∈ l, k ≠ i → selectable c k = true → Precedes c i k) :
    bestSlot c l = some i := by
  induction l with
  | nil => cases hi
  | cons a l ih =>
    have hrest := fun k hk => hfirst k (List.mem_cons_of_mem a hk)
    by_cases ha : a = i
    · rw [ha, bestSlot, if_pos hsel]
      cases hb : bestSlot c l with
      | none => rfl
      | some b =>
        obtain ⟨hmem, hbs⟩ := bestSlot_selectable hb
        by_cases hbi : b = i
        · exact congrArg some (hbi ▸ betterSlot_self c b)
        · exact congrArg some (betterSlot_left (hrest b hmem hbi hbs))
    · have hmem : i ∈ l := (List.mem_cons.mp hi).resolve_left (Ne.symm ha)
      rw [bestSlot, ih hmem hrest]
      by_cases hs : selectable c a = true
      · rw [if_pos hs]
        exact congrArg some (betterSlot_right (hfirst a List.mem_cons_self ha hs))
      · rw [if_neg hs]

/-! ### The slot wanted (R100) -/

theorem toNat_ofNat_fin (i : Fin 8) : (BitVec.ofNat 3 i).toNat = i := by rw [BitVec.toNat_ofNat, Nat.mod_eq_of_lt i.isLt]

/-- Slot numbers below 8 are those of slots. -/
theorem forall_range_slots {c : Core} {i : Fin 8} {p : Nat → Prop} (h : ∀ k : Fin 8, k ≠ i → selectable c k = true → p k) : ∀ k ∈ List.range 8, k ≠ i → selectable c k = true → p k :=
  fun k hk hne => h ⟨k, List.mem_range.mp hk⟩ fun he => hne (congrArg Fin.val he)

theorem mem_range_slot (i : Fin 8) : (i : Nat) ∈ List.range 8 := List.mem_range.mpr i.isLt

section
variable {c : Core} {i : Fin 8}

theorem wantSlot_none (hi : c.issuing = none) (h : ∀ k : Fin 8, selectable c k = false) : wantSlot c = none := by
  rw [wantSlot, hi, bestSlot_none fun k hk => h ⟨k, List.mem_range.mp hk⟩]

/-- Nothing issues: the first slot, or the one that a stop found issuing where none is above it. -/
theorem wantSlot_first (hi : c.issuing = none) (hsel : selectable c i = true)
    (hfirst : ∀ k : Fin 8, k ≠ i → selectable c k = true → c.slots[k].prio.toNat < c.slots[i].prio.toNat ∨
      (c.slots[k].prio = c.slots[i].prio ∧ (c.resume = some (BitVec.ofNat 3 i) ∨ (c.resume ≠ some (BitVec.ofNat 3 k) ∧ c.slots[i].turn < c.slots[k].turn)))) :
    wantSlot c = some i.val := by
  simp only [← slotOf_fin] at hfirst
  by_cases hres : c.resume = some (BitVec.ofNat 3 i)
  · obtain ⟨b, hb⟩ := bestSlot_isSome (mem_range_slot i) hsel
    obtain ⟨hmem, hbs⟩ := bestSlot_selectable hb
    have hprio : (slotOf c b).prio.toNat ≤ (slotOf c i).prio.toNat := by
      by_cases hbi : b = i
      · rw [hbi]
      · refine forall_range_slots (p := fun k => (slotOf c k).prio.toNat ≤ (slotOf c i).prio.toNat) (fun k hk hs => ?_) b hmem hbi hbs
        obtain h | ⟨h, -⟩ := hfirst k hk hs
        · exact Nat.le_of_lt h
        · exact le_of_eq (congrArg BitVec.toNat h)
    rw [wantSlot, hi, hb, hres]
    dsimp only
    rw [toNat_ofNat_fin, hsel, decide_eq_false (Nat.not_lt.mpr hprio)]
    rfl
  · have hbest : bestSlot c (List.range 8) = some i.val := bestSlot_eq (mem_range_slot i) hsel <| forall_range_slots fun k hk hs => by
      obtain h | ⟨h, hr⟩ := hfirst k hk hs
      · exact .inl h
      · exact .inr ⟨congrArg BitVec.toNat h, (hr.resolve_left hres).2⟩
    rw [wantSlot, hi, hbest]
    cases hr : c.resume with
    | none => rfl
    | some r =>
      have hr8 := r.isLt
      have hri : (⟨r.toNat, hr8⟩ : Fin 8) ≠ i := fun h => hres (hr.trans (congrArg some (BitVec.eq_of_toNat_eq ((congrArg Fin.val h).trans (toNat_ofNat_fin i).symm))))
      have hover : (selectable c r.toNat && !decide ((slotOf c r.toNat).prio.toNat < (slotOf c i).prio.toNat)) = false := by
        cases hs : selectable c r.toNat with
        | false => rfl
        | true =>
          obtain h | ⟨-, h | ⟨h, -⟩⟩ := hfirst ⟨r.toNat, hr8⟩ hri hs
          · rw [decide_eq_true h]; rfl
          · exact absurd h hres
          · exact absurd (hr.trans (congrArg some (BitVec.eq_of_toNat_eq (toNat_ofNat_fin ⟨r.toNat, hr8⟩).symm))) h
      dsimp only
      rw [hover]
      rfl

/-- A slot of the highest priority, above the one that issues. -/
theorem wantSlot_above {j : Fin 8} (hj : c.issuing = some (BitVec.ofNat 3 j)) (hsel : selectable c i = true) (hprio : c.slots[j].prio.toNat < c.slots[i].prio.toNat)
    (hfirst : ∀ k : Fin 8, k ≠ i → selectable c k = true → c.slots[k].prio.toNat < c.slots[i].prio.toNat) : wantSlot c = some i.val := by
  simp only [← slotOf_fin] at hfirst hprio
  have hbest : bestSlot c (List.range 8) = some i.val := bestSlot_eq (mem_range_slot i) hsel (forall_range_slots fun k hk hs => .inl (hfirst k hk hs))
  rw [wantSlot, hj, hbest]
  dsimp only
  rw [toNat_ofNat_fin, if_pos (.inl hprio)]

end

/-- The slice has not ended. -/
theorem sliceSlot_none {s : State} (h : sliceOf s s.cur = 0 ∨ s.gtc < s.core.selectedAt + sliceOf s s.cur) : sliceSlot s s.cur = none := by
  have hcore : getCore s s.cur = s.core := if_pos rfl
  rw [sliceSlot, hcore]
  cases s.core.issuing with
  | none => rfl
  | some j => exact if_pos h

/-- At its end the one slot of equal priority takes over. -/
theorem sliceSlot_next {s : State} {i j : Fin 8} (hj : s.core.issuing = some (BitVec.ofNat 3 j)) (hne : j ≠ i) (hslice : sliceOf s s.cur ≠ 0)
    (hend : s.core.selectedAt + sliceOf s s.cur ≤ s.gtc) (hsel : selectable s.core i = true) (hprio : s.core.slots[i].prio = s.core.slots[j].prio)
    (honly : ∀ k : Fin 8, k ≠ i → k ≠ j → selectable s.core k = true → s.core.slots[k].prio ≠ s.core.slots[j].prio) : sliceSlot s s.cur = some i.val := by
  have hcore : getCore s s.cur = s.core := if_pos rfl
  simp only [← slotOf_fin] at hprio honly
  rw [sliceSlot, hcore, hj]
  dsimp only
  rw [if_neg (by omega), toNat_ofNat_fin]
  refine bestSlot_eq (List.mem_filter.mpr ⟨mem_range_slot i, ?_⟩) hsel fun k hk hki hks => ?_
  · have hij : (i : Nat) ≠ j := fun h => hne (Fin.ext h.symm)
    simp [hij, hprio]
  · obtain ⟨hk8, hk⟩ := List.mem_filter.mp hk
    simp only [Bool.and_eq_true, decide_eq_true_eq, beq_iff_eq] at hk
    exact absurd hk.2 (honly ⟨k, List.mem_range.mp hk8⟩ (fun h => hki (congrArg Fin.val h)) (fun h => hk.1 (congrArg Fin.val h)) hks)

/-! ### The slot selected (R44, R99, R109) -/

theorem resolve_congr {s t : State} (hsegs : s.core.segs = t.core.segs) (hst : steward s = steward t) (a : Word) : resolve s a = resolve t a := by
  rw [resolve, resolve, hst]
  simp only [segOf, hsegs]

theorem mapPc_ok {s : State} {p : BitVec 16} (i : Nat) (h : resolve s (s.core.ctx.codePc.setWidth 64) = .ok p) : mapPc i s = setCtx s { s.core.ctx with pc := p } := by
  rw [mapPc]
  dsimp only
  rw [h]

/-- A slot's context as the core goes on with it. -/
structure Selects (s u : State) (i : Fin 8) (ctx : Ctx) (pc : BitVec 16) : Prop where
  cur : u.cur = s.cur
  issuing : u.core.issuing = some (BitVec.ofNat 3 i)
  rcd : u.core.ctx.rcd = { ctx.rcd with state := .running }
  regs : u.core.ctx.regs = ctx.regs
  pc : u.core.ctx.pc = pc
  nextIssue : u.core.nextIssue = if s.core.resume = some (BitVec.ofNat 3 i) then max s.gtc s.core.nextIssue else s.gtc + 4
  selectedAt : u.core.selectedAt = if s.core.resume = some (BitVec.ofNat 3 i) then s.gtc - s.core.ranFor else s.gtc
  mem : u.mem = s.mem
  slots : u.core.slots = (switchAway s).core.slots.map demoteSlot

/-- The rest of `selectSlot`, once the core has switched away. -/
theorem selectSlot_selects {s : State} {i : Fin 8} {ctx : Ctx} {pc : BitVec 16} (hcur : (switchAway s).cur = s.cur) (hgtc : (switchAway s).gtc = s.gtc) (hmem : (switchAway s).mem = s.mem)
    (hsegs : (switchAway s).core.segs = s.core.segs) (hctx : (switchAway s).core.slots[i].ctx = ctx)
    (hpc : resolve { s with core := { s.core with ctx := ctx } } (ctx.codePc.setWidth 64) = .ok pc) : Selects s (selectSlot i s) i ctx pc := by
  have hslot : (slotOf (switchAway s).core i).ctx = ctx := by rw [slotOf_fin, hctx]
  rw [selectSlot]
  dsimp only
  rw [hslot]
  generalize hs1 : switchAway s = s1 at *
  have hfresh : ∃ h, (if ctx.rcd.state = .new then notFresh ctx.rcd.chrys s1 else s1) = { s1 with hub := h } := by
    split
    · exact ⟨_, rfl⟩
    · exact ⟨s1.hub, rfl⟩
  obtain ⟨h, hfresh⟩ := hfresh
  rw [hfresh, mapPc_ok (p := pc)]
  case h =>
    refine (resolve_congr ?_ ?_ _).trans hpc
    · exact hsegs
    · rfl
  constructor
  case cur => exact hcur
  case nextIssue => exact congrArg (fun g => switchTime g i s.core) hgtc
  case selectedAt => exact congrArg (fun g => sliceStart g i s.core) hgtc
  case mem => exact hmem
  case slots => rw [hs1]; rfl
  all_goals rfl

/-! ### Switching away (R44, R100, R192) -/

theorem switchAway_idle {s : State} (h : s.core.issuing = none) : switchAway s = s := by rw [switchAway, h]

/-- The context of the issuing slot as it is left. -/
def leftCtx (s : State) : Ctx :=
  { s.core.ctx with rcd := { s.core.ctx.rcd with state := .ready }, codePc := codeVa s s.core.ctx.pc, blockedAt := none, accepted := s.core.accepted }

theorem set_left (v : Vector Slot 8) {b : BitVec 3} {j : Fin 8} (h : b.toNat = j) (c : Ctx) (n : Nat) :
    (v.set b.toNat { v[b.toNat]'b.isLt with ctx := c } b.isLt).set b.toNat { (v.set b.toNat { v[b.toNat]'b.isLt with ctx := c } b.isLt)[b.toNat]'b.isLt with turn := n } b.isLt =
      v.set j { v[j] with turn := n, ctx := c } := by
  obtain ⟨j, hj⟩ := j
  dsimp only at h
  subst h
  rw [Vector.getElem_set_self, Vector.set_set]
  rfl

/-- The slot that stops issuing, no wait pending and no IDLE under way. -/
theorem leaveToEnd_leaves {s : State} {j : Fin 8} (hj : s.core.issuing = some (BitVec.ofNat 3 j)) (hwait : s.core.ctx.rcd.state ≠ .waiting) (hidle : s.core.ctx.idle = none) :
    (leaveToEnd s).cur = s.cur ∧ (leaveToEnd s).gtc = s.gtc ∧ (leaveToEnd s).mem = s.mem ∧ (leaveToEnd s).core.segs = s.core.segs ∧
      (leaveToEnd s).core.slots = s.core.slots.set j { s.core.slots[j] with turn := s.core.turns, ctx :=
        { s.core.ctx with codePc := codeVa s s.core.ctx.pc, blockedAt := none, accepted := s.core.accepted } } := by
  have hendIdle : endIdle s s.core.ctx = s.core.ctx := by rw [endIdle, hidle]; rfl
  rw [leaveToEnd, hj, leaveSlot, hj]
  dsimp only
  rw [if_neg hwait, hendIdle]
  exact ⟨rfl, rfl, rfl, rfl, set_left s.core.slots (toNat_ofNat_fin j) _ s.core.turns⟩

/-- The issuing slot is left: READY, at the end of its level. -/
theorem switchAway_running {s : State} {j : Fin 8} (hj : s.core.issuing = some (BitVec.ofNat 3 j)) (hrun : s.core.ctx.rcd.state = .running) (hidle : s.core.ctx.idle = none) :
    (switchAway s).cur = s.cur ∧ (switchAway s).gtc = s.gtc ∧ (switchAway s).mem = s.mem ∧ (switchAway s).core.segs = s.core.segs ∧
      (switchAway s).core.slots = s.core.slots.set j { s.core.slots[j] with turn := s.core.turns, ctx := leftCtx s } := by
  have haway : switchAway s = leaveToEnd (setCtx (endRegion (me s).toNat s) { s.core.ctx with rcd := { s.core.ctx.rcd with state := .ready } }) := by
    rw [switchAway, hj]
    dsimp only
    rw [if_pos hrun]
  rw [haway]
  exact leaveToEnd_leaves (s := setCtx (endRegion (me s).toNat s) { s.core.ctx with rcd := { s.core.ctx.rcd with state := .ready } }) hj (by nofun) hidle

section
variable {s : State} {i : Fin 8} {ctx : Ctx} {pc : BitVec 16} (hctx : s.core.slots[i].ctx = ctx)
  (hpc : resolve { s with core := { s.core with ctx := ctx } } (ctx.codePc.setWidth 64) = .ok pc)
include hctx hpc

theorem selectSlot_idle (h : s.core.issuing = none) : Selects s (selectSlot i s) i ctx pc := by
  have haway := switchAway_idle h
  exact selectSlot_selects (by rw [haway]) (by rw [haway]) (by rw [haway]) (by rw [haway]) (by rw [haway, hctx]) hpc

theorem selectSlot_running {j : Fin 8} (hne : j ≠ i) (hj : s.core.issuing = some (BitVec.ofNat 3 j)) (hrun : s.core.ctx.rcd.state = .running) (hidle : s.core.ctx.idle = none) :
    Selects s (selectSlot i s) i ctx pc ∧ (selectSlot i s).core.slots[j].ctx = leftCtx s ∧ (selectSlot i s).core.slots[j].turn = s.core.turns := by
  obtain ⟨hcur, hgtc, hmem, hsegs, hslots⟩ := switchAway_running hj hrun hidle
  have hother : (switchAway s).core.slots[i] = s.core.slots[i] := by
    rw [hslots]
    exact Vector.getElem_set_ne j.isLt i.isLt fun h => hne (Fin.ext h)
  have hsel : Selects s (selectSlot i s) i ctx pc := selectSlot_selects hcur hgtc hmem hsegs (by rw [hother, hctx]) hpc
  have hmine : (selectSlot i s).core.slots[j] = { s.core.slots[j] with turn := s.core.turns, ctx := leftCtx s } := by
    rw [hsel.slots, hslots]
    refine (Vector.getElem_map demoteSlot j.isLt).trans ?_
    exact congrArg demoteSlot (Vector.getElem_set_self j.isLt)
  exact ⟨hsel, by rw [hmine], by rw [hmine]⟩

end

/-! ### SLOT_SELECT and SLICE_EXPIRY -/

section
variable {s : State} (hsw : atSwitch s.gtc s.core = true) (hhalt : haltedCore s.core = false)
include hsw hhalt

theorem slotSelect_exec : (wantSlot s.core = none → exec (.slotSelect s.cur) s = .next s) ∧
    ∀ i, wantSlot s.core = some i → (selectSlot i s).cur = s.cur → exec (.slotSelect s.cur) s = .next (selectSlot i s) := by
  have hcore : getCore s s.cur = s.core := if_pos rfl
  have hfocus : focus s s.cur = s := if_pos rfl
  rw [exec_slotSelect, execSlotSelect, hcore, hfocus]
  rw [if_pos ⟨hsw, hhalt⟩]
  refine ⟨fun h => by rw [h], fun i h hcur => ?_⟩
  rw [h]
  exact congrArg _ (if_pos hcur.symm)

theorem sliceExpiry_exec : (sliceSlot s s.cur = none → exec (.sliceExpiry s.cur) s = .next s) ∧
    ∀ i, sliceSlot s s.cur = some i → (selectSlot i s).cur = s.cur → exec (.sliceExpiry s.cur) s = .next (selectSlot i s) := by
  have hcore : getCore s s.cur = s.core := if_pos rfl
  have hfocus : focus s s.cur = s := if_pos rfl
  rw [exec_sliceExpiry, execSliceExpiry, hcore, hfocus]
  rw [if_pos ⟨hsw, hhalt⟩]
  refine ⟨fun h => by rw [h], fun i h hcur => ?_⟩
  rw [h]
  exact congrArg _ (if_pos hcur.symm)

end

/-- Settles O44: the slot wanted is the one that precedes every other, and what `selectSlot` leaves of it and of the slot that issued. -/
theorem slotSelection : Obligations.SlotSelection := by
  intro s i j pc hsw hhalt c ctx first runs
  obtain ⟨hstays, hselect⟩ := slotSelect_exec hsw hhalt
  obtain ⟨hgoes, hexpiry⟩ := sliceExpiry_exec hsw hhalt
  have hruns {u : State} (h : Selects s u i ctx pc) : runs u := ⟨h.issuing, h.rcd, h.regs, h.pc, h.nextIssue, h.selectedAt, h.mem⟩
  refine ⟨fun hnone => ⟨fun hall => hstays (wantSlot_none hnone hall), fun hfirst hbest => ?_⟩,
    fun hrun hidle hne => ⟨fun hfirst hbest => ?_, fun hfirst hslice hend hprio honly => ?_, fun hnot => hgoes (sliceSlot_none hnot)⟩⟩
  · have hsel := selectSlot_idle rfl hfirst.2 hnone
    exact ⟨_, hselect _ (wantSlot_first hnone hfirst.1 hbest) hsel.cur, hruns hsel⟩
  · obtain ⟨hissuing, hloaded, hstate, -⟩ := hrun
    have hown : selectable s.core j = true := by
      rw [selectable, slotOf_fin, hloaded, slotCtx, if_pos ⟨hissuing, j.isLt⟩, hstate]
      rfl
    obtain ⟨hsel, hleft, -⟩ := selectSlot_running rfl hfirst.2 hne hissuing hstate hidle
    refine ⟨_, hselect _ (wantSlot_above hissuing hfirst.1 (hbest j hne hown) hbest) hsel.cur, hruns hsel, ?_, ?_, ?_⟩ <;> rw [hleft] <;> rfl
  · obtain ⟨hissuing, -, hstate, -⟩ := hrun
    obtain ⟨hsel, hleft, hturn⟩ := selectSlot_running rfl hfirst.2 hne hissuing hstate hidle
    exact ⟨_, hexpiry _ (sliceSlot_next hissuing hne hslice hend hfirst.1 hprio honly) hsel.cur, hruns hsel, by rw [hleft]; rfl, hturn, by rw [hleft]; rfl⟩

end Sys2Proof.Proofs
end

section
/-! A wait on a quire that ends where the record's own bytes hold a table entry of its translation (R42, R49, R52): the entry as the suspension leaves it
leads to another leaf, and the flags set are those of that leaf: a byte outside the record that is not the flags byte of the leaf before. -/

namespace Sys2Proof.Proofs
open Sys2Proof Sys2Proof.Machine Sys2Proof.Claim

/-- The record's address: entry 2 of the root table, then entry 0 at the two levels below. -/
def selfMappedRecord : Nat := 0x0002000000080000

/-- A context blocked for 256 cycles at a QACQ of an empty quire, its record in the page of the root table at 0x80000: entry 2 of that table is bytes 32 to 47 of the record, so OWNER, which the
suspension writes at byte 36, is part of its next table's address. With OWNER = 0 the leaf is at 0x82000, with the context's OWNER = 1 it is at 0x83000; both map to the same page. -/
def selfMapped : State where
  gtc := 1000
  core :=
    { issuing := some 0#3, ir := 0x0030305F#32, slots := (Vector.replicate 8 {}).set 0 { sst := .loaded }, quires := (Vector.replicate 16 {}).set 3 { cfg := true }
      ctx := { rcd := { chrys := 0x1000#56, state := .running }, ctl := { owner := 1#12, record := BitVec.ofNat 56 selfMappedRecord }, blockedAt := some 0 } }
  mem := [(0x80020, 0x01), (0x80021, 0x10), (0x80022, 0x08), (0x81000, 0x01), (0x81001, 0x20), (0x81002, 0x08), (0x82000, 0x03), (0x83000, 0x03),
    (0x100081000, 0x01), (0x100081001, 0x30), (0x100081002, 0x08)]
  hub := { rights := { xltRoot := 0x80000#50 } }

/-- A byte of memory after a step. -/
def byteAfter (o : Machine.Out) (a : Nat) : Option Byte := match o with | .next t => some (getByte t.mem a) | _ => none

/-- Its memory is canonical: the frame does not fail for want of that. -/
theorem selfMapped_wf : Memory.wf selfMapped.mem = true := by decide +kernel

theorem selfMapped_walk : walk selfMapped selfMappedRecord = some { addr := 0x82000, entry := 3, level := 2, pa := 0x80000 } := by decide +kernel

theorem selfMapped_devKey : devKey selfMapped selfMappedRecord = some 0x80000 := by decide +kernel

/-- The suspension sets the flags of the leaf at 0x83000. -/
theorem selfMapped_suspends : byteAfter (exec (.quireSuspend 0) selfMapped) 0x83008 = some 3#8 ∧ getByte selfMapped.mem 0x83008 = 0#8 := by decide +kernel

/-- So the record's frame fails. -/
theorem selfMapped_not_saved {u : State} (h : exec (.quireSuspend 0) selfMapped = .next u) : ¬RecordSaved selfMappedRecord selfMapped u := by
  intro hsaved
  obtain ⟨hafter, hbefore⟩ := selfMapped_suspends
  rw [h] at hafter
  have hsame := hsaved.2 0x80000 selfMapped_devKey 0x83008 (by decide) fun l hl => by
    rw [selfMapped_walk] at hl
    cases hl
    decide
  rw [hbefore] at hsame
  have hset : getByte u.mem 0x83008 = 3#8 := Option.some.inj hafter
  rw [hset] at hsame
  exact absurd hsame (by decide)

theorem selfMapped_waits : quireOf selfMapped 0 3 = { cfg := true } ∧ decodeWord selfMapped.core.ir = some (.qacq 0#2 3#4 0#5 0#5) ∧ rdG selfMapped 0#5 = 0#64 := by decide +kernel

/-- Refutes O23: at the end of a wait of 256 cycles the record is not framed where its own bytes hold the table entry that maps it (`selfMapped`). -/
theorem not_quireReductionAndWaits : ¬ Obligations.QuireReductionAndWaits := by
  intro h
  obtain ⟨hquire, hword, hzero⟩ := selfMapped_waits
  have hother : ∀ j : Fin 8, j ≠ 0 → selfMapped.core.slots[j].ctx.rcd.chrys ≠ selfMapped.core.ctx.rcd.chrys := by decide +kernel
  have hsuspend := (h selfMapped 0#2 0#4 0#4 0#5 0#5).2.1 0 0 3#4 0#5 0#5 rfl rfl (by decide) rfl rfl rfl rfl hother
  obtain ⟨-, hacq, -⟩ := hsuspend
  have hcur : quireOf selfMapped selfMapped.cur (3#4).toNat = { cfg := true } := hquire
  obtain ⟨hempty, -⟩ := hacq hzero hword (by rw [hcur]) (by rw [hcur])
  obtain ⟨u, hexec, -, -, -, -, -, -, hsaved, -⟩ := hempty (.inl (by rw [hcur]))
  exact selfMapped_not_saved hexec hsaved

end Sys2Proof.Proofs
end

section
/-! Memory keeps its canonical form (O56), layer by layer in the order of the model's files: the outcome's state, records, rights and images of contexts.
A lemma `f_mem` says that `f` leaves memory as it is, a lemma `f_wf` that it keeps the canonical form. -/

namespace Sys2Proof.Proofs
open Sys2Proof Sys2Proof.Machine Sys2Proof.Claim

variable {s t : State}

/-- The state that an outcome goes on in has memory in canonical form. -/
def WfOut : Machine.Out → Prop
  | .next t => Memory.wf t.mem = true
  | _ => True

@[simp] theorem wfOut_next : WfOut (.next s) ↔ Memory.wf s.mem = true := Iff.rfl

@[simp] theorem setOwnerDesc_wf (h : Memory.wf s.mem = true) (o : BitVec 12) (d : OwnerDesc) : Memory.wf (setOwnerDesc s o d).mem = true := by simp [setOwnerDesc, h, setLe_wf]

@[simp] theorem setRangeTable_wf (h : Memory.wf s.mem = true) (o : BitVec 12) (es : List RangeEntry) : Memory.wf (setRangeTable s o es).mem = true := by simp [setRangeTable, h, writeRanges_wf]

@[simp] theorem setRegion_wf (h : Memory.wf s.mem = true) (id : BitVec 20) (r : Region) : Memory.wf (setRegion s id r).mem = true := by simp [setRegion, h, setLe_wf]

theorem storeImage_wf {m : List Host.Cell} (h : Memory.wf m = true) (key : Nat) (c : Ctx) : Memory.wf (storeImage m key c) = true := setBytes_wf (setBytes_wf h)

@[simp] theorem lockHeap_mem (va : Nat) (s : State) : (lockHeap va s).mem = s.mem := by
  unfold lockHeap
  split <;> simp

@[simp] theorem touchPage_wf (h : Memory.wf s.mem = true) (write : Bool) (va : Nat) : Memory.wf (touchPage write va s).mem = true := by
  unfold touchPage
  (repeat' split) <;> simp [h, setAD_wf]

@[simp] theorem devPut_wf (h : Memory.wf s.mem = true) (va : Nat) (n : Nat) (x : Nat) : Memory.wf (devPut s va n x).mem = true := by
  unfold devPut
  split <;> simp [h, setLe_wf]

/-- Either branch of a choice between two states. -/
theorem ite_wf {c : Prop} [Decidable c] (hs : Memory.wf s.mem = true) (ht : Memory.wf t.mem = true) : Memory.wf (if c then s else t).mem = true := by
  split <;> assumption

/-- Either branch of a choice between two outcomes. -/
theorem ite_wfOut {c : Prop} [Decidable c] {x y : Machine.Out} (hx : WfOut x) (hy : WfOut y) : WfOut (if c then x else y) := by
  split <;> assumption

@[simp] theorem putFields_wf (h : Memory.wf s.mem = true) (c : Ctx) : Memory.wf (putFields s c).mem = true := by
  unfold putFields
  exact ite_wf h (devPut_wf h ..)

@[simp] theorem putRecord_wf (h : Memory.wf s.mem = true) (c : Ctx) : Memory.wf (putRecord s c).mem = true := by simp [putRecord, h]

@[simp] theorem putOuts_wf (h : Memory.wf s.mem = true) (c : Ctx) : Memory.wf (putOuts s c).mem = true := by simp [putOuts, h]

@[simp] theorem putSuspended_wf (h : Memory.wf s.mem = true) (c : Ctx) : Memory.wf (putSuspended s c).mem = true := by simp [putSuspended, h]

@[simp] theorem putCtxImage_wf (h : Memory.wf s.mem = true) (chrys : BitVec 56) (c : Ctx) : Memory.wf (putCtxImage s chrys c).mem = true := by
  unfold putCtxImage
  dsimp only
  split <;> simp [h, storeImage_wf]

@[simp] theorem putAbsent_wf (h : Memory.wf s.mem = true) (chrys : BitVec 56) (c : Ctx) : Memory.wf (putAbsent s chrys c).mem = true := by simp [putAbsent, h]

@[simp] theorem modCtx_wf (h : Memory.wf s.mem = true) (chrys : BitVec 56) (f : Ctx → Ctx) : Memory.wf (modCtx s chrys f).mem = true := by
  unfold modCtx
  (repeat' split) <;> simp [h]

@[simp] theorem setCore_mem (u : Nat) (c : Core) (s : State) : (setCore s u c).mem = s.mem := by
  unfold setCore
  split <;> simp

@[simp] theorem modCore_mem (u : Nat) (f : Core → Core) (s : State) : (modCore s u f).mem = s.mem := by simp [modCore]

@[simp] theorem focus_mem (u : Nat) (s : State) : (focus s u).mem = s.mem := by
  unfold focus
  split <;> simp

@[simp] theorem nextFree_mem (s : State) : (nextFree s).mem = s.mem := rfl

theorem foldl_mem {α : Type} {f : State → α → State} (hf : ∀ s a, (f s a).mem = s.mem) (l : List α) (s : State) : (l.foldl f s).mem = s.mem := by
  induction l generalizing s with
  | nil => rfl
  | cons a l ih => rw [List.foldl_cons, ih, hf]

theorem foldl_wf {α : Type} {f : State → α → State} (hf : ∀ {s} a, Memory.wf s.mem = true → Memory.wf (f s a).mem = true) (h : Memory.wf s.mem = true) (l : List α) :
    Memory.wf (l.foldl f s).mem = true := by
  induction l generalizing s with
  | nil => exact h
  | cons a l ih => exact ih (hf a h)

end Sys2Proof.Proofs
end

section
/-! Canonical form: results, traps, retirement, holds, tokens and the checks of operands and addresses. -/

namespace Sys2Proof.Proofs
open Sys2Proof Sys2Proof.Machine Sys2Proof.Claim

variable {s t : State}

@[simp] theorem charge_mem (cls : Nat) (n : Nat) (s : State) : (charge cls n s).mem = s.mem := rfl

@[simp] theorem chargeTo_wf (h : Memory.wf s.mem = true) (c : BitVec 56) (cls : Nat) (n : Nat) : Memory.wf (chargeTo c cls n s).mem = true := by
  unfold chargeTo
  (repeat' split) <;> simp [h]

@[simp] theorem later_mem (lat : Nat) (p : Pending) (s : State) : (later lat p s).mem = s.mem := rfl

@[simp] theorem putG_mem (r : Reg) (x : Word) (s : State) : (putG r x s).mem = s.mem := rfl

@[simp] theorem putGLater_mem (lat : Nat) (r : Reg) (x : Word) (s : State) : (putGLater lat r x s).mem = s.mem := by
  unfold putGLater
  split <;> simp

@[simp] theorem putVLater_mem (lat : Nat) (r : Reg) (x : Vec) (s : State) : (putVLater lat r x s).mem = s.mem := rfl

@[simp] theorem putMLater_mem (lat : Nat) (r : BitVec 3) (x : BitVec 32) (tag : BitVec 2) (s : State) : (putMLater lat r x tag s).mem = s.mem := by
  unfold putMLater
  split <;> simp

@[simp] theorem flagsLater_mem (lat : Nat) (f : BitVec 5) (s : State) : (flagsLater lat f s).mem = s.mem := by
  unfold flagsLater
  split <;> simp

@[simp] theorem writeEvent_wf (h : Memory.wf s.mem = true) (p : BitVec 3) (e : BitVec 128) : Memory.wf (writeEvent p e s).mem = true := by
  unfold writeEvent
  dsimp only
  split <;> simp [h, setLe_wf]

@[simp] theorem writeEventTo_wf (h : Memory.wf s.mem = true) (p : Option (BitVec 3)) (e : BitVec 128) : Memory.wf (writeEventTo p e s).mem = true := by
  unfold writeEventTo
  split <;> simp [h]

@[simp] theorem endRegion_mem (agent : Nat) (s : State) : (endRegion agent s).mem = s.mem := rfl

@[simp] theorem leaveSlot_mem (s : State) : (leaveSlot s).mem = s.mem := by
  unfold leaveSlot
  split <;> simp

@[simp] theorem toEnd_mem (i : BitVec 3) (s : State) : (toEnd i s).mem = s.mem := rfl

@[simp] theorem leaveToEnd_mem (s : State) : (leaveToEnd s).mem = s.mem := by
  unfold leaveToEnd
  split <;> simp

@[simp] theorem enterHandler_mem (cause : TrapCause) (val : Word) (pc : BitVec 56) (jnl : TrapJnl) (s : State) : (enterHandler cause val pc jnl s).mem = s.mem := rfl

@[simp] theorem faultStop_wf (h : Memory.wf s.mem = true) (code : BitVec 8) : Memory.wf (faultStop code s).mem = true := by simp [faultStop, h]

@[simp] theorem takeTrapAt_wf (h : Memory.wf s.mem = true) (pc : BitVec 56) (c : Cause) : Memory.wf (takeTrapAt pc c s).mem = true := by
  unfold takeTrapAt
  split <;> simp [h]

@[simp] theorem takeTrap_wf (h : Memory.wf s.mem = true) (c : Cause) : Memory.wf (takeTrap c s).mem = true := by simp [takeTrap, h]

@[simp] theorem trapAs_wf (h : Memory.wf s.mem = true) (c : Cause) : WfOut (trapAs c s) := by simp [trapAs, h]

@[simp] theorem trap_wf (h : Memory.wf s.mem = true) (code : BitVec 8) (val : Word) : WfOut (trap code val s) := by simp [trap, h]

@[simp] theorem illegal_wf (h : Memory.wf s.mem = true) : WfOut (illegal s) := by simp [illegal, h]

@[simp] theorem issued_mem (extra : Nat) (s : State) : (issued extra s).mem = s.mem := rfl

@[simp] theorem retireBy_mem (size : Nat) (cls : Nat) (extra : Nat) (s : State) : (retireBy size cls extra s).mem = s.mem := by simp [retireBy]

@[simp] theorem retire_mem (sc : BitVec 2) (s : State) : (retire sc s).mem = s.mem := by simp [retire]

@[simp] theorem retireV_mem (sc : BitVec 2) (s : State) : (retireV sc s).mem = s.mem := by simp [retireV]

@[simp] theorem transfer_mem (sc : BitVec 2) (x : BitVec 16) (s : State) : (transfer sc x s).mem = s.mem := by simp [transfer]

theorem jumpTo_wf (h : Memory.wf s.mem = true) (sc : BitVec 2) (x : BitVec 16) {k : State → State} (hk : Memory.wf (k s).mem = true) : WfOut (jumpTo sc x k s) := by
  unfold jumpTo
  split <;> simp [h, hk]

@[simp] theorem hold_mem (atSwitch : Bool) (s : State) : (hold atSwitch s).mem = s.mem := rfl

theorem checked_wf (h : Memory.wf s.mem = true) (reads : List Dest) (wr : Option (Dest × Nat)) {k : State → Machine.Out} (hk : WfOut (k s)) : WfOut (checked reads wr s k) := by
  unfold checked
  split <;> simp [h, hk]

@[simp] theorem issueToken_mem (t : TokenName) (s : State) : (issueToken t s).mem = s.mem := rfl

@[simp] theorem addUncovered_mem (d : Dest) (t : TokenName) (covered : Option Nat) (s : State) : (addUncovered d t covered s).mem = s.mem := by
  unfold addUncovered
  split <;> simp

theorem withToken_wf (h : Memory.wf s.mem = true) (k : BitVec 4) {f : TokenName → Machine.Out} (hf : ∀ t, WfOut (f t)) : WfOut (withToken k s f) := by
  unfold withToken
  split <;> simp [h, hf]

theorem guardToken_wf (h : Memory.wf s.mem = true) (t : TokenName) {f : State → Machine.Out} (hf : WfOut (f s)) : WfOut (guardToken t s f) := by
  unfold guardToken
  split <;> simp [h, hf]

theorem checkGranule_mem {o : BitVec 12} {va : Word} {n : Right} {st : Stamp} (e : checkGranule s o va n = .ok (st, t)) : t.mem = s.mem := by
  unfold checkGranule at e
  split at e
  · cases e
  · cases e; rfl
  · split at e
    · cases e
    · split at e <;> cases e
      rfl

theorem checkMore_mem {o : BitVec 12} {va : Word} {r : Right} {n : Nat} (e : checkMore s o va r n = .ok t) : t.mem = s.mem := by
  induction n generalizing s va with
  | zero => cases e; rfl
  | succ n ih =>
    rw [checkMore] at e
    split at e
    · cases e
    · exact (ih e).trans (checkGranule_mem ‹_›)

theorem check_mem {o : BitVec 12} {va : Word} {len : Nat} {r : Right} {st : Stamp} (e : check s o va len r = .ok (st, t)) : t.mem = s.mem := by
  unfold check at e
  split at e
  · cases e
  · split at e <;> cases e
    exact (checkMore_mem ‹_›).trans (checkGranule_mem ‹_›)

@[simp] theorem granuleFill_mem (o : BitVec 12) (va : Word) (s : State) : (granuleFill s o va).mem = s.mem := by
  unfold granuleFill
  (repeat' split) <;> simp

@[simp] theorem fillMore_mem (o : BitVec 12) (va : Word) (r : Right) (n : Nat) (s : State) : (fillMore s o va r n).mem = s.mem := by
  induction n generalizing s va with
  | zero => rfl
  | succ n ih =>
    rw [fillMore]
    split
    · exact granuleFill_mem ..
    · exact (ih ..).trans (checkGranule_mem ‹_›)

@[simp] theorem checkFill_mem (o : BitVec 12) (va : Word) (len : Nat) (r : Right) (s : State) : (checkFill s o va len r).mem = s.mem := by
  unfold checkFill
  split
  · exact granuleFill_mem ..
  · exact (fillMore_mem ..).trans (checkGranule_mem ‹_›)

@[simp] theorem addAccess_mem (a : OpenAccess) (s : State) : (addAccess a s).mem = s.mem := by
  unfold addAccess
  split <;> simp

@[simp] theorem noteAccess_mem (a : OpenAccess) (s : State) : (noteAccess a s).mem = s.mem := by
  unfold noteAccess
  split <;> simp

@[simp] theorem noteSpan_mem (a : OpenAccess) (n key : Nat) (s : State) : (noteSpan a n key s).mem = s.mem := foldl_mem (fun _ _ => noteAccess_mem ..) _ s

theorem recordAccess_mem {a : OpenAccess} (e : recordAccess a s = some t) : t.mem = s.mem := by
  unfold recordAccess at e
  (repeat' split at e) <;> cases e <;> simp

theorem recordLate_mem {a : OpenAccess} (e : recordLate a s = some t) : t.mem = s.mem := by
  unfold recordLate at e
  split at e
  · cases e
  · exact recordAccess_mem e

@[simp] theorem syncPoint_mem (s : State) : (syncPoint s).mem = s.mem := rfl

theorem behindLdaq_wf (h : Memory.wf s.mem = true) (release : Bool) {k : State → Machine.Out} (hk : WfOut (k s)) : WfOut (behindLdaq release s k) := by
  unfold behindLdaq
  split <;> simp [h, hk]

theorem afterAcquire_wf (h : Memory.wf s.mem = true) {k : State → Machine.Out} (hk : WfOut (k s)) : WfOut (afterAcquire s k) := behindLdaq_wf h false hk

theorem afterAll_wf (h : Memory.wf s.mem = true) {k : State → Machine.Out} (hk : WfOut (k s)) : WfOut (afterAll s k) := by
  unfold afterAll
  split <;> simp [h, hk]

@[simp] theorem setHold_wf (h : Memory.wf s.mem = true) (u : Nat) (chrys : BitVec 56) : Memory.wf (setHold u s chrys).mem = true := by
  unfold setHold
  split <;> simp [h]

@[simp] theorem takeAsync_wf (h : Memory.wf s.mem = true) (t : PendTrap) : Memory.wf (takeAsync t s).mem = true := by
  unfold takeAsync
  (repeat' split) <;> simp [h]

@[simp] theorem discardEntries_wf (h : Memory.wf s.mem = true) : Memory.wf (discardEntries s).mem = true := by simp [discardEntries, h]

@[simp] theorem returnFromTrap_wf (h : Memory.wf s.mem = true) (sc : BitVec 2) : Memory.wf (returnFromTrap sc s).mem = true := by
  unfold returnFromTrap
  dsimp only
  (repeat' split) <;> simp [h]

@[simp] theorem touchCtx_wf (h : Memory.wf s.mem = true) (chrys : BitVec 56) (f : Ctx → Ctx) : Memory.wf (touchCtx s chrys f).mem = true := by
  unfold touchCtx
  dsimp only
  (repeat' split) <;> simp [h]

@[simp] theorem wakeAll_wf (h : Memory.wf s.mem = true) (on : WaitWhy → Bool) : Memory.wf (wakeAll on s).mem = true := by
  exact foldl_wf (fun a h => touchCtx_wf h (BitVec.ofNat 56 a.1) (ctxWake on)) (by exact h) _

@[simp] theorem postTo_wf (h : Memory.wf s.mem = true) (chrys : BitVec 56) (t : TokenName) : Memory.wf (postTo chrys t s).mem = true := by simp [postTo, h]

@[simp] theorem suspend_wf (h : Memory.wf s.mem = true) (why : WaitWhy) : Memory.wf (suspend why s).mem = true := by
  unfold suspend
  exact putSuspended_wf (by simp [h]) _

@[simp] theorem progress_mem (chrys : BitVec 56) (s : State) : (progress chrys s).mem = s.mem := by
  unfold progress
  split <;> simp

theorem checkRoute_wf (h : Memory.wf s.mem = true) {ea : Word} {size : Nat} {rights : List Right} {st : Stamp} {r : Route} (e : checkRoute s ea size rights = .ok (st, r, t)) :
    Memory.wf t.mem = true := by
  induction rights generalizing s st with
  | nil =>
    rw [checkRoute] at e
    split at e <;> cases e
    exact touchPage_wf h ..
  | cons n rest ih =>
    rw [checkRoute] at e
    split at e
    · cases e
    · split at e <;> cases e
      exact ih (by rw [check_mem ‹_›, h]) ‹_›

@[simp] theorem rightsFill_mem (ea : Word) (size : Nat) (rights : List Right) (s : State) : (rightsFill ea size rights s).mem = s.mem := by
  induction rights generalizing s with
  | nil => rfl
  | cons n rest ih =>
    rw [rightsFill]
    split
    · exact checkFill_mem ..
    · exact (ih _).trans (check_mem ‹_›)

@[simp] theorem writePriv_wf (h : Memory.wf s.mem = true) (r : Route) (cells : List (Nat × Byte)) : Memory.wf (writePriv s r cells).mem = true := by
  unfold writePriv
  split <;> simp [h, setCells_wf]

@[simp] theorem setJnl_mem (u : Nat) (i : Nat) (e : Option JnlEntry) (s : State) : (setJnl u i e s).mem = s.mem := by simp [setJnl]

@[simp] theorem answerStore_wf (h : Memory.wf s.mem = true) (u i : Nat) (e : JnlEntry) : Memory.wf (answerStore u i e s).mem = true := by
  unfold answerStore
  split
  · simp [h]
  · split
    · simp [h]
    · refine chargeTo_wf ?_ ..
      simp [recordLate_mem ‹_›, h, setCells_wf]

theorem privAccess_mem {r : Route} {write : Bool} {sync : Option (BitVec 3)} (e : privAccess s r write sync = some t) : t.mem = s.mem := by
  unfold privAccess at e
  split at e
  · exact recordAccess_mem e
  · cases e; rfl

theorem landStrl_wf (h : Memory.wf s.mem = true) : Memory.wf (landStrl s).mem = true := by
  unfold landStrl
  split
  · exact answerStore_wf h ..
  · exact h

theorem afterAlias_wf (h : Memory.wf s.mem = true) (r : Route) (n : Nat) (write : Bool) (sync : Option (BitVec 3)) {k : State → Machine.Out} (hk : ∀ {s}, Memory.wf s.mem = true → WfOut (k s)) :
    WfOut (afterAlias r n write sync s k) := by
  unfold afterAlias
  split
  · split
    · simp [h]
    · exact hk (landStrl_wf h)
  · exact hk h

@[simp] theorem chargePriv_mem (r : Route) (n : Nat) (s : State) : (chargePriv r n s).mem = s.mem := by
  unfold chargePriv
  split <;> simp

theorem privLoad_wf (h : Memory.wf s.mem = true) (f : LoadForm) (t : TokenName) (ea : Word) (r : Route) {fin : State → State} (hf : ∀ s, (fin s).mem = s.mem) : WfOut (privLoad f t ea r fin s) := by
  refine checked_wf h _ _ (afterAlias_wf h _ _ _ _ fun h => ?_)
  split
  · simp [h]
  · dsimp only
    split <;> simp [hf, privAccess_mem ‹_›, h]

theorem loggedLoad_wf (h : Memory.wf s.mem = true) (f : LoadForm) (t : TokenName) (ea : Word) (st : Stamp) {fin : State → State} (hf : ∀ s, (fin s).mem = s.mem) :
    WfOut (loggedLoad f t ea st fin s) := by
  unfold loggedLoad
  split <;> simp [hf, h]

theorem loadOp_wf (h : Memory.wf s.mem = true) (f : LoadForm) (ea : Word) {fin : State → State} (hf : ∀ s, (fin s).mem = s.mem) : WfOut (loadOp f ea fin s) := by
  refine withToken_wf h _ fun t => ?_
  split
  · simp [h]
  · split
    · simp [h]
    · have h1 := checkRoute_wf h ‹_›
      refine guardToken_wf h1 _ ?_
      split
      · exact loggedLoad_wf h1 _ _ _ _ hf
      · exact privLoad_wf h1 _ _ _ _ hf

theorem loadInstr_wf (h : Memory.wf s.mem = true) (f : LoadForm) (a : Reg) (ea : Word) {fin : State → State} (hf : ∀ s, (fin s).mem = s.mem) : WfOut (loadInstr f a ea fin s) := by
  unfold loadInstr
  split
  · simp [h]
  · exact afterAcquire_wf h (checked_wf h _ _ (loadOp_wf h _ _ hf))

theorem privStore_wf (h : Memory.wf s.mem = true) (f : StoreForm) (ea : Word) (r : Route) {fin : State → State} (hf : ∀ s, (fin s).mem = s.mem) : WfOut (privStore f ea r fin s) := by
  refine afterAlias_wf h _ _ _ _ fun h => ?_
  split
  · simp [h]
  · simp [hf, writePriv_wf, privAccess_mem ‹_›, h]

theorem postedStore_wf (h : Memory.wf s.mem = true) (f : StoreForm) (ea : Word) (st : Stamp) {fin : State → State} (hf : ∀ s, (fin s).mem = s.mem) : WfOut (postedStore f ea st fin s) := by
  unfold postedStore
  split <;> simp [hf, h]

theorem storeOp_wf (h : Memory.wf s.mem = true) (f : StoreForm) (ea : Word) {fin : State → State} (hf : ∀ s, (fin s).mem = s.mem) : WfOut (storeOp f ea fin s) := by
  unfold storeOp
  split
  · simp [h]
  · split
    · simp [h]
    · have h1 := checkRoute_wf h ‹_›
      split
      · simp [h]
      · have h2 : Memory.wf (if f.sync.isSome then syncPoint ‹State› else ‹State›).mem = true := ite_wf h1 h1
        dsimp only
        split
        · exact postedStore_wf h2 _ _ _ hf
        · exact privStore_wf h2 _ _ _ hf

theorem storeInstr_wf (h : Memory.wf s.mem = true) (f : StoreForm) (reads : List Dest) (ea : Word) {fin : State → State} (hf : ∀ s, (fin s).mem = s.mem) : WfOut (storeInstr f reads ea fin s) :=
  behindLdaq_wf h _ (checked_wf h _ _ (storeOp_wf h _ _ hf))

@[simp] theorem putGHeld_mem (n : Nat) (r : Reg) (x : Word) (s : State) : (putGHeld n r x s).mem = s.mem := rfl

theorem privAmo_wf (h : Memory.wf s.mem = true) (op : BitVec 4) (wide : Bool) (y e : Word) (sco : BitVec 3) (ea : Word) (r : Route) (d : Reg) : WfOut (privAmo op wide y e sco ea r d s) := by
  unfold privAmo
  dsimp only
  refine afterAlias_wf h _ _ _ _ fun h => ?_
  split
  · simp [h]
  · simp [privAccess_mem ‹_›, h]

@[simp] theorem sendAmo_wf (h : Memory.wf s.mem = true) (op : BitVec 4) (wide : Bool) (y : Word) (e : Word) (sco : BitVec 3) (ea : Word) (st : Stamp) (d : Reg) :
    WfOut (sendAmo op wide y e sco ea st d s) := by simp [sendAmo, h]

theorem amoOp_wf (h : Memory.wf s.mem = true) (op : BitVec 4) (aq rl w : BitVec 1) (b a : Reg) (sco : BitVec 3) (d : Reg) : WfOut (amoOp op aq rl w b a sco d s) := by
  unfold amoOp
  dsimp only
  split
  · simp [h]
  · refine behindLdaq_wf h _ ?_
    split
    · simp [h]
    · refine checked_wf h _ _ ?_
      split
      · simp [h]
      · split
        · simp [h]
        · have h1 := checkRoute_wf h ‹_›
          split
          · simp [h]
          · have h2 : Memory.wf (if rl = 1#1 ∨ aq = 1#1 then syncPoint ‹State› else ‹State›).mem = true := ite_wf h1 h1
            split
            · simp [sendAmo, h2]
            · exact privAmo_wf h2 ..

end Sys2Proof.Proofs
end

section
/-! Canonical form: scalar instructions, loads, stores and atomic operations. -/

namespace Sys2Proof.Proofs
open Sys2Proof Sys2Proof.Machine Sys2Proof.Claim

variable {s t : State}

theorem aluOp_wf (h : Memory.wf s.mem = true) {fin : State → State} (hf : ∀ s, (fin s).mem = s.mem) (reads : List Dest) (d : Reg) (x : State → Word) : WfOut (aluOp fin reads d x s) :=
  checked_wf h _ _ (by simp [hf, h])

theorem aluImm_wf (h : Memory.wf s.mem = true) (sc : BitVec 2) (a d : Reg) (f : Word → Word) : WfOut (aluImm sc a d f s) := aluOp_wf h (retire_mem sc) ..

theorem aluReg_wf (h : Memory.wf s.mem = true) (sc : BitVec 2) (b a d : Reg) (f : Word → Word → Word) : WfOut (aluReg sc b a d f s) := aluOp_wf h (retire_mem sc) ..

theorem mulOp_wf (h : Memory.wf s.mem = true) (sc : BitVec 2) (b a d : Reg) (f : Word → Word → Word) : WfOut (mulOp sc b a d f s) := checked_wf h _ _ (by simp [h])

theorem divOp_wf (h : Memory.wf s.mem = true) (sc : BitVec 2) (k : BitVec 4) (b a d : Reg) (f : Word → Word → Word) : WfOut (divOp sc k b a d f s) := by
  unfold divOp
  split
  · simp [h]
  · refine checked_wf h _ _ ?_
    split
    · simp [h]
    · exact withToken_wf h _ fun t => guardToken_wf h _ (by simp [h])

@[simp] theorem retireC_mem (s : State) : (retireC s).mem = s.mem := by simp [retireC]

@[simp] theorem execDivideCompletion_wf (h : Memory.wf s.mem = true) (u : Nat) (i : Nat) : WfOut (execDivideCompletion u i s) := by
  unfold execDivideCompletion
  (repeat' split) <;> simp [h]

theorem scalarLoad_wf (h : Memory.wf s.mem = true) (sizeLog : Nat) (signed : Bool) (sc : BitVec 2) (k : BitVec 4) (imm : BitVec 6) (a d : Reg) : WfOut (scalarLoad sizeLog signed sc k imm a d s) :=
  loadInstr_wf h _ _ _ (retire_mem sc)

theorem scalarStore_wf (h : Memory.wf s.mem = true) (sizeLog : Nat) (sc : BitVec 2) (imm : BitVec 10) (b a : Reg) : WfOut (scalarStore sizeLog sc imm b a s) :=
  storeInstr_wf h _ _ _ (retire_mem sc)

theorem splatLoad_wf (h : Memory.wf s.mem = true) (sizeLog : Nat) (sc : BitVec 2) (k : BitVec 4) (imm : BitVec 6) (a d : Reg) : WfOut (splatLoad sizeLog sc k imm a d s) :=
  loadInstr_wf h _ _ _ (retire_mem sc)

theorem execStvm_wf (h : Memory.wf s.mem = true) (sc : BitVec 2) (imm : BitVec 7) (m : BitVec 3) (b a : Reg) : WfOut (execStvm sc imm m b a s) := by
  unfold execStvm
  dsimp only
  split
  · refine afterAcquire_wf h (checked_wf h _ _ ?_)
    split
    · simp [h]
    · split
      · simp [h]
      · simp [checkRoute_wf h ‹_›]
  · exact storeInstr_wf h _ _ _ (retire_mem sc)

theorem execFnc_wf (h : Memory.wf s.mem = true) (sc : BitVec 2) (sco : BitVec 3) : WfOut (execFnc sc sco s) := afterAll_wf h (by simp [h])

@[simp] theorem execQfnc_wf (h : Memory.wf s.mem = true) (sc : BitVec 2) (n : BitVec 4) : WfOut (execQfnc sc n s) := by
  unfold execQfnc
  split <;> simp [h]

theorem execLdaq_wf (h : Memory.wf s.mem = true) (sc : BitVec 2) (k : BitVec 4) (sco : BitVec 3) (a d : Reg) : WfOut (execLdaq sc k sco a d s) := by
  unfold execLdaq
  split
  · simp [h]
  · exact loadInstr_wf h _ _ _ (by simp)

@[simp] theorem setLog_mem (u : Nat) (i : Nat) (e : Option LogEntry) (s : State) : (setLog u i e s).mem = s.mem := by simp [setLog]

@[simp] theorem endReplay_mem (u : Nat) (sc : BitVec 2) (s : State) : (endReplay u sc s).mem = s.mem := by simp [endReplay]

@[simp] theorem refuseLoad_wf (h : Memory.wf s.mem = true) (u : Nat) (i : Nat) (e : LogEntry) (r : Refuse) : Memory.wf (refuseLoad u i e r s).mem = true := by
  unfold refuseLoad
  split <;> simp [h]

theorem performLoad_wf (h : Memory.wf s.mem = true) (u i : Nat) (e : LogEntry) (key : Nat) : Memory.wf (performLoad u i e key s).mem = true := by
  have h3 : ∀ f n, Memory.wf (chargeTo e.ctx 3 n (touchCtx (setLog u i none (touchPage false e.ea.toNat s)) e.ctx f)).mem = true :=
    fun f n => chargeTo_wf (touchCtx_wf (by simp [h]) ..) ..
  unfold performLoad
  dsimp only
  split <;> simp [h3]

@[simp] theorem answerLoad_wf (h : Memory.wf s.mem = true) (u i : Nat) (e : LogEntry) : Memory.wf (answerLoad u i e s).mem = true := by
  unfold answerLoad
  split
  · exact refuseLoad_wf h ..
  · split
    · exact refuseLoad_wf h ..
    · exact performLoad_wf (by rw [recordLate_mem ‹_›, h]) ..

@[simp] theorem execLoadCompletion_wf (h : Memory.wf s.mem = true) (u : Nat) (e : Nat) : WfOut (execLoadCompletion u e s) := by
  unfold execLoadCompletion
  (repeat' split) <;> simp [h]

@[simp] theorem execStoreAck_wf (h : Memory.wf s.mem = true) (u : Nat) (e : Nat) : WfOut (execStoreAck u e s) := by
  unfold execStoreAck
  (repeat' split) <;> simp [h]

@[simp] theorem answerAmo_wf (h : Memory.wf s.mem = true) (f : AmoFlight) : Memory.wf (answerAmo f s).mem = true := by
  unfold answerAmo
  dsimp only
  split
  · simp [h]
  · split
    · simp [h]
    · have hm := recordAccess_mem ‹_›
      simp [hm, h, setCells_wf]

@[simp] theorem execAmoResponse_wf (h : Memory.wf s.mem = true) (u : Nat) : WfOut (execAmoResponse u s) := by
  unfold execAmoResponse
  (repeat' split) <;> simp [h]

end Sys2Proof.Proofs
end

section
/-! Canonical form: quires, the dealing of cards and the endings of contexts. -/

namespace Sys2Proof.Proofs
open Sys2Proof Sys2Proof.Machine Sys2Proof.Claim

variable {s t : State}

@[simp] theorem setQuire_wf (h : Memory.wf s.mem = true) (u n : Nat) (q : Quire) : Memory.wf (setQuire u n q s).mem = true := by
  unfold setQuire
  dsimp only
  (repeat' split) <;> simp [h]

theorem onQuire_wf (h : Memory.wf s.mem = true) (n : BitVec 4) (a : Reg) (grp : Quire → Option (BitVec 9)) {k : Nat → Quire → State → Machine.Out} (hk : ∀ u q, WfOut (k u q s)) :
    WfOut (onQuire n a grp s k) := by
  unfold onQuire
  split
  · simp [h]
  · dsimp only
    split <;> simp [h, hk]

@[simp] theorem quireWait_wf (h : Memory.wf s.mem = true) : WfOut (quireWait s) := by simp [quireWait, h]

@[simp] theorem quireDone_mem (s : State) : (quireDone s).mem = s.mem := rfl

theorem readRecord_wf (h : Memory.wf s.mem = true) {ea : Word} {align n d : Nat} (e : readRecord ea align n s = .ok (d, t)) : Memory.wf t.mem = true := by
  unfold readRecord at e
  split at e
  · cases e
  · split at e
    · split at e
      · cases e
      · split at e <;> cases e
        rw [privAccess_mem ‹_›]
        exact checkRoute_wf h ‹_›
    · cases e

theorem afterOwn_wf (h : Memory.wf s.mem = true) (write : Bool) (ea : Word) (n : Nat) {k : State → Machine.Out} (hk : ∀ {s}, Memory.wf s.mem = true → WfOut (k s)) :
    WfOut (afterOwn write ea n s k) := by
  unfold afterOwn
  split
  · split
    · exact hk h
    · exact afterAcquire_wf h (afterAlias_wf h _ _ _ _ hk)
  · exact afterAcquire_wf h (hk h)

theorem readGranules_mem {key n : Nat} (e : readGranules key n s = some t) : t.mem = s.mem := by
  induction n generalizing key s with
  | zero => cases e; rfl
  | succ n ih =>
    rw [readGranules] at e
    split at e
    · cases e
    · exact (ih e).trans (recordAccess_mem ‹_›)

theorem privGranules_mem {r : Route} {n : Nat} (e : privGranules s r n = some t) : t.mem = s.mem := by
  unfold privGranules at e
  split at e
  · exact readGranules_mem e
  · cases e; rfl

theorem readDescriptor_mem {ea : Word} {align n d : Nat} (e : readDescriptor ea align n s = .ok (d, t)) : t.mem = s.mem := by
  unfold readDescriptor at e
  split at e
  · cases e
  · dsimp only at e
    split at e <;> cases e
    exact privGranules_mem ‹_›

theorem withDescriptor_wf (h : Memory.wf s.mem = true) (ea : Word) (align n : Nat) {k : Nat → State → Machine.Out} (hk : ∀ {s} d, Memory.wf s.mem = true → WfOut (k d s)) :
    WfOut (withDescriptor ea align n s k) := by
  unfold withDescriptor
  split
  · simp [h]
  · refine afterOwn_wf h _ _ _ fun h => ?_
    split
    · simp [h]
    · exact hk _ (by rw [readDescriptor_mem ‹_›, h])

theorem execQcfg_wf (h : Memory.wf s.mem = true) (sc : BitVec 2) (q : BitVec 4) (a : Reg) : WfOut (execQcfg sc q a s) := by
  refine afterAcquire_wf h (checked_wf h _ _ ?_)
  dsimp only
  split
  · simp [h]
  · refine afterOwn_wf h _ _ _ fun h => ?_
    split
    · simp [h]
    · have h1 := readRecord_wf h ‹_›
      split <;> simp [h1]

@[simp] theorem deadlockTrap_wf (h : Memory.wf s.mem = true) (q : Nat) : WfOut (deadlockTrap q s) := by simp [deadlockTrap, h]

theorem execQres_wf (h : Memory.wf s.mem = true) (sc : BitVec 2) (q : BitVec 4) (a d : Reg) : WfOut (execQres sc q a d s) := by
  unfold execQres
  split
  · simp [h]
  · refine afterAcquire_wf h (checked_wf h _ _ (onQuire_wf h _ _ _ fun home x => ?_))
    refine ite_wfOut (by simp [h]) (ite_wfOut (by simp [h]) (ite_wfOut (by simp [h]) ?_))
    exact checked_wf h _ _ (by simp [h])

theorem execQpub_wf (h : Memory.wf s.mem = true) (sc : BitVec 2) (q : BitVec 4) (a : Reg) : WfOut (execQpub sc q a s) := by
  refine behindLdaq_wf h _ (checked_wf h _ _ (onQuire_wf h _ _ _ fun home x => ?_))
  split
  · simp [h]
  · exact afterAll_wf h (by simp [h])

theorem execQacq_wf (h : Memory.wf s.mem = true) (sc : BitVec 2) (q : BitVec 4) (a d : Reg) : WfOut (execQacq sc q a d s) := by
  refine afterAcquire_wf h (checked_wf h _ _ (onQuire_wf h _ _ _ fun home x => ?_))
  split
  · simp [h]
  · split
    · simp [h]
    · split
      · simp [h]
      · exact checked_wf h _ _ (by simp [h])

theorem execQrel_wf (h : Memory.wf s.mem = true) (sc : BitVec 2) (q : BitVec 4) (a : Reg) : WfOut (execQrel sc q a s) := by
  refine behindLdaq_wf h _ (checked_wf h _ _ (onQuire_wf h _ _ _ fun home x => ?_))
  split
  · simp [h]
  · exact afterAll_wf h (by simp [h])

theorem execQstat_wf (h : Memory.wf s.mem = true) (sc : BitVec 2) (q : BitVec 4) (a d : Reg) : WfOut (execQstat sc q a d s) := by
  refine afterAcquire_wf h (checked_wf h _ _ ?_)
  split
  · simp [h]
  · dsimp only
    split
    · simp [h]
    · exact checked_wf h _ _ (by simp [h])

@[simp] theorem suspendBlocked_wf (h : Memory.wf s.mem = true) : Memory.wf (suspendBlocked s).mem = true := by
  unfold suspendBlocked
  (repeat' split) <;> simp [h]

@[simp] theorem execQuireSuspend_wf (h : Memory.wf s.mem = true) (u : Nat) : WfOut (execQuireSuspend u s) := by
  unfold execQuireSuspend
  dsimp only
  split <;> simp [h]

@[simp] theorem execQredSuspend_wf (h : Memory.wf s.mem = true) (u : Nat) : WfOut (execQredSuspend u s) := by
  unfold execQredSuspend
  dsimp only
  split <;> simp [h]

@[simp] theorem setQueue_wf (h : Memory.wf s.mem = true) (v : Nat) (q : BitVec 8) (x : Queue) : Memory.wf (setQueue v q x s).mem = true := by
  rw [setQueue_mem]
  exact setLe_wf h

@[simp] theorem countDropped_mem (v : Nat) (q : BitVec 8) (n : Nat) (s : State) : (countDropped v q n s).mem = s.mem := rfl

@[simp] theorem cwUpdate_wf (h : Memory.wf s.mem = true) (v : Nat) (ref : BitVec 32) (f : Nat → Nat) : Memory.wf (cwUpdate v ref f s).mem = true := by
  unfold cwUpdate
  split <;> simp [h, setLe_wf]

@[simp] theorem touchDeps_wf (h : Memory.wf s.mem = true) (c : Card) : Memory.wf (touchDeps s c).mem = true := by
  unfold touchDeps
  split
  · exact h
  · refine foldl_wf (fun i h => ?_) h _
    dsimp only
    split <;> simp [h]

@[simp] theorem noteDeps_wf (h : Memory.wf s.mem = true) : Memory.wf (noteDeps s).mem = true := foldl_wf (f := touchDeps) (fun c h => touchDeps_wf h c) h _

@[simp] theorem startCard_wf (h : Memory.wf s.mem = true) (i : Nat) : Memory.wf (startCard i s).mem = true := by
  unfold startCard
  dsimp only
  (repeat' split) <;> simp [h]

@[simp] theorem cancelCard_wf (h : Memory.wf s.mem = true) (i : Nat) : Memory.wf (cancelCard i s).mem = true := by
  unfold cancelCard
  (repeat' split) <;> simp [h]

@[simp] theorem endRecords_wf (h : Memory.wf s.mem = true) (i : Nat) (n : Nat) (exited : Bool) (torn : Bool) : Memory.wf (endRecords i n exited torn s).mem = true := by
  unfold endRecords
  (repeat' split) <;> simp [h]

@[simp] theorem noteSet_mem (l : Nat) (set : List (BitVec 8)) (s : State) : (noteSet l set s).mem = s.mem := by
  unfold noteSet
  split <;> simp

@[simp] theorem completeGen_wf (h : Memory.wf s.mem = true) (l : Nat) (g : BitVec 8) : Memory.wf (completeGen l g s).mem = true := by
  unfold completeGen
  exact foldl_wf (fun c h => touchCtx_wf h ..) (by exact h) _

@[simp] theorem checkGen_wf (h : Memory.wf s.mem = true) (l : Nat) (g : BitVec 8) : Memory.wf (checkGen l g s).mem = true := by
  unfold checkGen
  split <;> simp [h]

@[simp] theorem joinGroups_mem (l : Nat) (chrys : BitVec 56) (gs : List (BitVec 8)) (s : State) : (joinGroups l chrys gs s).1.mem = s.mem := (joinGroups_prepared l chrys gs s).2

@[simp] theorem leaveGroups_wf (h : Memory.wf s.mem = true) (l : Nat) (chrys dead : BitVec 56) (gs : List (BitVec 8)) : Memory.wf (leaveGroups l chrys dead gs s).mem = true := by
  induction gs generalizing s with
  | nil => exact h
  | cons g gs ih => exact ih (checkGen_wf (by exact h) ..)

@[simp] theorem takeSpawn_mem (p : BitVec 3) (s : State) : (takeSpawn p s).mem = s.mem := rfl

@[simp] theorem writeNew_wf (h : Memory.wf s.mem = true) (record chrys : BitVec 56) (r : Rec) (owner : BitVec 12) (pc : BitVec 56) (ranks : List Nat) :
    Memory.wf (writeNew record chrys r owner pc ranks s).mem = true := by
  unfold writeNew
  dsimp only
  split
  · exact touchPage_wf (newImage_wf (devPut_wf h ..) ..) ..
  · exact devPut_wf h ..

@[simp] theorem createCont_wf (h : Memory.wf s.mem = true) (p : BitVec 3) (record chrys : BitVec 56) (r : Rec) (owner : BitVec 12) (pc : BitVec 56) (v : Nat) (q : BitVec 8) (l : Nat)
    (card : Option Nat) : Memory.wf (createCont p record chrys r owner pc v q l card s).mem = true := by
  unfold createCont
  dsimp only
  refine writeEvent_wf ?_ ..
  rw [setHub_mem]
  refine writeNew_wf ?_ ..
  simp [h]

@[simp] theorem touchAffinity_wf (h : Memory.wf s.mem = true) (x : BitVec 512) (arg : Nat) : Memory.wf (touchAffinity x arg s).mem = true := by
  unfold touchAffinity
  dsimp only
  (repeat' split) <;> simp [h]

theorem execDealChunk_wf (h : Memory.wf s.mem = true) (card : Nat) : WfOut (execDealChunk card s) := by
  unfold execDealChunk
  split
  · exact h
  · dsimp only
    split
    · exact h
    · split
      · exact h
      · exact createCont_wf (touchAffinity_wf h ..) ..

@[simp] theorem execDependenceSatisfied_wf (h : Memory.wf s.mem = true) (card : Nat) : WfOut (execDependenceSatisfied card s) := by
  unfold execDependenceSatisfied
  dsimp only
  (repeat' split) <;> simp [h]

@[simp] theorem execDependenceFailed_wf (h : Memory.wf s.mem = true) (card : Nat) : WfOut (execDependenceFailed card s) := by
  unfold execDependenceFailed
  dsimp only
  (repeat' split) <;> simp [h]

@[simp] theorem execGenerationComplete_wf (h : Memory.wf s.mem = true) (lnch : Nat) (grp : Nat) : WfOut (execGenerationComplete lnch grp s) := by simp [execGenerationComplete, h]

@[simp] theorem orphan_mem (c : BitVec 56) (d : BitVec 56) (s : State) : (orphan c d s).mem = s.mem := rfl

@[simp] theorem mapQuires_wf (h : Memory.wf s.mem = true) (f : Quire → Quire) (u : Nat) : Memory.wf (mapQuires f u s).mem = true := by
  refine foldl_wf (fun n h => ?_) h _
  dsimp only
  split <;> simp [h]

@[simp] theorem yieldQuires_wf (h : Memory.wf s.mem = true) (c : BitVec 56) : Memory.wf (yieldQuires c s).mem = true := foldl_wf (fun u h => mapQuires_wf h _ u) h _

@[simp] theorem retireQuires_wf (h : Memory.wf s.mem = true) (c : BitVec 56) (u : Nat) : Memory.wf (retireQuires c u s).mem = true := by
  unfold retireQuires
  exact mapQuires_wf (by simp [h]) ..

@[simp] theorem finalEnergy_wf (h : Memory.wf s.mem = true) (v : Option Nat) (c : Ctx) : Memory.wf (finalEnergy v c s).mem = true := by
  unfold finalEnergy
  split <;> simp [h]

@[simp] theorem putState_wf (h : Memory.wf s.mem = true) (record : BitVec 56) (st : ContState) : Memory.wf (putState record st s).mem = true := by simp [putState, h]

@[simp] theorem endBefore_wf (h : Memory.wf s.mem = true) (c : Ctx) (k : Option Cont) : Memory.wf (endBefore c k s).mem = true := by
  unfold endBefore
  dsimp only
  refine finalEnergy_wf ?_ ..
  split <;> simp [h]

@[simp] theorem putLines_wf (h : Memory.wf s.mem = true) (c : Ctx) : Memory.wf (putLines c s).mem = true := by
  unfold putLines
  split
  · simp [h, storeImage_wf]
  · exact h

@[simp] theorem endAfter_wf (h : Memory.wf s.mem = true) (c : Ctx) (k : Option Cont) (st : ContState) : Memory.wf (endAfter c k st s).mem = true := by
  unfold endAfter
  dsimp only
  rw [endRegion_mem, setHub_mem]
  refine foldl_wf (fun u h => retireQuires_wf h _ u) ?_ _
  refine putState_wf (devPut_wf ?_ ..) ..
  split <;> simp [h]

@[simp] theorem countMessages_mem (u : Nat) (n : Nat) (s : State) : (countMessages u n s).mem = s.mem := by simp [countMessages]

@[simp] theorem bindSlot_mem (u : Nat) (i : Nat) (x : Incoming) (s : State) : (bindSlot u i x s).mem = s.mem := by simp [bindSlot]

@[simp] theorem emptySlot_mem (u : Nat) (i : Nat) (s : State) : (emptySlot u i s).mem = s.mem := by
  unfold emptySlot
  split <;> simp

@[simp] theorem endSlot_wf (h : Memory.wf s.mem = true) (u i : Nat) (st : ContState) : Memory.wf (endSlot u i st s).mem = true := by
  have h1 (c : Ctx) : Memory.wf (if ((getCore s u).slots.getD i {}).sst = .bound then s else putLines c s).mem = true := ite_wf h (putLines_wf h c)
  unfold endSlot
  dsimp only
  refine ite_wf ?_ ?_
  · split
    · exact h
    · rw [countMessages_mem]
      exact endAfter_wf (endBefore_wf (h1 _) ..) ..
  · rw [emptySlot_mem]
    refine writeEventTo_wf ?_ ..
    split
    · exact h
    · rw [countMessages_mem]
      exact endAfter_wf (endBefore_wf (h1 _) ..) ..

@[simp] theorem endAbsent_wf (h : Memory.wf s.mem = true) (k : Cont) (st : ContState) : Memory.wf (endAbsent k st s).mem = true :=
  writeEvent_wf (endAfter_wf (endBefore_wf h ..) ..) ..

end Sys2Proof.Proofs
end

section
/-! Canonical form: slots, partitions and stops. -/

namespace Sys2Proof.Proofs
open Sys2Proof Sys2Proof.Machine Sys2Proof.Claim

variable {s t : State}

@[simp] theorem takeInbox_wf (h : Memory.wf s.mem = true) : Memory.wf (takeInbox s).mem = true := by
  unfold takeInbox
  split <;> simp [h]

theorem putArea_wf {m : List Host.Cell} (h : Memory.wf m = true) (key head : Nat) (xs : List (BitVec 128)) : Memory.wf (putArea m key head xs) = true := by
  induction xs generalizing m head with
  | nil => exact h
  | cons x xs ih => exact ih (setLe_wf h) _

@[simp] theorem mapLoaded_wf (h : Memory.wf s.mem = true) (u : Nat) (i : Nat) : Memory.wf (mapLoaded u i s).mem = true := by
  unfold mapLoaded
  dsimp only
  (repeat' split) <;> simp [h]

@[simp] theorem emptyEnded_wf (h : Memory.wf s.mem = true) (u : Nat) (i : Nat) : Memory.wf (emptyEnded u i s).mem = true := by simp [emptyEnded, h]

@[simp] theorem loadSlot_wf (h : Memory.wf s.mem = true) (u i : Nat) : Memory.wf (loadSlot u i s).mem = true := by
  unfold loadSlot
  dsimp only
  refine ite_wf (emptyEnded_wf (writeEventTo_wf ?_ ..) ..) (mapLoaded_wf (writeEventTo_wf ?_ ..) ..) <;>
  · rw [modCore_mem]
    exact touchPage_wf (touchPage_wf (by exact h) ..) ..

theorem execSlotLoad_wf (h : Memory.wf s.mem = true) (u i : Nat) : WfOut (execSlotLoad u i s) := by
  unfold execSlotLoad
  split <;> simp [h]

@[simp] theorem switchAway_mem (s : State) : (switchAway s).mem = s.mem := by
  unfold switchAway
  split <;> simp

@[simp] theorem notFresh_mem (chrys : BitVec 56) (s : State) : (notFresh chrys s).mem = s.mem := rfl

@[simp] theorem mapPc_wf (h : Memory.wf s.mem = true) (i : Nat) : Memory.wf (mapPc i s).mem = true := by
  unfold mapPc
  dsimp only
  (repeat' split) <;> simp [h]

@[simp] theorem selectSlot_wf (h : Memory.wf s.mem = true) (i : Nat) : Memory.wf (selectSlot i s).mem = true := by
  unfold selectSlot
  dsimp only
  split <;> simp [h]

@[simp] theorem execSlotSelect_wf (h : Memory.wf s.mem = true) (u : Nat) : WfOut (execSlotSelect u s) := by
  unfold execSlotSelect
  dsimp only
  (repeat' split) <;> simp [h]

@[simp] theorem execSliceExpiry_wf (h : Memory.wf s.mem = true) (u : Nat) : WfOut (execSliceExpiry u s) := by
  unfold execSliceExpiry
  dsimp only
  (repeat' split) <;> simp [h]

@[simp] theorem writeBack_wf (h : Memory.wf s.mem = true) (c : Ctx) : Memory.wf (writeBack c s).mem = true := by
  unfold writeBack
  dsimp only
  split
  · simp [h]
  · exact putRecord_wf (putCtxImage_wf (putArea_wf h ..) ..) _

@[simp] theorem evictSlot_wf (h : Memory.wf s.mem = true) (i : Nat) : Memory.wf (evictSlot i s).mem = true := by
  unfold evictSlot
  dsimp only
  rw [emptySlot_mem]
  refine writeEventTo_wf ?_ ..
  rw [endRegion_mem]
  refine writeBack_wf ?_ _
  split <;> simp [h]

theorem execEvictWriteback_wf (h : Memory.wf s.mem = true) (u i : Nat) : WfOut (execEvictWriteback u i s) := by
  unfold execEvictWriteback
  split <;> simp [h]

@[simp] theorem putPrio_wf (h : Memory.wf s.mem = true) (cont : BitVec 56) (p : BitVec 2) : Memory.wf (putPrio cont p s).mem = true := by simp [putPrio, h]

theorem incoming_wf (h : Memory.wf s.mem = true) (p : BitVec 3) (x : Nat) : Memory.wf (incoming p x s).2.mem = true := ite_wf (putPrio_wf h ..) h

@[simp] theorem evictRecord_wf (h : Memory.wf s.mem = true) (u : Nat) (i : Nat) (tag : BitVec 32) (after : Option Incoming) : Memory.wf (evictRecord u i tag after s).mem = true := by
  unfold evictRecord
  dsimp only
  split <;> simp [h]

@[simp] theorem modifyRecord_wf (h : Memory.wf s.mem = true) (u : Nat) (i : Nat) (x : Nat) : Memory.wf (modifyRecord u i x s).mem = true := by
  unfold modifyRecord
  dsimp only
  (repeat' split) <;> simp [h]

@[simp] theorem bindAct_wf (h : Memory.wf s.mem = true) (p : BitVec 3) (u x : Nat) : Memory.wf (bindAct p u x s).mem = true := by
  have h1 := incoming_wf h p x
  unfold bindAct
  dsimp only
  (repeat' split) <;> simp [h, h1]

@[simp] theorem takeRecord_mem (p : BitVec 3) (ch : Bool) (s : State) : (takeRecord p ch s).mem = s.mem := rfl

@[simp] theorem touchChecked_wf (h : Memory.wf s.mem = true) (x : Nat) (e : Nat) : Memory.wf (touchChecked x e s).mem = true := by
  unfold touchChecked
  (repeat' split) <;> simp [h]

@[simp] theorem takeBind_wf (h : Memory.wf s.mem = true) (p : Nat) (ch start evict : Bool) : Memory.wf (takeBind p ch start evict s).mem = true := by
  have h1 : ∀ q x e, Memory.wf (touchChecked x e (takeRecord q ch s)).mem = true := fun q x e => touchChecked_wf (by exact h) ..
  unfold takeBind
  dsimp only
  (repeat' split) <;> simp [h, h1]

@[simp] theorem execPartMapWrite_wf (h : Memory.wf s.mem = true) (p : Nat) (x : BitVec 32) : WfOut (execPartMapWrite p x s) := by
  unfold execPartMapWrite
  dsimp only
  (repeat' split) <;> simp [h]

@[simp] theorem writeLines_wf (h : Memory.wf s.mem = true) (u : Nat) : Memory.wf (writeLines u s).mem = true := by
  refine foldl_wf (fun i h => ?_) h _
  exact ite_wf (putOuts_wf (putLines_wf h _) _) h

theorem filter_wfFrom {p : Host.Cell → Bool} {lo : Nat} {m : List Host.Cell} (h : tabWfFrom unwritten lo m = true) : tabWfFrom unwritten lo (m.filter p) = true := by
  induction m generalizing lo with
  | nil => rfl
  | cons c m ih =>
    simp only [tabWfFrom, Bool.and_eq_true, decide_eq_true_eq] at h
    obtain ⟨⟨hlo, hc⟩, hm⟩ := h
    rw [List.filter_cons]
    split
    · simp [tabWfFrom, hlo, hc, ih hm]
    · exact ih (tabWfFrom_mono hm (by omega))

/-- Bytes forgotten leave the canonical form. -/
theorem filter_wf {m : List Host.Cell} (h : Memory.wf m = true) (p : Host.Cell → Bool) : Memory.wf (m.filter p) = true := filter_wfFrom h

@[simp] theorem applyPart_wf (h : Memory.wf s.mem = true) (u : Nat) (x : BitVec 13) : Memory.wf (applyPart u x s).mem = true := by
  unfold applyPart clearSpan
  exact filter_wf (by simp [h]) _

@[simp] theorem execPwSetWrite_wf (h : Memory.wf s.mem = true) (u : Nat) (x : BitVec 13) : WfOut (execPwSetWrite u x s) := by simp [execPwSetWrite, h]

theorem execPwSetApply_wf (h : Memory.wf s.mem = true) (u : Nat) : WfOut (execPwSetApply u s) := by
  unfold execPwSetApply
  dsimp only
  (repeat' split) <;> simp [h]

@[simp] theorem stopSlot_wf (h : Memory.wf s.mem = true) (u : Nat) (i : Nat) : Memory.wf (stopSlot u s i).mem = true := by
  unfold stopSlot
  dsimp only
  split <;> simp [h]

@[simp] theorem stopIssue_mem (u : Nat) (s : State) : (stopIssue u s).mem = s.mem := by
  unfold stopIssue
  dsimp only
  split <;> simp

@[simp] theorem haltCore_wf (h : Memory.wf s.mem = true) (u : Nat) : Memory.wf (haltCore u s).mem = true := foldl_wf (fun i h => stopSlot_wf h u i) (by simp [h]) _

@[simp] theorem releaseSlotCtx_wf (h : Memory.wf s.mem = true) (u : Nat) (i : Nat) : Memory.wf (releaseSlotCtx u s i).mem = true := by
  unfold releaseSlotCtx
  dsimp only
  split <;> simp [h]

@[simp] theorem resumeCore_wf (h : Memory.wf s.mem = true) (u : Nat) : Memory.wf (resumeCore u s).mem = true := by
  unfold resumeCore
  split
  · exact h
  · exact foldl_wf (fun i h => releaseSlotCtx_wf h u i) (by simp [h]) _

@[simp] theorem endCont_wf (h : Memory.wf s.mem = true) (st : ContState) (k : Cont) : Memory.wf (endCont st s k).mem = true := by
  unfold endCont
  split <;> simp [h]

@[simp] theorem loseCard_wf (h : Memory.wf s.mem = true) (v : Nat) (q : BitVec 8) (i : Nat) : Memory.wf (loseCard v q s i).mem = true := by
  unfold loseCard
  (repeat' split) <;> simp [h]

@[simp] theorem stopDealing_wf (h : Memory.wf s.mem = true) (v : Nat) (q : BitVec 8) : Memory.wf (stopDealing v q s).mem = true := by
  unfold stopDealing
  exact foldl_wf (fun k h => endCont_wf h _ k) (foldl_wf (fun i h => loseCard_wf h v q i) h _) _

@[simp] theorem tearSlot_wf (h : Memory.wf s.mem = true) (u : Nat) (p : BitVec 3) (q : BitVec 8) (i : Nat) : Memory.wf (tearSlot u p q s i).mem = true := by
  unfold tearSlot
  dsimp only
  (repeat' split) <;> simp [h]

@[simp] theorem tearAbsent_wf (h : Memory.wf s.mem = true) (p : BitVec 3) (q : BitVec 8) : Memory.wf (tearAbsent p q s).mem = true := by
  unfold tearAbsent
  exact foldl_wf (fun k h => endAbsent_wf h ..) h _

@[simp] theorem noteVStop_mem (p : BitVec 3) (s : State) : (noteVStop p s).mem = s.mem := rfl

@[simp] theorem allHalted_wf (h : Memory.wf s.mem = true) (p : BitVec 3) : Memory.wf (allHalted p s).mem = true := by
  unfold allHalted
  dsimp only
  (repeat' split) <;> simp [h]

theorem execSyncStopHalt_wf (h : Memory.wf s.mem = true) (u : Nat) : WfOut (execSyncStopHalt u s) := by
  have h1 : Memory.wf (modCore (haltCore u s) u fun c => { c with haltStop := true }).mem = true := by simp [h]
  unfold execSyncStopHalt
  dsimp only
  split
  · split
    · exact h1
    · split
      · exact allHalted_wf (foldl_wf (fun i h => tearSlot_wf h ..) h1 _) _
      · exact allHalted_wf h1 _
  · exact h

theorem execStopArm_wf (h : Memory.wf s.mem = true) (p : Nat) (tear : Bool) (q : BitVec 8) : WfOut (execStopArm p tear q s) := by
  unfold execStopArm
  dsimp only
  (repeat' split) <;> simp [h, foldl_mem]

theorem execStopCancel_wf (h : Memory.wf s.mem = true) (p : Nat) : WfOut (execStopCancel p s) := by
  unfold execStopCancel
  dsimp only
  (repeat' split) <;> simp [h, foldl_mem]

theorem execSweepComplete_wf (h : Memory.wf s.mem = true) (p : Nat) : WfOut (execSweepComplete p s) := by
  unfold execSweepComplete
  dsimp only
  (repeat' split) <;> simp [h, foldl_mem]

@[simp] theorem countDiscarded_mem (ms : List NetMsg) (s : State) : (countDiscarded ms s).mem = s.mem :=
  foldl_mem (fun s m => by split <;> rfl) ms s

@[simp] theorem reinject_mem (sp : Spill) (drop : Bool) (s : State) : (reinject sp drop s).mem = s.mem := by
  unfold reinject
  split <;> simp

@[simp] theorem noteRan_mem (p : BitVec 3) (s : State) : (noteRan p s).mem = s.mem := rfl

theorem execStopResume_wf (h : Memory.wf s.mem = true) (p : Nat) (drop : Bool) (col : BitVec 6) : WfOut (execStopResume p drop col s) := by
  unfold execStopResume
  dsimp only
  split
  · exact h
  · split
    · exact h
    · exact foldl_wf (fun u h => resumeCore_wf (by simp [h]) u) (by simp [h]) _

@[simp] theorem groupHaltCore_wf (h : Memory.wf s.mem = true) (u : Nat) : Memory.wf (groupHaltCore u s).mem = true := by
  unfold groupHaltCore
  split <;> simp [h]

@[simp] theorem haltChain_wf (h : Memory.wf s.mem = true) (g n : Nat) : Memory.wf (haltChain g s n).mem = true := by
  induction n generalizing g s with
  | zero => exact h
  | succ n ih =>
    have h1 : ∀ x us, Memory.wf (List.foldl (fun s u => groupHaltCore u s) (setHaltGroup g x s) us).mem = true :=
      fun x us => foldl_wf (fun u h => groupHaltCore_wf h u) (by exact h) us
    exact ite_wf (ih (h1 ..) _) (h1 ..)

@[simp] theorem execHgHalt_wf (h : Memory.wf s.mem = true) (g : Nat) : WfOut (execHgHalt g s) := by
  unfold execHgHalt
  split <;> simp [h]

theorem execHgResume_wf (h : Memory.wf s.mem = true) (g : Nat) : WfOut (execHgResume g s) := by
  unfold execHgResume
  split
  · exact h
  · exact foldl_wf (fun u h => resumeCore_wf (by simp [h]) u) (by exact h) _

@[simp] theorem noteRuns_mem (s : State) : (noteRuns s).mem = s.mem := rfl

@[simp] theorem beginReset_wf (h : Memory.wf s.mem = true) (v : Nat) (q : BitVec 8) : Memory.wf (beginReset v q s).mem = true := by
  unfold beginReset
  split <;> simp [h]

@[simp] theorem execWatchdogExpiry_wf (h : Memory.wf s.mem = true) (v : Nat) (q : Nat) : WfOut (execWatchdogExpiry v q s) := by
  unfold execWatchdogExpiry
  dsimp only
  split <;> simp [h]

end Sys2Proof.Proofs
end

section
/-! Canonical form: copies and the deadlock rule. -/

namespace Sys2Proof.Proofs
open Sys2Proof Sys2Proof.Machine Sys2Proof.Claim

variable {s t : State}

@[simp] theorem sendNet_mem (m : NetMsg) (s : State) : (sendNet m s).mem = s.mem := rfl

@[simp] theorem setTag_mem (w : Nat) (off : Nat) (t : BitVec 4 × BitVec 2) (s : State) : (setTag w off t s).mem = s.mem := by simp [setTag]

@[simp] theorem setScale_mem (w : Nat) (off : Nat) (j : Nat) (x : Byte) (s : State) : (setScale w off j x s).mem = s.mem := by simp [setScale]

@[simp] theorem touchEach_wf (h : Memory.wf s.mem = true) (p : Nat) (as : List Word) : Memory.wf (touchEach p as s).mem = true := by
  induction as generalizing p s with
  | nil => exact h
  | cons a as ih => exact ite_wf (ih h _) (ih (touchPage_wf h ..) _)

@[simp] theorem readFormats_wf (h : Memory.wf s.mem = true) (u : Nat) (c : Copy) : Memory.wf (readFormats u c s).mem = true := by
  unfold readFormats
  split <;> simp [h]

@[simp] theorem openSlot_wf (h : Memory.wf s.mem = true) (x : Nat × Nat × Nat) : Memory.wf (openSlot x s).mem = true := by simp [openSlot, h]

@[simp] theorem closeSlot_wf (h : Memory.wf s.mem = true) (x : Nat × Nat × Nat) : Memory.wf (closeSlot x s).mem = true := by simp [closeSlot, h]

theorem readMapAccess_mem (c : Copy) (s : State) : (readMapAccess c s).2.mem = s.mem := by
  have one : ∀ a {x : Option (BitVec 8) × State} {y : State}, recordAccess a x.2 = some y → x.2.mem = s.mem → y.mem = s.mem :=
    fun a x y e hx => (recordAccess_mem e).trans hx
  unfold readMapAccess
  split
  · rfl
  · dsimp only
    split
    · split
      · rfl
      · exact recordAccess_mem ‹_›
    · rename_i e
      refine (recordAccess_mem e).trans ?_
      split
      · rfl
      · exact recordAccess_mem ‹_›

theorem launchCopy_wf (h : Memory.wf s.mem = true) (d : Reg) (t : Option TokenName) : WfOut (launchCopy d t s) := by
  unfold launchCopy
  split
  · simp [h]
  · refine checked_wf h _ _ ?_
    have hm := readMapAccess_mem (newCopy ‹BitVec 8› t s) s
    dsimp only
    (repeat' split) <;> simp [hm, h, openSlot]

theorem copyGo_wf (h : Memory.wf s.mem = true) (d : Reg) : WfOut (copyGo d s) := by
  refine afterAcquire_wf h ?_
  split
  · exact withToken_wf h _ fun t => guardToken_wf h _ (launchCopy_wf h ..)
  · exact launchCopy_wf h ..

@[simp] theorem putCopy_mem (u : Nat) (x : Copy) (s : State) : (putCopy u x s).mem = s.mem := by simp [putCopy]

theorem engineByteAt_mem {agent u w a key : Nat} {o : BitVec 12} {write : Bool} (e : engineByteAt agent u w o a write s = .ok (key, t)) : t.mem = s.mem := by
  unfold engineByteAt at e
  (repeat' split at e) <;> cases e
  exact recordAccess_mem ‹_›

theorem engineByte_mem {agent u a key : Nat} {o : BitVec 12} {write : Bool} (e : engineByte agent u o a write s = .ok (key, t)) : t.mem = s.mem := engineByteAt_mem e

@[simp] theorem refusedByte_wf (h : Memory.wf s.mem = true) (u : Nat) (o : BitVec 12) (a : Nat) (write : Bool) : Memory.wf (refusedByte u o a write s).mem = true := by
  unfold refusedByte
  split <;> simp [h]

theorem gatherBeat_wf (h : Memory.wf s.mem = true) (u : Nat) (c : Copy) (base : Word) (xs : List (Nat × Nat)) : Memory.wf (gatherBeat u c base xs s).2.mem = true := by
  induction xs generalizing s with
  | nil => exact h
  | cons x xs ih =>
    rw [gatherBeat]
    dsimp only
    split
    · rename_i hread
      split at hread
      · cases hread
      · split at hread <;> cases hread
        exact refusedByte_wf h ..
    · rename_i s1 hread
      have h1 : Memory.wf s1.mem = true := by
        split at hread
        · cases hread; exact h
        · split at hread <;> cases hread
          exact touchPage_wf (by rw [engineByte_mem ‹_›, h]) ..
      split
      · exact refusedByte_wf h1 ..
      · have h2 := ih ((congrArg Memory.wf (engineByte_mem ‹_›)).trans h1)
        split <;> simpa [*] using h2

@[simp] theorem putCopyByte_wf (h : Memory.wf s.mem = true) (u : Nat) (b : CopyByte) : Memory.wf (putCopyByte u s b).mem = true := by
  unfold putCopyByte
  dsimp only
  (repeat' split) <;> simp [h, setByte_wf]

theorem oneBeat_wf (h : Memory.wf s.mem = true) (u : Nat) (c : Copy) (base : Word) (k : Nat) : Memory.wf (oneBeat u c base k s).2.mem = true := by
  have h1 := gatherBeat_wf h u c base (beatBytes c k)
  unfold oneBeat
  split
  · simpa [*] using h1
  · rename_i hb
    rw [hb] at h1
    split
    · exact h1
    · exact foldl_wf (fun b h => putCopyByte_wf h u b) h1 _

theorem tagBeat_wf (h : Memory.wf s.mem = true) (u : Nat) (c : Copy) (base : Word) : Memory.wf (tagBeat u c base s).2.mem = true := by
  unfold tagBeat
  split
  · exact refusedByte_wf h ..
  · split <;> simp [engineByte_mem ‹_›, h]

theorem beatAt_wf (h : Memory.wf s.mem = true) (u : Nat) (c : Copy) (base : Word) (k : Nat) : Memory.wf (beatAt u c base k s).2.mem = true := by
  unfold beatAt
  split
  · exact tagBeat_wf h ..
  · exact oneBeat_wf h ..

theorem tileBeat_wf (h : Memory.wf s.mem = true) (u : Nat) (c : Copy) (k n : Nat) (ws : List Nat) (x : CopyTile) : Memory.wf (tileBeat u c k n ws x s).2.mem = true := by
  induction ws generalizing s x with
  | nil => exact h
  | cons w ws ih =>
    have h1 := beatAt_wf h u c (BitVec.ofNat 64 (coreBase w) + c.regs.dst) k
    rw [tileBeat]
    split
    · exact ih h _
    · split
      · exact ih (by simpa [*] using h1) _
      · exact ih (chargeTo_wf (by simpa [*] using h1) ..) _

theorem setBeat_wf (h : Memory.wf s.mem = true) (u : Nat) (c : Copy) (k n : Nat) (ts : List CopyTile) : Memory.wf (setBeat u c k n ts s).2.mem = true := by
  induction ts generalizing s with
  | nil => exact h
  | cons x ts ih => exact ih (tileBeat_wf h ..)

@[simp] theorem openCombine_mem (c : Copy) (s : State) : (openCombine c s).mem = s.mem := by
  unfold openCombine
  refine foldl_mem ?_ _ s
  intros
  rfl

@[simp] theorem startCopy_wf (h : Memory.wf s.mem = true) (u : Nat) (c : Copy) : Memory.wf (startCopy u c s).mem = true := by
  have h1 := readFormats_wf h u c
  unfold startCopy
  split
  · exact h
  · dsimp only
    split
    · simp [h1]
    · (repeat' split) <;> simp [h1]

@[simp] theorem stepCopy_wf (h : Memory.wf s.mem = true) (u : Nat) (c : Copy) : Memory.wf (stepCopy u c s).mem = true := by
  have h1 := beatAt_wf h u c (copyBase s c) c.beats
  unfold stepCopy
  dsimp only
  split
  · exact h
  · split
    · simp [setBeat_wf h]
    · split
      · simpa [*] using h1
      · exact chargeTo_wf (by simpa [*] using h1) ..

theorem execCopyBeat_wf (h : Memory.wf s.mem = true) (u : Nat) : WfOut (execCopyBeat u s) := by
  unfold execCopyBeat
  dsimp only
  (repeat' split) <;> simp [h]

theorem execQaSlotReserve_wf (h : Memory.wf s.mem = true) (u : Nat) : WfOut (execQaSlotReserve u s) := by
  unfold execQaSlotReserve
  split
  · exact h
  · have h1 := startCopy_wf h u ‹Copy›
    dsimp only
    (repeat' split) <;> simp [h1, openSlot]

@[simp] theorem copyMessage_mem (u : Nat) (c : Copy) (body : BitVec 128) (s : State) : (copyMessage u c body s).mem = s.mem := rfl

theorem execTileCompletion_wf (h : Memory.wf s.mem = true) (u tile : Nat) : WfOut (execTileCompletion u tile s) := by
  unfold execTileCompletion
  (repeat' split) <;> simp [h]

@[simp] theorem reapCopy_mem (u : Nat) (tid : BitVec 8) (s : State) : (reapCopy u tid s).mem = s.mem := by
  unfold reapCopy
  split <;> simp

@[simp] theorem leaveCopySlot_wf (h : Memory.wf s.mem = true) (c : Copy) : Memory.wf (leaveCopySlot c s).mem = true := by
  unfold leaveCopySlot
  (repeat' split) <;> simp [h]

theorem execCopyCompletion_wf (h : Memory.wf s.mem = true) (u : Nat) : WfOut (execCopyCompletion u s) := by
  unfold execCopyCompletion
  split
  · exact h
  · have h1 := startCopy_wf h u ‹Copy›
    dsimp only
    (repeat' split) <;> simp [h1]

@[simp] theorem noteStuck_mem (s : State) : (noteStuck s).mem = s.mem := rfl

@[simp] theorem deadlockMember_wf (h : Memory.wf s.mem = true) (chrys : BitVec 56) : Memory.wf (deadlockMember s chrys).mem = true := by
  unfold deadlockMember
  split <;> simp [h]

@[simp] theorem deadlockGroup_wf (h : Memory.wf s.mem = true) (k : Nat) : Memory.wf (deadlockGroup s k).mem = true := by
  unfold deadlockGroup
  dsimp only
  split
  · exact foldl_wf (fun c h => deadlockMember_wf h c) (by exact h) _
  · exact h

@[simp] theorem deadlockAll_wf (h : Memory.wf s.mem = true) : Memory.wf (deadlockAll s).mem = true := by
  unfold deadlockAll
  exact foldl_wf (fun k h => deadlockGroup_wf h k) h _

@[simp] theorem execQueueDeadlock_wf (h : Memory.wf s.mem = true) (lnch : Nat) (grp : Nat) : WfOut (execQueueDeadlock lnch grp s) := by simp [execQueueDeadlock, h]

end Sys2Proof.Proofs
end

section
/-! Canonical form: branches, loops, control registers, answers and the issue cycle. -/

namespace Sys2Proof.Proofs
open Sys2Proof Sys2Proof.Machine Sys2Proof.Claim

variable {s t : State}

@[simp] theorem jumpLink_wf (h : Memory.wf s.mem = true) (sc : BitVec 2) (x : BitVec 16) (d : Reg) (link : Word) : WfOut (jumpLink sc x d link s) := by
  unfold jumpLink
  split
  · exact trapAs_wf h _
  · exact checked_wf h _ _ (jumpTo_wf h _ _ (by simp [h]))

@[simp] theorem jumpReg_wf (h : Memory.wf s.mem = true) (sc : BitVec 2) (size : Nat) (x : Word) (d : Reg) : WfOut (jumpReg sc size x d s) := by
  unfold jumpReg
  split <;> simp [h]

theorem execJalr_wf (h : Memory.wf s.mem = true) (sc : BitVec 2) (imm : BitVec 10) (a d : Reg) : WfOut (execJalr sc imm a d s) := checked_wf h _ _ (jumpReg_wf h ..)

theorem branch_wf (h : Memory.wf s.mem = true) (cond : Word → Word → Bool) (sc : BitVec 2) (imm : BitVec 10) (b a : Reg) : WfOut (branch cond sc imm b a s) := by
  refine checked_wf h _ _ ?_
  split
  · exact jumpTo_wf h _ _ h
  · simp [h]

@[simp] theorem setLevel_mem (n : Fin 3) (cnt : BitVec 32) (l : LoopLevel) (s : State) : (setLevel n cnt l s).mem = s.mem := rfl

@[simp] theorem loopOp_wf (h : Memory.wf s.mem = true) (sc : BitVec 2) (len : BitVec 10) (lv : BitVec 2) (cnt : BitVec 32) : WfOut (loopOp sc len lv cnt s) := by
  unfold loopOp
  split
  · simp [h]
  · dsimp only
    split
    · exact jumpTo_wf h _ _ (by simp [h])
    · simp [h]

theorem execLoopG_wf (h : Memory.wf s.mem = true) (sc : BitVec 2) (len : BitVec 10) (a : Reg) (lv : BitVec 2) : WfOut (execLoopG sc len a lv s) := by
  unfold execLoopG
  split
  · simp [h]
  · exact checked_wf h _ _ (loopOp_wf h ..)

theorem execLbrk_wf (h : Memory.wf s.mem = true) (sc : BitVec 2) (lv : BitVec 2) : WfOut (execLbrk sc lv s) := by
  unfold execLbrk
  split
  · simp [h]
  · split
    · exact jumpTo_wf h _ _ h
    · simp [h]

@[simp] theorem execDly_wf (h : Memory.wf s.mem = true) (sc : BitVec 2) (imm : BitVec 10) : WfOut (execDly sc imm s) := by simp [execDly, h]

@[simp] theorem waitDone_mem (sc : BitVec 2) (t : TokenName) (n : BitVec 16) (s : State) : (waitDone sc t n s).mem = s.mem := by simp [waitDone]

@[simp] theorem waitOp_wf (h : Memory.wf s.mem = true) (sc : BitVec 2) (bank : BitVec 1) (k : BitVec 4) (n : BitVec 16) : WfOut (waitOp sc bank k n s) := by
  unfold waitOp
  dsimp only
  (repeat' split) <;> simp [h]

theorem execWaitReg_wf (h : Memory.wf s.mem = true) (sc : BitVec 2) (bank : BitVec 1) (k : BitVec 4) (a : Reg) : WfOut (execWaitReg sc bank k a s) := by
  unfold execWaitReg
  split
  · simp [h]
  · exact checked_wf h _ _ (waitOp_wf h ..)

theorem execTkrd_wf (h : Memory.wf s.mem = true) (sc : BitVec 2) (bank : BitVec 1) (k : BitVec 4) (d : Reg) : WfOut (execTkrd sc bank k d s) := by
  unfold execTkrd
  split
  · simp [h]
  · exact checked_wf h _ _ (by simp [h])

@[simp] theorem tksetOp_wf (h : Memory.wf s.mem = true) (sc : BitVec 2) (bank : BitVec 1) (k : BitVec 4) (n : BitVec 16) : WfOut (tksetOp sc bank k n s) := by
  unfold tksetOp
  dsimp only
  (repeat' split) <;> simp [h]

theorem execTksetReg_wf (h : Memory.wf s.mem = true) (sc : BitVec 2) (bank : BitVec 1) (k : BitVec 4) (a : Reg) : WfOut (execTksetReg sc bank k a s) := by
  unfold execTksetReg
  split
  · simp [h]
  · exact checked_wf h _ _ (tksetOp_wf h ..)

theorem execCrd_wf (h : Memory.wf s.mem = true) (crn : BitVec 12) (d : Reg) : WfOut (execCrd crn d s) := by
  unfold execCrd
  split
  · exact trapAs_wf h _
  · split
    · exact copyGo_wf h d
    · refine checked_wf h _ _ ?_
      dsimp only
      split <;> simp [h]

@[simp] theorem writeOwner_wf (h : Memory.wf s.mem = true) (x : Word) : WfOut (writeOwner x s) := by
  unfold writeOwner
  dsimp only
  split <;> simp [h]

@[simp] theorem writePartWord_wf (h : Memory.wf s.mem = true) (x : Word) : WfOut (writePartWord x s) := by
  unfold writePartWord
  dsimp only
  (repeat' split) <;> simp [h]

@[simp] theorem writeStopAt_wf (h : Memory.wf s.mem = true) (x : Word) : WfOut (writeStopAt x s) := by simp [writeStopAt, h]

@[simp] theorem writeEnergy_wf (h : Memory.wf s.mem = true) (x : Word) : WfOut (writeEnergy x s) := by simp [writeEnergy, h]

@[simp] theorem crPut_wf (h : Memory.wf s.mem = true) (crn : BitVec 12) (x : Word) : WfOut (crPut crn x s) := by
  unfold crPut
  split <;> simp [h]

theorem crWrite_wf (h : Memory.wf s.mem = true) (f : Word → Word → Word) (crn : BitVec 12) (a : Reg) : WfOut (crWrite f crn a s) := by
  unfold crWrite
  split
  · exact trapAs_wf h _
  · exact checked_wf h _ _ (crPut_wf h ..)

@[simp] theorem execPartWordWrite_wf (h : Memory.wf s.mem = true) (x : Word) : WfOut (execPartWordWrite x s) := by
  unfold execPartWordWrite
  split <;> simp [h]

@[simp] theorem execStopAtWrite_wf (h : Memory.wf s.mem = true) (x : Word) : WfOut (execStopAtWrite x s) := by
  unfold execStopAtWrite
  split <;> simp [h]

@[simp] theorem execEnergyWrite_wf (h : Memory.wf s.mem = true) (x : Word) : WfOut (execEnergyWrite x s) := by
  unfold execEnergyWrite
  split <;> simp [h]

@[simp] theorem execTrapI_wf (h : Memory.wf s.mem = true) (_sc : BitVec 2) (code : BitVec 10) : WfOut (execTrapI _sc code s) := by simp [execTrapI, h]

@[simp] theorem execEret_wf (h : Memory.wf s.mem = true) (sc : BitVec 2) : WfOut (execEret sc s) := by
  unfold execEret
  split <;> simp [h]

@[simp] theorem execBrk_wf (h : Memory.wf s.mem = true) (sc : BitVec 2) (code : BitVec 10) : WfOut (execBrk sc code s) := by
  unfold execBrk
  split <;> simp [h]

@[simp] theorem execIdle_wf (h : Memory.wf s.mem = true) (sc : BitVec 2) : WfOut (execIdle sc s) := by
  unfold execIdle
  dsimp only
  (repeat' split) <;> simp [h]

@[simp] theorem replayRefused_wf (h : Memory.wf s.mem = true) (n : BitVec 4) (e : LogEntry) (r : Refuse) : Memory.wf (replayRefused n e r s).mem = true := by simp [replayRefused, h]

theorem execReplay_wf (h : Memory.wf s.mem = true) (sc : BitVec 2) (entry : BitVec 4) : WfOut (execReplay sc entry s) := by
  unfold execReplay
  (repeat' split) <;> try simp [h]
  rename_i e
  simp [check_mem e, h]

@[simp] theorem execCDly_wf (h : Memory.wf s.mem = true) (imm : BitVec 8) : WfOut (execCDly imm s) := by simp [execCDly, h]

theorem execCJr_wf (h : Memory.wf s.mem = true) (r : BitVec 3) : WfOut (execCJr r s) := checked_wf h _ _ (jumpReg_wf h ..)

theorem execCJalr_wf (h : Memory.wf s.mem = true) (r : BitVec 3) : WfOut (execCJalr r s) := checked_wf h _ _ (jumpReg_wf h ..)

theorem branchC_wf (h : Memory.wf s.mem = true) (cond : Word → Bool) (r : BitVec 3) (off : BitVec 8) : WfOut (branchC cond r off s) := by
  refine checked_wf h _ _ ?_
  split
  · exact jumpTo_wf h _ _ h
  · simp [h]

theorem execCJ_wf (h : Memory.wf s.mem = true) (off : BitVec 11) : WfOut (execCJ off s) := jumpTo_wf h _ _ h

@[simp] theorem execIllegalInstruction_wf (h : Memory.wf s.mem = true) (word : BitVec 32) : WfOut (execIllegalInstruction word s) := by simp [execIllegalInstruction, h]

@[simp] theorem execNotLandedFetch_wf (h : Memory.wf s.mem = true) : WfOut (execNotLandedFetch s) := by
  unfold execNotLandedFetch
  split <;> simp [h]

theorem execAsyncTrap_wf (h : Memory.wf s.mem = true) (u : Nat) : WfOut (execAsyncTrap u s) := by
  unfold execAsyncTrap
  split
  · exact wfOut_next.2 ((congrArg Memory.wf (focus_mem ..)).trans (takeAsync_wf (by simp [h]) _))
  · exact h

theorem finishDivides_wf (h : Memory.wf s.mem = true) (u n : Nat) : Memory.wf (finishDivides u s n).mem = true := by
  induction n generalizing s with
  | zero => exact h
  | succ n ih =>
    rw [finishDivides]
    split
    · exact h
    · exact ih (touchCtx_wf (by simp [h]) ..)

@[simp] theorem watchAll_wf (h : Memory.wf s.mem = true) : Memory.wf (watchAll s).mem = true := by
  refine foldl_wf (fun {s} x h => ?_) h _
  have h1 := execWatchdogExpiry_wf h (x.1 / 256) (x.1 % 256)
  split
  · simpa [*] using h1
  · exact h

/-- The state that a delivery goes on in has memory in canonical form. -/
inductive WfFate : Fate → Prop
  | done {u : State} (h : Memory.wf u.mem = true) : WfFate (.done u)
  | dropped : WfFate .dropped
  | waits : WfFate .waits

end Sys2Proof.Proofs
end

section
/-! Canonical form: vector instructions, tables and messages. -/

namespace Sys2Proof.Proofs
open Sys2Proof Sys2Proof.Machine Sys2Proof.Claim

variable {s t : State}

theorem vecOp_wf (h : Memory.wf s.mem = true) (legal : Bool) (sc : BitVec 2) (lat : Nat) (reads : List Dest) (d : Reg) (f : State → Vec × FpFlags) : WfOut (vecOp legal sc lat reads d f s) := by
  unfold vecOp
  split
  · simp [h]
  · exact checked_wf h _ _ (by simp [h])

theorem varOp_wf (h : Memory.wf s.mem = true) (legal rounds : Bool) (sc : BitVec 2) (t : BitVec 4) (b a d : Reg) (f : BitVec 2 → Nat → Nat → LaneRes) :
    WfOut (varOp legal rounds sc t b a d f s) := vecOp_wf h ..

theorem fmaOp_wf (h : Memory.wf s.mem = true) (negP negZ : Bool) (sc : BitVec 2) (t : BitVec 4) (b a d : Reg) : WfOut (fmaOp negP negZ sc t b a d s) := vecOp_wf h ..

theorem execVcmp_wf (h : Memory.wf s.mem = true) (sc : BitVec 2) (t : BitVec 4) (b a : Reg) (cc : BitVec 2) (m : BitVec 3) : WfOut (execVcmp sc t b a cc m s) := by
  unfold execVcmp
  split
  · simp [h]
  · exact checked_wf h _ _ (by simp [h])

theorem execVmsk_wf (h : Memory.wf s.mem = true) (sc : BitVec 2) (t : BitVec 4) (a : Reg) (m : BitVec 3) : WfOut (execVmsk sc t a m s) := by
  unfold execVmsk
  split
  · simp [h]
  · exact checked_wf h _ _ (by simp [h])

theorem execVext_wf (h : Memory.wf s.mem = true) (sc : BitVec 2) (t : BitVec 4) (lane a d : Reg) : WfOut (execVext sc t lane a d s) := by
  unfold execVext
  split
  · simp [h]
  · exact checked_wf h _ _ (by simp [h])

theorem signOp_wf (h : Memory.wf s.mem = true) (neg : Bool) (sc : BitVec 2) (t : BitVec 4) (a d : Reg) : WfOut (signOp neg sc t a d s) := vecOp_wf h ..

theorem redOp_wf (h : Memory.wf s.mem = true) (rounds : Bool) (sc : BitVec 2) (t : BitVec 4) (a d : Reg) (op : BitVec 2 → Nat → Nat → LaneRes) : WfOut (redOp rounds sc t a d op s) := vecOp_wf h ..

theorem scanOp_wf (h : Memory.wf s.mem = true) (rounds : Bool) (sc : BitVec 2) (t : BitVec 4) (a d : Reg) (op : BitVec 2 → Nat → Nat → LaneRes) : WfOut (scanOp rounds sc t a d op s) := vecOp_wf h ..

@[simp] theorem putVNow_mem (d : Reg) (x : Vec) (s : State) : (putVNow d x s).mem = s.mem := rfl

@[simp] theorem qredSlot_wf (h : Memory.wf s.mem = true) (rm sc : BitVec 2) (t : BitVec 4) (q : BitVec 4) (a d : Reg) (x : Quire) : WfOut (qredSlot rm sc t q a d x s) := by
  unfold qredSlot
  dsimp only
  split
  · simp [h]
  · rename_i e
    have h1 := readGranules_mem e
    split <;> simp [h1, h]

theorem execQred_wf (h : Memory.wf s.mem = true) (sc : BitVec 2) (t : BitVec 4) (q : BitVec 4) (a d : Reg) : WfOut (execQred sc t q a d s) := by
  unfold execQred
  split
  · simp [h]
  · refine afterAcquire_wf h (checked_wf h _ _ ?_)
    dsimp only
    split
    · simp [h]
    · split
      · exact trapAs_wf h _
      · split
        · simp [h]
        · split
          · simp [h]
          · split
            · exact quireWait_wf h
            · exact afterAll_wf h (checked_wf h _ _ (checked_wf h _ _ (qredSlot_wf h ..)))

@[simp] theorem acceptReq_mem (r : TableReq) (f : Tile → Tile) (s : State) : (acceptReq r f s).mem = s.mem := rfl

theorem tableIssue_wf (h : Memory.wf s.mem = true) (n : BitVec 3) (k : BitVec 4) (reads : List Dest) {f : TokenName → State → Machine.Out} (hf : ∀ t, WfOut (f t s)) :
    WfOut (tableIssue n k reads s f) := by
  unfold tableIssue
  split
  · simp [h]
  · refine withToken_wf h _ fun t => afterAcquire_wf h ?_
    split
    · simp [h]
    · refine checked_wf h _ _ ?_
      split
      · simp [h]
      · exact hf t

theorem execTload_wf (h : Memory.wf s.mem = true) (sc : BitVec 2) (k : BitVec 4) (a : Reg) (n : BitVec 3) : WfOut (execTload sc k a n s) := by
  refine tableIssue_wf h _ _ _ fun t => ?_
  dsimp only
  split
  · exact guardToken_wf h _ (by simp [h])
  · split
    · simp [h]
    · split
      · simp [h]
      · rename_i e
        have h1 : Memory.wf _ = true := (congrArg Memory.wf (check_mem e)).trans h
        exact guardToken_wf h1 _ (by simp [h1])

theorem execTeval_wf (h : Memory.wf s.mem = true) (sc : BitVec 2) (k : BitVec 4) (p : BitVec 1) (n : BitVec 3) (a d : Reg) : WfOut (execTeval sc k p n a d s) :=
  tableIssue_wf h _ _ _ fun t => guardToken_wf h _ (by simp [h])

theorem execTstat_wf (h : Memory.wf s.mem = true) (sc : BitVec 2) (n : BitVec 3) (d : Reg) : WfOut (execTstat sc n d s) := by
  unfold execTstat
  split
  · simp [h]
  · exact afterAcquire_wf h (checked_wf h _ _ (by simp [h]))

theorem readUnits_wf (h : Memory.wf s.mem = true) (r : TableReq) (a n : Nat) : Memory.wf (readUnits r a n s).2.mem = true := by
  induction n generalizing a s with
  | zero => exact h
  | succ n ih =>
    rw [readUnits]
    split
    · exact refusedByte_wf h ..
    · rename_i e
      have h2 := ih (touchPage_wf ((congrArg Memory.wf (engineByte_mem e)).trans h) false a) (a + 16)
      split <;> simpa [*] using h2

theorem readImage_wf (h : Memory.wf s.mem = true) (r : TableReq) (a : Nat) : Memory.wf (readImage r a s).2.mem = true := by
  have h1 := readUnits_wf h r a 4
  unfold readImage
  split
  · simpa [*] using h1
  · rename_i hs s1 e
    rw [e] at h1
    have h2 := readUnits_wf h1 r (a + 64) (bits (hs.headD 0) 0 10)
    dsimp only
    split
    · exact h1
    · split
      · rename_i e2
        rw [e2] at h2
        exact h2
      · rename_i e2
        rw [e2] at h2
        exact h2

theorem loadTable_wf (h : Memory.wf s.mem = true) (r : TableReq) (t : Table) : Memory.wf (loadTable r t s).2.mem = true := by
  unfold loadTable
  split
  · exact h
  · have h1 := readImage_wf h r (‹Word›).toNat
    split <;> simpa [*] using h1

@[simp] theorem dropHead_mem (tile : Nat) (f : Tile → Tile) (s : State) : (dropHead tile f s).mem = s.mem := rfl

theorem execTloadPerform_wf (h : Memory.wf s.mem = true) (tile : Nat) : WfOut (execTloadPerform tile s) := by
  unfold execTloadPerform
  split
  · exact h
  · rename_i r _ _
    have h1 := loadTable_wf h r (tableOf (tileAt s tile) r.table)
    split
    · exact h
    · split
      · simp [h]
      · split
        rename_i e
        rw [e] at h1
        exact postTo_wf (chargeTo_wf (by simp [h1]) ..) ..

theorem execTevalPerform_wf (h : Memory.wf s.mem = true) (tile : Nat) : WfOut (execTevalPerform tile s) := by
  unfold execTevalPerform
  split
  · exact h
  · split
    · exact h
    · split
      · simp [h]
      · exact wfOut_next.2 (touchCtx_wf (chargeTo_wf (by simp [h]) ..) ..)

@[simp] theorem sendOut_wf (h : Memory.wf s.mem = true) (sc : BitVec 2) (ms : List NetMsg) : WfOut (sendOut sc ms s) := by
  refine afterAll_wf h ?_
  split <;> simp [h]

theorem execSend_wf (h : Memory.wf s.mem = true) (sc : BitVec 2) (sco : BitVec 3) (b a : Reg) : WfOut (execSend sc sco b a s) := by
  refine behindLdaq_wf h _ (checked_wf h _ _ ?_)
  split <;> simp [h]

theorem execSendg_wf (h : Memory.wf s.mem = true) (sc : BitVec 2) (sco : BitVec 3) (b a : Reg) : WfOut (execSendg sc sco b a s) := by
  refine behindLdaq_wf h _ (checked_wf h _ _ ?_)
  dsimp only
  split <;> simp [h]

theorem execRcv_wf (h : Memory.wf s.mem = true) (sc : BitVec 2) (d : Reg) : WfOut (execRcv sc d s) := by
  refine afterAcquire_wf h (checked_wf h _ _ ?_)
  split <;> simp [h]

theorem execWfm_wf (h : Memory.wf s.mem = true) (sc : BitVec 2) : WfOut (execWfm sc s) := by
  refine afterAcquire_wf h ?_
  dsimp only
  split <;> simp [h]

theorem execMbcnt_wf (h : Memory.wf s.mem = true) (sc : BitVec 2) (n d : Reg) : WfOut (execMbcnt sc n d s) := by
  unfold execMbcnt
  split
  · simp [h]
  · exact afterAcquire_wf h (checked_wf h _ _ (by simp [h]))

theorem toMailbox_wf (h : Memory.wf s.mem = true) (u : Nat) (chrys : BitVec 56) (c : Ctx) (body : BitVec 128) : WfFate (toMailbox u chrys c body s) := by
  unfold toMailbox
  split
  · exact WfFate.waits
  · exact WfFate.done (touchCtx_wf (by simp [h]) ..)

theorem toArea_wf (h : Memory.wf s.mem = true) (chrys : BitVec 56) (body : BitVec 128) : WfFate (toArea chrys body s) := by
  unfold toArea
  generalize imageRecord s chrys = r
  split
  · exact WfFate.dropped
  · split
    · split
      · exact WfFate.waits
      · exact WfFate.done (touchCtx_wf (by simp [putArea_wf h]) ..)
    · exact WfFate.dropped

theorem deliverTag_wf (h : Memory.wf s.mem = true) (u i : Nat) (tag : BitVec 44) (body : BitVec 128) : WfFate (deliverTag u i tag body s) := by
  unfold deliverTag
  extract_lets chrys c
  split
  · exact toMailbox_wf h ..
  · exact toArea_wf h ..

theorem deliverGroup_wf (h : Memory.wf s.mem = true) (u i : Nat) (g : Option (Nat × BitVec 8)) (body : BitVec 128) : WfFate (deliverGroup u i g body s) := by
  unfold deliverGroup
  extract_lets c
  split
  · extract_lets
    split
    · exact WfFate.dropped
    · split
      · exact toMailbox_wf h ..
      · exact toArea_wf h ..
  · exact WfFate.dropped

@[simp] theorem takeMessage_mem (i : Nat) (m : NetMsg) (s : State) : (takeMessage i m s).mem = s.mem := by
  unfold takeMessage
  split <;> simp

@[simp] theorem dropMessage_mem (u : Nat) (m : NetMsg) (s : State) : (dropMessage u m s).mem = s.mem := by
  unfold dropMessage
  split <;> simp

@[simp] theorem touchArea_wf (h : Memory.wf s.mem = true) (m : NetMsg) (u : Nat) : Memory.wf (touchArea m u s).mem = true := by
  unfold touchArea
  dsimp only
  (repeat' split) <;> simp [h]

theorem execMessageDelivery_wf (h : Memory.wf s.mem = true) (i : Nat) : WfOut (execMessageDelivery i s) := by
  unfold execMessageDelivery
  split
  · exact h
  · rename_i m _
    split
    · exact h
    · split
      · simp [h, takeMessage_mem]
      · rename_i u _
        extract_lets r
        have hr : WfFate r := by
          unfold r
          split
          · exact deliverGroup_wf h ..
          · exact deliverTag_wf h ..
        clear_value r
        cases hr with
        | waits => simp [h]
        | dropped => simp [h]
        | done h1 => simp [h1]

@[simp] theorem combineAnswer_mem (tile : Nat) (e : Combine) (colour : BitVec 6) (s : State) : (combineAnswer tile e colour s).mem = s.mem := by
  unfold combineAnswer
  split <;> simp

@[simp] theorem execBufferFreeAnswer_wf (h : Memory.wf s.mem = true) (i : Nat) : WfOut (execBufferFreeAnswer i s) := by
  unfold execBufferFreeAnswer
  (repeat' split) <;> simp [h]

/-- Either branch of a choice between two results with their states. -/
theorem ite_wf_snd {α : Type} {c : Prop} [Decidable c] {x y : α × State} (hx : Memory.wf x.2.mem = true) (hy : Memory.wf y.2.mem = true) : Memory.wf (if c then x else y).2.mem = true := by
  split <;> assumption

end Sys2Proof.Proofs
end

section
/-! Canonical form: the press. -/

namespace Sys2Proof.Proofs
open Sys2Proof Sys2Proof.Machine Sys2Proof.Claim

variable {s t : State}

@[simp] theorem appendEntry_mem (op : BitVec 3) (t : Option TokenName) (d : Nat) (s : State) : (appendEntry op t d s).mem = s.mem := rfl

@[simp] theorem pressRead_wf (h : Memory.wf s.mem = true) (op : BitVec 3) (t : Option TokenName) (sc : BitVec 2) (ea : Word) : WfOut (pressRead op t sc ea s) := by
  refine withDescriptor_wf h _ _ _ fun d h => ?_
  cases t <;> simp [h]

theorem pressAppend_wf (h : Memory.wf s.mem = true) (op : BitVec 3) (t : Option TokenName) (sc : BitVec 2) (a : Reg) : WfOut (pressAppend op t sc a s) := by
  refine afterAcquire_wf h (checked_wf h _ _ ?_)
  split
  · simp [h]
  · split
    · simp [h]
    · split
      · exact guardToken_wf h _ (pressRead_wf h ..)
      · exact pressRead_wf h ..

theorem pressToken_wf (h : Memory.wf s.mem = true) (op : BitVec 3) (sc : BitVec 2) (k : BitVec 4) (a : Reg) : WfOut (pressToken op sc k a s) := by
  unfold pressToken
  split
  · simp [h]
  · exact withToken_wf h _ fun t => pressAppend_wf h ..

theorem execPzero_wf (h : Memory.wf s.mem = true) (sc : BitVec 2) (a : Reg) : WfOut (execPzero sc a s) := by
  unfold execPzero
  split
  · simp [h]
  · exact pressAppend_wf h ..

@[simp] theorem execLeaseGrant_wf (h : Memory.wf s.mem = true) (tile : Nat) : WfOut (execLeaseGrant tile s) := by
  unfold execLeaseGrant
  dsimp only
  (repeat' split) <;> simp [h]

@[simp] theorem execLeaseTimeout_wf (h : Memory.wf s.mem = true) (tile : Nat) : WfOut (execLeaseTimeout tile s) := by
  unfold execLeaseTimeout
  dsimp only
  split <;> simp [h]

theorem execPstat_wf (h : Memory.wf s.mem = true) (sc : BitVec 2) (d : Reg) : WfOut (execPstat sc d s) := by
  unfold execPstat
  split
  · simp [h]
  · exact afterAcquire_wf h (checked_wf h _ _ (by simp [h]))

theorem execPsync_wf (h : Memory.wf s.mem = true) (sc : BitVec 2) : WfOut (execPsync sc s) := by
  unfold execPsync
  split
  · simp [h]
  · refine afterAcquire_wf h ?_
    split <;> simp [h]

theorem recordSpan_mem {agent u key n : Nat} {write : Bool} (e : recordSpan agent u write key n s = some t) : t.mem = s.mem := by
  induction n generalizing key s with
  | zero => cases e; rfl
  | succ n ih =>
    rw [recordSpan] at e
    split at e
    · cases e
    · exact (ih e).trans (recordAccess_mem ‹_›)

theorem recordRanges_mem {agent u : Nat} {write : Bool} {rs : List PressRange} (e : recordRanges agent u write rs s = some t) : t.mem = s.mem := by
  induction rs generalizing s with
  | nil => cases e; rfl
  | cons r rs ih =>
    rw [recordRanges] at e
    split at e
    · cases e
    · exact (ih e).trans (recordSpan_mem ‹_›)

theorem recordEntry_mem {u : Nat} {e : PressEntry} (he : recordEntry u e s = some t) : t.mem = s.mem := by
  unfold recordEntry at he
  dsimp only at he
  split at he
  · cases he
  · exact (recordRanges_mem he).trans (recordRanges_mem ‹_›)

@[simp] theorem zeroResult_wf (h : Memory.wf s.mem = true) (u : Nat) (x : BitVec 512) : Memory.wf (zeroResult u x s).mem = true :=
  foldl_wf (fun _ h => setLe_wf h ..) h _

theorem drainResult_wf (h : Memory.wf s.mem = true) (u : Nat) (e : PressEntry) : Memory.wf (drainResult u e s).1.mem = true := by
  unfold drainResult
  dsimp only
  split
  · exact zeroResult_wf (foldl_wf (fun _ h => setBytes_wf h ..) h _) ..
  · exact foldl_wf (fun _ h => setBytes_wf h ..) h _

theorem performWhole_wf (h : Memory.wf s.mem = true) (u : Nat) (e : PressEntry) : Memory.wf (performWhole u e s).1.mem = true := by
  unfold performWhole
  split
  · exact h
  · rename_i s1 he
    have h1 : Memory.wf s1.mem = true := (congrArg Memory.wf (recordEntry_mem he)).trans h
    have h2 := drainResult_wf h1 u e
    split
    · exact zeroResult_wf h1 ..
    · simpa using h2

@[simp] theorem askStart_mem (tile : Nat) (s : State) : (askStart tile s).mem = s.mem := by
  unfold askStart
  dsimp only
  split <;> simp

@[simp] theorem setRun_mem (tile : Nat) (r : Option PressRun) (s : State) : (setRun tile r s).mem = s.mem := rfl

@[simp] theorem stampHead_mem (u : Nat) (st : List (BitVec 20 × BitVec 16)) (s : State) : (stampHead u st s).mem = s.mem := modCore_mem ..

theorem execPressEntryStart_wf (h : Memory.wf s.mem = true) (tile : Nat) : WfOut (execPressEntryStart tile s) := by
  unfold execPressEntryStart
  dsimp only
  split
  · exact h
  · split
    · exact h
    · rename_i u _ e _ _
      split
      · exact h
      · split
        · simp [h]
        · split
          · split
            · simp [h]
            · rename_i he
              have h1 := (congrArg Memory.wf (recordEntry_mem he)).trans (by simp [h] : _ = true)
              split <;> simp [h1]
          · exact (congrArg Memory.wf (setRun_mem ..)).trans (performWhole_wf (by simp [h]) ..)

@[simp] theorem execPressStartAdmit_wf (h : Memory.wf s.mem = true) (tile : Nat) : WfOut (execPressStartAdmit tile s) := by
  unfold execPressStartAdmit
  dsimp only
  (repeat' split) <;> simp [h]

@[simp] theorem openWindow_mem (s : State) : (openWindow s).mem = s.mem := by
  unfold openWindow
  refine foldl_mem (fun s t => ?_) _ s
  dsimp only
  (repeat' split) <;> simp

@[simp] theorem execGovernorWindow_wf (h : Memory.wf s.mem = true) : WfOut (execGovernorWindow s) := by
  unfold execGovernorWindow
  split <;> simp [h]

@[simp] theorem sendSums_mem (w : Nat) (xs : List SliceSum) (s : State) : (sendSums w xs s).mem = s.mem := rfl

@[simp] theorem afterSlice_wf (h : Memory.wf s.mem = true) (tile : Nat) (e : PressEntry) (r : PressRun) (st : Option (BitVec 8)) :
    Memory.wf (afterSlice tile e r st s).mem = true := by simp [afterSlice, h]

@[simp] theorem execBlockSlice_wf (h : Memory.wf s.mem = true) (tile : Nat) : WfOut (execBlockSlice tile s) := by
  unfold execBlockSlice
  (repeat' split) <;> simp [h]

@[simp] theorem execSliceSumAccumulate_wf (h : Memory.wf s.mem = true) (tile : Nat) : WfOut (execSliceSumAccumulate tile s) := by
  unfold execSliceSumAccumulate
  dsimp only
  split <;> simp [h, setLe_wf]

@[simp] theorem execPressShootdown_wf (h : Memory.wf s.mem = true) (tile : Nat) (rgn : Nat) : WfOut (execPressShootdown tile rgn s) := by
  unfold execPressShootdown
  (repeat' split) <;> simp [h]

@[simp] theorem execPressEntryComplete_wf (h : Memory.wf s.mem = true) (tile : Nat) : WfOut (execPressEntryComplete tile s) := by
  unfold execPressEntryComplete
  (repeat' split) <;> simp [h]

end Sys2Proof.Proofs
end

section
/-! Canonical form: heap accesses and the commands of the stack. -/

namespace Sys2Proof.Proofs
open Sys2Proof Sys2Proof.Machine Sys2Proof.Claim

variable {s t : State}

@[simp] theorem noExternal_wf (h : Memory.wf s.mem = true) : WfOut (noExternal s) := by simp [noExternal, h]

theorem heapLoad_wf (h : Memory.wf s.mem = true) (f : LoadForm) (a : Reg) (ea : Word) {fin : State → State} (hf : ∀ s, (fin s).mem = s.mem) : WfOut (heapLoad f a ea fin s) := by
  unfold heapLoad
  split
  · simp [h, noExternal]
  · split
    · simp [h]
    · refine afterAcquire_wf h (checked_wf h _ _ ?_)
      split
      · exact loadOp_wf h _ _ hf
      · simp [h]

theorem heapStore_wf (h : Memory.wf s.mem = true) (f : StoreForm) (reads : List Dest) (ea : Word) {fin : State → State} (hf : ∀ s, (fin s).mem = s.mem) : WfOut (heapStore f reads ea fin s) := by
  unfold heapStore
  split
  · simp [h, noExternal]
  · refine afterAcquire_wf h (checked_wf h _ _ ?_)
    split
    · exact storeOp_wf h _ _ hf
    · simp [h]

@[simp] theorem putHint_wf (h : Memory.wf s.mem = true) (x : Nat) : Memory.wf (putHint x s).mem = true := by
  unfold putHint
  dsimp only
  split <;> simp [h, setLe_wf]

theorem execXhint_wf (h : Memory.wf s.mem = true) (sc : BitVec 2) (b a : Reg) (hot : BitVec 1) : WfOut (execXhint sc b a hot s) := by
  unfold execXhint
  dsimp only
  split
  · simp [h, noExternal]
  · split
    · simp [h]
    · split
      · simp [h]
      · rename_i e
        simp [check_mem e, h]

@[simp] theorem answerRead_mem (addr : Nat) (x : Word) (s : State) : (answerRead addr x s).mem = s.mem := rfl

@[simp] theorem execHintDropRead_wf (h : Memory.wf s.mem = true) : WfOut (execHintDropRead s) := by simp [execHintDropRead, h]

theorem headCheck_wf (h : Memory.wf s.mem = true) {a n : Nat} {r : Right} (e : headCheck s a r = .ok (n, t)) : Memory.wf t.mem = true := by
  unfold headCheck at e
  dsimp only at e
  split at e
  · cases e
  · rename_i e1
    (repeat' split at e) <;> cases e
    exact touchPage_wf ((congrArg Memory.wf (check_mem e1)).trans h) ..

@[simp] theorem appendStack_mem (n : Nat) (e : StackEntry) (s : State) : (appendStack n e s).mem = s.mem := rfl

@[simp] theorem acceptStack_wf (h : Memory.wf s.mem = true) (n : Nat) (op : BitVec 3) (t : Option TokenName) (d : BitVec 512) (sc : BitVec 2) :
    WfOut (acceptStack n op t d sc s) := by simp [acceptStack, h]

theorem stackIssue_wf (h : Memory.wf s.mem = true) (op : BitVec 3) (sc : BitVec 2) (k : BitVec 4) (a : Reg) : WfOut (stackIssue op sc k a s) := by
  refine withToken_wf h _ fun t => afterAcquire_wf h (checked_wf h _ _ (withDescriptor_wf h _ _ _ fun d h1 => ?_))
  dsimp only
  split
  · exact trapAs_wf (by simp [h1]) _
  · rename_i e
    have h2 := headCheck_wf h1 e
    split
    · simp [h]
    · split
      · exact guardToken_wf h2 _ (acceptStack_wf (by simp [h2]) ..)
      · exact acceptStack_wf h2 ..

theorem execSestat_wf (h : Memory.wf s.mem = true) (sc : BitVec 2) (a d : Reg) : WfOut (execSestat sc a d s) := by
  refine afterAcquire_wf h (checked_wf h _ _ ?_)
  split
  · exact trapAs_wf (by simp [h]) _
  · rename_i e
    have h2 := headCheck_wf h e
    exact checked_wf h2 _ _ (by simp [h2])

theorem readSpan_wf (h : Memory.wf s.mem = true) (ag : Nat) (e : StackEntry) (a n : Nat) : Memory.wf (readSpan ag e a n s).2.mem = true := by
  induction n generalizing a s with
  | zero => exact h
  | succ n ih =>
    rw [readSpan]
    split
    · exact refusedByte_wf h ..
    · rename_i he
      have h2 := ih (touchPage_wf ((congrArg Memory.wf (engineByteAt_mem he)).trans h) false a) (a + 1)
      split <;> simpa [*] using h2

theorem writeSpan_wf (h : Memory.wf s.mem = true) (ag : Nat) (e : StackEntry) (a : Nat) (bs : List Byte) : Memory.wf (writeSpan ag e a bs s).2.mem = true := by
  induction bs generalizing a s with
  | nil => exact h
  | cons b bs ih =>
    rw [writeSpan]
    split
    · exact refusedByte_wf h ..
    · rename_i k s1 he
      have h1 : Memory.wf (setByte s1.mem k b) = true := setByte_wf ((congrArg Memory.wf (engineByteAt_mem he)).trans h)
      have h2 := ih (touchPage_wf (s := { s1 with mem := setByte s1.mem k b }) h1 true a) (a + 1)
      split <;> rename_i hw <;> rw [hw] at h2 <;> exact h2

theorem afterWrite_wf {r : Option (Refuse × Nat) × State} (h : Memory.wf r.2.mem = true) (f : FpFlags) (beats a n : Nat) : Memory.wf (afterWrite f beats a n r).2.mem = true := by
  unfold afterWrite
  split <;> exact h

theorem readRows_wf (h : Memory.wf s.mem = true) (ag : Nat) (e : StackEntry) (a stride n k : Nat) : Memory.wf (readRows ag e a stride n k s).2.mem = true := by
  induction k generalizing a s with
  | zero => exact h
  | succ k ih =>
    have h1 := readSpan_wf h ag e a n
    rw [readRows]
    split
    · rename_i he
      rw [he] at h1
      exact h1
    · rename_i he
      rw [he] at h1
      have h2 := ih h1 (a + stride)
      split <;> rename_i hr <;> rw [hr] at h2 <;> exact h2

theorem runSegmv_wf (h : Memory.wf s.mem = true) (ag : Nat) (e : StackEntry) : Memory.wf (runSegmv ag e s).2.mem = true := by
  have h1 := readSpan_wf h ag e (sdSrcA e.desc) (max 1 (sdCols e.desc * (fmtWidth (fmtAt s (entryUnit e) (sdSrcA e.desc)) / 8)))
  unfold runSegmv
  dsimp only
  split
  · exact h
  · split
    · exact h
    · split
      · exact h
      · split
        · rename_i he
          rw [he] at h1
          exact h1
        · rename_i he
          rw [he] at h1
          have h2 := readRows_wf h1 ag e (sdSrcB e.desc) (sdBstr e.desc) (max 1 (sdCols e.desc * (fmtWidth (fmtAt s (entryUnit e) (sdSrcB e.desc)) / 8))) (sdRows e.desc)
          split <;> rename_i hr <;> rw [hr] at h2
          · exact h2
          · exact afterWrite_wf (writeSpan_wf h2 ..) ..

theorem runSefil_wf (h : Memory.wf s.mem = true) (ag : Nat) (e : StackEntry) : Memory.wf (runSefil ag e s).2.mem = true := by
  unfold runSefil
  dsimp only
  split
  · exact h
  · exact afterWrite_wf (writeSpan_wf h ..) ..

theorem runSecpy_wf (h : Memory.wf s.mem = true) (ag : Nat) (e : StackEntry) : Memory.wf (runSecpy ag e s).2.mem = true := by
  have h1 := readSpan_wf h ag e (sdSrcA e.desc) (sdLen e.desc)
  unfold runSecpy
  dsimp only
  split
  · exact h
  · split <;> rename_i he <;> rw [he] at h1
    · exact h1
    · exact afterWrite_wf (writeSpan_wf h1 ..) ..

theorem runSecmp_wf (h : Memory.wf s.mem = true) (ag : Nat) (e : StackEntry) : Memory.wf (runSecmp ag e s).2.mem = true := by
  have h1 := readSpan_wf h ag e (sdSrcA e.desc) (sdLen e.desc)
  unfold runSecmp
  dsimp only
  split
  · exact h
  · split <;> rename_i he <;> rw [he] at h1
    · exact h1
    · have h2 := readSpan_wf h1 ag e (sdSrcB e.desc) (sdLen e.desc)
      split <;> rename_i hb <;> rw [hb] at h2
      · exact h2
      · exact afterWrite_wf (writeSpan_wf h2 ..) ..

theorem runSered_wf (h : Memory.wf s.mem = true) (ag : Nat) (e : StackEntry) : Memory.wf (runSered ag e s).2.mem = true := by
  have h1 := readSpan_wf h ag e (sdSrcA e.desc) (max 1 (elemEnd (fmtAt s (entryUnit e) (sdSrcA e.desc)) (sdRows e.desc - 1)))
  unfold runSered
  refine ite_wf_snd h (ite_wf_snd h (ite_wf_snd h (ite_wf_snd h ?_)))
  split <;> rename_i he <;> rw [he] at h1
  · exact h1
  · exact afterWrite_wf (writeSpan_wf h1 ..) ..

theorem runStack_wf (h : Memory.wf s.mem = true) (ag : Nat) (e : StackEntry) : Memory.wf (runStack ag e s).2.mem = true := by
  unfold runStack
  split
  · exact h
  · split
    · exact runSegmv_wf h ..
    · exact runSefil_wf h ..
    · exact runSecpy_wf h ..
    · exact runSecmp_wf h ..
    · exact runSered_wf h ..

@[simp] theorem setHead_mem (n : Nat) (e : StackEntry) (s : State) : (setHead n e s).mem = s.mem := rfl

theorem execStackCommandStart_wf (h : Memory.wf s.mem = true) (ch : Nat) : WfOut (execStackCommandStart ch s) := by
  unfold execStackCommandStart
  split
  · exact h
  · rename_i e _ _
    have h1 := runStack_wf h (stackAgent ch e) e
    split
    · exact h
    · split
      · simp [h]
      · split
        · simp [h]
        · split
          rename_i hr
          rw [hr] at h1
          simp [h1]

@[simp] theorem putCompletion_wf (h : Memory.wf s.mem = true) (e : StackEntry) : Memory.wf (putCompletion e s).mem = true := by
  unfold putCompletion
  dsimp only
  (repeat' split) <;> simp [h, setLe_wf]

theorem execStackCommandComplete_wf (h : Memory.wf s.mem = true) (ch : Nat) : WfOut (execStackCommandComplete ch s) := by
  unfold execStackCommandComplete
  split
  · exact h
  · split
    · exact h
    · extract_lets s1 g s2
      have h2 : Memory.wf s2.mem = true := by simp [s2, s1, h]
      split
      · exact h2
      · dsimp only
        split <;> simp [h2]

@[simp] theorem stackGo_wf (h : Memory.wf s.mem = true) (ch : Nat) (op : BitVec 3) : WfOut (stackGo ch op s) := by
  unfold stackGo
  dsimp only
  split <;> simp [h]

end Sys2Proof.Proofs
end

section
/-! Canonical form: cards, tasks and fits. -/

namespace Sys2Proof.Proofs
open Sys2Proof Sys2Proof.Machine Sys2Proof.Claim

variable {s t : State}

@[simp] theorem touchCw_wf (h : Memory.wf s.mem = true) (v : Nat) (ref : BitVec 32) : Memory.wf (touchCw v ref s).mem = true := by
  unfold touchCw
  split <;> simp [h]

@[simp] theorem addCard_wf (h : Memory.wf s.mem = true) (v : Nat) (q : BitVec 8) (l : Nat) (addr : BitVec 56) (x : BitVec 512) : Memory.wf (addCard v q l addr x s).mem = true := by simp [addCard, h]

@[simp] theorem settleCard_wf (h : Memory.wf s.mem = true) (v : Nat) (x : BitVec 512) (i : Nat) (d : Verdict) : Memory.wf (settleCard v x i d s).mem = true := by
  unfold settleCard
  (repeat' split) <;> simp [h]

@[simp] theorem joinCards_wf (h : Memory.wf s.mem = true) (v : Nat) (q : BitVec 8) (l : Nat) (cs : List (Option (BitVec 56 × BitVec 512) × Verdict)) : Memory.wf (joinCards v q l cs s).mem = true := by
  refine foldl_wf (fun {s} c h => ?_) h _
  split
  · simp [h]
  · exact (congrArg Memory.wf (noteSet_mem ..)).trans (addCard_wf (by simp [h]) ..)
  · exact h

theorem settleRead_wf (h : Memory.wf s.mem = true) (v i : Nat) (c : Option (BitVec 56 × BitVec 512)) (d : Verdict) : Memory.wf (settleRead v i c d s).mem = true := by
  cases c with
  | none => exact h
  | some x => exact settleCard_wf h ..

@[simp] theorem writeCards_wf (h : Memory.wf s.mem = true) (v : Nat) (q : BitVec 8) (i : Nat) (cs : List (Option (BitVec 56 × BitVec 512) × Verdict)) :
    Memory.wf (writeCards v q i cs s).mem = true := by
  induction cs generalizing i s with
  | nil => exact h
  | cons c cs ih =>
    obtain ⟨c, d⟩ := c
    have h1 := settleRead_wf h v i c d
    rw [writeCards_cons]
    exact ih (setQueue_wf h1 ..) _

theorem dealCard_wf (h : Memory.wf s.mem = true) (r : Rec) (k : Cont) (addr : BitVec 56) (x : BitVec 512) : Memory.wf (dealCard r k addr x s).2.mem = true := by
  unfold dealCard
  dsimp only
  refine ite_wf_snd (settleCard_wf ?_ ..) (settleCard_wf (touchCw_wf h ..) ..)
  rw [noteSet_mem]
  exact addCard_wf (touchCw_wf h ..) ..

@[simp] theorem taskDone_wf (h : Memory.wf s.mem = true) (sc : BitVec 2) (d : Reg) (x : Word) : WfOut (taskDone sc d x s) := by simp [taskDone, h]

@[simp] theorem spawnChild_wf (h : Memory.wf s.mem = true) (k : Cont) (p : BitVec 3) (record : BitVec 56) (chrys : BitVec 56) (d : Nat) :
    Memory.wf (spawnChild k p record chrys d s).mem = true := by simp [spawnChild, h]

@[simp] theorem spawnNow_wf (h : Memory.wf s.mem = true) (sc : BitVec 2) (r : Reg) (d : Nat) : WfOut (spawnNow sc r d s) := by
  unfold spawnNow
  dsimp only
  (repeat' split) <;> simp [h]

theorem execSpawn_wf (h : Memory.wf s.mem = true) (sc : BitVec 2) (a d : Reg) : WfOut (execSpawn sc a d s) := by
  refine checked_wf h _ _ (behindLdaq_wf h _ (withDescriptor_wf h _ _ _ fun x h => ?_))
  split
  · simp [h]
  · split
    · simp [h]
    · exact afterAll_wf h (checked_wf h _ _ (spawnNow_wf h ..))

@[simp] theorem dealNow_wf (h : Memory.wf s.mem = true) (sc : BitVec 2) (d : Reg) (a : Word) : WfOut (dealNow sc d a s) := by
  unfold dealNow
  split
  · rename_i k x _ _
    exact taskDone_wf (dealCard_wf (touchPage_wf h ..) ..) ..
  · simp [h]

theorem execDeal_wf (h : Memory.wf s.mem = true) (sc : BitVec 2) (a d : Reg) : WfOut (execDeal sc a d s) := by
  refine checked_wf h _ _ ?_
  dsimp only
  split
  · simp [h]
  · exact afterAll_wf h (checked_wf h _ _ (dealNow_wf h ..))

@[simp] theorem execSusp_wf (h : Memory.wf s.mem = true) (sc : BitVec 2) : WfOut (execSusp sc s) := by
  unfold execSusp
  (repeat' split) <;> simp [h]

@[simp] theorem arriveNow_wf (h : Memory.wf s.mem = true) (sc : BitVec 2) (n : BitVec 2) : WfOut (arriveNow sc n s) := by
  unfold arriveNow
  dsimp only
  split <;> simp [h]

@[simp] theorem issueProgress_mem (s : State) : (issueProgress s).mem = s.mem := by
  unfold issueProgress
  split <;> simp

theorem execGbar_wf (h : Memory.wf s.mem = true) (sc : BitVec 2) (n : BitVec 2) : WfOut (execGbar sc n s) := by
  unfold execGbar
  split
  · simp [h]
  · split
    · simp [h]
    · exact afterAll_wf (by simp [h]) (arriveNow_wf (by simp [h]) ..)

theorem execGrank_wf (h : Memory.wf s.mem = true) (sc : BitVec 2) (n : BitVec 2) (d : Reg) : WfOut (execGrank sc n d s) := by
  unfold execGrank
  split
  · simp [h]
  · exact checked_wf h _ _ (by simp [h])

@[simp] theorem exitNow_wf (h : Memory.wf s.mem = true) : Memory.wf (exitNow s).mem = true := by simp [exitNow, h]

@[simp] theorem execExitI_wf (h : Memory.wf s.mem = true) (_sc : BitVec 2) : WfOut (execExitI _sc s) := by
  unfold execExitI
  split <;> simp [h]

@[simp] theorem shootFits_mem (id : BitVec 20) (s : State) : (shootFits id s).mem = s.mem := rfl

@[simp] theorem replaceCode_mem (q : Nat) (base : BitVec 44) (s : State) : (replaceCode q base s).mem = s.mem := rfl

@[simp] theorem modViceroy_mem (f : Viceroy → Viceroy) (s : State) : (modViceroy f s).mem = s.mem := rfl

@[simp] theorem setOpen_mem (fo : Bool) (fs : Bool) (n : BitVec 4) (s : State) : (setOpen fo fs n s).mem = s.mem := rfl

@[simp] theorem fitTrue_wf (h : Memory.wf s.mem = true) (sc : BitVec 2) (t : TokenName) (n : BitVec 4) : WfOut (fitTrue sc t n s) := by simp [fitTrue, h]

@[simp] theorem fitSub_wf (h : Memory.wf s.mem = true) (sc : BitVec 2) (t : TokenName) (n : BitVec 4) (r : BitVec 192) (y : List (BitVec 32)) (fea : BitVec 56) : WfOut (fitSub sc t n r y fea s) := by
  unfold fitSub
  split
  · exact trapAs_wf h _
  · refine jumpTo_wf h _ _ ?_
    dsimp only
    rw [modViceroy_mem, setOpen_mem]
    exact foldl_wf (fun d h => by simp [h]) (by simp [h]) _

@[simp] theorem fitAsk_wf (h : Memory.wf s.mem = true) (sc : BitVec 2) (t : TokenName) (n : BitVec 4) (r : BitVec 192) (x : List (BitVec 32)) : WfOut (fitAsk sc t n r x s) := by
  unfold fitAsk
  dsimp only
  split <;> simp [h]

theorem execFitb_wf (h : Memory.wf s.mem = true) (sc : BitVec 2) (k n : BitVec 4) (a : Reg) : WfOut (execFitb sc k n a s) := by
  unfold execFitb
  split
  · simp [h]
  · refine withToken_wf h _ fun t => ?_
    split
    · exact fitAsk_wf h ..
    · refine checked_wf h _ _ (withDescriptor_wf h _ _ _ fun d h => ?_)
      dsimp only
      split
      · simp [h]
      · exact guardToken_wf h _ (checked_wf h _ _ (fitAsk_wf h ..))

theorem execFite_wf (h : Memory.wf s.mem = true) (sc : BitVec 2) (n : BitVec 4) : WfOut (execFite sc n s) := by
  unfold execFite
  dsimp only
  (repeat' split) <;> try simp [h]
  exact checked_wf h _ _ (by simp [h])

@[simp] theorem execFitk_wf (h : Memory.wf s.mem = true) (sc : BitVec 2) (n : BitVec 4) : WfOut (execFitk sc n s) := by
  unfold execFitk
  split <;> simp [h]

theorem recordImage_mem {write priv : Bool} {bs : List ImageByte} (e : recordImage write priv bs s = some t) : t.mem = s.mem := by
  induction bs generalizing s with
  | nil => cases e; rfl
  | cons b bs ih =>
    cases b with
    | window off => exact ih e
    | mem key =>
      rw [recordImage] at e
      split at e
      · cases e
      · exact (ih e).trans (recordAccess_mem ‹_›)

@[simp] theorem imageFill_mem (ea : Word) (n : Nat) (r : Right) (s : State) : (imageFill ea n r s).mem = s.mem := by
  unfold imageFill
  split <;> simp

theorem imageAccess_mem {ea : Word} {n : Nat} {r : Right} {x : List ImageByte} {st : Stamp} (e : imageAccess ea n r s = .ok (x, st, t)) : t.mem = s.mem := by
  unfold imageAccess at e
  (repeat' split at e) <;> cases e
  exact (recordImage_mem ‹_›).trans (check_mem ‹_›)

@[simp] theorem putImage_wf (h : Memory.wf s.mem = true) (bs : List (ImageByte × Byte)) : Memory.wf (putImage bs s).mem = true := by
  induction bs generalizing s with
  | nil => exact h
  | cons b bs ih =>
    obtain ⟨b, x⟩ := b
    cases b with
    | window off => exact ih h
    | mem key => exact ih (setByte_wf h)

theorem execFitq_wf (h : Memory.wf s.mem = true) (sc : BitVec 2) (n : BitVec 4) (a d : Reg) : WfOut (execFitq sc n a d s) := by
  unfold execFitq
  split
  · simp [h]
  · refine checked_wf h _ _ ?_
    dsimp only
    split
    · simp [h]
    · split
      · simp [h]
      · split
        · simp [h]
        · refine afterOwn_wf h _ _ _ fun h => ?_
          split
          · exact trapAs_wf (by simp [h]) _
          · simp [putImage_wf ((congrArg Memory.wf (imageAccess_mem ‹_›)).trans h)]

theorem execFitw_wf (h : Memory.wf s.mem = true) (sc : BitVec 2) (n : BitVec 4) (a : Reg) (j : BitVec 5) : WfOut (execFitw sc n a j s) := by
  unfold execFitw
  split
  · simp [h]
  · refine checked_wf h _ _ (afterOwn_wf h _ _ _ fun h => ?_)
    split
    · exact trapAs_wf (by simp [h]) _
    · rename_i e
      have h1 := (congrArg Memory.wf (imageAccess_mem e)).trans h
      dsimp only
      split
      · simp [h1]
      · refine afterOwn_wf h1 _ _ _ fun h => ?_
        split
        · exact trapAs_wf (by simp [h]) _
        · simp [imageAccess_mem ‹_›, h]

@[simp] theorem execTrainingStep_wf (h : Memory.wf s.mem = true) (quad : Nat) (e : Nat) : WfOut (execTrainingStep quad e s) := by
  unfold execTrainingStep
  dsimp only
  (repeat' split) <;> simp [h]

theorem execSubstitutionOutputs_wf (h : Memory.wf s.mem = true) (quad i : Nat) : WfOut (execSubstitutionOutputs quad i s) := by
  unfold execSubstitutionOutputs
  dsimp only
  split
  · exact h
  · exact touchCtx_wf (by simp [h]) ..

end Sys2Proof.Proofs
end

section
/-! Canonical form: rights, regions and code segments. -/

namespace Sys2Proof.Proofs
open Sys2Proof Sys2Proof.Machine Sys2Proof.Claim

variable {s t : State}

@[simp] theorem dropPlb_mem (p : PlbEntry → Bool) (s : State) : (dropPlb p s).mem = s.mem := rfl

@[simp] theorem shootPlb_mem (id : BitVec 20) (s : State) : (shootPlb id s).mem = s.mem := rfl

@[simp] theorem removeEntries_wf (h : Memory.wf s.mem = true) (o : BitVec 12) (lo hi : Nat) (es : List RangeEntry) : Memory.wf (removeEntries o lo hi es s).mem = true :=
  foldl_wf (fun _ h => by simp [h]) (by simp [h]) _

theorem execGrant_wf (h : Memory.wf s.mem = true) (sc : BitVec 2) (a d : Reg) : WfOut (execGrant sc a d s) := by
  refine checked_wf h _ _ (withDescriptor_wf h _ _ _ fun x h => ?_)
  dsimp only
  refine checked_wf h _ _ ?_
  rw [wfOut_next, retire_mem, putG_mem]
  split
  · exact removeEntries_wf h ..
  · exact h

@[simp] theorem markOld_mem (id : BitVec 20) (s : State) : (markOld id s).mem = s.mem := rfl

@[simp] theorem revokeRegion_wf (h : Memory.wf s.mem = true) (id : BitVec 20) (free : Bool) : Memory.wf (revokeRegion id free s).mem = true := by
  unfold revokeRegion
  split <;> simp [h]

@[simp] theorem startShoot_mem (id : BitVec 20) (freed : Bool) (w : ShootFor) (s : State) : (startShoot id freed w s).mem = s.mem := rfl

@[simp] theorem answerRevoke_wf (h : Memory.wf s.mem = true) (ctx : BitVec 56) (d : Reg) (t : TokenName) (st : Word) : Memory.wf (answerRevoke ctx d t st s).mem = true := by simp [answerRevoke, h]

theorem execRevoke_wf (h : Memory.wf s.mem = true) (sc : BitVec 2) (k : BitVec 4) (free : BitVec 1) (a d : Reg) : WfOut (execRevoke sc k free a d s) := by
  refine withToken_wf h _ fun t => checked_wf h _ _ ?_
  dsimp only
  split
  · simp [h]
  · refine guardToken_wf h _ ?_
    split
    · exact answerRevoke_wf (by simp [h]) ..
    · rw [wfOut_next, startShoot_mem]
      exact revokeRegion_wf (by simp [h]) ..

@[simp] theorem finishCmd_mem (err : BitVec 3) (id : Option (BitVec 20)) (s : State) : (finishCmd err id s).mem = s.mem := rfl

@[simp] theorem endShoot_wf (h : Memory.wf s.mem = true) (x : Shoot) : Memory.wf (endShoot x s).mem = true := by
  unfold endShoot
  split <;> simp [h]

@[simp] theorem execShootdownComplete_wf (h : Memory.wf s.mem = true) (rgn : Nat) : WfOut (execShootdownComplete rgn s) := by
  unfold execShootdownComplete
  (repeat' split) <;> simp [h]

theorem execRtest_wf (h : Memory.wf s.mem = true) (sc : BitVec 2) (a d : Reg) : WfOut (execRtest sc a d s) := by
  refine checked_wf h _ _ ?_
  dsimp only
  split
  · simp [h]
  · refine checked_wf h _ _ ?_
    (repeat' split) <;> simp [h]

@[simp] theorem dropRights_wf (h : Memory.wf s.mem = true) (lo hi : Nat) : Memory.wf (dropRights lo hi s).mem = true :=
  foldl_wf (fun _ h => by simp [h]) (by simp [h]) _

theorem execRdrop_wf (h : Memory.wf s.mem = true) (sc : BitVec 2) (b a d : Reg) : WfOut (execRdrop sc b a d s) := by
  unfold execRdrop
  split
  · split <;> simp [h]
  · refine checked_wf h _ _ ?_
    dsimp only
    split
    · exact checked_wf h _ _ (by simp [h])
    · split
      · simp [h]
      · exact checked_wf h _ _ (by simp [h])

theorem regionCmd_wf (h : Memory.wf s.mem = true) (id : BitVec 20) {f : State → State} (hf : Memory.wf (f s).mem = true) : WfOut (regionCmd id s f) := by
  unfold regionCmd
  split
  · simp [h]
  · exact hf

theorem execRegionQuery_wf (h : Memory.wf s.mem = true) (id : BitVec 20) : WfOut (execRegionQuery id s) := regionCmd_wf h _ (by simp [h])

theorem execRegionPurge_wf (h : Memory.wf s.mem = true) (id : BitVec 20) : WfOut (execRegionPurge id s) := by
  refine regionCmd_wf h _ ?_
  dsimp only
  rw [finishCmd_mem, shootPlb_mem]
  refine foldl_wf (fun o h => ?_) h _
  exact ite_wf (setRangeTable_wf h ..) h

theorem execRegionFree_wf (h : Memory.wf s.mem = true) (id : BitVec 20) : WfOut (execRegionFree id s) := by
  refine regionCmd_wf h _ ?_
  dsimp only
  (repeat' split) <;> simp [h]

theorem execRegionAlloc_wf (h : Memory.wf s.mem = true) (id : BitVec 20) : WfOut (execRegionAlloc id s) := by
  refine regionCmd_wf h _ ?_
  dsimp only
  split
  · simp [h]
  · rw [finishCmd_mem]
    exact setRangeTable_wf (by simp [h]) ..

theorem execRegionRfree_wf (h : Memory.wf s.mem = true) (id : BitVec 20) : WfOut (execRegionRfree id s) := by
  refine regionCmd_wf h _ ?_
  dsimp only
  (repeat' split) <;> simp [h]

@[simp] theorem execOwnerPurge_wf (h : Memory.wf s.mem = true) (o : BitVec 12) : WfOut (execOwnerPurge o s) := by
  unfold execOwnerPurge
  split <;> simp [h]

@[simp] theorem execOwnerCreate_wf (h : Memory.wf s.mem = true) (o : BitVec 12) : WfOut (execOwnerCreate o s) := by
  unfold execOwnerCreate
  dsimp only
  (repeat' split) <;> simp [h]

@[simp] theorem execOwnerDelete_wf (h : Memory.wf s.mem = true) (o : BitVec 12) : WfOut (execOwnerDelete o s) := by
  unfold execOwnerDelete
  dsimp only
  (repeat' split) <;> simp [h]

@[simp] theorem execXltInv_wf (h : Memory.wf s.mem = true) (_x : BitVec 64) : WfOut (execXltInv _x s) := by simp [execXltInv, h]

@[simp] theorem execXltInvComplete_wf (h : Memory.wf s.mem = true) : WfOut (execXltInvComplete s) := by simp [execXltInvComplete, h]

@[simp] theorem jumpCode_wf (h : Memory.wf s.mem = true) (sc : BitVec 2) (c : Word) (d : Reg) : WfOut (jumpCode sc c d s) := by
  unfold jumpCode
  split
  · exact trapAs_wf h _
  · exact jumpLink_wf h ..

theorem execJfr_wf (h : Memory.wf s.mem = true) (sc : BitVec 2) (a d : Reg) : WfOut (execJfr sc a d s) := checked_wf h _ _ (jumpCode_wf h ..)

@[simp] theorem replacedSeg_mem (g : Seg) (page : BitVec 44) (s : State) : (replacedSeg g page s).mem = s.mem := by
  unfold replacedSeg
  (repeat' split) <;> simp

@[simp] theorem cfetchNow_wf (h : Memory.wf s.mem = true) (sc : BitVec 2) (t : TokenName) (seg : BitVec 4) (c : Word) (st : Stamp) : WfOut (cfetchNow sc t seg c st s) := by simp [cfetchNow, h]

theorem execCfetch_wf (h : Memory.wf s.mem = true) (sc : BitVec 2) (k : BitVec 4) (seg : BitVec 4) (a : Reg) : WfOut (execCfetch sc k seg a s) := by
  refine afterAcquire_wf h (withToken_wf h _ fun t => checked_wf h _ _ ?_)
  dsimp only
  split
  · exact trapAs_wf h _
  · split
    · exact trapAs_wf (by simp [h]) _
    · rename_i e
      have h1 := (congrArg Memory.wf (check_mem e)).trans h
      exact guardToken_wf h1 _ (cfetchNow_wf h1 ..)

theorem execCfetchCompletion_wf (h : Memory.wf s.mem = true) (u seg : Nat) : WfOut (execCfetchCompletion u seg s) := by
  unfold execCfetchCompletion
  split
  · exact h
  · split
    · simp [h]
    · exact wfOut_next.2 (postTo_wf (by simp [h, setBytes_wf]) ..)

theorem execCseg_wf (h : Memory.wf s.mem = true) (sc : BitVec 2) (inv : BitVec 1) (seg : BitVec 4) (d : Reg) : WfOut (execCseg sc inv seg d s) := by
  refine checked_wf h _ _ ?_
  dsimp only
  (repeat' split) <;> simp [h]

end Sys2Proof.Proofs
end

section
/-! Canonical form: the host's commands and its packets. -/

namespace Sys2Proof.Proofs
open Sys2Proof Sys2Proof.Machine Sys2Proof.Claim

variable {s t : State}

@[simp] theorem emit_mem (x : HostOut) (s : State) : (emit x s).mem = s.mem := rfl

@[simp] theorem respond_mem (ep : Nat) (c : HostCmd) (status : BitVec 8) (arg0 : Word) (arg1 : Word) (payload : List Byte) (s : State) : (respond ep c status arg0 arg1 payload s).mem = s.mem := rfl

@[simp] theorem answer_wf (h : Memory.wf s.mem = true) (ep : Nat) (c : HostCmd) (status : BitVec 8) : WfOut (answer ep c status s) := by simp [answer, h]

@[simp] theorem noteCommand_mem (ep : Nat) (id : BitVec 32) (s : State) : (noteCommand ep id s).mem = s.mem := rfl

theorem command_wf (h : Memory.wf s.mem = true) (op : BitVec 8) (lock : Bool) (ep : Nat) (c : HostCmd) {k : State → Machine.Out} (hk : ∀ {s}, Memory.wf s.mem = true → WfOut (k s)) :
    WfOut (command op lock ep c s k) := by
  have h1 : Memory.wf (noteCommand ep c.session s).mem = true := by simp [h]
  unfold command
  dsimp only
  refine ite_wfOut h (ite_wfOut (answer_wf h ..) (ite_wfOut (hk h) (ite_wfOut (answer_wf h ..) ?_)))
  exact ite_wfOut (answer_wf h1 ..) (ite_wfOut (answer_wf h1 ..) (hk h1))

@[simp] theorem execBadopCommand_wf (h : Memory.wf s.mem = true) (ep : Nat) (c : HostCmd) : WfOut (execBadopCommand ep c s) := by
  unfold execBadopCommand
  split <;> simp [h]

@[simp] theorem devPutBytes_wf (h : Memory.wf s.mem = true) (va : Nat) (bs : List Byte) : Memory.wf (devPutBytes s va bs).mem = true := by
  induction bs generalizing va s with
  | nil => exact h
  | cons b bs ih => exact ih (devPut_wf h ..) _

@[simp] theorem grantBundle_wf (h : Memory.wf s.mem = true) (o : BitVec 12) : Memory.wf (grantBundle o s).mem = true := by
  -- The kernel must not evaluate the decision, at a descriptor of 2^92 and more.
  obtain ⟨decide, hd⟩ : ∃ d, d = grantDecide := ⟨_, rfl⟩
  unfold grantBundle
  rw [← hd]
  have h1 := devPutBytes_wf h Config.certBundle.toNat (bundle s)
  dsimp only
  split
  · exact h1
  · split
    · exact removeEntries_wf h1 ..
    · exact h1

@[simp] theorem openSession_wf (h : Memory.wf s.mem = true) (ep : Nat) (c : HostCmd) : Memory.wf (openSession ep c s).mem = true := by
  unfold openSession
  dsimp only
  rw [respond_mem]
  exact grantBundle_wf (by simp [h]) _

theorem execHostOpen_wf (h : Memory.wf s.mem = true) (ep : Nat) (c : HostCmd) : WfOut (execHostOpen ep c s) := by
  refine command_wf h _ _ _ _ fun h => ?_
  dsimp only
  (repeat' split) <;> simp [h]

theorem execHostClose_wf (h : Memory.wf s.mem = true) (ep : Nat) (c : HostCmd) : WfOut (execHostClose ep c s) := command_wf h _ _ _ _ fun h => by simp [h]

theorem execHostLock_wf (h : Memory.wf s.mem = true) (ep : Nat) (c : HostCmd) : WfOut (execHostLock ep c s) := by
  refine command_wf h _ _ _ _ fun h => ?_
  dsimp only
  (repeat' split) <;> simp [h]

theorem execHostUnlock_wf (h : Memory.wf s.mem = true) (ep : Nat) (c : HostCmd) : WfOut (execHostUnlock ep c s) := command_wf h _ _ _ _ fun h => by simp [h]

@[simp] theorem execSessionTimeout_wf (h : Memory.wf s.mem = true) (ep : Nat) (sid : Nat) : WfOut (execSessionTimeout ep sid s) := by
  unfold execSessionTimeout
  (repeat' split) <;> simp [h]

@[simp] theorem execLockLeaseExpiry_wf (h : Memory.wf s.mem = true) (ep : Nat) : WfOut (execLockLeaseExpiry ep s) := by
  unfold execLockLeaseExpiry
  (repeat' split) <;> simp [h]

theorem onQueue_wf (h : Memory.wf s.mem = true) (ep : Nat) (c : HostCmd) (sts : List QueueState) {k : Nat → Queue → Machine.Out} (hk : ∀ v q, WfOut (k v q)) : WfOut (onQueue ep c sts s k) := by
  unfold onQueue
  dsimp only
  split
  · exact answer_wf h ..
  · split
    · exact answer_wf h ..
    · exact hk _ _

@[simp] theorem noteOwner_mem (v : Nat) (o : BitVec 12) (s : State) : (noteOwner v o s).mem = s.mem := rfl

@[simp] theorem clearStopWord_wf (h : Memory.wf s.mem = true) (q : Queue) : Memory.wf (clearStopWord q s).mem = true := by simp [clearStopWord, h]

theorem execHostQcreate_wf (h : Memory.wf s.mem = true) (ep : Nat) (c : HostCmd) : WfOut (execHostQcreate ep c s) := by
  refine command_wf h _ _ _ _ fun h => ?_
  dsimp only
  split
  · exact answer_wf h ..
  · exact answer_wf (clearStopWord_wf (by simp [h]) _) ..

theorem execHostQopen_wf (h : Memory.wf s.mem = true) (ep : Nat) (c : HostCmd) : WfOut (execHostQopen ep c s) :=
  command_wf h _ _ _ _ fun h => onQueue_wf h _ _ _ fun _ _ => answer_wf (clearStopWord_wf (setQueue_wf h ..) _) ..

theorem execHostQdestroy_wf (h : Memory.wf s.mem = true) (ep : Nat) (c : HostCmd) : WfOut (execHostQdestroy ep c s) :=
  command_wf h _ _ _ _ fun h => onQueue_wf h _ _ _ fun _ _ => answer_wf (setQueue_wf h ..) ..

theorem execHostQstat_wf (h : Memory.wf s.mem = true) (ep : Nat) (c : HostCmd) : WfOut (execHostQstat ep c s) :=
  command_wf h _ _ _ _ fun h => onQueue_wf h _ _ _ fun _ _ => by simp [h]

theorem execHostDrain_wf (h : Memory.wf s.mem = true) (ep : Nat) (c : HostCmd) : WfOut (execHostDrain ep c s) :=
  command_wf h _ _ _ _ fun h => onQueue_wf h _ _ _ fun _ _ => by simp [h]

theorem execHostReset_wf (h : Memory.wf s.mem = true) (ep : Nat) (c : HostCmd) : WfOut (execHostReset ep c s) :=
  command_wf h _ _ _ _ fun h => onQueue_wf h _ _ _ fun _ _ => by simp [h]

@[simp] theorem failPass_wf (h : Memory.wf s.mem = true) : Memory.wf (failPass s).mem = true := by
  refine foldl_wf (fun i h => ?_) h _
  split
  · exact ite_wf (cancelCard_wf h _) h
  · exact h

@[simp] theorem failAll_wf (h : Memory.wf s.mem = true) (n : Nat) : Memory.wf (failAll n s).mem = true := by
  induction n generalizing s with
  | zero => exact h
  | succ n ih => exact ih (failPass_wf h)

@[simp] theorem closeQueue_wf (h : Memory.wf s.mem = true) (v : Nat) (q : BitVec 8) : Memory.wf (closeQueue v q s).mem = true :=
  foldl_wf (fun _ h => by simp [h]) (setQueue_wf (failAll_wf (by simp [h]) _) ..) _

@[simp] theorem execDrainComplete_wf (h : Memory.wf s.mem = true) (v : Nat) (q : Nat) : WfOut (execDrainComplete v q s) := by
  unfold execDrainComplete
  dsimp only
  split <;> simp [h]

@[simp] theorem tearDescheduled_wf (h : Memory.wf s.mem = true) (v : Nat) (q : BitVec 8) : Memory.wf (tearDescheduled v q s).mem = true := by
  refine ite_wf h (foldl_wf (fun k h => ?_) h _)
  refine ite_wf h ?_
  split <;> simp [h]

@[simp] theorem execResetComplete_wf (h : Memory.wf s.mem = true) (v : Nat) (q : Nat) : WfOut (execResetComplete v q s) := by
  unfold execResetComplete
  dsimp only
  (repeat' split) <;> simp [h]

@[simp] theorem takeGroups_wf (h : Memory.wf s.mem = true) (l : Nat) (o : BitVec 12) (a : Nat) : Memory.wf (takeGroups l o a s).mem = true := by
  unfold takeGroups
  generalize (if a = 0 then none else hubRead s o a 4096) = r
  split
  · exact h
  · exact foldl_wf (fun g h => by simp [h]) (touchPage_wf h ..) _

@[simp] theorem launchNow_wf (h : Memory.wf s.mem = true) (ep : Nat) (c : HostCmd) (v : Nat) (q : Queue) : Memory.wf (launchNow ep c v q s).mem = true := by
  unfold launchNow
  extract_lets tail l hub s1 s2 cs js s3 x m s4 bad first
  have h1 : Memory.wf s1.mem = true := setQueue_wf h ..
  have h2 : Memory.wf s2.mem = true := takeGroups_wf h1 ..
  have h3 : Memory.wf s3.mem = true := writeCards_wf (joinCards_wf h2 ..) ..
  clear_value s3 js first bad m
  simp [s4, h3]

theorem execHostLaunch_wf (h : Memory.wf s.mem = true) (ep : Nat) (c : HostCmd) : WfOut (execHostLaunch ep c s) := by
  refine command_wf h _ _ _ _ fun h => onQueue_wf h _ _ _ fun v q => ?_
  dsimp only
  split
  · exact answer_wf h ..
  · exact launchNow_wf h ..

theorem execHostKeyload_wf (h : Memory.wf s.mem = true) (ep : Nat) (c : HostCmd) : WfOut (execHostKeyload ep c s) := by
  refine command_wf h _ _ _ _ fun h => ?_
  dsimp only
  split
  · exact answer_wf h ..
  · split
    · exact answer_wf h ..
    · split
      · exact answer_wf h ..
      · exact answer_wf (by simp [h]) ..

theorem execHostEvidence_wf (h : Memory.wf s.mem = true) (ep : Nat) (c : HostCmd) : WfOut (execHostEvidence ep c s) := by
  refine command_wf h _ _ _ _ fun h => ?_
  split
  · exact answer_wf h ..
  · simp [h]

@[simp] theorem createVdev_wf (h : Memory.wf s.mem = true) (v : Nat) (d : Vdev) : Memory.wf (createVdev v d s).mem = true := filter_wf h _

theorem execHostVcreate_wf (h : Memory.wf s.mem = true) (ep : Nat) (c : HostCmd) : WfOut (execHostVcreate ep c s) := by
  refine command_wf h _ _ _ _ fun h => ?_
  dsimp only
  split
  · exact answer_wf h ..
  · exact answer_wf (createVdev_wf h ..) ..

theorem execHostVdestroy_wf (h : Memory.wf s.mem = true) (ep : Nat) (c : HostCmd) : WfOut (execHostVdestroy ep c s) := by
  refine command_wf h _ _ _ _ fun h => ?_
  dsimp only
  refine ite_wfOut (answer_wf h ..) ?_
  simp [h]

theorem rmaByte_wf (h : Memory.wf s.mem = true) {o : BitVec 12} {a k : Nat} {write : Bool} (e : rmaByte o a write s = .ok (k, t)) : Memory.wf t.mem = true := by
  unfold rmaByte at e
  (repeat' split at e) <;> cases e
  exact touchPage_wf ((congrArg Memory.wf (recordAccess_mem ‹_›)).trans h) ..

theorem rmaPut_wf (h : Memory.wf s.mem = true) (o : BitVec 12) (a : Nat) (bs : List Byte) : Memory.wf (rmaPut o a bs s).2.mem = true := by
  induction bs generalizing a s with
  | nil => exact h
  | cons b bs ih =>
    rw [rmaPut]
    split
    · simp [h]
    · exact ih (setByte_wf (rmaByte_wf h ‹_›)) _

theorem rmaGet_wf (h : Memory.wf s.mem = true) (o : BitVec 12) (a n : Nat) : Memory.wf (rmaGet o a n s).2.mem = true := by
  induction n generalizing a s with
  | zero => exact h
  | succ n ih =>
    rw [rmaGet]
    split
    · simp [h]
    · have h2 := ih (rmaByte_wf h ‹_›) (a + 1)
      split <;> rename_i e <;> rw [e] at h2 <;> exact h2

theorem rma_wf (h : Memory.wf s.mem = true) (ep n : Nat) {k : BitVec 12 → State → State} (hk : ∀ o, Memory.wf (k o s).mem = true) : WfOut (rma ep n s k) := by
  unfold rma
  (repeat' split) <;> simp [h, hk]

theorem execRmaWrite_wf (h : Memory.wf s.mem = true) (ep : Nat) (va : BitVec 64) (bytes : List Byte) : WfOut (execRmaWrite ep va bytes s) := by
  refine rma_wf h _ _ fun o => ?_
  have h1 := rmaPut_wf h o va.toNat bytes
  split <;> rename_i e <;> rw [e] at h1 <;> exact h1

theorem execRmaRead_wf (h : Memory.wf s.mem = true) (ep : Nat) (va : BitVec 64) (n : Nat) : WfOut (execRmaRead ep va n s) := by
  refine rma_wf h _ _ fun o => ?_
  have h1 := rmaGet_wf h o va.toNat n
  split <;> rename_i e <;> rw [e] at h1 <;> exact h1

@[simp] theorem execUnsupportedPacket_wf (h : Memory.wf s.mem = true) (ep : Nat) (kind : PacketKind) : WfOut (execUnsupportedPacket ep kind s) := by
  unfold execUnsupportedPacket
  split <;> simp [h]

end Sys2Proof.Proofs
end

section
/-! Canonical form: boot, links and the hart. -/

namespace Sys2Proof.Proofs
open Sys2Proof Sys2Proof.Machine Sys2Proof.Claim

variable {s t : State}

@[simp] theorem unpowered_wf (h : Memory.wf s.mem = true) : Memory.wf (unpowered s).mem = true := filter_wf h _

@[simp] theorem execPowerOff_wf (h : Memory.wf s.mem = true) : WfOut (execPowerOff s) := by simp [execPowerOff, h]

@[simp] theorem failBoot_mem (err : BitVec 8) (s : State) : (failBoot err s).mem = s.mem := rfl

@[simp] theorem loadRam_mem (h : Fin 4) (image : List Byte) (s : State) : (loadRam h image s).mem = s.mem := rfl

@[simp] theorem recoveryBoot_mem (s : State) : (recoveryBoot s).mem = s.mem := by
  unfold recoveryBoot
  split <;> simp

@[simp] theorem enterStage1_mem (uds : List Byte) (s : State) : (enterStage1 uds s).mem = s.mem := by
  unfold enterStage1
  split <;> simp

@[simp] theorem normalBoot_mem (e : Nat × Nat × Nat) (s : State) : (normalBoot e s).mem = s.mem := by
  unfold normalBoot
  dsimp only
  split <;> simp

@[simp] theorem execPowerUp_wf (h : Memory.wf s.mem = true) (recov : Bool) : WfOut (execPowerUp recov s) := by
  unfold execPowerUp
  dsimp only
  (repeat' split) <;> simp [h]

@[simp] theorem execBootSetWrite_wf (h : Memory.wf s.mem = true) (hart : Nat) (x : BitVec 64) : WfOut (execBootSetWrite hart x s) := by
  unfold execBootSetWrite
  dsimp only
  (repeat' split) <;> simp [h]

@[simp] theorem placeImages_wf (h : Memory.wf s.mem = true) (buf : Nat) (es : List (Nat × Nat × Nat)) : Memory.wf (placeImages buf es s).mem = true := by
  refine foldl_wf (fun {s} e h => ?_) h _
  split
  · exact h
  · exact ite_wf (setBytes_wf h) h

@[simp] theorem stage1_wf (h : Memory.wf s.mem = true) : Memory.wf (stage1 s).mem = true := by
  unfold stage1
  dsimp only
  split <;> simp [h]

@[simp] theorem releaseHarts_mem (x : BitVec 4) (s : State) : (releaseHarts x s).mem = s.mem := by
  unfold releaseHarts
  split <;> simp

theorem execHartRun_wf (h : Memory.wf s.mem = true) (hart : Nat) (x : BitVec 64) : WfOut (execHartRun hart x s) := by
  have h1 := stage1_wf h
  unfold execHartRun
  generalize stage1 s = s1 at h1
  exact ite_wfOut (ite_wfOut (ite_wfOut h1 (by simp [h1])) (by simp [h])) h

@[simp] theorem execPufLock_wf (h : Memory.wf s.mem = true) (x : BitVec 64) : WfOut (execPufLock x s) := by simp [execPufLock, h]

theorem execCoreRel_wf (h : Memory.wf s.mem = true) (x : BitVec 64) : WfOut (execCoreRel x s) := by
  refine ite_wfOut h ?_
  exact foldl_wf (fun u h => by simp [h]) (by exact h) _

@[simp] theorem enrol_wf (h : Memory.wf s.mem = true) : Memory.wf (enrol s).mem = true := by
  unfold enrol
  extract_lets b off i ended entry
  have h1 : Memory.wf ended = true := by
    unfold ended
    split
    · exact setLe_wf h ..
    · exact h
  have h2 : Memory.wf entry = true := setBytes_wf (setBytes_wf h1)
  clear_value entry
  split
  · exact h
  · exact h2

@[simp] theorem execFpData_wf (h : Memory.wf s.mem = true) (x : BitVec 64) : WfOut (execFpData x s) := by
  unfold execFpData
  dsimp only
  split <;> simp [h, setLe_wf]

theorem execFpErase_wf (h : Memory.wf s.mem = true) : WfOut (execFpErase s) := by
  unfold execFpErase
  generalize List.replicate 4096 Config.erasedByte = bs
  dsimp only
  split
  · exact h
  · simp [setBytes_wf h]

@[simp] theorem execFpBusyClear_wf (h : Memory.wf s.mem = true) : WfOut (execFpBusyClear s) := by simp [execFpBusyClear, h]

@[simp] theorem execLkey_wf (h : Memory.wf s.mem = true) (link : HartWrite 8) : WfOut (execLkey link s) := by
  unfold execLkey
  split <;> simp [h]

@[simp] theorem raiseH1_mem (s : State) : (raiseH1 s).mem = s.mem := rfl

@[simp] theorem execLkeyDone_wf (h : Memory.wf s.mem = true) : WfOut (execLkeyDone s) := by
  unfold execLkeyDone
  dsimp only
  (repeat' split) <;> simp [h]

@[simp] theorem execSeLrootWrite_wf (h : Memory.wf s.mem = true) (x : HartWrite 256) : WfOut (execSeLrootWrite x s) := by
  unfold execSeLrootWrite
  split <;> simp [h]

@[simp] theorem countSealed_mem (p : Nat) (t : Traffic) (k : Nat) (s : State) : (countSealed p t k s).mem = s.mem := by
  unfold countSealed
  dsimp only
  (repeat' split) <;> simp

theorem sealPacket_mem {p : Nat} {tr : Traffic} {flits : List (List Byte)} {bs : List Byte} (e : sealPacket p tr flits s = some (bs, t)) : t.mem = s.mem := by
  unfold sealPacket at e
  split at e <;> cases e
  · exact countSealed_mem ..
  · rfl

@[simp] theorem flitsArrive_mem (s : State) : (flitsArrive s).mem = s.mem := rfl

@[simp] theorem takeDown_mem (l : Nat) (s : State) : (takeDown l s).mem = s.mem := by
  unfold takeDown
  split <;> simp

@[simp] theorem execLinkRekey_wf (h : Memory.wf s.mem = true) (link : Nat) (dir : Nat) : WfOut (execLinkRekey link dir s) := by
  unfold execLinkRekey
  split <;> simp [h]

@[simp] theorem execLinkTagMismatch_wf (h : Memory.wf s.mem = true) (link : Nat) : WfOut (execLinkTagMismatch link s) := by
  unfold execLinkTagMismatch
  dsimp only
  (repeat' split) <;> simp [h]

@[simp] theorem raiseH3_mem (there : Bool) (s : State) : (raiseH3 there s).mem = s.mem := by
  unfold raiseH3
  split <;> simp

@[simp] theorem stopBoot_mem (err : BitVec 8) (s : State) : (stopBoot err s).mem = s.mem := by
  unfold stopBoot
  split <;> simp

@[simp] theorem judgeStep_mem (fail : BitVec 32) (s : State) : (judgeStep fail s).mem = s.mem := by
  unfold judgeStep
  (repeat' split) <;> simp

@[simp] theorem modMc_mem (n : Nat) (f : MemCtl → MemCtl) (s : State) : (modMc n f s).mem = s.mem := by
  unfold modMc
  split <;> simp

@[simp] theorem execMcPower_wf (h : Memory.wf s.mem = true) (n : Nat) : WfOut (execMcPower n s) := by simp [execMcPower, h]

@[simp] theorem execMcPwrok_wf (h : Memory.wf s.mem = true) (n : Nat) : WfOut (execMcPwrok n s) := by
  unfold execMcPwrok
  split <;> simp [h]

@[simp] theorem execMcLaneRepair_wf (h : Memory.wf s.mem = true) (n : Nat) : WfOut (execMcLaneRepair n s) := by simp [execMcLaneRepair, h]

@[simp] theorem execMcCaTraining_wf (h : Memory.wf s.mem = true) (n : Nat) : WfOut (execMcCaTraining n s) := by simp [execMcCaTraining, h]

@[simp] theorem execMcReadTraining_wf (h : Memory.wf s.mem = true) (n : Nat) : WfOut (execMcReadTraining n s) := by simp [execMcReadTraining, h]

@[simp] theorem execMcWriteTraining_wf (h : Memory.wf s.mem = true) (n : Nat) : WfOut (execMcWriteTraining n s) := by simp [execMcWriteTraining, h]

@[simp] theorem execMcEyeCentring_wf (h : Memory.wf s.mem = true) (n : Nat) : WfOut (execMcEyeCentring n s) := by simp [execMcEyeCentring, h]

@[simp] theorem execMcRefreshSetup_wf (h : Memory.wf s.mem = true) (n : Nat) : WfOut (execMcRefreshSetup n s) := by simp [execMcRefreshSetup, h]

@[simp] theorem execMcStepComplete_wf (h : Memory.wf s.mem = true) (n : Nat) (pass : Bool) (fail : BitVec 32) (lanes : BitVec 16) : WfOut (execMcStepComplete n pass fail lanes s) := by
  unfold execMcStepComplete
  (repeat' split) <;> simp [h]

@[simp] theorem execMcEnable_wf (h : Memory.wf s.mem = true) (n : Nat) : WfOut (execMcEnable n s) := by simp [execMcEnable, h]

@[simp] theorem execMcActive_wf (h : Memory.wf s.mem = true) (n : Nat) : WfOut (execMcActive n s) := by
  unfold execMcActive
  split <;> simp [h]

@[simp] theorem modUl_mem (l : Nat) (f : UcieLink → UcieLink) (s : State) : (modUl l f s).mem = s.mem := by
  unfold modUl
  split <;> simp

@[simp] theorem execUlSideband_wf (h : Memory.wf s.mem = true) (l : Nat) : WfOut (execUlSideband l s) := by simp [execUlSideband, h]

@[simp] theorem execUlSbup_wf (h : Memory.wf s.mem = true) (l : Nat) : WfOut (execUlSbup l s) := by
  unfold execUlSbup
  split <;> simp [h]

@[simp] theorem execUlTrain_wf (h : Memory.wf s.mem = true) (l : Nat) : WfOut (execUlTrain l s) := by simp [execUlTrain, h]

@[simp] theorem execUlActive_wf (h : Memory.wf s.mem = true) (l : Nat) (lanes : BitVec 8) (repaired : BitVec 8) : WfOut (execUlActive l lanes repaired s) := by
  unfold execUlActive
  dsimp only
  (repeat' split) <;> simp [h]

@[simp] theorem execUlEnable_wf (h : Memory.wf s.mem = true) (l : Nat) : WfOut (execUlEnable l s) := by simp [execUlEnable, h]

@[simp] theorem modPort_mem (p : Nat) (f : Port → Port) (s : State) : (modPort p f s).mem = s.mem := by
  unfold modPort
  split <;> simp

@[simp] theorem execPtPll_wf (h : Memory.wf s.mem = true) (p : Nat) : WfOut (execPtPll p s) := by simp [execPtPll, h]

@[simp] theorem execPtPlllock_wf (h : Memory.wf s.mem = true) (p : Nat) : WfOut (execPtPlllock p s) := by
  unfold execPtPlllock
  split <;> simp [h]

@[simp] theorem execPtTxen_wf (h : Memory.wf s.mem = true) (p : Nat) : WfOut (execPtTxen p s) := by simp [execPtTxen, h]

@[simp] theorem execPtLinkTraining_wf (h : Memory.wf s.mem = true) (p : Nat) : WfOut (execPtLinkTraining p s) := by simp [execPtLinkTraining, h]

@[simp] theorem execPtLtdone_wf (h : Memory.wf s.mem = true) (p : Nat) (cdr : BitVec 8) : WfOut (execPtLtdone p cdr s) := by
  unfold execPtLtdone
  split <;> simp [h]

@[simp] theorem execPtFeclock_wf (h : Memory.wf s.mem = true) (p : Nat) : WfOut (execPtFeclock p s) := by
  unfold execPtFeclock
  split <;> simp [h]

@[simp] theorem execPtMac_wf (h : Memory.wf s.mem = true) (p : Nat) : WfOut (execPtMac p s) := by simp [execPtMac, h]

@[simp] theorem execPtUp_wf (h : Memory.wf s.mem = true) (p : Nat) : WfOut (execPtUp p s) := by
  unfold execPtUp
  split <;> simp [h]

@[simp] theorem execPtFecRead_wf (h : Memory.wf s.mem = true) (p : Nat) : WfOut (execPtFecRead p s) := by
  unfold execPtFecRead
  split <;> simp [h]

@[simp] theorem execPortRetry_wf (h : Memory.wf s.mem = true) (p : Nat) : WfOut (execPortRetry p s) := by simp [execPortRetry, h]

@[simp] theorem execPairKeyExchange_wf (h : Memory.wf s.mem = true) (p : PortPeer) : WfOut (execPairKeyExchange p s) := by
  unfold execPairKeyExchange
  split <;> simp [h]

end Sys2Proof.Proofs
end

section
/-! Canonical form: the firmware's registers and its jobs. -/

namespace Sys2Proof.Proofs
open Sys2Proof Sys2Proof.Machine Sys2Proof.Claim

variable {s t : State}

@[simp] theorem regionCommand_wf (h : Memory.wf s.mem = true) (x : BitVec 64) : WfOut (regionCommand x s) := by
  unfold regionCommand
  extract_lets hub rights s0 id o
  have h0 : Memory.wf s0.mem = true := h
  clear_value s0
  split
  · exact execRegionQuery_wf h0 _
  · exact execRegionPurge_wf h0 _
  · exact execRegionFree_wf h0 _
  · exact execRegionAlloc_wf h0 _
  · exact execRegionRfree_wf h0 _
  · exact execOwnerPurge_wf h0 _
  · exact execOwnerCreate_wf h0 _
  · exact execOwnerDelete_wf h0 _
  · exact h0

@[simp] theorem writeRights_wf (h : Memory.wf s.mem = true) (off : Nat) (x : BitVec 64) : WfOut (writeRights off x s) := by
  unfold writeRights
  extract_lets r hub put
  have hp : ∀ r, WfOut (put r) := fun _ => h
  clear_value put
  split
  iterate 4 exact ite_wfOut h (hp _)
  · exact execXltInv_wf h _
  · exact regionCommand_wf h _
  · exact hp _
  · exact hp _
  · exact h

@[simp] theorem drainEvents_wf (h : Memory.wf s.mem = true) (p : BitVec 3) (es : List (BitVec 128)) : Memory.wf (drainEvents p es s).mem = true := by
  induction es generalizing s with
  | nil => exact h
  | cons e es ih => exact ite_wf (by simp [h]) (ih (writeEvent_wf h ..))

@[simp] theorem drainRing_wf (h : Memory.wf s.mem = true) (p : BitVec 3) : Memory.wf (drainRing p s).mem = true := by simp [drainRing, h]

@[simp] theorem writeDispatch_wf (h : Memory.wf s.mem = true) (off : Nat) (x : BitVec 64) : WfOut (writeDispatch off x s) := by
  unfold writeDispatch
  (repeat' split) <;> simp [h]

@[simp] theorem writeHints_wf (h : Memory.wf s.mem = true) (off : Nat) (x : BitVec 64) : WfOut (writeHints off x s) := by
  unfold writeHints
  split <;> simp [h]

@[simp] theorem writeStack_wf (h : Memory.wf s.mem = true) (off : Nat) (x : BitVec 64) : WfOut (writeStack off x s) := by
  unfold writeStack
  dsimp only
  refine ite_wfOut h (ite_wfOut ?_ h)
  split
  iterate 5 exact stackGo_wf h ..
  exact h

@[simp] theorem writeDuty_wf (h : Memory.wf s.mem = true) (die : Nat) (x : BitVec 64) : WfOut (writeDuty die x s) := by simp [writeDuty, h]

@[simp] theorem stopCommand_wf (h : Memory.wf s.mem = true) (p : Nat) (x : BitVec 64) : WfOut (stopCommand p x s) := by
  unfold stopCommand
  split
  · exact execStopArm_wf h ..
  · exact execStopCancel_wf h ..
  · exact execStopResume_wf h ..
  · exact h

theorem stateOf_wf (h : Memory.wf s.mem = true) {o : Machine.Out} (ho : WfOut o) : Memory.wf (stateOf s o).mem = true := by
  unfold stateOf
  split
  · exact ho
  · exact h

@[simp] theorem restoreCards_wf (h : Memory.wf s.mem = true) (a n : Nat) : Memory.wf (restoreCards a s n).mem = true := by
  induction n with
  | zero => exact h
  | succ n ih => exact (congrArg Memory.wf (modCard_mem ..)).trans ih

@[simp] theorem writeWords_wf (h : Memory.wf s.mem = true) (p : BitVec 3) (v : Nat) : Memory.wf (writeWords p v s).mem = true := by
  unfold writeWords
  exact foldl_wf (fun u h => stateOf_wf h (execPwSetWrite_wf h ..)) h _

@[simp] theorem setColour_wf (h : Memory.wf s.mem = true) (p : BitVec 3) (c : BitVec 6) : Memory.wf (setColour p c s).mem = true := by
  unfold setColour
  dsimp only
  refine foldl_wf (fun {s} e h => ?_) ?_ _
  · obtain ⟨v, d⟩ := e
    dsimp only
    refine ite_wf h (ite_wf (ite_wf h ?_) (ite_wf ?_ h))
    · exact writeWords_wf (restoreCards_wf h ..) ..
    · dsimp only
      exact setBytes_wf h
  · simp [h]

@[simp] theorem writeStop_wf (h : Memory.wf s.mem = true) (p : Nat) (off : Nat) (x : BitVec 64) : WfOut (writeStop p off x s) := by
  unfold writeStop
  dsimp only
  (repeat' split) <;> simp [h]

@[simp] theorem writeWatchdog_wf (h : Memory.wf s.mem = true) (off : Nat) (x : BitVec 64) : WfOut (writeWatchdog off x s) := by
  unfold writeWatchdog
  split <;> simp [h]

@[simp] theorem writeHaltGroup_wf (h : Memory.wf s.mem = true) (g : Nat) (x : BitVec 64) : WfOut (writeHaltGroup g x s) := by
  unfold writeHaltGroup
  extract_lets hg s1
  have h1 : Memory.wf s1.mem = true := h
  clear_value s1
  exact ite_wfOut (execHgHalt_wf h1 _) (ite_wfOut (execHgResume_wf h1 _) h1)

@[simp] theorem writeDebug_wf (h : Memory.wf s.mem = true) (off : Nat) (x : BitVec 64) : WfOut (writeDebug off x s) := by
  unfold writeDebug
  (repeat' split) <;> simp [h]

@[simp] theorem writeAcct_wf (h : Memory.wf s.mem = true) (off : Nat) (x : BitVec 64) : WfOut (writeAcct off x s) := by
  unfold writeAcct
  (repeat' split) <;> simp [h]

@[simp] theorem execAcctERead_wf (h : Memory.wf s.mem = true) (v : Nat) : WfOut (execAcctERead v s) := by simp [execAcctERead, h]

@[simp] theorem execAcctLateRead_wf (h : Memory.wf s.mem = true) (v : Nat) : WfOut (execAcctLateRead v s) := by simp [execAcctLateRead, h]

@[simp] theorem writeMc_wf (h : Memory.wf s.mem = true) (n : Nat) (off : Nat) (x : BitVec 64) : WfOut (writeMc n off x s) := by
  unfold writeMc
  (repeat' split) <;> simp [h]

@[simp] theorem writeUl_wf (h : Memory.wf s.mem = true) (l : Nat) (off : Nat) (x : BitVec 64) : WfOut (writeUl l off x s) := by
  unfold writeUl
  split <;> simp [h]

@[simp] theorem writePort_wf (h : Memory.wf s.mem = true) (p : Nat) (off : Nat) (x : BitVec 64) : WfOut (writePort p off x s) := by
  unfold writePort
  split <;> simp [h]

@[simp] theorem writePhysical_wf (h : Memory.wf s.mem = true) (a : Nat) (x : BitVec 64) : Memory.wf (writePhysical a x s).mem = true := by simp [writePhysical, h, setLe_wf]

@[simp] theorem writeBlock_wf (h : Memory.wf s.mem = true) (o : Nat) (x : BitVec 64) : WfOut (writeBlock o x s) := by
  unfold writeBlock
  iterate 10 refine ite_wfOut (by simp [h]) ?_
  refine ite_wfOut (by simp [h]) (ite_wfOut (by simp [h]) (ite_wfOut (execCoreRel_wf h _) ?_))
  refine ite_wfOut (ite_wfOut (by simp [h]) h) (ite_wfOut (by simp [h]) (ite_wfOut (execFpErase_wf h) ?_))
  exact ite_wfOut (by simp [h]) (ite_wfOut (by simp [h]) (ite_wfOut (by simp [h]) h))

@[simp] theorem execRegisterWrite_wf (h : Memory.wf s.mem = true) (addr : BitVec 64) (x : BitVec 64) : WfOut (execRegisterWrite addr x s) := by
  unfold execRegisterWrite
  dsimp only
  (repeat' split) <;> simp [h]

@[simp] theorem addJob_mem (j : Job) (s : State) : (addJob j s).mem = s.mem := rfl

theorem resetStep_wf (h : Memory.wf s.mem = true) (v : Nat) (q : BitVec 8) (st : ResetStage) : Memory.wf (resetStep v q st s).2.mem = true := by
  unfold resetStep
  cases st with
  | arm =>
    refine ite_wf_snd h (ite_wf_snd h (ite_wf_snd h ?_))
    exact stateOf_wf h (execStopArm_wf (by simp [h]) ..)
  | poll =>
    refine ite_wf_snd h (ite_wf_snd ?_ (ite_wf_snd h h))
    exact stateOf_wf h (execStopResume_wf h ..)
  | close => exact stateOf_wf h (execResetComplete_wf h ..)

@[simp] theorem dropParked_wf (h : Memory.wf s.mem = true) (c : BitVec 6) : Memory.wf (dropParked c s).mem = true := by
  unfold dropParked
  simp [h]

@[simp] theorem grantReport_wf (h : Memory.wf s.mem = true) (id : BitVec 20) (o : BitVec 12) : Memory.wf (grantReport id s o).mem = true := by
  -- The kernel must not evaluate the decision, at a descriptor of 2^92 and more.
  obtain ⟨decide, hd⟩ : ∃ d, d = grantDecide := ⟨_, rfl⟩
  generalize hf : grantReport = f
  delta grantReport at hf
  rw [← hd] at hf
  subst hf
  dsimp only
  split
  · exact removeEntries_wf h ..
  · exact h

theorem allocReport_wf (h : Memory.wf s.mem = true) (n : Nat) (os : List (BitVec 12)) : Memory.wf (allocReport n os s).2.mem = true := by
  unfold allocReport
  extract_lets g s1
  have h1 : Memory.wf s1.mem = true := h
  clear_value s1
  split
  · exact h1
  · rename_i id _
    have h2 : ∀ {u : State}, Memory.wf u.mem = true → Memory.wf (stateOf u (execRegionAlloc id u)).mem = true := fun hu => stateOf_wf hu (execRegionAlloc_wf hu _)
    dsimp only
    refine ite_wf_snd (h2 ?_) (foldl_wf (fun o h => grantReport_wf h id o) (h2 ?_) _) <;> exact h1

@[simp] theorem clearDirty_wf (h : Memory.wf s.mem = true) (ds : List (Leaf × Nat × Nat)) : Memory.wf (clearDirty ds s).mem = true :=
  foldl_wf (fun _ h => setByte_wf h) h _

theorem reportDirty_wf (h : Memory.wf s.mem = true) (v : Nat) : Memory.wf (reportDirty v s).2.2.mem = true := by
  unfold reportDirty
  extract_lets ds bs
  have h1 := allocReport_wf h bs.length (((vdevQueues s v).map fun e => e.2.owner).dedup)
  generalize allocReport bs.length (((vdevQueues s v).map fun e => e.2.owner).dedup) s = r at h1
  obtain ⟨a, s1⟩ := r
  exact clearDirty_wf (ite_wf h1 (devPutBytes_wf h1 ..)) _

@[simp] theorem putStopWords_wf (h : Memory.wf s.mem = true) (v report : Nat) : Memory.wf (putStopWords v report s).mem = true :=
  foldl_wf (fun _ h => devPut_wf h ..) h _

@[simp] theorem beginRetire_wf (h : Memory.wf s.mem = true) (v : Nat) : Memory.wf (beginRetire v s).mem = true :=
  ite_wf (foldl_wf (fun _ h => beginReset_wf h ..) h _) h

theorem sweepRegion_wf (h : Memory.wf s.mem = true) (id : BitVec 20) : Memory.wf (sweepRegion id s).2.mem = true := by
  unfold sweepRegion
  extract_lets s1 s2 s3
  have h1 : Memory.wf s1.mem = true := stateOf_wf h (execRegionQuery_wf h _)
  have h2 : Memory.wf s2.mem = true := stateOf_wf h1 (execRegionPurge_wf h1 _)
  have h3 : Memory.wf s3.mem = true := stateOf_wf h2 (execRegionFree_wf h2 _)
  exact ite_wf_snd h1 (ite_wf_snd h1 h3)

theorem deleteOwners_wf (h : Memory.wf s.mem = true) (os : List (BitVec 12)) : Memory.wf (deleteOwners os s).2.mem = true := by
  refine ite_wf_snd h ?_
  exact foldl_wf (fun o h => stateOf_wf h (execOwnerDelete_wf h o)) (foldl_wf (fun o h => stateOf_wf h (execOwnerPurge_wf h o)) h _) _

@[simp] theorem finishDestroy_mem (v : Nat) (cmds : List (Nat × HostCmd)) (s : State) : (finishDestroy v cmds s).mem = s.mem := by
  unfold finishDestroy
  refine (foldl_mem ?_ _ _).trans ?_
  · intros
    rfl
  · rfl

theorem retireStep_wf (h : Memory.wf s.mem = true) (v : Nat) (cmds : List (Nat × HostCmd)) (st : RetireStage) : Memory.wf (retireStep v cmds st s).2.mem = true := by
  unfold retireStep
  split
  · have h1 : Memory.wf (if (vdevOf s v).resident then s else dropParked (vdevOf s v).colour s).mem = true := ite_wf h (dropParked_wf h _)
    exact ite_wf_snd h1 h1
  · exact reportDirty_wf h v
  · exact ite_wf_snd h (stateOf_wf h (execXltInv_wf h _))
  · exact ite_wf_snd h (putStopWords_wf h ..)
  · exact h
  · split
    · exact stateOf_wf h (execRegionRfree_wf h _)
    · exact h
    · exact h
  · exact h
  · exact sweepRegion_wf h _
  · exact deleteOwners_wf h _
  · exact (congrArg Memory.wf (finishDestroy_mem ..)).trans h

theorem stepJob_wf (h : Memory.wf s.mem = true) (j : Job) : Memory.wf (stepJob j s).2.mem = true := by
  cases j with
  | reset v q st => exact resetStep_wf h v q st
  | enrol => exact enrol_wf h
  | retire v cs st => exact retireStep_wf h v cs st

theorem runJobs_wf (h : Memory.wf s.mem = true) (js : List Job) : Memory.wf (runJobs js s).mem = true := by
  induction js generalizing s with
  | nil => exact h
  | cons j js ih =>
    have h1 := stepJob_wf h j
    refine ih ?_
    split
    · exact h1
    · exact h1

@[simp] theorem takeDecision_wf (h : Memory.wf s.mem = true) (d : Decision) : Memory.wf (decide_ s d).mem = true := by
  unfold decide_
  (repeat' split) <;> simp [h]

@[simp] theorem createRegion0_wf (h : Memory.wf s.mem = true) : Memory.wf (createRegion0 s).mem = true :=
  setRangeTable_wf (setRegion_wf (ite_wf h (setOwnerDesc_wf h ..)) ..) ..

@[simp] theorem firmware_wf (h : Memory.wf s.mem = true) : Memory.wf (firmware s).mem = true := by
  refine runJobs_wf ?_ _
  refine foldl_wf (fun d h => takeDecision_wf h d) ?_ _
  exact ite_wf (createRegion0_wf h) h

theorem execIssueCycle_wf (h : Memory.wf s.mem = true) : WfOut (execIssueCycle s) := by
  refine firmware_wf ?_
  refine deadlockAll_wf (watchAll_wf ?_)
  exact foldl_wf (fun u h => finishDivides_wf h u _) (by exact h) _

end Sys2Proof.Proofs
end

section
/-! Canonical form: every instruction and event, every action of a unit, and the step. -/

namespace Sys2Proof.Proofs
open Sys2Proof Sys2Proof.Machine Sys2Proof.Claim

variable {s t : State}

theorem execLdv_wf (h : Memory.wf s.mem = true) (sc : BitVec 2) (k : BitVec 4) (imm : BitVec 6) (a d : Reg) : WfOut (execLdv sc k imm a d s) := loadInstr_wf h _ _ _ (retire_mem sc)

theorem execCLdd_wf (h : Memory.wf s.mem = true) (r r2 : BitVec 3) (off : BitVec 5) : WfOut (execCLdd r r2 off s) := loadInstr_wf h _ _ _ retireC_mem

theorem execStv_wf (h : Memory.wf s.mem = true) (sc : BitVec 2) (imm : BitVec 10) (b a : Reg) : WfOut (execStv sc imm b a s) := storeInstr_wf h _ _ _ (retire_mem sc)

theorem execStrl_wf (h : Memory.wf s.mem = true) (sc : BitVec 2) (sco : BitVec 3) (b a : Reg) : WfOut (execStrl sc sco b a s) := storeInstr_wf h _ _ _ (retire_mem sc)

theorem execCStd_wf (h : Memory.wf s.mem = true) (r r2 : BitVec 3) (off : BitVec 5) : WfOut (execCStd r r2 off s) := storeInstr_wf h _ _ _ retireC_mem

theorem execIns_wf (h : Memory.wf s.mem = true) (sc : BitVec 2) (b a d : Reg) : WfOut (execIns sc b a d s) := aluOp_wf h (retire_mem sc) ..

theorem execLih_wf (h : Memory.wf s.mem = true) (imm : BitVec 20) (d : Reg) : WfOut (execLih imm d s) := aluOp_wf h (retire_mem 0#2) ..

theorem execAddpc_wf (h : Memory.wf s.mem = true) (imm : BitVec 20) (d : Reg) : WfOut (execAddpc imm d s) := aluOp_wf h (retire_mem 0#2) ..

theorem execCAddi_wf (h : Memory.wf s.mem = true) (r : BitVec 3) (imm : BitVec 8) : WfOut (execCAddi r imm s) := aluOp_wf h retireC_mem ..

theorem execCLi_wf (h : Memory.wf s.mem = true) (r : BitVec 3) (imm : BitVec 8) : WfOut (execCLi r imm s) := aluOp_wf h retireC_mem ..

theorem execCMv_wf (h : Memory.wf s.mem = true) (r r2 : BitVec 3) : WfOut (execCMv r r2 s) := aluOp_wf h retireC_mem ..

theorem execCAdd_wf (h : Memory.wf s.mem = true) (r r2 : BitVec 3) : WfOut (execCAdd r r2 s) := aluOp_wf h retireC_mem ..

theorem execCSub_wf (h : Memory.wf s.mem = true) (r r2 : BitVec 3) : WfOut (execCSub r r2 s) := aluOp_wf h retireC_mem ..

theorem execXld_wf (h : Memory.wf s.mem = true) (sc : BitVec 2) (k : BitVec 4) (imm : BitVec 6) (a d : Reg) : WfOut (execXld sc k imm a d s) := heapLoad_wf h _ _ _ (retire_mem sc)

theorem execXldv_wf (h : Memory.wf s.mem = true) (sc : BitVec 2) (k : BitVec 4) (imm : BitVec 6) (a d : Reg) : WfOut (execXldv sc k imm a d s) := heapLoad_wf h _ _ _ (retire_mem sc)

theorem execXst_wf (h : Memory.wf s.mem = true) (sc : BitVec 2) (imm : BitVec 10) (b a : Reg) : WfOut (execXst sc imm b a s) := heapStore_wf h _ _ _ (retire_mem sc)

theorem execXstv_wf (h : Memory.wf s.mem = true) (sc : BitVec 2) (imm : BitVec 10) (b a : Reg) : WfOut (execXstv sc imm b a s) := heapStore_wf h _ _ _ (retire_mem sc)

theorem exec_wf (h : Memory.wf s.mem = true) (i : Instr) : WfOut (exec i s) := by
  cases i
  all_goals dsimp only [exec]
  case nop => exact (congrArg Memory.wf (retire_mem ..)).trans h
  case cNop => exact (congrArg Memory.wf (retireC_mem ..)).trans h
  case bindStart | bindEvict | bindEvictStart | bindModify => exact takeBind_wf h ..
  case ldb | ldbz | ldh | ldhz | ldw | ldwz | ldd => exact scalarLoad_wf h ..
  case stb | sth | stw | std => exact scalarStore_wf h ..
  case ldv => exact execLdv_wf h ..
  case cLdd => exact execCLdd_wf h ..
  case stv => exact execStv_wf h ..
  case strl => exact execStrl_wf h ..
  case cStd => exact execCStd_wf h ..
  case ldve8 | ldve16 | ldve32 | ldve64 => exact splatLoad_wf h ..
  case addi | andi | ori | xori | slti | sltni | slli | srli | srai | clz | ctz | popc | brev | bswap => exact aluImm_wf h ..
  case add | sub | andR | orR | xorR | andn | sll | srl | sra | slt | sltn | minS | maxS | minn | maxn | exts | extz => exact aluReg_wf h ..
  case mul | mulh | mulhn => exact mulOp_wf h ..
  case divS | divn | modS | modn => exact divOp_wf h ..
  case ins => exact execIns_wf h ..
  case lih => exact execLih_wf h ..
  case addpc => exact execAddpc_wf h ..
  case cAddi => exact execCAddi_wf h ..
  case cLi => exact execCLi_wf h ..
  case cMv => exact execCMv_wf h ..
  case cAdd => exact execCAdd_wf h ..
  case cSub => exact execCSub_wf h ..
  case jal => exact jumpLink_wf h ..
  case beq | bne | blt | bge | bltn | bgen => exact branch_wf h ..
  case loopi | loopm => exact loopOp_wf h ..
  case waitImm => exact waitOp_wf h ..
  case tksetImm => exact tksetOp_wf h ..
  case cwr | cset | cclr => exact crWrite_wf h ..
  case amoadd | amoand | amoor | amoxor | amomin | amomax | amominn | amomaxn | amoswp | amocas => exact amoOp_wf h ..
  case vadd | vsub | vmul | vmin | vmax | vand | vor | vxor | vshl | vshr | vsar | vabd | vadds | vsubs => exact varOp_wf h ..
  case vfma | vfms | vfnma => exact fmaOp_wf h ..
  case vdot2 | vmulw | vsel | vcvt | vbcast | vperm | vins | vmov => exact vecOp_wf h ..
  case vabs | vneg => exact signOp_wf h ..
  case vredAdd | vredMin | vredMax => exact redOp_wf h ..
  case vscanAdd | vscanMin | vscanMax => exact scanOp_wf h ..
  case pmac | pmacs | pdrain => exact pressToken_wf h ..
  case segmv | sefil | secpy | secmp | sered => exact stackIssue_wf h ..
  case goSegmv | goSefil | goSecpy | goSecmp | goSered => exact stackGo_wf h ..
  case xld => exact execXld_wf h ..
  case xldv => exact execXldv_wf h ..
  case xst => exact execXst_wf h ..
  case xstv => exact execXstv_wf h ..
  case jf => exact jumpCode_wf h ..
  case cBeqz | cBnez => exact branchC_wf h ..
  case ownerWrite => exact writeOwner_wf h ..
  case copyGo => exact copyGo_wf h ..
  case stvm => exact execStvm_wf h ..
  case jalr => exact execJalr_wf h ..
  case loopG => exact execLoopG_wf h ..
  case lbrk => exact execLbrk_wf h ..
  case dly => exact execDly_wf h ..
  case waitReg => exact execWaitReg_wf h ..
  case tkrd => exact execTkrd_wf h ..
  case tksetReg => exact execTksetReg_wf h ..
  case crd => exact execCrd_wf h ..
  case trapI => exact execTrapI_wf h ..
  case eret => exact execEret_wf h ..
  case brk => exact execBrk_wf h ..
  case idle => exact execIdle_wf h ..
  case replay => exact execReplay_wf h ..
  case fnc => exact execFnc_wf h ..
  case qfnc => exact execQfnc_wf h ..
  case ldaq => exact execLdaq_wf h ..
  case vcmp => exact execVcmp_wf h ..
  case vext => exact execVext_wf h ..
  case vmsk => exact execVmsk_wf h ..
  case qred => exact execQred_wf h ..
  case qredSuspend => exact execQredSuspend_wf h ..
  case tload => exact execTload_wf h ..
  case teval => exact execTeval_wf h ..
  case tstat => exact execTstat_wf h ..
  case tloadPerform => exact execTloadPerform_wf h ..
  case tevalPerform => exact execTevalPerform_wf h ..
  case send => exact execSend_wf h ..
  case sendg => exact execSendg_wf h ..
  case rcv => exact execRcv_wf h ..
  case wfm => exact execWfm_wf h ..
  case mbcnt => exact execMbcnt_wf h ..
  case messageDelivery => exact execMessageDelivery_wf h ..
  case bufferFreeAnswer => exact execBufferFreeAnswer_wf h ..
  case qcfg => exact execQcfg_wf h ..
  case qres => exact execQres_wf h ..
  case qpub => exact execQpub_wf h ..
  case qacq => exact execQacq_wf h ..
  case qrel => exact execQrel_wf h ..
  case qstat => exact execQstat_wf h ..
  case quireSuspend => exact execQuireSuspend_wf h ..
  case queueDeadlock => exact execQueueDeadlock_wf h ..
  case pzero => exact execPzero_wf h ..
  case pstat => exact execPstat_wf h ..
  case psync => exact execPsync_wf h ..
  case leaseGrant => exact execLeaseGrant_wf h ..
  case leaseTimeout => exact execLeaseTimeout_wf h ..
  case pressEntryStart => exact execPressEntryStart_wf h ..
  case pressStartAdmit => exact execPressStartAdmit_wf h ..
  case blockSlice => exact execBlockSlice_wf h ..
  case sliceSumAccumulate => exact execSliceSumAccumulate_wf h ..
  case pressEntryComplete => exact execPressEntryComplete_wf h ..
  case governorWindow => exact execGovernorWindow_wf h ..
  case pressShootdown => exact execPressShootdown_wf h ..
  case sestat => exact execSestat_wf h ..
  case stackCommandStart => exact execStackCommandStart_wf h ..
  case stackCommandComplete => exact execStackCommandComplete_wf h ..
  case xhint => exact execXhint_wf h ..
  case spawn => exact execSpawn_wf h ..
  case deal => exact execDeal_wf h ..
  case susp => exact execSusp_wf h ..
  case exitI => exact execExitI_wf h ..
  case gbar => exact execGbar_wf h ..
  case grank => exact execGrank_wf h ..
  case generationComplete => exact execGenerationComplete_wf h ..
  case grant => exact execGrant_wf h ..
  case revoke => exact execRevoke_wf h ..
  case rtest => exact execRtest_wf h ..
  case rdrop => exact execRdrop_wf h ..
  case shootdownComplete => exact execShootdownComplete_wf h ..
  case jfr => exact execJfr_wf h ..
  case cfetch => exact execCfetch_wf h ..
  case cfetchCompletion => exact execCfetchCompletion_wf h ..
  case cseg => exact execCseg_wf h ..
  case fitb => exact execFitb_wf h ..
  case fite => exact execFite_wf h ..
  case fitk => exact execFitk_wf h ..
  case fitq => exact execFitq_wf h ..
  case fitw => exact execFitw_wf h ..
  case trainingStep => exact execTrainingStep_wf h ..
  case substitutionOutputs => exact execSubstitutionOutputs_wf h ..
  case cDly => exact execCDly_wf h ..
  case cJr => exact execCJr_wf h ..
  case cJalr => exact execCJalr_wf h ..
  case cJ => exact execCJ_wf h ..
  case partWordWrite => exact execPartWordWrite_wf h ..
  case stopAtWrite => exact execStopAtWrite_wf h ..
  case energyWrite => exact execEnergyWrite_wf h ..
  case asyncTrap => exact execAsyncTrap_wf h ..
  case loadCompletion => exact execLoadCompletion_wf h ..
  case divideCompletion => exact execDivideCompletion_wf h ..
  case storeAck => exact execStoreAck_wf h ..
  case amoResponse => exact execAmoResponse_wf h ..
  case copyBeat => exact execCopyBeat_wf h ..
  case copyCompletion => exact execCopyCompletion_wf h ..
  case tileCompletion => exact execTileCompletion_wf h ..
  case qaSlotReserve => exact execQaSlotReserve_wf h ..
  case slotLoad => exact execSlotLoad_wf h ..
  case evictWriteback => exact execEvictWriteback_wf h ..
  case slotSelect => exact execSlotSelect_wf h ..
  case sliceExpiry => exact execSliceExpiry_wf h ..
  case partMapWrite => exact execPartMapWrite_wf h ..
  case pwSetWrite => exact execPwSetWrite_wf h ..
  case pwSetApply => exact execPwSetApply_wf h ..
  case dealChunk => exact execDealChunk_wf h ..
  case dependenceSatisfied => exact execDependenceSatisfied_wf h ..
  case dependenceFailed => exact execDependenceFailed_wf h ..
  case drainComplete => exact execDrainComplete_wf h ..
  case resetComplete => exact execResetComplete_wf h ..
  case watchdogExpiry => exact execWatchdogExpiry_wf h ..
  case hostOpen => exact execHostOpen_wf h ..
  case hostClose => exact execHostClose_wf h ..
  case hostLock => exact execHostLock_wf h ..
  case hostUnlock => exact execHostUnlock_wf h ..
  case hostQcreate => exact execHostQcreate_wf h ..
  case hostQopen => exact execHostQopen_wf h ..
  case hostLaunch => exact execHostLaunch_wf h ..
  case hostDrain => exact execHostDrain_wf h ..
  case hostReset => exact execHostReset_wf h ..
  case hostQdestroy => exact execHostQdestroy_wf h ..
  case hostQstat => exact execHostQstat_wf h ..
  case hostKeyload => exact execHostKeyload_wf h ..
  case hostEvidence => exact execHostEvidence_wf h ..
  case hostVcreate => exact execHostVcreate_wf h ..
  case hostVdestroy => exact execHostVdestroy_wf h ..
  case rmaWrite => exact execRmaWrite_wf h ..
  case rmaRead => exact execRmaRead_wf h ..
  case unsupportedPacket => exact execUnsupportedPacket_wf h ..
  case sessionTimeout => exact execSessionTimeout_wf h ..
  case lockLeaseExpiry => exact execLockLeaseExpiry_wf h ..
  case xltInv => exact execXltInv_wf h ..
  case xltInvComplete => exact execXltInvComplete_wf h ..
  case regionQuery => exact execRegionQuery_wf h ..
  case regionPurge => exact execRegionPurge_wf h ..
  case regionFree => exact execRegionFree_wf h ..
  case regionAlloc => exact execRegionAlloc_wf h ..
  case regionRfree => exact execRegionRfree_wf h ..
  case ownerPurge => exact execOwnerPurge_wf h ..
  case ownerCreate => exact execOwnerCreate_wf h ..
  case ownerDelete => exact execOwnerDelete_wf h ..
  case stopArm => exact execStopArm_wf h ..
  case stopCancel => exact execStopCancel_wf h ..
  case stopResume => exact execStopResume_wf h ..
  case syncStopHalt => exact execSyncStopHalt_wf h ..
  case sweepComplete => exact execSweepComplete_wf h ..
  case hgHalt => exact execHgHalt_wf h ..
  case hgResume => exact execHgResume_wf h ..
  case hintDropRead => exact execHintDropRead_wf h ..
  case acctERead => exact execAcctERead_wf h ..
  case acctLateRead => exact execAcctLateRead_wf h ..
  case powerUp => exact execPowerUp_wf h ..
  case bootSetWrite => exact execBootSetWrite_wf h ..
  case hartRun => exact execHartRun_wf h ..
  case pufLock => exact execPufLock_wf h ..
  case coreRel => exact execCoreRel_wf h ..
  case fpData => exact execFpData_wf h ..
  case fpErase => exact execFpErase_wf h ..
  case lkey => exact execLkey_wf h ..
  case seLrootWrite => exact execSeLrootWrite_wf h ..
  case mcPower => exact execMcPower_wf h ..
  case mcEnable => exact execMcEnable_wf h ..
  case mcLaneRepair => exact execMcLaneRepair_wf h ..
  case mcCaTraining => exact execMcCaTraining_wf h ..
  case mcReadTraining => exact execMcReadTraining_wf h ..
  case mcWriteTraining => exact execMcWriteTraining_wf h ..
  case mcEyeCentring => exact execMcEyeCentring_wf h ..
  case mcRefreshSetup => exact execMcRefreshSetup_wf h ..
  case mcStepComplete => exact execMcStepComplete_wf h ..
  case ulSideband => exact execUlSideband_wf h ..
  case ulTrain => exact execUlTrain_wf h ..
  case ulEnable => exact execUlEnable_wf h ..
  case ptPll => exact execPtPll_wf h ..
  case ptTxen => exact execPtTxen_wf h ..
  case ptLinkTraining => exact execPtLinkTraining_wf h ..
  case ptMac => exact execPtMac_wf h ..
  case ptFecRead => exact execPtFecRead_wf h ..
  case portRetry => exact execPortRetry_wf h ..
  case pairKeyExchange => exact execPairKeyExchange_wf h ..
  case linkTagMismatch => exact execLinkTagMismatch_wf h ..
  case linkRekey => exact execLinkRekey_wf h ..
  case registerWrite => exact execRegisterWrite_wf h ..
  case illegalInstruction => exact execIllegalInstruction_wf h ..
  case notLandedFetch => exact execNotLandedFetch_wf h ..
  case badopCommand => exact execBadopCommand_wf h ..
  case issueCycle => exact execIssueCycle_wf h ..
  case powerOff => exact execPowerOff_wf h ..
  case mcPwrok => exact execMcPwrok_wf h ..
  case mcActive => exact execMcActive_wf h ..
  case ulSbup => exact execUlSbup_wf h ..
  case ulActive => exact execUlActive_wf h ..
  case ptPlllock => exact execPtPlllock_wf h ..
  case ptLtdone => exact execPtLtdone_wf h ..
  case ptFeclock => exact execPtFeclock_wf h ..
  case ptUp => exact execPtUp_wf h ..
  case lkeyDone => exact execLkeyDone_wf h ..
  case fpBusyClear => exact execFpBusyClear_wf h ..

theorem boundary_wf (h : Memory.wf s.mem = true) (u : Nat) (b : Boundary) : WfOut (boundary u b s) := by
  cases b with
  | syncStopHalt => exact execSyncStopHalt_wf h _
  | evictWriteback i => exact execEvictWriteback_wf h _ _
  | slotLoad i => exact execSlotLoad_wf h _ _
  | pwSetApply => exact execPwSetApply_wf h _
  | slotSelect => exact execSlotSelect_wf h _
  | sliceExpiry => exact execSliceExpiry_wf h _
  | asyncTrap => exact execAsyncTrap_wf h _
  | quireSuspend => exact execQuireSuspend_wf h _
  | qredSuspend => exact execQredSuspend_wf h _

theorem issueStep_wf (h : Memory.wf s.mem = true) : WfOut (issueStep s) := by
  have hf : Memory.wf (fetched s).mem = true := h
  obtain ⟨-, e⟩ | ⟨-, ⟨i, n, -, e⟩ | ⟨r, -, e⟩⟩ := issueStep_cases s <;> rw [e]
  · exact execNotLandedFetch_wf hf
  · exact exec_wf hf i
  · exact execIllegalInstruction_wf hf _

theorem unitStep_wf (h : Memory.wf s.mem = true) (u : Nat) : WfOut (unitStep u s) := by
  obtain ⟨-, e⟩ | ⟨-, b, -, e⟩ | ⟨-, -, e⟩ := unitStep_cases u s <;> rw [e]
  · exact groupHaltCore_wf h u
  · exact boundary_wf h u b
  · exact issueStep_wf ((congrArg Memory.wf (focus_mem u s)).trans h)

theorem nextInput_mem {i : Instr} {s1 : State} (h : nextInput s = some (i, s1)) : s1.mem = s.mem := by
  obtain ⟨x, -, e⟩ := Option.map_eq_some_iff.mp h
  cases e
  rfl

theorem step_wf (h : Memory.wf s.mem = true) : WfOut (step s) := by
  obtain ⟨i, s1, hn, e⟩ | ⟨-, u, -, e⟩ | ⟨-, -, e⟩ := step_cases s <;> rw [e]
  · have h1 : Memory.wf s1.mem = true := (congrArg Memory.wf (nextInput_mem hn)).trans h
    exact ite_wfOut h1 (exec_wf h1 i)
  · exact unitStep_wf h u
  · exact execIssueCycle_wf h

/-- Settles O56, by the canonical form kept by every operation of the model, layer by layer up to the step. -/
theorem memoryStaysCanonical : Obligations.MemoryStaysCanonical := by
  intro s t h ht
  have hs : WfOut (step s) := step_wf h
  rw [ht] at hs
  exact hs

end Sys2Proof.Proofs
end

section
/-! Writes of OWNER: R61's condition as the model decides it, and what a write does where it holds and where it does not (O7). -/

namespace Sys2Proof.Proofs
open Sys2Proof Sys2Proof.Machine Sys2Proof.Claim

theorem stampCheck_eq_none (s : State) (id : BitVec 20) (gen : BitVec 16) : stampCheck s (some (id, gen)) = none ↔ (region s id).gen = gen := by
  rw [stampCheck]
  by_cases hgen : (region s id).gen = gen
  · simp [hgen]
  · simp only [hgen, if_false, iff_false]
    split <;> nofun

/-- Steps 4 and 5 of R58 pass where the entry is of the region's current generation and has the right. -/
theorem entryCheck_eq_none (s : State) (e : RangeEntry) (n : Right) : entryCheck s e n = none ↔ (region s e.region).gen = e.gen ∧ hasRight e.rights n = true := by
  rw [← stampCheck_eq_none, entryCheck]
  cases stampCheck s (some (e.region, e.gen)) <;> simp

/-- R61's condition is the one that the model decides. -/
theorem mayEnter_iff (s : State) (o : BitVec 12) : MayEnter s o ↔ ownerAllowed s o = true := by
  rw [MayEnter, ownerAllowed, steward]
  by_cases hs : s.core.ctx.ctl.steward = true
  · simp [hs]
  · by_cases ho : o = s.core.ctx.ctl.owner
    · simp [hs, ho]
    · by_cases hz : s.core.ctx.ctl.owner = 0#12
      · simp [hs, hz]
      · cases hf : findRange s s.core.ctx.ctl.owner (codeVa s s.core.ctx.pc).toNat with
        | none => simp [hs, hz]
        | some e => simp [hs, ho, hz, hasRight, entryCheck_eq_none, and_assoc, and_comm]

/-- The state after a write of OWNER. -/
def ownerSet (s : State) (o : BitVec 12) : State := setCtl s { s.core.ctx.ctl with owner := o }

theorem writeOwner_allowed {s : State} {x : Word} (h : MayEnter s (x.setWidth 12)) : writeOwner x s = .next (retire 0#2 (ownerSet s (x.setWidth 12))) :=
  if_pos ((mayEnter_iff s _).mp h)

theorem writeOwner_refused {s : State} {x : Word} (h : ¬MayEnter s (x.setWidth 12)) : writeOwner x s = trapAs (3#8, (x.setWidth 12).setWidth 64) s :=
  if_neg fun ha => h ((mayEnter_iff s _).mpr ha)

theorem trapAs_steward {s : State} (h : s.core.ctx.ctl.steward = true) (c : Cause) : trapAs c s = .next (faultStop c.1 (charge (issueClass s.core.ir) 1 s)) := by
  obtain ⟨n, e, b, hc⟩ := charge_charged (issueClass s.core.ir) 1 s
  have hs : steward (charge (issueClass s.core.ir) 1 s) = true := by rw [hc]; exact h
  rw [trapAs, takeTrap, takeTrapAt, if_pos hs]

/-- A write of OWNER by CWR, CSET or CCLR is the write of the value that it forms (R187). -/
theorem crWrite_owner {s : State} {a : Reg} {x : Word} {f : Word → Word → Word} (hx : f (crValue s 0#12) (rdG s a) = x) (hu : underWait s [.g a] none = none) :
    crWrite f 0#12 a s = writeOwner x s := by
  rw [crWrite_next (crCheck_readWrite rfl s true) hu, hx]
  rfl

/-- Settles O7: R61's condition decides a write of OWNER, whichever instruction makes it. -/
theorem ownerWrites : Obligations.OwnerWrites := by
  intro s a x o
  have howner : exec (.ownerWrite x) s = writeOwner x s := rfl
  refine ⟨rfl, fun h => ?_, fun h hu => ?_, fun h hs => ?_⟩
  · have hset {i : Instr} (hi : exec i s = writeOwner x s) : CompletesAs i s 4 0 (ownerSet s o) := completesAs_retire (sc := 0#2) (hi.trans (writeOwner_allowed h))
    exact ⟨hset howner, fun hx hw => hset ((exec_cwr 0#12 a s).trans (crWrite_owner hx hw)), fun hx hw => hset ((exec_cset 0#12 a s).trans (crWrite_owner hx hw)),
      fun hx hw => hset ((exec_cclr 0#12 a s).trans (crWrite_owner hx hw))⟩
  · have htrap {i : Instr} (hi : exec i s = writeOwner x s) : Traps i s 3#8 (o.setWidth 64) (codeVa s s.core.ctx.pc) := trapAs_traps hu (hi.trans (writeOwner_refused h))
    exact ⟨htrap howner, fun hx hw => htrap ((exec_cwr 0#12 a s).trans (crWrite_owner hx hw))⟩
  · rw [howner, writeOwner_refused h, trapAs_steward hs]

end Sys2Proof.Proofs
end

section
/-! Tokens of a context: what setting one leaves, and the operations that name one (R112, R131, R132). -/

namespace Sys2Proof.Proofs
open Sys2Proof Sys2Proof.Machine Sys2Proof.Claim

/-- A token that some register holds: `hk` has four. -/
def RealToken (t : TokenName) : Prop := t.handler = true → t.num.toNat < 4

theorem tokenOf_real {s : State} {k : BitVec 4} {t : TokenName} (h : tokenOf s k = some t) : RealToken t := by
  rw [tokenOf] at h
  split at h
  · split at h
    · cases h
      have hk : ∀ k : BitVec 4, k.extractLsb' 2 2 = 0#2 → k.toNat < 4 := by decide
      exact fun _ => hk k ‹_›
    · cases h
  · cases h
    exact fun hh => absurd hh Bool.false_ne_true

theorem tokenOf_handler {s : State} {k : BitVec 4} {t : TokenName} (h : tokenOf s k = some t) : t.handler = steward s := by
  rw [tokenOf] at h
  split at h
  · split at h
    · cases h; exact ‹steward s = true›.symm
    · cases h
  · cases h; exact (Bool.eq_false_iff.mpr ‹¬steward s = true›).symm

/-- Setting a token touches the token registers alone. -/
theorem ctxSetToken_frame (c : Ctx) (t : TokenName) (x : Token) : ∃ k hk, ctxSetToken c t x = { c with regs := { c.regs with k := k, hk := hk } } := by
  rw [ctxSetToken]
  split
  · exact ⟨c.regs.k, _, rfl⟩
  · exact ⟨_, c.regs.hk, rfl⟩

theorem ctxToken_set_same (c : Ctx) (t : TokenName) (x : Token) : ctxToken (ctxSetToken c t x) t = x := by
  by_cases h : t.handler = true <;> simp [ctxToken, ctxSetToken, h]

theorem ctxToken_set_ne {c : Ctx} {t u : TokenName} (x : Token) (ht : RealToken t) (hu : RealToken u) (h : u ≠ t) : ctxToken (ctxSetToken c t x) u = ctxToken c u := by
  obtain ⟨th, tn⟩ := t
  obtain ⟨uh, un⟩ := u
  have hnum : th = uh → tn.toNat ≠ un.toNat := fun e hn => h (by rw [e, BitVec.eq_of_toNat_eq hn])
  cases th <;> cases uh
  · simp [ctxToken, ctxSetToken, hnum rfl]
  · simp [ctxToken, ctxSetToken]
  · simp [ctxToken, ctxSetToken]
  · have htn : tn.toNat < 4 := ht rfl
    have hun : un.toNat < 4 := hu rfl
    simp [ctxToken, ctxSetToken, Nat.mod_eq_of_lt htn, Nat.mod_eq_of_lt hun, hnum rfl]

/-- The destination noted as uncovered is one that the operation may still write (R132, R136). -/
theorem addUncovered_form (d : Dest) (t : TokenName) (covered : Option Nat) (s : State) : ∃ l, addUncovered d t covered s = setCtx s { s.core.ctx with uncov := l } ∧
    (destLive d = true → ∃ e ∈ l, e.dest = d ∧ e.token = t ∧ e.ordinal = (ctxToken s.core.ctx t).issued) := by
  rw [addUncovered]
  split
  · exact ⟨_, rfl, fun _ => ⟨_, List.mem_append_right _ (List.mem_singleton_self _), rfl, rfl, rfl⟩⟩
  · exact ⟨s.core.ctx.uncov, rfl, fun h => absurd h ‹_›⟩

theorem withToken_some {s : State} {k : BitVec 4} {t : TokenName} (h : tokenOf s k = some t) (f : TokenName → Machine.Out) : withToken k s f = f t := by rw [withToken, h]

theorem afterAcquire_none {s : State} (h : acquirePending s = false) (k : State → Machine.Out) : afterAcquire s k = k s := if_neg (Bool.eq_false_iff.mp h)

theorem guardToken_room {s : State} {t : TokenName} (h : ((ctxToken s.core.ctx t).issued - (ctxToken s.core.ctx t).count).toNat < 2 ^ 15 - 1) (f : State → Machine.Out) :
    guardToken t s f = f s :=
  if_neg (by rw [tokenFull]; exact fun hfull => absurd (of_decide_eq_true hfull) (Nat.not_le_of_lt h))

theorem guardToken_full {s : State} {t : TokenName} (h : 2 ^ 15 - 1 ≤ ((ctxToken s.core.ctx t).issued - (ctxToken s.core.ctx t).count).toNat) (f : State → Machine.Out) :
    guardToken t s f = trapAs (10#8, tokenNo t) s :=
  if_pos (decide_eq_true h)

/-- The number of a token k0 to k15 is K (R112, R360). -/
theorem tokenNo_k {t : TokenName} (h : t.handler = false) : tokenNo t = t.num.setWidth 64 := by
  rw [tokenNo, h, if_neg Bool.false_ne_true, Nat.add_zero, BitVec.ofNat_toNat]

end Sys2Proof.Proofs
end

section
/-! Checks of an access of the core: through the own-pool addresses nothing is looked up; elsewhere the PLB may be filled, and a heap page is marked accessed (R52, R58, R60, R69, R156, R246). -/

namespace Sys2Proof.Proofs
open Sys2Proof Sys2Proof.Machine Sys2Proof.Claim

/-- An own-pool address of either kind of core is one of a compute core. -/
theorem place_true_of_priv {b : Bool} {va off : Nat} (h : place b va = .priv off) : place true va = .priv va ∧ off = va := by
  rw [place] at h ⊢
  split at h
  · split at h
    · cases h; exact ⟨if_pos ‹_›, rfl⟩
    · cases h
  · (repeat' split at h) <;> cases h

/-- Heap addresses are the same on both kinds of core. -/
theorem place_heap {b : Bool} {va : Nat} : place b va = .heap ↔ place true va = .heap := by
  cases b
  · rw [place, place]
    by_cases h : va < 0x80000
    · by_cases h2 : va < 0x40000 <;> simp [h, h2]
    · simp [h]
  · rfl

theorem touchPage_priv {s : State} {b : Bool} {va off : Nat} (h : place b va = .priv off) (w : Bool) : touchPage w va s = s := by
  rw [touchPage, (place_true_of_priv h).1]

theorem touchPage_other {s : State} {va : Nat} (h : place true va ≠ .heap) (w : Bool) : touchPage w va s = s := by
  rw [touchPage]
  split
  · exact absurd ‹_› h
  · rfl

theorem touchPage_heap {s : State} {va : Nat} (h : place true va = .heap) {l : Leaf} (hw : walk s va = some l) (w : Bool) :
    touchPage w va s = { s with mem := setAD s.mem l w, hub := { s.hub with rights := { s.hub.rights with locked := true } } } := by
  rw [touchPage, h]
  dsimp only
  rw [hw]
  dsimp only
  rw [lockHeap, h]

/-- A granule of the own pool passes unchecked (R58 step 2). -/
theorem checkGranule_priv {s : State} {va : Word} {off : Nat} (h : place (onCompute s) va.toNat = .priv off) (o : BitVec 12) (n : Right) : checkGranule s o va n = .ok (none, s) := by
  rw [checkGranule, h]

/-- An access within one granule is checked there. -/
theorem check_single {s : State} {va : Word} {len : Nat} (hlen : va.toNat % 4096 + len - 1 < 4096) (o : BitVec 12) (n : Right) : check s o va len n = checkGranule s o va n := by
  rw [check, Nat.div_eq_of_lt hlen]
  cases checkGranule s o va n with
  | error r => rfl
  | ok p => rfl

/-- An aligned access lies in one granule. -/
theorem aligned_granule {a k : Nat} (hk : k ≤ 12) (h : a % 2 ^ k = 0) : a % 4096 + 2 ^ k ≤ 4096 := by
  have hdvd : 2 ^ k ∣ 4096 := Nat.pow_dvd_pow 2 hk
  have hrem : 2 ^ k ∣ a % 4096 := (Nat.dvd_mod_iff hdvd).mpr (Nat.dvd_of_mod_eq_zero h)
  obtain ⟨m, hm⟩ := hdvd
  obtain ⟨j, hj⟩ := hrem
  have hlt : a % 4096 < 4096 := Nat.mod_lt _ (by decide)
  rw [hj, hm] at hlt
  have hjm : j + 1 ≤ m := Nat.lt_of_mul_lt_mul_left hlt
  calc a % 4096 + 2 ^ k = 2 ^ k * (j + 1) := by rw [hj, Nat.mul_succ]
    _ ≤ 2 ^ k * m := Nat.mul_le_mul_left _ hjm
    _ = 4096 := hm.symm

/-- An access through the own-pool addresses outside steward mode: the scratchpad alone, without a look-up (R156, R246). -/
theorem checkRoute_priv {s : State} {ea : Word} {off len : Nat} (hu : s.core.ctx.ctl.steward = false) (h : place (onCompute s) ea.toNat = .priv off)
    (hlen : ea.toNat % 4096 + len ≤ 4096) (n : Right) :
    checkRoute s ea len [n] = (if off + len ≤ scratchSize s.cur s.core then .ok (none, .priv (poolKey s.cur off), s) else .error (3#8, ea)) ∧ rightsFill ea len [n] s = s := by
  have hcheck : check s (acting s) ea len n = .ok (none, s) := (check_single (by omega) _ _).trans (checkGranule_priv h _ _)
  have hs : ¬steward s = true := Bool.eq_false_iff.mp hu
  refine ⟨?_, by rw [rightsFill, hcheck]; rfl⟩
  rw [checkRoute, hcheck]
  dsimp only
  rw [checkRoute, routeOf, h]
  dsimp only
  rw [privRoute, if_neg hs]
  by_cases hfit : off + len ≤ scratchSize s.cur s.core
  · rw [if_pos hfit, if_pos hfit]
    dsimp only
    rw [touchPage_priv h]
  · rw [if_neg hfit, if_neg hfit]

/-- `t` is `s` but for the PLB of the core in focus. -/
def PlbMoved (s t : State) : Prop := ∃ p, t = { s with core := { s.core with plb := p } }

theorem PlbMoved.refl (s : State) : PlbMoved s s := ⟨s.core.plb, rfl⟩

theorem PlbMoved.trans {s t u : State} (h : PlbMoved s t) (g : PlbMoved t u) : PlbMoved s u := by
  obtain ⟨p, rfl⟩ := h
  obtain ⟨q, rfl⟩ := g
  exact ⟨q, rfl⟩

theorem plbLookup_frame {s : State} {c d : Core} {o : BitVec 12} {va : Nat} {e : RangeEntry} (h : plbLookup s c o va = some (e, d)) : ∃ p, d = { c with plb := p } := by
  rw [plbLookup] at h
  split at h
  · cases h; exact ⟨_, rfl⟩
  · obtain ⟨x, -, hx⟩ := Option.map_eq_some_iff.mp h
    cases hx
    split
    · exact ⟨_, rfl⟩
    · exact ⟨c.plb, rfl⟩

/-- A check that passes changes the PLB alone (R60). -/
theorem checkGranule_moves {s t : State} {o : BitVec 12} {va : Word} {n : Right} {st : Stamp} (h : checkGranule s o va n = .ok (st, t)) : PlbMoved s t := by
  rw [checkGranule] at h
  split at h
  · cases h
  · cases h; exact .refl s
  · split at h
    · cases h
    · obtain ⟨p, rfl⟩ := plbLookup_frame ‹_›
      split at h
      · cases h
      · cases h
        exact ⟨p, rfl⟩

theorem checkMore_moves {s t : State} {o : BitVec 12} {va : Word} {n : Right} {k : Nat} (h : checkMore s o va n k = .ok t) : PlbMoved s t := by
  induction k generalizing s va with
  | zero => cases h; exact .refl _
  | succ k ih =>
    rw [checkMore] at h
    split at h
    · cases h
    · exact (checkGranule_moves ‹_›).trans (ih h)

theorem check_moves {s t : State} {o : BitVec 12} {va : Word} {len : Nat} {n : Right} {st : Stamp} (h : check s o va len n = .ok (st, t)) : PlbMoved s t := by
  rw [check] at h
  split at h
  · cases h
  · split at h
    · cases h
    · cases h
      exact (checkGranule_moves ‹_›).trans (checkMore_moves ‹_›)

/-- What a route that passes its checks leaves (R52, R60, R69). -/
theorem checkRoute_frame {s t : State} {ea : Word} {len : Nat} {n : Right} {st : Stamp} {r : Route} (h : checkRoute s ea len [n] = .ok (st, r, t)) :
    ∃ p, t = touchPage false ea.toNat { s with core := { s.core with plb := p } } ∧ (place true ea.toNat = .heap → (walk s ea.toNat).isSome = true) := by
  rw [checkRoute] at h
  split at h
  · cases h
  · rename_i hcheck
    obtain ⟨p, hu⟩ := check_moves hcheck
    rw [checkRoute] at h
    split at h
    · cases h
    · rename_i r1 u1 hroute
      split at hroute
      · cases hroute
      · rename_i hr
        cases hroute
        cases h
        refine ⟨p, congrArg _ hu, fun hheap => ?_⟩
        rw [routeOf, place_heap.mpr hheap] at hr
        dsimp only at hr
        split at hr
        · cases hr
        · split at hr
          · cases hr
          · rename_i hwalk
            rw [show walk _ ea.toNat = walk s ea.toNat by rw [hu]; rfl] at hwalk
            cases hw : walk s ea.toNat with
            | none => simp [hw] at hwalk
            | some l => rfl

theorem checked_of_checkRoute {s t : State} {ea : Word} {len : Nat} {n : Right} {st : Stamp} {r : Route} (hm : Memory.wf s.mem = true) (h : checkRoute s ea len [n] = .ok (st, r, t)) :
    Checked s t ea := by
  obtain ⟨p, rfl, hwalk⟩ := checkRoute_frame h
  by_cases hheap : place true ea.toNat = .heap
  · obtain ⟨l, hl⟩ := Option.isSome_iff_exists.mp (hwalk hheap)
    rw [touchPage_heap hheap (l := l) (by exact hl)]
    refine ⟨rfl, fun hne => absurd hheap hne, fun l' _ hl' a => ?_⟩
    obtain rfl : l = l' := Option.some.inj (hl.symm.trans hl')
    show getByte (setAD s.mem l false) a = _
    rw [setAD]
    by_cases ha : a = l.addr + 8
    · rw [if_pos ha, ha, getByte_setByte_same hm]
      rfl
    · rw [if_neg ha, getByte_setByte_other hm ha]
  · rw [touchPage_other hheap]
    exact ⟨rfl, fun _ => ⟨rfl, rfl⟩, fun _ hplace => absurd hplace hheap⟩

end Sys2Proof.Proofs
end

section
/-! Loads: the STRL that lands ahead of an access to the own pool, the values that the forms load, and what a load leaves that reads the own pool or takes an entry of the operand log (O12). -/

namespace Sys2Proof.Proofs
open Sys2Proof Sys2Proof.Machine Sys2Proof.Claim

/-! ### An STRL performed ahead (R333) -/

/-- Of a context: what its accesses act for, whether it is checked, and its pending results. -/
def standingCtx (c : Ctx) : Bool × BitVec 12 × Bool × List (Nat × Pending) := (c.ctl.steward, c.ctl.owner, c.ctl.chkEn, c.pend)

/-- The cycle and the core in focus, the core's operand log, and what stands of its context are as before. -/
def ResultsStand (s t : State) : Prop := t.gtc = s.gtc ∧ t.cur = s.cur ∧ (t.core.log, t.core.rf, t.core.acc) = (s.core.log, s.core.rf, s.core.acc) ∧ standingCtx t.core.ctx = standingCtx s.core.ctx

theorem ResultsStand.refl (s : State) : ResultsStand s s := ⟨rfl, rfl, rfl, rfl⟩

theorem ResultsStand.trans {s t u : State} (h : ResultsStand s t) (g : ResultsStand t u) : ResultsStand s u := by
  obtain ⟨h1, h2, h3, h4⟩ := h
  obtain ⟨g1, g2, g3, g4⟩ := g
  exact ⟨g1.trans h1, g2.trans h2, g3.trans h3, g4.trans h4⟩

theorem ResultsStand.context {s t : State} (h : ResultsStand s t) : t.core.ctx.ctl.steward = s.core.ctx.ctl.steward ∧ t.core.ctx.ctl.owner = s.core.ctx.ctl.owner ∧
    t.core.ctx.ctl.chkEn = s.core.ctx.ctl.chkEn ∧ t.core.ctx.pend = s.core.ctx.pend := by
  obtain ⟨-, -, -, hctx⟩ := h
  simpa [standingCtx] using hctx

theorem ResultsStand.log {s t : State} (h : ResultsStand s t) : t.core.log = s.core.log := by
  obtain ⟨-, -, hcore, -⟩ := h
  exact congrArg Prod.fst hcore

theorem ResultsStand.acting {s t : State} (h : ResultsStand s t) : acting t = acting s := by
  obtain ⟨hsteward, howner, -, -⟩ := h.context
  rw [Machine.acting, Machine.acting, steward, steward, hsteward, howner]

/-- The scoreboard's answer for a write rests on what stands (R136 KIND 2). -/
theorem ResultsStand.underWait_write {s t : State} (h : ResultsStand s t) (d : Dest × Nat) : underWait t [] (some d) = underWait s [] (some d) := by
  obtain ⟨-, -, hen, hpend⟩ := h.context
  obtain ⟨hgtc, -⟩ := h
  simp only [underWait, writeTrap, List.findSome?_nil, hgtc, hen, hpend]

theorem Touched.resultsStand {s t : State} (h : Touched s t) : ResultsStand s t := by
  obtain ⟨m, l, rfl⟩ := h
  exact .refl s

theorem putAbsent_resultsStand (s : State) (h : BitVec 56) (c : Ctx) : ResultsStand s (putAbsent s h c) := by
  have himage : ResultsStand s (putCtxImage s h c) := by
    rw [putCtxImage]
    dsimp only
    split
    · exact .refl s
    · refine ResultsStand.trans ?_ (touchPage_touched true _ _).resultsStand
      exact ⟨rfl, rfl, rfl, rfl⟩
  rw [putAbsent, putFields]
  split
  · exact himage
  · exact himage.trans (devPut_touched _ _ _ _).resultsStand

theorem modCtx_resultsStand {f : Ctx → Ctx} (hf : ∀ c, standingCtx (f c) = standingCtx c) (s : State) (h : BitVec 56) : ResultsStand s (modCtx s h f) := by
  have hcore {c : Core} (hc : coreModCtx s.core h f = some c) : (c.log, c.rf, c.acc) = (s.core.log, s.core.rf, s.core.acc) ∧ standingCtx c.ctx = standingCtx s.core.ctx := by
    rw [coreModCtx] at hc
    split at hc
    · cases hc; exact ⟨rfl, hf _⟩
    · obtain ⟨i, -, hi⟩ := Option.map_eq_some_iff.mp hc
      subst hi
      dsimp only
      rw [setSlot]
      split <;> exact ⟨rfl, rfl⟩
  rw [modCtx]
  split
  · exact ⟨rfl, rfl, hcore ‹_›⟩
  · split
    · exact .refl s
    · split
      · exact putAbsent_resultsStand s h _
      · exact .refl s

theorem addEnergy_standingCtx (c : Ctx) (x : Nat) : standingCtx (addEnergy c x) = standingCtx c := by
  obtain ⟨e, b, h⟩ := addEnergy_frame c x
  rw [h]
  rfl

theorem chargeTo_resultsStand (c : BitVec 56) (cls n : Nat) (s : State) : ResultsStand s (chargeTo c cls n s) := by
  rw [chargeTo]
  split
  · exact modCtx_resultsStand (fun x => addEnergy_standingCtx x _) s c
  · split
    · exact .refl s
    · exact .refl s

theorem setHold_resultsStand (u : Nat) (s : State) (h : BitVec 56) : ResultsStand s (setHold u s h) := by
  rw [setHold]
  split
  all_goals
    refine modCtx_resultsStand (fun _ => ?_) s h
    rfl

theorem setJnl_resultsStand (u i : Nat) (e : Option JnlEntry) (s : State) : ResultsStand s (setJnl u i e s) := by
  rw [setJnl, modCore, setCore]
  split
  · rename_i hu
    subst hu
    rw [getCore, if_pos rfl]
    split <;> exact ⟨rfl, rfl, rfl, rfl⟩
  · exact .refl s

theorem addAccess_form (a : OpenAccess) (s : State) : ∃ r, addAccess a s = { s with races := r } := by
  rw [addAccess]
  split
  · exact ⟨s.races, rfl⟩
  · exact ⟨_, rfl⟩

theorem recordAccess_resultsStand {a : OpenAccess} {s t : State} (h : recordAccess a s = some t) : ResultsStand s t := by
  obtain ⟨r, hr⟩ := addAccess_form a s
  rw [recordAccess, hr] at h
  split at h
  · split at h
    · cases h
    · cases h; exact .refl s
  · cases h; exact .refl s

theorem recordLate_resultsStand {a : OpenAccess} {s t : State} (h : recordLate a s = some t) : ResultsStand s t := by
  rw [recordLate] at h
  split at h
  · cases h
  · exact recordAccess_resultsStand h

theorem answerStore_resultsStand (u i : Nat) (e : JnlEntry) (s : State) : ResultsStand s (answerStore u i e s) := by
  have hrefuse (r : Refuse) : ResultsStand s (setHold u (setJnl u i (some { e with held := some s.gtc, reason := causeOf r }) s) e.ctx) :=
    (setJnl_resultsStand u i _ s).trans (setHold_resultsStand u _ e.ctx)
  rw [answerStore]
  dsimp only
  split
  · exact hrefuse _
  · split
    · exact hrefuse _
    · rename_i key _ _ s1 hs1
      have hstored : ResultsStand s { s1 with mem := setCells s1.mem key e.bytes } := by
        obtain ⟨hgtc, hcur, hcore, hctx⟩ := recordLate_resultsStand hs1
        exact ⟨hgtc, hcur, hcore, hctx⟩
      exact hstored.trans ((touchPage_touched true _ _).resultsStand.trans ((setJnl_resultsStand u i none _).trans (chargeTo_resultsStand e.ctx 3 _ _)))

theorem landStrl_resultsStand (s : State) : ResultsStand s (landStrl s) := by
  rw [landStrl]
  split
  · exact answerStore_resultsStand ..
  · exact .refl s

/-! ### Values (R156, R161, R218) -/

/-- g[a] + SEXT(imm) × size, over the integers. -/
theorem eaOf_eq {n : Nat} (s : State) (a : Reg) (imm : BitVec n) (size : Nat) : eaOf s a imm size = rdG s a + BitVec.ofInt 64 (imm.toInt * size) := by
  rw [eaOf, BitVec.ofInt_mul, BitVec.ofInt_natCast]
  rfl

theorem compactOffset_eq (off : BitVec 5) : (off.setWidth 64 * 8#64 : Word) = BitVec.ofNat 64 (off.toNat * 8) := by
  apply BitVec.eq_of_toNat_eq
  have hoff := off.isLt
  simp only [BitVec.toNat_mul, BitVec.toNat_setWidth, BitVec.toNat_ofNat]
  omega

/-- The scalar loaded, as an extension of a word of its width (R161). -/
theorem loadedWord_eq (signed : Bool) {log : Nat} (hlog : log ≤ 3) (bs : List Byte) :
    loadedWord signed log bs = if signed then (BitVec.ofNat (8 * 2 ^ log) (leNat bs)).signExtend 64 else (BitVec.ofNat (8 * 2 ^ log) (leNat bs)).setWidth 64 := by
  have hpos : 0 < 8 * 2 ^ log := by positivity
  have hle : 8 * 2 ^ log ≤ 64 := by
    have := Nat.pow_le_pow_right (n := 2) (by decide) hlog
    omega
  rw [loadedWord]
  generalize 8 * 2 ^ log = w at hpos hle
  have hx : leNat bs % 2 ^ w < 2 ^ w := Nat.mod_lt _ (Nat.two_pow_pos w)
  have hw : 2 ^ w ≤ 2 ^ 64 := Nat.pow_le_pow_right (by decide) hle
  have hlow : BitVec.setWidth 64 (BitVec.ofNat w (leNat bs)) = BitVec.ofNat 64 (leNat bs % 2 ^ w) := by
    apply BitVec.eq_of_toNat_eq
    rw [BitVec.toNat_setWidth, BitVec.toNat_ofNat, BitVec.toNat_ofNat]
  have hmsb : (BitVec.ofNat w (leNat bs)).msb = bitAt (leNat bs % 2 ^ w) (w - 1) := by
    rw [BitVec.msb_eq_getLsbD_last, BitVec.getLsbD, BitVec.toNat_ofNat, Nat.testBit_eq_decide_div_mod_eq, bitAt]
    rfl
  cases signed
  · simp only [Bool.false_eq_true, false_and, if_false]
    exact hlow.symm
  · simp only [true_and, if_true, ← hmsb]
    apply BitVec.eq_of_toNat_eq
    rw [BitVec.toNat_signExtend, hlow]
    split
    · rw [BitVec.toNat_ofNat, BitVec.toNat_ofNat, Nat.mod_eq_of_lt (a := leNat bs % 2 ^ w) (by omega), Nat.mod_eq_of_lt (by omega)]
    · rfl

theorem packNat_replicate_succ (w n x : Nat) : packNat w (List.replicate (n + 1) x) = packNat w (List.replicate n x) + x % 2 ^ w * 2 ^ (w * n) := by
  induction n with
  | zero => simp [packNat]
  | succ n ih =>
    calc packNat w (List.replicate (n + 1 + 1) x) = x % 2 ^ w + packNat w (List.replicate (n + 1) x) * 2 ^ w := rfl
      _ = x % 2 ^ w + packNat w (List.replicate n x) * 2 ^ w + x % 2 ^ w * 2 ^ (w * (n + 1)) := by rw [ih, Nat.mul_succ, Nat.pow_add]; ring
      _ = packNat w (List.replicate (n + 1) x) + x % 2 ^ w * 2 ^ (w * (n + 1)) := rfl

theorem ofNat_packNat_one (w x : Nat) : BitVec.ofNat w (packNat w (List.replicate 1 x)) = BitVec.ofNat w x := by
  apply BitVec.eq_of_toNat_eq
  simp [packNat]

/-- One lane value in every lane (R218). -/
theorem splatVec_eq (log x : Nat) : splatVec log x = BitVec.ofNat 256 (packNat (8 * 2 ^ log) (List.replicate (32 / 2 ^ log) x)) := by
  have hfold (w n : Nat) : (List.range n).foldl (fun v i => v + x % 2 ^ w * 2 ^ (w * i)) 0 = packNat w (List.replicate n x) := by
    induction n with
    | zero => rfl
    | succ n ih => rw [List.range_succ, List.foldl_append, ih, packNat_replicate_succ]; rfl
  rw [splatVec, hfold]

/-! ### The forms -/

/-- `f` is the model's form of a load without an acquire. -/
structure IsLoad (s : State) (L : Load) (f : LoadForm) : Prop where
  log : f.sizeLog = L.log
  dest : fileDest f.vec f.dest = L.dest
  k : f.k = L.k
  base : f.base = rdG s L.a
  sync : f.sync = none
  value : ∀ bs, loadedWrite f.kind f.sizeLog f.dest bs = L.write (leNat bs)
  span : L.log ≤ 5

theorem scalar_isLoad {log : Nat} (hlog : log ≤ 3) (signed : Bool) (sc : BitVec 2) (k : BitVec 4) (imm : BitVec 6) (a d : Reg) (s : State) :
    IsLoad s (scalar log signed sc k imm a d s) { sizeLog := log, kind := .scalar signed, vec := false, dest := d, k := k, base := rdG s a } where
  log := rfl
  dest := rfl
  k := rfl
  base := rfl
  sync := rfl
  value bs := congrArg (Pending.writeG d) (loadedWord_eq signed hlog bs)
  span := by show log ≤ 5; omega

theorem vector_isLoad {log lanes : Nat} {kind : LoadKind} (hlog : log ≤ 5) (sc : BitVec 2) (k : BitVec 4) (imm : BitVec 6) (a d : Reg) (s : State)
    (hv : ∀ bs, loadedWrite kind log d bs = .writeV d (BitVec.ofNat 256 (packNat (8 * 2 ^ log) (List.replicate lanes (leNat bs))))) :
    IsLoad s (vector log lanes sc k imm a d s) { sizeLog := log, kind := kind, vec := true, dest := d, k := k, base := rdG s a } where
  log := rfl
  dest := rfl
  k := rfl
  base := rfl
  sync := rfl
  value := hv
  span := hlog

theorem splat_value (log lanes : Nat) (h : 32 / 2 ^ log = lanes) (d : Reg) (bs : List Byte) :
    loadedWrite .splat log d bs = .writeV d (BitVec.ofNat 256 (packNat (8 * 2 ^ log) (List.replicate lanes (leNat bs)))) := by
  rw [loadedWrite, splatVec_eq, h]

theorem vec_value (d : Reg) (bs : List Byte) : loadedWrite .vec 5 d bs = .writeV d (BitVec.ofNat 256 (packNat (8 * 2 ^ 5) (List.replicate 1 (leNat bs)))) :=
  congrArg (Pending.writeV d) (ofNat_packNat_one 256 (leNat bs)).symm

/-- Each load is the shared load operation on its form. -/
theorem loadOf_exec {i : Instr} {s : State} {L : Load} (h : loadOf i s = some L) :
    ∃ f, IsLoad s L f ∧ exec i s = loadInstr f L.a L.ea (retireBy L.len 0 L.extra) s := by
  have hea {n : Nat} (a : Reg) (imm : BitVec n) (log : Nat) : eaOf s a imm (2 ^ log) = rdG s a + BitVec.ofInt 64 (imm.toInt * 2 ^ log) := by
    rw [eaOf_eq]
    norm_cast
  have hscalar (log : Nat) (hlog : log ≤ 3) (signed : Bool) (sc : BitVec 2) (k : BitVec 4) (imm : BitVec 6) (a d : Reg) (hL : scalar log signed sc k imm a d s = L)
      (he : exec i s = scalarLoad log signed sc k imm a d s) : ∃ f, IsLoad s L f ∧ exec i s = loadInstr f L.a L.ea (retireBy L.len 0 L.extra) s :=
    hL ▸ ⟨_, scalar_isLoad hlog signed sc k imm a d s, he.trans (by rw [scalarLoad, hea]; rfl)⟩
  have hsplat (log lanes : Nat) (hlanes : 32 / 2 ^ log = lanes) (hlog : log ≤ 3) (sc : BitVec 2) (k : BitVec 4) (imm : BitVec 6) (a d : Reg)
      (hL : vector log lanes sc k imm a d s = L) (he : exec i s = splatLoad log sc k imm a d s) :
      ∃ f, IsLoad s L f ∧ exec i s = loadInstr f L.a L.ea (retireBy L.len 0 L.extra) s :=
    hL ▸ ⟨_, vector_isLoad (by omega) sc k imm a d s (splat_value log lanes hlanes d), he.trans (by rw [splatLoad, hea]; rfl)⟩
  unfold loadOf at h
  split at h
  · exact hscalar 0 (by decide) _ _ _ _ _ _ (Option.some.inj h) rfl
  · exact hscalar 0 (by decide) _ _ _ _ _ _ (Option.some.inj h) rfl
  · exact hscalar 1 (by decide) _ _ _ _ _ _ (Option.some.inj h) rfl
  · exact hscalar 1 (by decide) _ _ _ _ _ _ (Option.some.inj h) rfl
  · exact hscalar 2 (by decide) _ _ _ _ _ _ (Option.some.inj h) rfl
  · exact hscalar 2 (by decide) _ _ _ _ _ _ (Option.some.inj h) rfl
  · exact hscalar 3 (by decide) _ _ _ _ _ _ (Option.some.inj h) rfl
  · rename_i r r2 off
    cases h
    obtain ⟨hlog, hdest, hk, hbase, hsync, hvalue, hspan⟩ := scalar_isLoad (log := 3) (by decide) true 0#2 0#4 0#6 (cReg r2) (cReg r) s
    refine ⟨_, ⟨hlog, hdest, hk, hbase, hsync, hvalue, hspan⟩, ?_⟩
    show execCLdd r r2 off s = _
    rw [execCLdd, compactOffset_eq]
    rfl
  · rename_i sc k imm a d
    cases h
    refine ⟨_, vector_isLoad (by decide) sc k imm a d s (vec_value d), ?_⟩
    show execLdv sc k imm a d s = _
    rw [execLdv, show eaOf s a imm 32 = eaOf s a imm (2 ^ 5) from rfl, hea]
    rfl
  · exact hsplat 0 32 rfl (by decide) _ _ _ _ _ (Option.some.inj h) rfl
  · exact hsplat 1 16 rfl (by decide) _ _ _ _ _ (Option.some.inj h) rfl
  · exact hsplat 2 8 rfl (by decide) _ _ _ _ _ (Option.some.inj h) rfl
  · exact hsplat 3 4 rfl (by decide) _ _ _ _ _ (Option.some.inj h) rfl
  · cases h

end Sys2Proof.Proofs
end

section
/-! What a load does: the trap that it takes, the read of the own pool, and the entry of the operand log; the statement about loads assembled from them (O12). -/

namespace Sys2Proof.Proofs
open Sys2Proof Sys2Proof.Machine Sys2Proof.Claim

/-! ### From the instruction to its checks (R162) -/

section
variable {f : LoadForm} {a : Reg} {ea : Word} {fin : State → State} {s : State} {t : TokenName}
  (htoken : tokenOf s f.k = some t) (hacq : acquirePending s = false) (hu : underWait s [.g a] none = none)
include htoken hacq hu

/-- A load that may issue runs its effect. -/
theorem loadInstr_runs : loadInstr f a ea fin s = loadOp f ea fin s := by
  rw [loadInstr, htoken, if_neg (show ¬(some t).isNone = true from Bool.false_ne_true), afterAcquire_none hacq, checked_none hu]

theorem loadInstr_misaligned (h : ea.toNat % 2 ^ f.sizeLog ≠ 0) : loadInstr f a ea fin s = trapAs (2#8, ea) s := by
  rw [loadInstr_runs htoken hacq hu, loadOp, withToken_some htoken]
  exact if_pos h

theorem loadInstr_refused (h : ea.toNat % 2 ^ f.sizeLog = 0) {c : Cause} (hroute : checkRoute s ea (2 ^ f.sizeLog) [.I] = .error c) :
    loadInstr f a ea fin s = trapAs c (rightsFill ea (2 ^ f.sizeLog) [.I] s) := by
  rw [loadInstr_runs htoken hacq hu, loadOp, withToken_some htoken, if_neg (not_not.mpr h), hroute]

theorem loadInstr_private (h : ea.toNat % 2 ^ f.sizeLog = 0) {st : Stamp} {key : Nat} {s1 : State} (hroute : checkRoute s ea (2 ^ f.sizeLog) [.I] = .ok (st, .priv key, s1)) :
    loadInstr f a ea fin s = guardToken t s1 (privLoad f t ea (.priv key) fin) := by
  rw [loadInstr_runs htoken hacq hu, loadOp, withToken_some htoken, if_neg (not_not.mpr h), hroute]

theorem loadInstr_remote (h : ea.toNat % 2 ^ f.sizeLog = 0) {st : Stamp} {s1 : State} (hroute : checkRoute s ea (2 ^ f.sizeLog) [.I] = .ok (st, .remote, s1)) :
    loadInstr f a ea fin s = guardToken t s1 (loggedLoad f t ea st fin) := by
  rw [loadInstr_runs htoken hacq hu, loadOp, withToken_some htoken, if_neg (not_not.mpr h), hroute]

end

/-! ### What issuing leaves -/

/-- The context of a load that has issued, before its instruction retires. -/
def loadCtx (c : Ctx) (t : TokenName) (pend : List (Nat × Pending)) (uncov : List Uncovered) : Ctx :=
  { ctxSetToken c t { ctxToken c t with issued := (ctxToken c t).issued + 1#16 } with pend := pend, uncov := uncov }

/-- A load's issue changes the token, the destination's record and the pending results, and retiring moves the PC and ENERGY. -/
theorem loadIssued_retire {L : Load} {t : TokenName} {s : State} {pend : List (Nat × Pending)} {uncov : List Uncovered} {n e : Nat} {b : Bool}
    {log : Vector (Option LogEntry) 16} {seq : Nat} {races : List OpenAccess} (ht : RealToken t)
    (huncov : destLive L.dest = true → ∃ x ∈ uncov, x.dest = L.dest ∧ x.token = t ∧ x.ordinal = (ctxToken s.core.ctx t).issued + 1#16) {u : State}
    (hu : u = { s with core := { s.core with ctx := charged (loadCtx s.core.ctx t pend uncov) n e b, log := log, seqNo := seq }, races := races }) :
    LoadIssued L t s (retireBy L.len 0 L.extra u) ∧ (retireBy L.len 0 L.extra u).core.log = log ∧ (retireBy L.len 0 L.extra u).core.ctx.pend = pend := by
  have hsame := ctxToken_set_same s.core.ctx t { ctxToken s.core.ctx t with issued := (ctxToken s.core.ctx t).issued + 1#16 }
  have hother {k' : TokenName} (hk : RealToken k') (hne : k' ≠ t) := ctxToken_set_ne (c := s.core.ctx) { ctxToken s.core.ctx t with issued := (ctxToken s.core.ctx t).issued + 1#16 } ht hk hne
  obtain ⟨k, hk, hframe⟩ := ctxSetToken_frame s.core.ctx t { ctxToken s.core.ctx t with issued := (ctxToken s.core.ctx t).issued + 1#16 }
  rw [hframe] at hsame hother
  rw [loadCtx, hframe] at hu
  obtain ⟨e', b', n', pc, lc, loops, hretire, hflow⟩ := retireBy_eq L.len 0 L.extra u
  rw [hretire, hu]
  rw [hu] at hflow
  refine ⟨⟨fun _ => rfl, rfl, rfl, rfl, rfl, hsame, fun k' _ hk' hne => hother (tokenOf_real hk') hne, huncov, hflow⟩, rfl, rfl⟩

/-! ### The two halves (R157, R158) -/

/-- The state in which a load from the own pool retires: its read of `p` and its post due at t + 3, and its bytes charged. -/
def privRead (d : Dest) (t : TokenName) (p : Pending) (n : Nat) (s : State) : State :=
  charge 3 n (addUncovered d t (some (s.gtc + 3)) (later 3 (.post t) (later 3 p (issueToken t s))))

theorem privRead_form (d : Dest) (t : TokenName) (p : Pending) (n : Nat) (s : State) :
    ∃ l k e b, (destLive d = true → ∃ x ∈ l, x.dest = d ∧ x.token = t ∧ x.ordinal = (ctxToken s.core.ctx t).issued + 1#16) ∧
      privRead d t p n s = setCtx s (charged (loadCtx s.core.ctx t (s.core.ctx.pend ++ [(s.gtc + 3, p), (s.gtc + 3, .post t)]) l) k e b) := by
  have hissued := ctxToken_set_same s.core.ctx t { ctxToken s.core.ctx t with issued := (ctxToken s.core.ctx t).issued + 1#16 }
  obtain ⟨k, hk, hframe⟩ := ctxSetToken_frame s.core.ctx t { ctxToken s.core.ctx t with issued := (ctxToken s.core.ctx t).issued + 1#16 }
  simp only [privRead, issueToken, loadCtx, hframe] at hissued ⊢
  obtain ⟨l, hl, hcov⟩ := addUncovered_form d t (some (s.gtc + 3)) (later 3 (.post t) (later 3 p (setCtx s { s.core.ctx with regs := { s.core.ctx.regs with k := k, hk := hk } })))
  rw [hl]
  obtain ⟨m, e, b, hcharge⟩ := charge_charged 3 n (setCtx (later 3 (.post t) (later 3 p (setCtx s { s.core.ctx with regs := { s.core.ctx.regs with k := k, hk := hk } })))
    { (later 3 (.post t) (later 3 p (setCtx s { s.core.ctx with regs := { s.core.ctx.regs with k := k, hk := hk } }))).core.ctx with uncov := l })
  refine ⟨l, m, e, b, fun hlive => ?_, ?_⟩
  · obtain ⟨x, hx, hxd, hxt, hxo⟩ := hcov hlive
    exact ⟨x, hx, hxd, hxt, hxo.trans (congrArg Token.issued hissued)⟩
  · rw [hcharge, later, later]
    simp only [setCtx_core_ctx, setCtx_gtc, List.append_assoc]
    rfl

/-- An access that conflicts with no open one is recorded with the detector (R317). -/
theorem recordAccess_unraced {s : State} {a : OpenAccess} (h : Unraced s a) : recordAccess a s = some (addAccess a s) := by
  have hno : ¬(s.races.any fun b => !b.closed && conflicts a b) = true := by
    intro hany
    obtain ⟨b, hb, hc⟩ := List.any_eq_true.mp hany
    obtain ⟨hopen, hconf⟩ := (Bool.and_eq_true ..).mp hc
    rw [h b hb (by simpa using hopen)] at hconf
    cases hconf
  rw [recordAccess, if_neg hno]

theorem privAccess_unraced {s : State} {key : Nat} (h : Unraced s (myAccess s key false true none)) : ∃ r, privAccess s (.priv key) false none = some { s with races := r } := by
  obtain ⟨r, hr⟩ := addAccess_form (myAccess s key false true none) s
  exact ⟨r, by rw [privAccess, recordAccess_unraced h, hr]⟩

theorem privLoad_reads {L : Load} {t : TokenName} {s : State} {f : LoadForm} (hf : IsLoad s L f) {key : Nat} (hready : underWait s [] (some (L.dest, 3)) = none)
    (hwaits : privWaits s key (2 ^ L.log) false none = false) (hraces : Unraced (landStrl s) (myAccess (landStrl s) key false true none)) (fin : State → State) :
    ∃ r, privLoad f t L.ea (.priv key) fin s =
      .next (fin (privRead L.dest t (L.write (getLe (landStrl s).mem key (2 ^ L.log))) (2 ^ L.log) { landStrl s with races := r })) := by
  obtain ⟨hlog, hdest, -, -, hsync, hvalue, -⟩ := hf
  obtain ⟨r, hr⟩ := privAccess_unraced hraces
  refine ⟨r, ?_⟩
  rw [privLoad, hdest, checked_none hready, hsync, afterAlias, hlog, hwaits]
  dsimp only
  rw [if_neg Bool.false_ne_true, hr, ← hlog, hvalue]
  rfl

theorem privLoad_issues {L : Load} {t : TokenName} {s : State} {f : LoadForm} (hf : IsLoad s L f) (ht : RealToken t) {key : Nat} (hready : underWait s [] (some (L.dest, 3)) = none)
    (hwaits : privWaits s key (2 ^ L.log) false none = false) (hraces : Unraced (landStrl s) (myAccess (landStrl s) key false true none)) :
    ∃ u, privLoad f t L.ea (.priv key) (retireBy L.len 0 L.extra) s = .next u ∧ LoadIssued L t (landStrl s) u ∧ u.core.log = s.core.log ∧
      u.core.ctx.pend = s.core.ctx.pend ++ [(s.gtc + 3, L.write (getLe (landStrl s).mem key (2 ^ L.log))), (s.gtc + 3, .post t)] := by
  have hlogs := (landStrl_resultsStand s).log
  obtain ⟨-, -, -, hpend⟩ := (landStrl_resultsStand s).context
  obtain ⟨hgtc, -⟩ := landStrl_resultsStand s
  obtain ⟨r, hexec⟩ := privLoad_reads (t := t) hf hready hwaits hraces (retireBy L.len 0 L.extra)
  generalize landStrl s = w at *
  obtain ⟨l, n, e, b, hcov, hform⟩ := privRead_form L.dest t (L.write (getLe w.mem key (2 ^ L.log))) (2 ^ L.log) { w with races := r }
  rw [hform] at hexec
  obtain ⟨hissued, hlog, hpends⟩ := loadIssued_retire (L := L) (s := w) ht hcov rfl
  exact ⟨_, hexec, hissued, hlog.trans hlogs, hpends.trans (by rw [← hpend, ← hgtc])⟩

theorem loggedLoad_holds {f : LoadForm} {s : State} (h : ∀ n : Fin 16, s.core.log[n] ≠ none) (t : TokenName) (ea : Word) (st : Stamp) (fin : State → State) :
    loggedLoad f t ea st fin s = .next (hold false s) := by
  have hfree : freeIndex s.core.log = none := List.find?_eq_none.mpr fun n _ => by simpa [Option.isNone_iff_eq_none] using h n
  rw [loggedLoad, hfree]


theorem freeIndex_first {α : Type} {k : Nat} {v : Vector (Option α) k} {n : Fin k} (h : v[n] = none) (hbefore : ∀ m, m < n → v[m] ≠ none) : freeIndex v = some n := by
  rw [freeIndex, List.find?_eq_some_iff_getElem]
  refine ⟨by simp [h], n.val, by simp, by simp, fun j hj => ?_⟩
  have hj' := hbefore ⟨j, by omega⟩ hj
  simpa [Option.isSome_iff_ne_none] using hj'

theorem loggedLoad_issues {L : Load} {t : TokenName} {s : State} {f : LoadForm} {st : Stamp} (hf : IsLoad s L f) (ht : RealToken t) {n : Fin 16} (hn : s.core.log[n] = none)
    (hbefore : ∀ m, m < n → s.core.log[m] ≠ none) :
    ∃ u, loggedLoad f t L.ea st (retireBy L.len 0 L.extra) s = .next u ∧ LoadIssued L t s u ∧ u.core.log = s.core.log.set n (some (logEntry f t L.ea st s)) ∧
      u.core.ctx.pend = s.core.ctx.pend := by
  obtain ⟨k, hk, hframe⟩ := ctxSetToken_frame s.core.ctx t { ctxToken s.core.ctx t with issued := (ctxToken s.core.ctx t).issued + 1#16 }
  obtain ⟨l, hl, hcov⟩ := addUncovered_form (fileDest f.vec f.dest) t none (issueToken t s)
  have hexec : loggedLoad f t L.ea st (retireBy L.len 0 L.extra) s = .next (retireBy L.len 0 L.extra
      { setCtx s { (issueToken t s).core.ctx with uncov := l } with
        core := { (setCtx s { (issueToken t s).core.ctx with uncov := l }).core with
          log := s.core.log.set n (some (logEntry f t L.ea st s)), seqNo := s.core.seqNo + 1 } }) := by
    rw [loggedLoad, freeIndex_first hn hbefore]
    dsimp only
    rw [hl]
    rfl
  obtain ⟨hissued, hlog, hpend⟩ := loadIssued_retire (L := L) (s := s) (uncov := l) (n := s.core.ctx.recent) (e := s.core.ctx.ctl.energy) (b := s.core.ctx.ctl.energySat)
    (races := s.races) (pend := s.core.ctx.pend) (log := s.core.log.set n (some (logEntry f t L.ea st s))) (seq := s.core.seqNo + 1) ht
    (fun hlive => by
      obtain ⟨x, hx, hxd, hxt, hxo⟩ := hcov (hf.dest ▸ hlive)
      exact ⟨x, hx, hxd.trans hf.dest, hxt, hxo.trans (congrArg Token.issued (ctxToken_set_same ..))⟩)
    (u := { setCtx s { (issueToken t s).core.ctx with uncov := l } with
        core := { (setCtx s { (issueToken t s).core.ctx with uncov := l }).core with
          log := s.core.log.set n (some (logEntry f t L.ea st s)), seqNo := s.core.seqNo + 1 } })
    (by rw [issueToken, loadCtx, hframe]; rfl)
  exact ⟨_, hexec, hissued, hlog, hpend⟩

theorem fileDest_g {vec : Bool} {d e : Reg} (h : fileDest vec d = .g e) : d = e ∧ vec = false := by
  cases vec <;> cases h
  exact ⟨rfl, rfl⟩

theorem fileDest_v {vec : Bool} {d e : Reg} (h : fileDest vec d = .v e) : d = e ∧ vec = true := by
  cases vec <;> cases h
  exact ⟨rfl, rfl⟩

/-! ### The statement's parts -/

theorem privateLoads : PrivateLoads := by
  intro i s L k hload hready hdest haligned hown
  obtain ⟨f, hf, hexec⟩ := loadOf_exec hload
  obtain ⟨hacq, hu, htoken, hroom⟩ := hready
  obtain ⟨huser, hplace, hfit, hwaits, hraces⟩ := hown
  have hspan : L.log ≤ 5 := hf.span
  obtain ⟨hroute, -⟩ := checkRoute_priv huser hplace (aligned_granule (by omega) haligned) .I
  rw [if_pos hfit] at hroute
  obtain ⟨u, hrun, hissued, hlog, hpend⟩ := privLoad_issues hf (tokenOf_real htoken) hdest hwaits (hraces 0 (Nat.div_pos (by have := Nat.one_le_two_pow (n := L.log); omega) (by decide)))
  refine ⟨u, ?_, hissued, hlog, hpend⟩
  rw [hexec, loadInstr_private (hf.k ▸ htoken) hacq hu (hf.log ▸ haligned) (hf.log ▸ hroute), guardToken_room hroom, hrun]

theorem loggedLoads : LoggedLoads := by
  intro i s s1 L k st hload hready haligned hm hroute
  obtain ⟨f, hf, hexec⟩ := loadOf_exec hload
  obtain ⟨hacq, hu, htoken, hroom⟩ := hready
  have hchecked := checked_of_checkRoute hm hroute
  have hs1 := hchecked.1
  have hctx : s1.core.ctx = s.core.ctx := by rw [hs1]
  have hlog : s1.core.log = s.core.log := by rw [hs1]
  have hrun : exec i s = loggedLoad f k L.ea st (retireBy L.len 0 L.extra) s1 := by
    rw [hexec, loadInstr_remote (hf.k ▸ htoken) hacq hu (hf.log ▸ haligned) (hf.log ▸ hroute), guardToken_room (by rw [hctx]; exact hroom)]
  refine ⟨hchecked, fun hfull => ?_, fun n hn hbefore => ?_⟩
  · rw [hrun, loggedLoad_holds (hlog.symm ▸ hfull)]
  · have hf1 : IsLoad s1 L f := { hf with base := hf.base.trans (by rw [rdG, rdG, hctx]) }
    obtain ⟨u, hissue, hissued, hlogged, hpend⟩ := loggedLoad_issues (st := st) hf1 (tokenOf_real htoken) (hlog.symm ▸ hn) (hlog.symm ▸ hbefore)
    refine ⟨u, _, hrun.trans hissue, hissued, hlogged.trans (by rw [hlog]), hpend.trans (by rw [hctx]), ?_, ?_, rfl, ?_, rfl, ?_, ?_, rfl, rfl, ?_, ?_⟩
    · show s1.core.ir = s.core.ir
      rw [hs1]
    · exact hf.base
    · exact hf.log
    · show acting s1 = acting s
      rw [hs1]; rfl
    · show s1.core.ctx.rcd.chrys = _
      rw [hctx]
    · exact fun d hd => fileDest_g (hf.dest.trans hd)
    · exact fun d hd => fileDest_v (hf.dest.trans hd)

theorem loadFaults : LoadFaults := by
  intro i s L k hload huser hacq hu htoken
  obtain ⟨f, hf, hexec⟩ := loadOf_exec hload
  have hspan : L.log ≤ 5 := hf.span
  have htoken' : tokenOf s f.k = some k := hf.k ▸ htoken
  refine ⟨fun hodd => ?_, fun haligned hplace => ⟨fun hpast => ?_, fun hfit hfull => ?_⟩⟩
  · exact trapAs_traps huser (hexec.trans (loadInstr_misaligned htoken' hacq hu (hf.log ▸ hodd)))
  all_goals
    obtain ⟨hroute, hfill⟩ := checkRoute_priv huser.1 hplace (aligned_granule (by omega) haligned) .I
  · rw [if_neg (Nat.not_le_of_lt hpast)] at hroute
    have hrun := loadInstr_refused (fin := retireBy L.len 0 L.extra) htoken' hacq hu (hf.log ▸ haligned) (hf.log ▸ hroute)
    rw [hf.log, hfill] at hrun
    exact trapAs_traps huser (hexec.trans hrun)
  · rw [if_pos hfit] at hroute
    have hrun := loadInstr_private (fin := retireBy L.len 0 L.extra) htoken' hacq hu (hf.log ▸ haligned) (hf.log ▸ hroute)
    rw [guardToken_full hfull, tokenNo_k ((tokenOf_handler htoken).trans huser.1)] at hrun
    exact trapAs_traps huser (hexec.trans hrun)

/-- Settles O12: each of its three parts by the lemmas about the shared load operation. -/
theorem loads : Obligations.Loads := ⟨privateLoads, loggedLoads, loadFaults⟩

end Sys2Proof.Proofs
end

section
/-! Jumps that link, traps after checks that fill the PLB, and posts to the context that issues (R60, R131, R138, R176, R357). -/

namespace Sys2Proof.Proofs
open Sys2Proof Sys2Proof.Machine Sys2Proof.Claim

/-! ### Scoreboard checks (R136) -/

/-- A check of reads and a write covers the check of the reads and that of the write. -/
theorem underWait_parts {s : State} {reads : List Dest} {w : Dest × Nat} (h : underWait s reads (some w) = none) : underWait s reads none = none ∧ underWait s [] (some w) = none := by
  obtain ⟨d, lat⟩ := w
  rw [underWait] at h ⊢
  rw [underWait]
  split at h
  · exact ⟨if_pos ‹_›, if_pos ‹_›⟩
  · rename_i hen
    rw [if_neg hen, if_neg hen]
    split at h
    · cases h
    · exact ⟨rfl, h⟩

/-! ### Jumps with a link (R176, R180) -/

theorem writesG_putG (d : Reg) (x : Word) (s : State) : WritesG d x s (putG d x s) :=
  writesG_ctxPutG (c := { s.core.ctx with pend := s.core.ctx.pend.filter fun p => !stalePend d (s.gtc + 1) p }) rfl d x

/-- A transfer with a link: the levels that it leaves have ended, the link is written, and nothing else changes. -/
theorem jumpsWithLink_of {i : Instr} {s : State} {sc : BitVec 2} {x : BitVec 16} {d : Reg} {link : Word} (h : exec i s = .next (transfer sc x (putG d link s))) :
    JumpsWithLink i s sc.toNat x d link := by
  obtain ⟨e, b, n, lc, loops, htransfer, hlevels⟩ := transfer_eq sc x (putG d link s)
  have hwrites := writesG_putG d link s
  obtain ⟨g, hput⟩ := putG_form d link s
  rw [hput] at htransfer hlevels hwrites
  rw [hput, htransfer] at h
  exact ⟨_, h, ⟨fun _ => rfl, rfl⟩, rfl, rfl, ⟨rfl, hlevels⟩, rfl, hwrites, rfl⟩

theorem jumpLink_goes {s : State} {x : BitVec 16} {d : Reg} (hx : fetchTrap s x = none) (hu : underWait s [] (some (.g d, 1)) = none) (sc : BitVec 2) (link : Word) :
    jumpLink sc x d link s = .next (transfer sc x (putG d link s)) := by
  rw [jumpLink, hx]
  dsimp only
  rw [checked_none hu, jumpTo, hx]

/-! ### Traps after refused checks (R60) -/

/-- `t` is `s` but for the PLB of the core in focus and the lock of the rights block's table registers. -/
def ChecksMoved (s t : State) : Prop := ∃ p l, t = { s with core := { s.core with plb := p }, hub := { s.hub with rights := { s.hub.rights with locked := l } } }

theorem ChecksMoved.trans {s t u : State} (h : ChecksMoved s t) (g : ChecksMoved t u) : ChecksMoved s u := by
  obtain ⟨p, l, rfl⟩ := h
  obtain ⟨q, k, rfl⟩ := g
  exact ⟨q, k, rfl⟩

theorem PlbMoved.checksMoved {s t : State} (h : PlbMoved s t) : ChecksMoved s t := by
  obtain ⟨p, rfl⟩ := h
  exact ⟨p, s.hub.rights.locked, rfl⟩

theorem lockHeap_checksMoved (va : Nat) (s : State) : ChecksMoved s (lockHeap va s) := by
  rw [lockHeap]
  split
  · exact ⟨s.core.plb, true, rfl⟩
  · exact (PlbMoved.refl s).checksMoved

theorem granuleFill_checksMoved (s : State) (o : BitVec 12) (va : Word) : ChecksMoved s (granuleFill s o va) := by
  rw [granuleFill]
  split
  · exact (PlbMoved.refl s).checksMoved
  · exact (PlbMoved.refl s).checksMoved
  · refine ChecksMoved.trans (PlbMoved.checksMoved ?_) (lockHeap_checksMoved _ _)
    split
    · exact .refl s
    · obtain ⟨p, rfl⟩ := plbLookup_frame ‹_›
      exact ⟨p, rfl⟩

theorem fillMore_checksMoved (s : State) (o : BitVec 12) (va : Word) (n : Right) (k : Nat) : ChecksMoved s (fillMore s o va n k) := by
  induction k generalizing s va with
  | zero => exact (PlbMoved.refl s).checksMoved
  | succ k ih =>
    rw [fillMore]
    split
    · exact granuleFill_checksMoved s o va
    · exact (checkGranule_moves ‹_›).checksMoved.trans (ih _ _)

theorem checkFill_checksMoved (s : State) (o : BitVec 12) (va : Word) (len : Nat) (n : Right) : ChecksMoved s (checkFill s o va len n) := by
  rw [checkFill]
  split
  · exact granuleFill_checksMoved s o va
  · exact (checkGranule_moves ‹_›).checksMoved.trans (fillMore_checksMoved _ _ _ _ _)

/-- A trap from the state that the refused checks have left. -/
theorem trapAs_trapsFrom {i : Instr} {s s1 : State} {c : Cause} (hu : User s) (hmoved : ChecksMoved s s1) (h : exec i s = trapAs c s1) :
    TrapsFrom i s s1 c.1 c.2 (codeVa s s.core.ctx.pc) := by
  obtain ⟨p, l, rfl⟩ := hmoved
  obtain ⟨n, e, b, hcharge⟩ := charge_charged (issueClass s.core.ir) 1 { s with core := { s.core with plb := p }, hub := { s.hub with rights := { s.hub.rights with locked := l } } }
  refine ⟨_, h, ?_⟩
  have henters := takeTrapAt_enters (s := { s with core := { s.core with plb := p }, hub := { s.hub with rights := { s.hub.rights with locked := l } } }) hu c
    (codeVa s s.core.ctx.pc) (issueClass s.core.ir) 1
  rw [hcharge] at henters ⊢
  exact henters

/-! ### Posts (R131, R138) -/

/-- A context that issues is reached where it lies. -/
theorem touchCtx_issuing {s : State} {c : BitVec 56} (h : Issues s c) (f : Ctx → Ctx) : touchCtx s c f = setCtx s (f s.core.ctx) := by
  obtain ⟨hissuing, hchrys, -⟩ := h
  have hi : issues s.core c = true := by rw [issues, hissuing, hchrys]; simp
  rw [touchCtx, findCtx, coreCtx, if_pos hi]
  dsimp only
  rw [modCtx, coreModCtx, if_pos hi]
  rfl

theorem posts_of_ctx {s u : State} {t : TokenName} (hctx : u.core.ctx = ctxPost s.core.ctx t) (hlog : u.core.log = s.core.log) (hjnl : u.core.journal = s.core.journal) : Posts s u t := by
  have hsame := ctxToken_set_same s.core.ctx t { ctxToken s.core.ctx t with count := (ctxToken s.core.ctx t).count + 1#16 }
  obtain ⟨why, b, i, w, st, pre, hpost⟩ := ctxPost_form s.core.ctx t
  obtain ⟨k, hk, hframe⟩ := ctxSetToken_frame s.core.ctx t { ctxToken s.core.ctx t with count := (ctxToken s.core.ctx t).count + 1#16 }
  rw [hframe] at hpost hsame
  rw [hpost] at hctx
  refine ⟨?_, fun r => ?_, fun r => ?_, ?_, hlog, hjnl⟩
  · rw [hctx]; exact hsame
  · rw [rdG, rdG, hctx]; rfl
  · rw [rdM, rdM, hctx]; rfl
  · rw [hctx]

theorem postTo_issuing {s : State} {c : BitVec 56} (h : Issues s c) (t : TokenName) : postTo c t s = setCtx s (ctxPost s.core.ctx t) := touchCtx_issuing h _

end Sys2Proof.Proofs
end

section
/-! Code in instruction memory: jumps to code addresses, the segment's descriptor, and CFETCH with its completion (O37; R107, R120 to R123). -/

namespace Sys2Proof.Proofs
open Sys2Proof Sys2Proof.Machine Sys2Proof.Claim

/-! ### JF, JFR and CSEG (R121 to R123) -/

theorem jumpCode_ok {s : State} {c : Word} {p : BitVec 16} (h : resolve s c = .ok p) (sc : BitVec 2) (d : Reg) :
    jumpCode sc c d s = jumpLink sc p d ((codeVa s s.core.ctx.pc + 4#56).setWidth 64) s := by rw [jumpCode, h]

theorem jumpCode_error {s : State} {c : Word} {e : Cause} (h : resolve s c = .error e) (sc : BitVec 2) (d : Reg) : jumpCode sc c d s = trapAs e s := by rw [jumpCode, h]

/-- JF's offset counts parcels (R121). -/
theorem exec_jf (off : BitVec 17) (d : Reg) (s : State) : exec (.jf off d) s = jumpCode 0#2 ((codeVa s s.core.ctx.pc).setWidth 64 + BitVec.ofInt 64 (off.toInt * 2)) d s := by
  show execJf off d s = _
  rw [execJf, BitVec.ofInt_mul]
  rfl

theorem exec_jfr {s : State} {a : Reg} (hu : underWait s [.g a] none = none) (sc : BitVec 2) (d : Reg) : exec (.jfr sc a d) s = jumpCode sc (rdG s a) d s := checked_none hu _

theorem segWord_eq (g : Seg) : segWord g = segDescriptor g := by
  rw [segWord, segDescriptor]
  cases g.st <;> rfl

/-- CSEG reads the descriptor before it changes it (R123). -/
theorem exec_cseg {s : State} {d : Reg} (hu : underWait s [] (some (.g d, 2)) = none) (sc : BitVec 2) (inv : BitVec 1) (seg : BitVec 4) :
    exec (.cseg sc inv seg d) s =
      if inv = 0#1 then .next (retire sc (putGLater 2 d (segDescriptor (segOf s.core seg)) s))
      else if seg = 15#4 ∧ steward s = false then trapAs (3#8, seg.setWidth 64) s
      else if seg = segNo s.core.ctx.pc ∨ (segOf s.core seg).st = .loading then trapAs (8#8, seg.setWidth 64) s
      else .next (retire sc { putGLater 2 d (segDescriptor (segOf s.core seg)) s with
        core := setSeg (putGLater 2 d (segDescriptor (segOf s.core seg)) s).core seg { segOf s.core seg with st := .empty, err := 0#4 } }) := by
  show execCseg sc inv seg d s = _
  rw [execCseg, checked_none hu]
  dsimp only
  rw [segWord_eq]
  rfl

/-- R123's conditions, as the model decides them. -/
theorem segFree_iff (s : State) (seg : BitVec 4) : SegFree s seg ↔ ¬(seg = 15#4 ∧ steward s = false) ∧ ¬(seg = segNo s.core.ctx.pc ∨ (segOf s.core seg).st = .loading) := by
  rw [SegFree, not_or, not_and, steward, Bool.not_eq_false]
  rfl

theorem jumpsToCodeAndSegments : JumpsToCodeAndSegments := by
  intro s sc off a d seg p e link near g
  refine ⟨fun hp => ⟨fun hu hr => ?_, fun hu hr => ?_⟩, fun huser => ⟨fun hr => ?_, fun hu hr => ?_⟩, fun hu => ⟨?_, fun hfree => ?_, fun huser h15 => ?_, fun huser h15 hbusy => ?_⟩⟩
  · exact jumpsWithLink_of (sc := 0#2) (by rw [exec_jf, jumpCode_ok hr, jumpLink_goes hp hu])
  · obtain ⟨hread, hwrite⟩ := underWait_parts hu
    exact jumpsWithLink_of (by rw [exec_jfr hread, jumpCode_ok hr, jumpLink_goes hp hwrite])
  · exact trapAs_traps huser ((exec_jf off d s).trans (jumpCode_error hr _ _))
  · exact trapAs_traps huser ((exec_jfr hu sc d).trans (jumpCode_error hr _ _))
  · exact givesGLater_of_movesOn ((exec_cseg hu sc 0#1 seg).trans (if_pos rfl)) (retire_movesOn sc _)
  · obtain ⟨hown, hbusy⟩ := (segFree_iff s seg).mp hfree
    have hexec := exec_cseg hu sc 1#1 seg
    rw [if_neg (by decide), if_neg hown, if_neg hbusy] at hexec
    exact completesAs_retire hexec
  · have hexec := exec_cseg hu sc 1#1 seg
    rw [if_neg (by decide), if_pos ⟨h15, huser.1⟩, h15] at hexec
    exact h15 ▸ trapAs_traps huser hexec
  · have hexec := exec_cseg hu sc 1#1 seg
    have hown : ¬(seg = 15#4 ∧ steward s = false) := fun h => h15 h.1
    rw [if_neg (by decide), if_neg hown, if_pos (not_not.mp fun h => hbusy ((segFree_iff s seg).mpr ⟨hown, h⟩))] at hexec
    exact trapAs_traps huser hexec

/-! ### CFETCH (R107, R120) -/

/-- Replaced code is forgotten by the quad's viceroy (R406, R415), and nothing else changes. -/
theorem replacedSeg_form (g : Seg) (page : BitVec 44) (s : State) : ∃ q, replacedSeg g page s = { s with quads := q } := by
  have hcode (q : Nat) (base : BitVec 44) (s : State) : ∃ v, replaceCode q base s = { s with quads := v } := ⟨_, rfl⟩
  rw [replacedSeg]
  split
  · split
    · obtain ⟨v, hv⟩ := hcode (quadOf s.cur) g.base s
      obtain ⟨w, hw⟩ := hcode (quadOf s.cur) page (replaceCode (quadOf s.cur) g.base s)
      exact ⟨w, by rw [hw, hv]⟩
    · exact hcode _ _ _
  · exact ⟨s.quads, rfl⟩

/-- What a CFETCH leaves that issues its read. -/
theorem cfetchNow_loads (sc : BitVec 2) (t : TokenName) (seg : BitVec 4) (c : Word) (st : Stamp) (s : State) :
    ∃ u, cfetchNow sc t seg c st s = .next u ∧ NoG s u ∧ Follows 4 s u ∧ u.mem = s.mem ∧
      ctxToken u.core.ctx t = { ctxToken s.core.ctx t with issued := (ctxToken s.core.ctx t).issued + 1#16 } ∧
      u.core.segs = s.core.segs.set seg.toNat { st := .loading, err := 0#4, base := c.extractLsb' 12 44 } seg.isLt ∧
      u.core.fetches = s.core.fetches ++ [{ seg := seg, addr := c, owner := acting s, ctx := s.core.ctx.rcd.chrys, token := t, stamp := st }] := by
  have hissued := ctxToken_set_same s.core.ctx t { ctxToken s.core.ctx t with issued := (ctxToken s.core.ctx t).issued + 1#16 }
  obtain ⟨k, hk, hframe⟩ := ctxSetToken_frame s.core.ctx t { ctxToken s.core.ctx t with issued := (ctxToken s.core.ctx t).issued + 1#16 }
  obtain ⟨q, hq⟩ := replacedSeg_form (segOf s.core seg) (c.extractLsb' 12 44) s
  have htoken : issueToken t { s with quads := q } = setCtx { s with quads := q } { s.core.ctx with regs := { s.core.ctx.regs with k := k, hk := hk } } := by rw [← hframe]; rfl
  rw [hframe] at hissued
  rw [cfetchNow, hq, htoken]
  dsimp only
  obtain ⟨e, b, n, pc, lc, loops, hretire, hflow⟩ := retireBy_eq 4 0 sc.toNat
    { setCtx { s with quads := q } { s.core.ctx with regs := { s.core.ctx.regs with k := k, hk := hk } } with
      core := { setSeg (setCtx { s with quads := q } { s.core.ctx with regs := { s.core.ctx.regs with k := k, hk := hk } }).core seg
          { st := .loading, err := 0#4, base := c.extractLsb' 12 44 } with
        fetches := s.core.fetches ++ [{ seg := seg, addr := c, owner := acting s, ctx := me s, token := t, stamp := st }] } }
  exact ⟨_, congrArg _ hretire, fun _ => rfl, hflow, rfl, hissued, rfl, rfl⟩

section
variable {s : State} {k seg : BitVec 4} {a : Reg} {t : TokenName} (hacq : acquirePending s = false) (hu : underWait s [.g a] none = none) (htoken : tokenOf s k = some t)
include hacq hu htoken

theorem cfetch_refused {e : Cause} (h : cfetchTrap s seg (rdG s a) = some e) (sc : BitVec 2) : exec (.cfetch sc k seg a) s = trapAs e s := by
  show execCfetch sc k seg a s = _
  rw [execCfetch, afterAcquire_none hacq, withToken_some htoken, checked_none hu]
  dsimp only
  rw [h]

theorem cfetch_checkFails (h : cfetchTrap s seg (rdG s a) = none) {r : Refuse} (hc : check s (acting s) (rdG s a) 4096 .X = .error r) (sc : BitVec 2) :
    exec (.cfetch sc k seg a) s = trapAs (causeOf r, rdG s a) (checkFill s (acting s) (rdG s a) 4096 .X) := by
  show execCfetch sc k seg a s = _
  rw [execCfetch, afterAcquire_none hacq, withToken_some htoken, checked_none hu]
  dsimp only
  rw [h, hc]

theorem cfetch_passes (h : cfetchTrap s seg (rdG s a) = none) {st : Stamp} {s1 : State} (hc : check s (acting s) (rdG s a) 4096 .X = .ok (st, s1)) (sc : BitVec 2) :
    exec (.cfetch sc k seg a) s = guardToken t s1 (cfetchNow sc t seg (rdG s a) st) := by
  show execCfetch sc k seg a s = _
  rw [execCfetch, afterAcquire_none hacq, withToken_some htoken, checked_none hu]
  dsimp only
  rw [h, hc]

theorem cfetch_traps (huser : User s) {e : Cause} (h : cfetchTrap s seg (rdG s a) = some e) (sc : BitVec 2) : Traps (.cfetch sc k seg a) s e.1 e.2 (codeVa s s.core.ctx.pc) :=
  trapAs_traps huser (cfetch_refused hacq hu htoken h sc)

end

/-- The order of R120's traps before the check of rights. -/
theorem cfetchTrap_free {s : State} {seg : BitVec 4} (h : SegFree s seg) (c : Word) :
    cfetchTrap s seg c = if c.extractLsb' 56 8 = 0#8 ∧ c.extractLsb' 0 12 = 0#12 then none else some (2#8, c) := by
  obtain ⟨hown, hbusy⟩ := (segFree_iff s seg).mp h
  rw [cfetchTrap, if_neg hown, if_neg hbusy]
  by_cases h1 : c.extractLsb' 56 8 = 0#8 <;> by_cases h2 : c.extractLsb' 0 12 = 0#12 <;> simp [h1, h2]

theorem cfetchTrap_busy {s : State} {seg : BitVec 4} (h15 : seg ≠ 15#4) (h : ¬SegFree s seg) (c : Word) : cfetchTrap s seg c = some (8#8, seg.setWidth 64) := by
  have hown : ¬(seg = 15#4 ∧ steward s = false) := fun h => h15 h.1
  rw [cfetchTrap, if_neg hown, if_pos (not_not.mp fun hfree => h ((segFree_iff s seg).mpr ⟨hown, hfree⟩))]

/-! ### CFETCH_COMPLETION (R107, R120) -/

theorem modCore_cur (s : State) (f : Core → Core) : modCore s s.cur f = { s with core := f s.core } := by
  rw [modCore, getCore, if_pos rfl, setCore, if_pos rfl]

theorem find_fetch {l : List Fetch} {f : Fetch} (h : (l.find? fun x => x.seg == f.seg) = some f) : (l.find? fun x => x.seg.toNat == f.seg.toNat) = some f := by
  have hsame : (fun x : Fetch => x.seg.toNat == f.seg.toNat) = fun x => x.seg == f.seg := by
    funext x
    rw [Bool.eq_iff_iff]
    simp [BitVec.toNat_inj]
  rw [hsame, h]

theorem segErr_eq (r : Refuse) : segErr r = if r = .translation then 1#4 else if r = .stale then 3#4 else 2#4 := by cases r <;> rfl

theorem cfetchCompletion_fails {s : State} {f : Fetch} (hf : (s.core.fetches.find? fun x => x.seg == f.seg) = some f) (hi : Issues s f.ctx) {r : Refuse}
    (h : fetchKey s s.cur f = .error r) :
    ∃ u, exec (.cfetchCompletion s.cur f.seg.toNat) s = .next u ∧ Posts s u f.token ∧ u.mem = s.mem ∧
      u.core.segs = s.core.segs.set f.seg.toNat { segOf s.core f.seg with st := .failed, err := segErr r } f.seg.isLt := by
  have hcur : getCore s s.cur = s.core := if_pos rfl
  have hexec : exec (.cfetchCompletion s.cur f.seg.toNat) s = execCfetchCompletion s.cur f.seg.toNat s := rfl
  have hlock : lockHeap f.addr.toNat { s with core := { s.core with fetches := s.core.fetches.erase f } } =
      { s with core := { s.core with fetches := s.core.fetches.erase f }, hub := (lockHeap f.addr.toNat { s with core := { s.core with fetches := s.core.fetches.erase f } }).hub } := by
    rw [lockHeap]
    split <;> rfl
  rw [hexec, execCfetchCompletion, hcur, find_fetch hf]
  dsimp only
  rw [modCore_cur, h]
  dsimp only
  rw [hlock]
  generalize (lockHeap f.addr.toNat { s with core := { s.core with fetches := s.core.fetches.erase f } }).hub = hub
  rw [show modCore _ s.cur _ = _ from modCore_cur { s with core := { s.core with fetches := s.core.fetches.erase f }, hub := hub } _, postTo_issuing (by exact hi)]
  exact ⟨_, rfl, posts_of_ctx rfl rfl rfl, rfl, rfl⟩

theorem cfetchCompletion_lands {s : State} {f : Fetch} (hf : (s.core.fetches.find? fun x => x.seg == f.seg) = some f) (hi : Issues s f.ctx) {key : Nat}
    (h : fetchKey s s.cur f = .ok key) :
    ∃ u, exec (.cfetchCompletion s.cur f.seg.toNat) s = .next u ∧ Posts s u f.token ∧ u.core.fetches = s.core.fetches.erase f ∧
      u.core.segs = s.core.segs.set f.seg.toNat { segOf s.core f.seg with st := .landed, err := 0#4 } f.seg.isLt ∧
      (place true f.addr.toNat ≠ .heap → u.mem = setBytes s.mem (imemKey s.cur (f.seg.toNat * 4096)) (getBytes s.mem key 4096)) := by
  have hcur : getCore s s.cur = s.core := if_pos rfl
  have hexec : exec (.cfetchCompletion s.cur f.seg.toNat) s = execCfetchCompletion s.cur f.seg.toNat s := rfl
  rw [hexec, execCfetchCompletion, hcur, find_fetch hf]
  dsimp only
  rw [modCore_cur, h]
  dsimp only
  obtain ⟨races, hraces⟩ : ∃ r, noteSpan (fetchRead s.cur) 4096 key { s with core := { s.core with fetches := s.core.fetches.erase f } } =
      { s with core := { s.core with fetches := s.core.fetches.erase f }, races := r } := ⟨_, noteSpan_frame ..⟩
  rw [hraces]
  dsimp only
  generalize hbytes : getBytes s.mem key 4096 = bs
  obtain ⟨m, l, htouch⟩ := touchPage_touched false f.addr.toNat
    { s with core := { s.core with fetches := s.core.fetches.erase f }, races := races, mem := setBytes s.mem (imemKey s.cur (f.seg.toNat * 4096)) bs }
  have hmem : place true f.addr.toNat ≠ .heap → m = setBytes s.mem (imemKey s.cur (f.seg.toNat * 4096)) bs := fun hplace => by
    rw [touchPage_other hplace] at htouch
    exact (congrArg State.mem htouch).symm
  rw [htouch, show modCore _ s.cur _ = _ from modCore_cur
    { s with core := { s.core with fetches := s.core.fetches.erase f }, races := races, mem := m, hub := { s.hub with rights := { s.hub.rights with locked := l } } } _,
    postTo_issuing (by exact hi)]
  exact ⟨_, rfl, posts_of_ctx rfl rfl rfl, rfl, rfl, hmem⟩

theorem getBytes_getElem (m : List Host.Cell) (a n i : Nat) (h : i < n) : (getBytes m a n)[i]'(by rw [getBytes_length]; exact h) = getByte m (a + i) := by
  induction n generalizing a i with
  | zero => omega
  | succ n ih =>
    cases i with
    | zero => rfl
    | succ i =>
      have hrest := ih (a + 1) i (by omega)
      rw [show a + (i + 1) = a + 1 + i by omega, ← hrest]
      rfl

theorem codeFetches : CodeFetches := by
  intro s s1 sc k seg a t st r c i aligned
  refine ⟨fun hacq hu htoken => ⟨fun hfree halign hroom hcheck => ?_, fun huser => ⟨fun h15 => ?_, fun h15 hbusy => ?_, fun hfree hodd => ?_, fun hfree halign hcheck => ?_⟩⟩,
    fun f hf hi _ => ⟨fun key hkey => ?_, fun r hkey => ?_⟩⟩
  · obtain ⟨p, hp⟩ := check_moves hcheck
    obtain ⟨u, hload, hrest⟩ := cfetchNow_loads sc t seg c st s1
    have hexec : exec i s = .next u := by
      rw [cfetch_passes hacq hu htoken ((cfetchTrap_free hfree _).trans (if_pos halign)) hcheck]
      exact (guardToken_room (by rw [hp]; exact hroom.2) _).trans hload
    rw [hp] at hrest
    obtain ⟨hg, hflow, hmem, htok, hsegs, hfetches⟩ := hrest
    exact ⟨u, hexec, hg, hflow, fun n => by rw [hmem], htok, hsegs, hfetches⟩
  · exact cfetch_traps hacq hu htoken huser (if_pos ⟨h15, huser.1⟩) sc
  · exact cfetch_traps hacq hu htoken huser (cfetchTrap_busy h15 hbusy c) sc
  · exact cfetch_traps hacq hu htoken huser ((cfetchTrap_free hfree c).trans (if_neg hodd)) sc
  · refine trapAs_trapsFrom (c := (causeOf r, c)) huser (checkFill_checksMoved s (acting s) c 4096 .X) ?_
    exact cfetch_checkFails hacq hu htoken ((cfetchTrap_free hfree _).trans (if_pos halign)) hcheck sc
  · obtain ⟨u, hexec, hposts, hfetches, hsegs, hmem⟩ := cfetchCompletion_lands hf hi hkey
    refine ⟨u, hexec, hposts, hfetches, hsegs, fun hwf hplace => ?_⟩
    rw [hmem hplace]
    refine ⟨fun n hn => ?_, fun n hn => getByte_setBytes_other hwf (by rw [getBytes_length]; exact hn)⟩
    rw [getByte_setBytes hwf (by rw [getBytes_length]; exact hn), getBytes_getElem _ _ _ _ hn]
  · obtain ⟨u, hexec, hposts, hmem, hsegs⟩ := cfetchCompletion_fails hf hi hkey
    exact ⟨u, hexec, hposts, fun n => by rw [hmem], by rw [hsegs, segErr_eq]; rfl⟩

/-- Settles O37: jumps, CSEG and CFETCH each by the equation that says what the instruction comes to. -/
theorem codeSegments : Obligations.CodeSegments := ⟨jumpsToCodeAndSegments, codeFetches⟩

end Sys2Proof.Proofs
end

section
/-! Region and owner commands: the search of the region table, what an invalidation leaves of the PLBs, and the commands of RGN_CMD and XLT_INV (R53, R57, R60, R66 to R70, R425). -/

namespace Sys2Proof.Proofs
open Sys2Proof Sys2Proof.Machine Sys2Proof.Claim

/-! ### Searching the region table (R57) -/

theorem findRegionFrom_isSome (s : State) (p : Region → Bool) (i n : Nat) :
    (findRegionFrom s p i n).isSome = true ↔ ∃ k, i ≤ k ∧ k < i + n ∧ p (region s (BitVec.ofNat 20 k)) = true := by
  induction n generalizing i with
  | zero => simp only [findRegionFrom, Option.isSome_none, Bool.false_eq_true, false_iff]; omega
  | succ n ih =>
    rw [findRegionFrom]
    split
    · exact ⟨fun _ => ⟨i, le_rfl, by omega, ‹_›⟩, fun _ => rfl⟩
    · rw [ih]
      constructor
      · rintro ⟨k, h1, h2, h3⟩
        exact ⟨k, by omega, by omega, h3⟩
      · rintro ⟨k, h1, h2, h3⟩
        obtain rfl | h := Nat.eq_or_lt_of_le h1
        · exact absurd h3 ‹_›
        · exact ⟨k, h, by omega, h3⟩

theorem mem_regionsIn (s : State) (lo hi i n : Nat) (id : BitVec 20) :
    id ∈ regionsIn s lo hi i n ↔ ∃ k, i ≤ k ∧ k < i + n ∧ BitVec.ofNat 20 k = id ∧ (region s id).st ≠ .free ∧ (region s id).base < hi ∧ lo < (region s id).base + (region s id).len := by
  induction n generalizing i with
  | zero => simp only [regionsIn, List.not_mem_nil, false_iff]; rintro ⟨k, h1, h2, -⟩; omega
  | succ n ih =>
    have later : (id ∈ regionsIn s lo hi (i + 1) n) → ∃ k, i ≤ k ∧ k < i + (n + 1) ∧ BitVec.ofNat 20 k = id ∧ (region s id).st ≠ .free ∧ (region s id).base < hi ∧ lo < (region s id).base + (region s id).len := fun h => by
      obtain ⟨k, h1, h2, h3⟩ := (ih _).mp h
      exact ⟨k, by omega, by omega, h3⟩
    simp only [regionsIn]
    split
    · rename_i hc
      rw [List.mem_cons]
      constructor
      · rintro (rfl | h)
        · exact ⟨i, le_rfl, by omega, rfl, by simpa [and_assoc] using hc⟩
        · exact later h
      · rintro ⟨k, h1, h2, h3, h4⟩
        obtain rfl | h := Nat.eq_or_lt_of_le h1
        · exact .inl h3.symm
        · exact .inr ((ih _).mpr ⟨k, h, by omega, h3, h4⟩)
    · rename_i hc
      refine ⟨later, ?_⟩
      rintro ⟨k, h1, h2, rfl, h4⟩
      obtain rfl | h := Nat.eq_or_lt_of_le h1
      · exact absurd (by simpa [and_assoc] using h4) hc
      · exact (ih _).mpr ⟨k, h, by omega, rfl, h4⟩

/-- The search from 0 on meets every id below RGN_CAP once: a 20-bit id is below 2^20. -/
theorem below_regionCap (s : State) (p : BitVec 20 → Prop) :
    (∃ k, 0 ≤ k ∧ k < 0 + regionCap s ∧ p (BitVec.ofNat 20 k)) ↔ ∃ j : BitVec 20, j.toNat < s.hub.rights.rgnCap ∧ p j := by
  constructor
  · rintro ⟨k, -, hk, hp⟩
    rw [regionCap] at hk
    refine ⟨_, ?_, hp⟩
    rw [BitVec.toNat_ofNat, Nat.mod_eq_of_lt (by omega)]
    omega
  · rintro ⟨j, hj, hp⟩
    have := j.isLt
    exact ⟨j.toNat, Nat.zero_le _, by rw [regionCap]; omega, by rwa [BitVec.ofNat_toNat, BitVec.setWidth_eq]⟩

theorem findRegion_isSome (s : State) (p : Region → Bool) :
    (findRegion s p).isSome = true ↔ ∃ j : BitVec 20, j.toNat < s.hub.rights.rgnCap ∧ p (region s j) = true := by
  rw [findRegion, findRegionFrom_isSome, below_regionCap s fun j => p (region s j) = true]

theorem mem_regionsIn_cap (s : State) (lo hi : Nat) (id : BitVec 20) :
    id ∈ regionsIn s lo hi 0 (regionCap s) ↔ id.toNat < s.hub.rights.rgnCap ∧ (region s id).st ≠ .free ∧ (region s id).base < hi ∧ lo < (region s id).base + (region s id).len := by
  rw [mem_regionsIn, below_regionCap s fun j => j = id ∧ (region s id).st ≠ .free ∧ (region s id).base < hi ∧ lo < (region s id).base + (region s id).len]
  constructor
  · rintro ⟨j, hj, rfl, h⟩
    exact ⟨hj, h⟩
  · rintro ⟨hj, h⟩
    exact ⟨id, hj, rfl, h⟩

/-! ### What a shootdown leaves of the PLBs (R60, R63) -/

theorem dropPlb_core_plb (p : PlbEntry → Bool) (s : State) : (dropPlb p s).core.plb = s.core.plb.filter fun e => !p e := rfl

/-- Every PLB entry after PLB entries have been dropped was there before, and its condition did not hold of it. -/
theorem dropPlb_entries {p : PlbEntry → Bool} {s : State} :
    (∀ e ∈ (dropPlb p s).core.plb, e ∈ s.core.plb ∧ p e = false) ∧ ∀ x ∈ (dropPlb p s).others, ∀ e ∈ x.2.plb, p e = false ∧ ∃ y ∈ s.others, e ∈ y.2.plb := by
  refine ⟨fun e he => by simpa using List.mem_filter.mp he, fun x hx e he => ?_⟩
  obtain ⟨y, hy, rfl⟩ := List.mem_map.mp hx
  obtain ⟨h1, h2⟩ := List.mem_filter.mp he
  exact ⟨by simpa using h2, y, hy, h1⟩

theorem plbsWithout_shootPlb (id : BitVec 20) (s : State) : PlbsWithout (shootPlb id s) id := by
  obtain ⟨h1, h2⟩ := @dropPlb_entries (fun e => e.region == id) s
  exact ⟨fun e he => by simpa using (h1 e he).2, fun x hx e he => by simpa using (h2 x hx e he).1⟩

/-! ### A finished command and RGN_STA (R69) -/

theorem finished_finishCmd (u : State) (err : BitVec 3) (id : Option (BitVec 20)) : Finished u (finishCmd err id u) err := ⟨rfl, rfl, rfl⟩

theorem ends_of {i : Instr} {s u : State} {err : BitVec 3} (id : Option (BitVec 20)) (h : exec i s = .next (finishCmd err id u)) : Claim.Ends i s err u :=
  ⟨_, h, finished_finishCmd u err id⟩

theorem regionCode_lt (st : RegionState) : regionCode st < 4 := by cases st <;> decide

/-- The fields of RGN_STA after a command on a region. -/
theorem finishCmd_status (err : BitVec 3) (id : BitVec 20) (s : State) :
    let g := (finishCmd err (some id) s).hub.rights
    g.staState.toNat = regionCode (region s id).st ∧ g.staGen = (region s id).gen ∧ g.staRefs.toNat = min 0xFFFF (plbRefs s id) ∧ g.staInfl.toNat = min 0xFFFF (inflight s id) := by
  have hc := regionCode_lt (region s id).st
  have fits (n : Nat) : (BitVec.ofNat 16 (min 0xFFFF n)).toNat = min 0xFFFF n := by
    rw [BitVec.toNat_ofNat]; omega
  refine ⟨?_, rfl, fits _, fits _⟩
  exact (BitVec.toNat_ofNat ..).trans (Nat.mod_eq_of_lt hc)

theorem plbsWithout_finishCmd {s : State} {id : BitVec 20} {err : BitVec 3} {x : Option (BitVec 20)} (h : PlbsWithout s id) : PlbsWithout (finishCmd err x s) id := h

theorem regionCmd_below {s : State} {id : BitVec 20} (f : State → State) (h : id.toNat < s.hub.rights.rgnCap) : regionCmd id s f = .next (f s) := if_neg (by omega)

theorem regionCmd_badid {s : State} {id : BitVec 20} (f : State → State) (h : s.hub.rights.rgnCap ≤ id.toNat) : regionCmd id s f = .next (finishCmd 1#3 none s) := if_pos h

theorem ends_badid {s : State} {id : BitVec 20} (h : s.hub.rights.rgnCap ≤ id.toNat) :
    ∀ i ∈ [Instr.regionQuery id, .regionPurge id, .regionFree id, .regionAlloc id, .regionRfree id], Claim.Ends i s 1#3 s := by
  intro i hi
  simp only [List.mem_cons, List.not_mem_nil, or_false] at hi
  obtain rfl | rfl | rfl | rfl | rfl := hi
  · exact ends_of none (show execRegionQuery id s = _ from regionCmd_badid _ h)
  · exact ends_of none (show execRegionPurge id s = _ from regionCmd_badid _ h)
  · exact ends_of none (show execRegionFree id s = _ from regionCmd_badid _ h)
  · exact ends_of none (show execRegionAlloc id s = _ from regionCmd_badid _ h)
  · exact ends_of none (show execRegionRfree id s = _ from regionCmd_badid _ h)

theorem exec_regionQuery {s : State} {id : BitVec 20} (h : id.toNat < s.hub.rights.rgnCap) : exec (.regionQuery id) s = .next (finishCmd 0#3 (some id) s) := by
  show execRegionQuery id s = _
  rw [execRegionQuery, regionCmd_below _ h]

/-! ### PURGE and FREE (R67, R68) -/

/-- The entries that name a region leave an owner's table. -/
def purgeTable (id : BitVec 20) (s : State) (o : BitVec 12) : State :=
  if (rangeTable s o).any fun e => e.region == id then setRangeTable s o ((rangeTable s o).filter fun e => e.region != id) else s

theorem exec_regionPurge {s : State} {id : BitVec 20} (h : id.toNat < s.hub.rights.rgnCap) :
    exec (.regionPurge id) s = .next (finishCmd 0#3 (some id) (shootPlb id ((validOwners s).foldl (purgeTable id) s))) := by
  show execRegionPurge id s = _
  rw [execRegionPurge, regionCmd_below _ h]
  rfl

theorem purgeTable_unnamed {id : BitVec 20} {s : State} {o : BitVec 12} (h : ∀ e ∈ rangeTable s o, e.region ≠ id) : purgeTable id s o = s :=
  if_neg (by simpa using h)

theorem purgeTable_named {id : BitVec 20} {s : State} {o : BitVec 12} (h : ∃ e ∈ rangeTable s o, e.region = id) :
    purgeTable id s o = setRangeTable s o ((rangeTable s o).filter fun e => e.region != id) :=
  if_pos (by simpa using h)

theorem purge_unnamed {id : BitVec 20} {s : State} {l : List (BitVec 12)} (h : ∀ v ∈ l, ∀ e ∈ rangeTable s v, e.region ≠ id) : l.foldl (purgeTable id) s = s := by
  induction l with
  | nil => rfl
  | cons v l ih =>
    rw [List.foldl_cons, purgeTable_unnamed (h v (by simp))]
    exact ih fun w hw => h w (by simp [hw])

/-- Where one owner's table names the region, and no other's before or after that, the purge changes that table alone. -/
theorem purge_one {id : BitVec 20} {s t : State} {w : BitVec 12} {l : List (BitVec 12)} (hd : l.Nodup) (hw : w ∈ l) (ht : purgeTable id s w = t)
    (hs : ∀ v ∈ l, v ≠ w → ∀ e ∈ rangeTable s v, e.region ≠ id) (hu : ∀ v ∈ l, v ≠ w → ∀ e ∈ rangeTable t v, e.region ≠ id) : l.foldl (purgeTable id) s = t := by
  induction l with
  | nil => cases hw
  | cons v l ih =>
    obtain ⟨hv, hd⟩ := List.nodup_cons.mp hd
    rw [List.foldl_cons]
    by_cases h : v = w
    · subst h
      rw [ht]
      exact purge_unnamed fun x hx => hu x (by simp [hx]) fun hxv => hv (hxv ▸ hx)
    · rw [purgeTable_unnamed (hs v (by simp) h)]
      exact ih hd ((List.mem_cons.mp hw).resolve_left fun h' => h h'.symm) (fun x hx => hs x (by simp [hx])) fun x hx => hu x (by simp [hx])

theorem validOwners_nodup (s : State) : (validOwners s).Nodup := by
  refine List.Nodup.filter _ (List.Nodup.map_on ?_ List.nodup_range)
  intro a ha b hb h
  have h := congrArg BitVec.toNat h
  rw [List.mem_range] at ha hb
  rwa [BitVec.toNat_ofNat, BitVec.toNat_ofNat, Nat.mod_eq_of_lt ha, Nat.mod_eq_of_lt hb] at h

/-- FREE's test of the range tables says that some owner's table names the region. -/
theorem anyTable_iff (s : State) (id : BitVec 20) :
    ((validOwners s).any fun o => (rangeTable s o).any fun e => e.region == id) = true ↔ ∃ w ∈ validOwners s, ∃ e ∈ rangeTable s w, e.region = id := by
  simp

theorem exec_regionFree {s : State} {id : BitVec 20} (h : id.toNat < s.hub.rights.rgnCap) :
    exec (.regionFree id) s = .next (
      if (region s id).st ≠ .tombstone then finishCmd 2#3 (some id) s
      else if plbRefs s id ≠ 0 ∨ inflight s id ≠ 0 ∨ ∃ w ∈ validOwners s, ∃ e ∈ rangeTable s w, e.region = id then finishCmd 4#3 (some id) s
      else finishCmd 0#3 (some id) (setRegion s id { region s id with st := .free })) := by
  show execRegionFree id s = _
  rw [execRegionFree, regionCmd_below _ h]
  simp only [anyTable_iff]

/-! ### ALLOC (R66) -/

/-- ALLOC's clash test: a region outside FREE touches the range. -/
theorem clash_iff (s : State) (lo hi : Nat) :
    regionsIn s lo hi 0 (regionCap s) ≠ [] ↔
      ∃ j : BitVec 20, j.toNat < s.hub.rights.rgnCap ∧ (region s j).st ≠ .free ∧ (region s j).base < hi ∧ lo < (region s j).base + (region s j).len := by
  simp only [← mem_regionsIn_cap]
  exact ⟨List.exists_mem_of_ne_nil _, fun ⟨_, hj⟩ => List.ne_nil_of_mem hj⟩

/-- The first of ALLOC's refusals that holds, in the order of R66. -/
theorem allocError_eq (s : State) (id : BitVec 20) :
    let r := region s id
    let base := s.hub.rights.arg0.toNat % 2 ^ 44
    let len := s.hub.rights.arg1.toNat % 2 ^ 40
    let o := ownerDesc s (s.hub.rights.arg1.extractLsb' 40 12)
    allocError s id =
      if len = 0 ∨ inSpace base (base + len) = false then 1
      else if r.st ≠ .free then 2
      else if ∃ j : BitVec 20, j.toNat < s.hub.rights.rgnCap ∧ (region s j).st ≠ .free ∧ (region s j).base < base + len ∧ base < (region s j).base + (region s j).len then 3
      else if 0xFFFE ≤ r.gen.toNat then 5
      else if o.valid = false then 1
      else if o.cap ≤ o.count then 6
      else 0 := by
  simp only [allocError, clash_iff, Bool.not_eq_true']

theorem ends_alloc_refused {s : State} {id : BitVec 20} {err : Nat} (h : id.toNat < s.hub.rights.rgnCap) (he : allocError s id = err) (h0 : err ≠ 0) :
    Claim.Ends (.regionAlloc id) s (BitVec.ofNat 3 err) s := by
  refine ends_of (some id) ?_
  show execRegionAlloc id s = _
  rw [execRegionAlloc, regionCmd_below _ h]
  dsimp only
  rw [he, if_pos h0]

theorem ends_alloc_accepted {s : State} {id : BitVec 20} (h : id.toNat < s.hub.rights.rgnCap) (he : allocError s id = 0) :
    let g := s.hub.rights
    let base := g.arg0.toNat % 2 ^ 44
    let len := g.arg1.toNat % 2 ^ 40
    let o := g.arg1.extractLsb' 40 12
    let gen := (region s id).gen + 1#16
    let s1 := shootPlb id (setRegion s id { st := .live, creator := o, gen := gen, len := len, base := base })
    Claim.Ends (.regionAlloc id) s 0#3 (setRangeTable s1 o (insertEntry { region := id, gen := gen, rights := 0x1F#5, len := len, base := base } (rangeTable s1 o))) := by
  refine ends_of (some id) ?_
  show execRegionAlloc id s = _
  rw [execRegionAlloc, regionCmd_below _ h]
  dsimp only
  rw [he, if_neg fun h0 => h0 rfl]
  rfl

/-! ### RFREE (R425) -/

theorem exec_regionRfree {s : State} {id : BitVec 20} (h : id.toNat < s.hub.rights.rgnCap) :
    exec (.regionRfree id) s = .next (
      if id = 0#20 then finishCmd 1#3 none s
      else if (region s id).st ≠ .live then finishCmd 2#3 (some id) s
      else
        let s1 := startShoot id true .rfree (revokeRegion id true s)
        setHub s1 { s1.hub with rights := { s1.hub.rights with staDone := false } }) := by
  show execRegionRfree id s = _
  rw [execRegionRfree, regionCmd_below _ h]

theorem revokeRegion_free_mem (id : BitVec 20) (s : State) :
    (revokeRegion id true s).mem = (setRegion s id { region s id with gen := (region s id).gen + 1#16, st := .revoking }).mem := rfl

theorem revokeRegion_free_hub (id : BitVec 20) (s : State) : (revokeRegion id true s).hub = s.hub := rfl

theorem startShoot_shoots (id : BitVec 20) (freed : Bool) (w : ShootFor) (s : State) :
    (startShoot id freed w s).hub.shoots = s.hub.shoots ++ [{ region := id, freed := freed, for_ := w }] := rfl

theorem plbsWithout_startShoot (id : BitVec 20) (freed : Bool) (w : ShootFor) (s : State) : PlbsWithout (startShoot id freed w s) id :=
  plbsWithout_shootPlb id s

/-- DONE is cleared, and nothing else: the shootdown of RFREE has yet to complete. -/
def undone (s : State) : State := setHub s { s.hub with rights := { s.hub.rights with staDone := false } }

theorem undone_frame (s : State) (id : BitVec 20) :
    (undone s).hub.rights.staDone = false ∧ (PlbsWithout s id → PlbsWithout (undone s) id) ∧ (undone s).hub.shoots = s.hub.shoots ∧ (undone s).mem = s.mem :=
  ⟨rfl, fun h => h, rfl, rfl⟩

theorem regionRfree_starts {s : State} {id : BitVec 20} (h : id.toNat < s.hub.rights.rgnCap) (h0 : id ≠ 0#20) (hst : (region s id).st = .live) :
    ∃ t, exec (.regionRfree id) s = .next t ∧ t.hub.rights.staDone = false ∧ PlbsWithout t id ∧ t.hub.shoots = s.hub.shoots ++ [{ region := id, freed := true, for_ := .rfree }] ∧
      t.mem = (setRegion s id { region s id with gen := (region s id).gen + 1#16, st := .revoking }).mem := by
  obtain ⟨hdone, hplb, hshoots, hmem⟩ := undone_frame (startShoot id true .rfree (revokeRegion id true s)) id
  refine ⟨_, ?_, hdone, hplb (plbsWithout_startShoot ..), ?_, ?_⟩
  · rw [exec_regionRfree h, if_neg h0, if_neg (not_not.mpr hst)]
    rfl
  · rw [hshoots, startShoot_shoots, revokeRegion_free_hub]
  · rw [hmem, startShoot_mem, revokeRegion_free_mem]

/-! ### OCREATE and ODEL (R70) -/

theorem exec_ownerCreate (o : BitVec 12) (s : State) :
    let a := s.hub.rights.arg0.toNat
    let cap := s.hub.rights.arg1.toNat
    exec (.ownerCreate o) s = .next (
      if o = 0#12 ∨ a % 16 ≠ 0 ∨ 2 ^ 50 ≤ a ∨ cap % 2 ^ 20 = 0 then finishCmd 1#3 none s
      else if (ownerDesc s o).valid then finishCmd 2#3 none s
      else finishCmd 0#3 none (setOwnerDesc s o { valid := true, cap := cap % 2 ^ 20, count := 0, base := a })) := by
  show execOwnerCreate o s = _
  rw [execOwnerCreate]
  split
  · rfl
  · split <;> rfl

theorem exec_ownerDelete (o : BitVec 12) (s : State) :
    exec (.ownerDelete o) s = .next (
      if o = 0#12 then finishCmd 1#3 none s
      else if (ownerDesc s o).valid = false then finishCmd 2#3 none s
      else if (ownerDesc s o).count ≠ 0 ∨ (∃ j : BitVec 20, j.toNat < s.hub.rights.rgnCap ∧ (region s j).st ≠ .free ∧ (region s j).creator = o) ∨ ownerBusy s o = true then finishCmd 4#3 none s
      else finishCmd 0#3 none (setOwnerDesc s o { ownerDesc s o with valid := false })) := by
  have made : (findRegion s fun r => r.st != .free && r.creator == o).isSome = true ↔
      ∃ j : BitVec 20, j.toNat < s.hub.rights.rgnCap ∧ (region s j).st ≠ .free ∧ (region s j).creator = o := by
    rw [findRegion_isSome]
    simp
  show execOwnerDelete o s = _
  simp only [execOwnerDelete, made, Bool.not_eq_true']
  split
  · rfl
  · split
    · rfl
    · split <;> rfl

/-- Settles O33: the refusals of each command are its conditions in their order, and an accepted one is the model's own change of the table, whose RGN_STA alone is set on top. -/
theorem regionCommands : Obligations.RegionCommands := by
  intro s id o x r g base len by_ named made
  refine ⟨ends_badid, fun hid => ?_, ?_, ?_, ⟨?_, ?_, ?_⟩, ?_, ?_, fun h0 hv _ => ⟨?_, ?_⟩, rfl, rfl⟩
  · refine ⟨?_, ?_, ?_, ?_, ?_, ?_, ?_, ?_, ?_, ?_⟩
    · obtain ⟨hst, hgen, hrefs, hinfl⟩ := finishCmd_status 0#3 id s
      exact ⟨_, exec_regionQuery hid, finished_finishCmd .., hst, hgen, hrefs, hinfl⟩
    · refine ⟨_, exec_regionPurge hid, rfl, rfl, plbsWithout_finishCmd (plbsWithout_shootPlb ..), fun hn => ?_, fun w hw hwn hu hs => ?_⟩
      · rw [finishCmd_mem, shootPlb_mem, purge_unnamed fun v hv e he hid => hn ⟨v, hv, e, he, hid⟩]
      · rw [finishCmd_mem, shootPlb_mem, purge_one (validOwners_nodup s) hw (purgeTable_named hwn) hs hu]
    · intro ht
      exact ends_of (some id) (by rw [exec_regionFree hid, if_pos ht])
    · intro ht hb
      exact ends_of (some id) (by rw [exec_regionFree hid, if_neg (not_not.mpr ht), if_pos hb])
    · intro ht hp hi hn
      exact ends_of (some id) (by rw [exec_regionFree hid, if_neg (not_not.mpr ht), if_neg (by simp only [hp, hi, not_true, ne_eq, false_or]; exact hn)])
    · intro hl
      exact ends_alloc_refused (err := 1) hid (by rw [allocError_eq, if_pos hl]) (by decide)
    · intro hl hsp clash
      have hform : ¬(len = 0 ∨ inSpace base (base + len) = false) := by simp [hl, hsp]
      refine ⟨fun hf => ?_, fun hf hc => ?_, fun hf hc hg => ?_, fun hf hc hg => ⟨fun hv => ?_, fun hv hcap => ?_, fun hv hcap => ?_⟩⟩
      · exact ends_alloc_refused (err := 2) hid (by rw [allocError_eq, if_neg hform, if_pos hf]) (by decide)
      · exact ends_alloc_refused (err := 3) hid (by rw [allocError_eq, if_neg hform, if_neg (not_not.mpr hf), if_pos hc]) (by decide)
      · exact ends_alloc_refused (err := 5) hid (by rw [allocError_eq, if_neg hform, if_neg (not_not.mpr hf), if_neg hc, if_pos hg]) (by decide)
      · exact ends_alloc_refused (err := 1) hid (by rw [allocError_eq, if_neg hform, if_neg (not_not.mpr hf), if_neg hc, if_neg (Nat.not_le.mpr hg), if_pos hv]) (by decide)
      · exact ends_alloc_refused (err := 6) hid (by rw [allocError_eq, if_neg hform, if_neg (not_not.mpr hf), if_neg hc, if_neg (Nat.not_le.mpr hg), if_neg (ne_of_eq_of_ne hv (by decide)), if_pos hcap]) (by decide)
      · exact ends_alloc_accepted hid (by rw [allocError_eq, if_neg hform, if_neg (not_not.mpr hf), if_neg hc, if_neg (Nat.not_le.mpr hg), if_neg (ne_of_eq_of_ne hv (by decide)), if_neg (Nat.not_le.mpr hcap)])
    · intro h0
      exact ends_of none (by rw [exec_regionRfree hid, if_pos h0])
    · intro h0 hst
      exact ends_of (some id) (by rw [exec_regionRfree hid, if_neg h0, if_pos hst])
    · exact regionRfree_starts hid
  · intro hb
    exact ends_of none (show execOwnerPurge o s = _ by rw [execOwnerPurge, if_pos hb])
  · intro hb
    exact ends_of none (show execOwnerPurge o s = _ by rw [execOwnerPurge, if_neg (by simp [hb])])
  · intro hb
    exact ends_of none (by rw [exec_ownerCreate, if_pos hb])
  · intro hb hv
    exact ends_of none (by rw [exec_ownerCreate, if_neg hb, if_pos hv])
  · intro hb hv
    exact ends_of none (by rw [exec_ownerCreate, if_neg hb, if_neg (by simp [hv])])
  · intro h0
    exact ends_of none (by rw [exec_ownerDelete, if_pos h0])
  · intro h0 hv
    exact ends_of none (by rw [exec_ownerDelete, if_neg h0, if_pos hv])
  · intro hb
    exact ends_of none (by rw [exec_ownerDelete, if_neg h0, if_neg (by simp [hv]), if_pos hb])
  · intro hc hm hb
    exact ends_of none (by rw [exec_ownerDelete, if_neg h0, if_neg (by simp [hv]), if_neg (by simp only [hc, hb, not_true, ne_eq, false_or, Bool.false_eq_true, or_false]; exact hm)])

end Sys2Proof.Proofs
end

section
/-! Range tables as lists of entries: what cutting a range out of one leaves, and the pieces that a grant puts in (R56, R352, R355). -/

namespace Sys2Proof.Proofs
open Sys2Proof Sys2Proof.Machine Sys2Proof.Claim

/-! ### Entries and the granules that they cover -/

/-- The entry covers granule `y`. -/
def coversAt (y : Nat) (e : RangeEntry) : Bool := decide (e.base ≤ y) && decide (y < e.base + e.len)

/-- What an entry grants where it covers: region, generation and rights. -/
def grantOf (e : RangeEntry) : BitVec 20 × BitVec 16 × BitVec 5 := (e.region, e.gen, e.rights)

theorem grantAt_eq (es : List RangeEntry) (y : Nat) : grantAt es y = (es.find? (coversAt y)).map grantOf := rfl

theorem coversAt_iff {y : Nat} {e : RangeEntry} : coversAt y e = true ↔ e.base ≤ y ∧ y < e.base + e.len := by simp [coversAt]

theorem clipEntry_none {e : RangeEntry} {lo hi : Nat} (h : clipEntry e lo hi = none) {y : Nat} (hlo : lo ≤ y) (hhi : y < hi) : coversAt y e = false := by
  rw [clipEntry] at h
  split at h
  · cases h
  · rw [Bool.eq_false_iff, ne_eq, coversAt_iff]
    omega

theorem clipEntry_some {e x : RangeEntry} {lo hi : Nat} (h : clipEntry e lo hi = some x) :
    grantOf x = grantOf e ∧ x.base = max e.base lo ∧ x.base + x.len = min (e.base + e.len) hi ∧ x.len ≠ 0 := by
  rw [clipEntry] at h
  split at h
  · cases h
    refine ⟨rfl, rfl, ?_, ?_⟩ <;> dsimp only <;> omega
  · cases h

theorem clipEntry_covers {e x : RangeEntry} {lo hi : Nat} (h : clipEntry e lo hi = some x) (y : Nat) : coversAt y x = true ↔ (lo ≤ y ∧ y < hi) ∧ coversAt y e = true := by
  obtain ⟨-, hbase, hend, -⟩ := clipEntry_some h
  rw [coversAt_iff, coversAt_iff, hend, hbase]
  omega

/-! ### The first entry of a list that covers a granule -/

/-- Where the pieces of one entry grant at `y` what the entry itself does, a list's pieces grant there what the list does. -/
theorem find_pieces {p : RangeEntry → Bool} {pieces : RangeEntry → List RangeEntry} (h : ∀ e, ((pieces e).find? p).map grantOf = ([e].find? p).map grantOf) (es : List RangeEntry) :
    ((es.flatMap pieces).find? p).map grantOf = (es.find? p).map grantOf := by
  induction es with
  | nil => rfl
  | cons e es ih =>
    have he := h e
    rw [List.flatMap_cons, List.find?_append]
    rw [List.find?_cons, List.find?_nil] at he
    rw [List.find?_cons]
    split at he
    · rename_i hp
      obtain ⟨x, hx, hxe⟩ := Option.map_eq_some_iff.mp he
      rw [hx]
      exact congrArg some hxe
    · rename_i hp
      rw [Option.map_eq_none_iff.mp he]
      exact ih

theorem insideEntries_eq (lo hi : Nat) (es : List RangeEntry) : insideEntries lo hi es = es.flatMap fun e => (clipEntry e lo hi).toList := by
  induction es with
  | nil => rfl
  | cons e es ih =>
    rw [List.flatMap_cons, ← ih, insideEntries, List.filterMap_cons]
    cases clipEntry e lo hi <;> rfl

/-- Clipping to a range changes no grant inside it; `q` may ask for more than covering, but not of base or length. -/
theorem find_clipEntry {q : RangeEntry → Bool} (hq : ∀ e x, grantOf x = grantOf e → q x = q e) {lo hi y : Nat} (hlo : lo ≤ y) (hhi : y < hi) (e : RangeEntry) :
    ((clipEntry e lo hi).toList.find? fun x => coversAt y x && q x).map grantOf = ([e].find? fun x => coversAt y x && q x).map grantOf := by
  cases h : clipEntry e lo hi with
  | none => simp [clipEntry_none h hlo hhi]
  | some x =>
    obtain ⟨hg, -⟩ := clipEntry_some h
    have hc : coversAt y x = coversAt y e := Bool.eq_iff_iff.mpr ((clipEntry_covers h y).trans (and_iff_right ⟨hlo, hhi⟩))
    rw [Option.toList_some, List.find?_singleton, List.find?_singleton, hc, hq e x hg]
    split
    · exact congrArg some hg
    · rfl

theorem find_insideEntries {q : RangeEntry → Bool} (hq : ∀ e x, grantOf x = grantOf e → q x = q e) {lo hi y : Nat} (hlo : lo ≤ y) (hhi : y < hi) (es : List RangeEntry) :
    ((insideEntries lo hi es).find? fun x => coversAt y x && q x).map grantOf = (es.find? fun x => coversAt y x && q x).map grantOf := by
  rw [insideEntries_eq]
  exact find_pieces (find_clipEntry hq hlo hhi) es

/-- What is left of an entry where a range is cut out. -/
def cutPieces (lo hi : Nat) (e : RangeEntry) : List RangeEntry := (clipEntry e 0 lo).toList ++ (clipEntry e hi (2 ^ 44)).toList

theorem cutEntries_eq (lo hi : Nat) (es : List RangeEntry) : cutEntries lo hi es = es.flatMap (cutPieces lo hi) := by
  rw [cutEntries]
  congr 1
  funext e
  rw [cutPieces]
  cases clipEntry e 0 lo <;> cases clipEntry e hi (2 ^ 44) <;> rfl

theorem mem_cutEntries {lo hi : Nat} {es : List RangeEntry} {x : RangeEntry} :
    x ∈ cutEntries lo hi es ↔ ∃ e ∈ es, clipEntry e 0 lo = some x ∨ clipEntry e hi (2 ^ 44) = some x := by
  simp only [cutEntries_eq, List.mem_flatMap, cutPieces, List.mem_append, Option.mem_toList]

theorem cutEntries_outside {lo hi y : Nat} {es : List RangeEntry} {x : RangeEntry} (hx : x ∈ cutEntries lo hi es) (hc : coversAt y x = true) : ¬(lo ≤ y ∧ y < hi) := by
  obtain ⟨e, -, h | h⟩ := mem_cutEntries.mp hx
  · have := ((clipEntry_covers h y).mp hc).1
    omega
  · have := ((clipEntry_covers h y).mp hc).1
    omega

/-- Cutting a range out leaves every grant outside it (R355). -/
theorem grantAt_cutEntries_outside {lo hi y : Nat} (hy : y < 2 ^ 44) (hout : ¬(lo ≤ y ∧ y < hi)) (es : List RangeEntry) : grantAt (cutEntries lo hi es) y = grantAt es y := by
  rw [grantAt_eq, grantAt_eq, cutEntries_eq]
  refine find_pieces (fun e => ?_) es
  have hlow (h : y < lo) := find_clipEntry (q := fun _ => true) (fun _ _ _ => rfl) (Nat.zero_le y) h e
  have hhigh (h : hi ≤ y) := find_clipEntry (q := fun _ => true) (fun _ _ _ => rfl) h hy e
  have hnot {l h : Nat} (hr : ¬(l ≤ y ∧ y < h)) : (clipEntry e l h).toList.find? (coversAt y) = none := by
    rw [List.find?_eq_none]
    intro x hx hc
    exact hr ((clipEntry_covers (Option.mem_toList.mp hx) y).mp hc).1
  simp only [Bool.and_true] at hlow hhigh
  rw [cutPieces, List.find?_append]
  by_cases h : y < lo
  · have hl := hlow h
    cases hf : (clipEntry e 0 lo).toList.find? (coversAt y) with
    | some x => rwa [hf] at hl
    | none =>
      rw [Option.none_or]
      by_cases h' : hi ≤ y
      · exact hhigh h'
      · rw [hnot (by omega), ← hl, hf]
  · rw [hnot (l := 0) (h := lo) (by omega)]
    exact hhigh (by omega)

/-! ### Inserting entries -/

theorem mem_insertEntry {e x : RangeEntry} {l : List RangeEntry} : x ∈ insertEntry e l ↔ x = e ∨ x ∈ l := by
  induction l with
  | nil => simp [insertEntry]
  | cons y l ih =>
    rw [insertEntry]
    split
    · rw [List.mem_cons]
    · rw [List.mem_cons, ih, List.mem_cons]
      exact or_left_comm

theorem find_insertEntry {p : RangeEntry → Bool} {e : RangeEntry} (h : p e = false) (l : List RangeEntry) : (insertEntry e l).find? p = l.find? p := by
  induction l with
  | nil => simp [insertEntry, h]
  | cons y l ih =>
    rw [insertEntry]
    split
    · rw [List.find?_cons, h]
    · rw [List.find?_cons, List.find?_cons, ih]

/-- The entries of a list, inserted one by one. -/
def insertAll (ps l : List RangeEntry) : List RangeEntry := ps.foldl (fun l e => insertEntry e l) l

theorem mem_insertAll {ps l : List RangeEntry} {x : RangeEntry} : x ∈ insertAll ps l ↔ x ∈ ps ∨ x ∈ l := by
  induction ps generalizing l with
  | nil => simp [insertAll]
  | cons e ps ih =>
    rw [insertAll, List.foldl_cons, ← insertAll, ih, mem_insertEntry, List.mem_cons, or_left_comm, or_assoc]

theorem find_insertAll {p : RangeEntry → Bool} {ps : List RangeEntry} (h : ∀ e ∈ ps, p e = false) (l : List RangeEntry) : (insertAll ps l).find? p = l.find? p := by
  induction ps generalizing l with
  | nil => rfl
  | cons e ps ih =>
    rw [insertAll, List.foldl_cons, ← insertAll, ih fun x hx => h x (by simp [hx]), find_insertEntry (h e (by simp))]

/-- Where every entry that covers `y` grants `g`, and one does, the list grants `g` there. -/
theorem grantAt_eq_some {es : List RangeEntry} {y : Nat} {g : BitVec 20 × BitVec 16 × BitVec 5} (h : ∀ e ∈ es, coversAt y e = true → grantOf e = g) (hex : ∃ e ∈ es, coversAt y e = true) :
    grantAt es y = some g := by
  rw [grantAt_eq]
  cases hf : es.find? (coversAt y) with
  | none =>
    obtain ⟨e, he, hc⟩ := hex
    exact absurd hc (List.find?_eq_none.mp hf e he)
  | some e => exact congrArg some (h e (List.mem_of_find?_eq_some hf) (List.find?_some hf))

/-! ### The pieces of a grant (R352) -/

/-- The rights of the first entry that covers `y` with the region at its generation; none held is no right. -/
def heldRights (id : BitVec 20) (gen : BitVec 16) (held : List RangeEntry) (y : Nat) : BitVec 5 := ((held.find? fun e => coversAt y e && e.region == id && e.gen == gen).map (·.rights)).getD 0#5

theorem heldRights_insideEntries (id : BitVec 20) (gen : BitVec 16) {lo hi y : Nat} (hlo : lo ≤ y) (hhi : y < hi) (es : List RangeEntry) :
    heldRights id gen (insideEntries lo hi es) y = heldRights id gen es y := by
  have h := congrArg (Option.map fun g => g.2.2) (find_insideEntries (q := fun e => e.region == id && e.gen == gen) (fun e x hg => ?_) hlo hhi es)
  · rw [Option.map_map, Option.map_map] at h
    simp only [← Bool.and_assoc] at h
    exact congrArg (Option.getD · 0#5) h
  · injection hg with hr hg
    injection hg with hg _
    rw [hr, hg]

/-- Every boundary of an entry that is held is at or before the first of these points, or one of them. -/
def Bounds (held : List RangeEntry) (a : Nat) (ps : List Nat) : Prop := ∀ e ∈ held, ∀ p, p = e.base ∨ p = e.base + e.len → p ≤ a ∨ p ∈ ps

/-- Between one boundary and the next the rights held do not change. -/
theorem heldRights_between (id : BitVec 20) (gen : BitVec 16) {held : List RangeEntry} {a b y : Nat} {ps : List Nat} (hb : Bounds held a (b :: ps)) (hps : ∀ p ∈ ps, b < p) (ha : a ≤ y) (hy : y < b) :
    heldRights id gen held y = heldRights id gen held a := by
  have hcov : ∀ e ∈ held, coversAt y e = coversAt a e := by
    intro e he
    have hpoint (p : Nat) (hp : p = e.base ∨ p = e.base + e.len) : p ≤ a ∨ b ≤ p := by
      obtain h | h := hb e he p hp
      · exact .inl h
      · obtain rfl | h := List.mem_cons.mp h
        · exact .inr le_rfl
        · exact .inr (hps p h).le
    have h1 := hpoint _ (.inl rfl)
    have h2 := hpoint _ (.inr rfl)
    rw [Bool.eq_iff_iff, coversAt_iff, coversAt_iff]
    omega
  have hfind : (held.find? fun e => coversAt y e && e.region == id && e.gen == gen) = held.find? fun e => coversAt a e && e.region == id && e.gen == gen := by
    induction held with
    | nil => rfl
    | cons e es ih =>
      rw [List.find?_cons, List.find?_cons, hcov e (by simp), ih (fun x hx => hb x (by simp [hx])) fun x hx => hcov x (by simp [hx])]
  rw [heldRights, heldRights, hfind]

/-- The pieces between rising boundaries: they cover every granule from the first to the last, and grant there what R352 says. -/
structure Pieces (id : BitVec 20) (gen : BitVec 16) (rights : BitVec 5) (held : List RangeEntry) (lo hi : Nat) (ps : List RangeEntry) : Prop where
  /-- The first piece begins at the first boundary. -/
  begins : ∀ x ∈ ps.head?, x.base = lo
  /-- Every piece is of the region. -/
  isOf : ∀ e ∈ ps, e.region = id ∧ e.gen = gen
  /-- A piece covers granules of the range alone, with RIGHTS and those held. -/
  grants : ∀ e ∈ ps, ∀ y, coversAt y e = true → lo ≤ y ∧ y < hi ∧ e.rights = rights ||| heldRights id gen held y
  /-- Every granule of the range is covered. -/
  total : ∀ y, lo ≤ y → y < hi → ∃ e ∈ ps, coversAt y e = true

/-- The piece from `a` to `b` before those from `b` on; equal neighbours are one entry. -/
def joinPiece (id : BitVec 20) (gen : BitVec 16) (r : BitVec 5) (a b : Nat) : List RangeEntry → List RangeEntry
  | x :: xs => if x.rights = r then { x with base := a, len := x.base + x.len - a } :: xs else { region := id, gen := gen, rights := r, len := b - a, base := a } :: x :: xs
  | [] => [{ region := id, gen := gen, rights := r, len := b - a, base := a }]

theorem grantPieces_cons (id : BitVec 20) (gen : BitVec 16) (rights : BitVec 5) (held : List RangeEntry) (a b : Nat) (rest : List Nat) :
    grantPieces id gen rights held (a :: b :: rest) = joinPiece id gen (rights ||| heldRights id gen held a) a b (grantPieces id gen rights held (b :: rest)) := by
  rw [grantPieces]
  cases grantPieces id gen rights held (b :: rest) <;> rfl

section
variable {id : BitVec 20} {gen : BitVec 16} {rights : BitVec 5} {held : List RangeEntry} {a b hi : Nat} {ps : List RangeEntry}

/-- A new first piece that stands alone. -/
theorem Pieces.before (h : Pieces id gen rights held b hi ps) (hab : a < b) (hbhi : b ≤ hi) (hconst : ∀ y, a ≤ y → y < b → heldRights id gen held y = heldRights id gen held a) :
    Pieces id gen rights held a hi ({ region := id, gen := gen, rights := rights ||| heldRights id gen held a, len := b - a, base := a } :: ps) := by
  refine ⟨fun x hx => ?_, List.forall_mem_cons.mpr ⟨⟨rfl, rfl⟩, h.isOf⟩, List.forall_mem_cons.mpr ⟨fun y hy => ?_, fun e he y hy => ?_⟩, fun y hlo hhi => ?_⟩
  · cases hx; rfl
  · obtain ⟨h1, h2⟩ := coversAt_iff.mp hy
    have h2 : y < b := by dsimp only at h1 h2; omega
    exact ⟨h1, by omega, by rw [hconst y h1 h2]⟩
  · obtain ⟨h1, h2, h3⟩ := h.grants e he y hy
    exact ⟨by omega, h2, h3⟩
  · by_cases hy : y < b
    · exact ⟨_, List.mem_cons_self, coversAt_iff.mpr ⟨hlo, by dsimp only; omega⟩⟩
    · obtain ⟨e, he, hc⟩ := h.total y (by omega) hhi
      exact ⟨e, List.mem_cons_of_mem _ he, hc⟩

/-- The first piece takes the granules before it, where the rights are its own. -/
theorem Pieces.widen {x : RangeEntry} {xs : List RangeEntry} (h : Pieces id gen rights held b hi (x :: xs)) (hab : a < b) (hbhi : b ≤ hi)
    (hconst : ∀ y, a ≤ y → y < b → heldRights id gen held y = heldRights id gen held a) (hx : x.rights = rights ||| heldRights id gen held a) :
    Pieces id gen rights held a hi ({ x with base := a, len := x.base + x.len - a } :: xs) := by
  have hbase : x.base = b := h.begins x rfl
  obtain ⟨hof, hofs⟩ := List.forall_mem_cons.mp h.isOf
  obtain ⟨hg, hgs⟩ := List.forall_mem_cons.mp h.grants
  have hcov (y : Nat) (hy : b ≤ y) : coversAt y { x with base := a, len := x.base + x.len - a } = coversAt y x := by
    rw [Bool.eq_iff_iff, coversAt_iff, coversAt_iff]
    dsimp only
    omega
  refine ⟨fun x hx => ?_, List.forall_mem_cons.mpr ⟨hof, hofs⟩, List.forall_mem_cons.mpr ⟨fun y hy => ?_, fun e he y hy => ?_⟩, fun y hlo hhi => ?_⟩
  · cases hx; rfl
  · by_cases hyb : y < b
    · have h1 : a ≤ y := (coversAt_iff.mp hy).1
      exact ⟨h1, by omega, by rw [hconst y h1 hyb]; exact hx⟩
    · rw [hcov y (by omega)] at hy
      obtain ⟨h1, h2, h3⟩ := hg y hy
      exact ⟨by omega, h2, h3⟩
  · obtain ⟨h1, h2, h3⟩ := hgs e he y hy
    exact ⟨by omega, h2, h3⟩
  · by_cases hy : y < b
    · exact ⟨_, List.mem_cons_self, coversAt_iff.mpr ⟨hlo, by dsimp only; omega⟩⟩
    · obtain ⟨e, he, hc⟩ := h.total y (by omega) hhi
      obtain rfl | he := List.mem_cons.mp he
      · exact ⟨_, List.mem_cons_self, (hcov y (by omega)).trans hc⟩
      · exact ⟨e, List.mem_cons_of_mem _ he, hc⟩

theorem Pieces.join (h : Pieces id gen rights held b hi ps) (hab : a < b) (hbhi : b ≤ hi) (hconst : ∀ y, a ≤ y → y < b → heldRights id gen held y = heldRights id gen held a) :
    Pieces id gen rights held a hi (joinPiece id gen (rights ||| heldRights id gen held a) a b ps) := by
  cases ps with
  | nil => exact h.before hab hbhi hconst
  | cons x xs =>
    rw [joinPiece]
    split
    · exact h.widen hab hbhi hconst ‹_›
    · exact h.before hab hbhi hconst

end

theorem grantPieces_pieces (id : BitVec 20) (gen : BitVec 16) (rights : BitVec 5) {held : List RangeEntry} {a hi : Nat} {rest : List Nat} (hsorted : (a :: rest).Pairwise (· < ·))
    (hb : Bounds held a rest) (hhi : hi ∈ a :: rest) (hle : ∀ p ∈ a :: rest, p ≤ hi) : Pieces id gen rights held a hi (grantPieces id gen rights held (a :: rest)) := by
  induction rest generalizing a with
  | nil =>
    obtain rfl := List.mem_singleton.mp hhi
    exact ⟨by simp [grantPieces], by simp [grantPieces], by simp [grantPieces], fun y h1 h2 => absurd h2 (Nat.not_lt.mpr h1)⟩
  | cons b rest ih =>
    obtain ⟨hfirst, hrest⟩ := List.pairwise_cons.mp hsorted
    have hafter : ∀ p ∈ rest, b < p := (List.pairwise_cons.mp hrest).1
    have hab : a < b := hfirst b List.mem_cons_self
    have hbhi : b ≤ hi := hle b (by simp)
    have hpieces : Pieces id gen rights held b hi (grantPieces id gen rights held (b :: rest)) := by
      refine ih hrest (fun e he p hp => ?_) ((List.mem_cons.mp hhi).resolve_left (by omega)) fun p hp => hle p (List.mem_cons_of_mem _ hp)
      obtain h | h := hb e he p hp
      · exact .inl (by omega)
      · obtain rfl | h := List.mem_cons.mp h
        · exact .inl le_rfl
        · exact .inr h
    rw [grantPieces_cons]
    exact hpieces.join hab hbhi fun y h1 h2 => heldRights_between id gen hb hafter h1 h2

/-! ### The boundaries -/

theorem mem_insideEntries {lo hi : Nat} {es : List RangeEntry} {x : RangeEntry} : x ∈ insideEntries lo hi es ↔ ∃ e ∈ es, clipEntry e lo hi = some x := List.mem_filterMap

/-- The boundaries rise strictly from the range's first granule to its end, and every boundary of an entry inside is one of them. -/
theorem cutPoints_bounds {lo hi : Nat} (h : lo < hi) (es : List RangeEntry) :
    ∃ rest, cutPoints lo hi es = lo :: rest ∧ (lo :: rest).Pairwise (· < ·) ∧ Bounds (insideEntries lo hi es) lo rest ∧ hi ∈ lo :: rest ∧ ∀ p ∈ lo :: rest, p ≤ hi := by
  have hmem (p : Nat) : p ∈ cutPoints lo hi es ↔ p = lo ∨ p = hi ∨ ∃ e ∈ insideEntries lo hi es, p = e.base ∨ p = e.base + e.len := by
    simp [cutPoints]
  have hin : ∀ p ∈ cutPoints lo hi es, lo ≤ p ∧ p ≤ hi := by
    intro p hp
    obtain rfl | rfl | ⟨x, hx, hp⟩ := (hmem p).mp hp
    · omega
    · omega
    · obtain ⟨e, -, he⟩ := mem_insideEntries.mp hx
      obtain ⟨-, hbase, hend, hlen⟩ := clipEntry_some he
      omega
  have hsorted : (cutPoints lo hi es).Pairwise (· < ·) := by
    have hle : (cutPoints lo hi es).Pairwise fun p q => decide (p ≤ q) = true :=
      List.pairwise_mergeSort (fun a b c h1 h2 => decide_eq_true ((of_decide_eq_true h1).trans (of_decide_eq_true h2))) (fun a b => by simpa using le_total a b) _
    have hne : (cutPoints lo hi es).Nodup := (List.mergeSort_perm ..).nodup_iff.mpr (List.nodup_dedup _)
    exact (hle.and hne).imp fun h => lt_of_le_of_ne (of_decide_eq_true h.1) h.2
  have hlo : lo ∈ cutPoints lo hi es := (hmem lo).mpr (.inl rfl)
  have hhi : hi ∈ cutPoints lo hi es := (hmem hi).mpr (.inr (.inl rfl))
  have hall : ∀ e ∈ insideEntries lo hi es, ∀ p, p = e.base ∨ p = e.base + e.len → p ∈ cutPoints lo hi es := fun e he p hp => (hmem p).mpr (.inr (.inr ⟨e, he, hp⟩))
  cases hc : cutPoints lo hi es with
  | nil => rw [hc] at hlo; cases hlo
  | cons a rest =>
    rw [hc] at hin hsorted hlo hhi hall
    obtain rfl : a = lo := by
      obtain h | h := List.mem_cons.mp hlo
      · exact h.symm
      · have := (List.pairwise_cons.mp hsorted).1 lo h
        have := (hin a List.mem_cons_self).1
        omega
    refine ⟨rest, rfl, hsorted, fun e he p hp => ?_, hhi, fun p hp => (hin p hp).2⟩
    obtain rfl | h := List.mem_cons.mp (hall e he p hp)
    · exact .inl le_rfl
    · exact .inr h

/-- A grant's table: the pieces, put in where the range was cut out. -/
def grantTable (id : BitVec 20) (gen : BitVec 16) (rights : BitVec 5) (lo hi : Nat) (es : List RangeEntry) : List RangeEntry :=
  insertAll (grantPieces id gen rights (insideEntries lo hi es) (cutPoints lo hi es)) (cutEntries lo hi es)

/-- What R352 asks of the new table holds of the one that a grant makes. -/
theorem granted_grantTable (s : State) (es : List RangeEntry) (id : BitVec 20) (rights : BitVec 5) {lo n : Nat} (hn : n ≠ 0) :
    Granted s es (grantTable id (region s id).gen rights lo (lo + n) es) id rights lo n := by
  intro y hy
  obtain ⟨rest, hpoints, hsorted, hb, hhi, hle⟩ := cutPoints_bounds (show lo < lo + n by omega) es
  have hp := grantPieces_pieces id (region s id).gen rights hsorted hb hhi hle
  rw [← hpoints] at hp
  split
  · rename_i hin
    refine grantAt_eq_some (fun e he hc => ?_) ?_
    · obtain he | he := mem_insertAll.mp he
      · obtain ⟨hid, hgen⟩ := hp.isOf e he
        obtain ⟨-, -, hr⟩ := hp.grants e he y hc
        rw [heldRights_insideEntries _ _ hin.1 hin.2] at hr
        rw [grantOf, hid, hgen, hr]
        rfl
      · exact absurd hin (cutEntries_outside he hc)
    · obtain ⟨e, he, hc⟩ := hp.total y hin.1 hin.2
      exact ⟨e, mem_insertAll.mpr (.inl he), hc⟩
  · rename_i hout
    rw [← grantAt_cutEntries_outside hy hout es, grantAt_eq, grantAt_eq, grantTable, find_insertAll]
    intro e he
    rw [Bool.eq_false_iff]
    intro hc
    obtain ⟨h1, h2, -⟩ := hp.grants e he y hc
    exact hout ⟨h1, h2⟩

end Sys2Proof.Proofs
end

section
/-! GRANT and RTEST: the status of a grant in the order of R350, its new table, the shootdowns of the entries that go, and the entry that RTEST shows (R60, R350, R351, R352, R354). -/

namespace Sys2Proof.Proofs
open Sys2Proof Sys2Proof.Machine Sys2Proof.Claim

/-! ### The region that a range lies in (R350) -/

theorem regionsIn_nodup (s : State) (lo hi i n : Nat) (h : i + n ≤ 2 ^ 20) : (regionsIn s lo hi i n).Nodup := by
  induction n generalizing i with
  | zero => exact List.nodup_nil
  | succ n ih =>
    simp only [regionsIn]
    split
    · refine List.nodup_cons.mpr ⟨fun hm => ?_, ih (i + 1) (by omega)⟩
      obtain ⟨k, h1, h2, h3, -⟩ := (mem_regionsIn ..).mp hm
      have h3 := congrArg BitVec.toNat h3
      rw [BitVec.toNat_ofNat, BitVec.toNat_ofNat, Nat.mod_eq_of_lt (by omega), Nat.mod_eq_of_lt (by omega)] at h3
      omega
    · exact ih (i + 1) (by omega)

theorem grantRegion_iff (s : State) (lo n : Nat) (id : BitVec 20) : grantRegion s lo n = some id ↔ LiesIn s lo n id := by
  have hmem (j : BitVec 20) := mem_regionsIn_cap s lo (lo + n) j
  have hnodup : (regionsIn s lo (lo + n) 0 (regionCap s)).Nodup := regionsIn_nodup s lo (lo + n) 0 (regionCap s) (by rw [regionCap]; omega)
  rw [grantRegion]
  by_cases hn : n = 0
  · rw [if_pos hn]
    exact ⟨fun h => (nomatch h), fun h => absurd hn h.1⟩
  rw [if_neg hn]
  constructor
  · intro h
    split at h
    · rename_i id' hone
      dsimp only at h
      split at h
      · cases h
        rename_i hin
        obtain ⟨h0, hbase, hend⟩ := hin
        rw [hone] at hmem
        obtain ⟨hcap, hst, -, -⟩ := (hmem id).mp (by simp)
        exact ⟨hn, h0, hcap, hst, hbase, hend, fun j hj hjc hjst hov => hj (List.mem_singleton.mp ((hmem j).mpr ⟨hjc, hjst, hov.1, hov.2⟩))⟩
      · cases h
    · cases h
  · rintro ⟨-, h0, hcap, hst, hbase, hend, hothers⟩
    have hone : regionsIn s lo (lo + n) 0 (regionCap s) = [id] := by
      refine List.perm_singleton.mp ((List.perm_ext_iff_of_nodup hnodup (List.nodup_singleton id)).mpr fun j => ?_)
      rw [hmem, List.mem_singleton]
      constructor
      · rintro ⟨hjc, hjst, hov⟩
        exact by_contra fun hj => hothers j hj hjc hjst hov
      · rintro rfl
        exact ⟨hcap, hst, by omega, by omega⟩
    rw [hone]
    exact if_pos ⟨h0, hbase, hend⟩

/-! ### Who may grant (R350) -/

theorem mayGrant_of_coversWith {s : State} {rights : BitVec 5} {lo hi : Nat} {es : List RangeEntry} (h : coversWith s (rights ||| 8#5) lo hi es = true) {y : Nat} (hlo : lo ≤ y) (hhi : y < hi) :
    ∃ e ∈ es, e.base ≤ y ∧ y < e.base + e.len ∧ (region s e.region).gen = e.gen ∧ e.rights &&& (rights ||| 8#5) = rights ||| 8#5 := by
  induction es generalizing lo with
  | nil =>
    have := of_decide_eq_true h
    omega
  | cons e es ih =>
    rw [coversWith, if_neg (by omega)] at h
    split at h
    · obtain ⟨x, hx, hrest⟩ := ih h hlo
      exact ⟨x, List.mem_cons_of_mem _ hx, hrest⟩
    · simp only [Bool.and_eq_true, decide_eq_true_eq, beq_iff_eq] at h
      obtain ⟨⟨⟨hbase, hgen⟩, hrights⟩, hmore⟩ := h
      by_cases hy : y < e.base + e.len
      · exact ⟨e, List.mem_cons_self, by omega, hy, hgen, hrights⟩
      · obtain ⟨x, hx, hrest⟩ := ih hmore (by omega)
        exact ⟨x, List.mem_cons_of_mem _ hx, hrest⟩

/-! ### The decision (R350, R352) -/

/-- GRANT's status and new table, by the region that the range lies in. -/
theorem grantDecide_eq (s : State) (o : BitVec 12) (d : Nat) {id : BitVec 20} (h : LiesIn s (grBase d) (grLen d) id) :
    let lo := grBase d
    let hi := lo + grLen d
    let t := grTarget d
    let new := grantTable id (region s id).gen (grRights d) lo hi (rangeTable s t)
    grantDecide s o d =
      if (ownerDesc s t).valid = false then (3, none)
      else if (region s id).st ≠ .live then (2, none)
      else if coversWith s (grRights d ||| 8#5) lo hi (rangeTable s o) = false then (1, none)
      else if t = o then (0, none)
      else if (ownerDesc s t).cap < new.length then (5, none) else (0, some new) := by
  dsimp only
  rw [grantDecide]
  simp only [(grantRegion_iff ..).mpr h, bne_iff_ne, Bool.not_eq_true', ne_eq]
  rfl

theorem grantDecide_badrange (s : State) (o : BitVec 12) (d : Nat) (h : ∀ id, ¬LiesIn s (grBase d) (grLen d) id) : grantDecide s o d = (4, none) := by
  have hnone : grantRegion s (grBase d) (grLen d) = none := Option.eq_none_iff_forall_ne_some.mpr fun id hid => h id ((grantRegion_iff ..).mp hid)
  rw [grantDecide, hnone]

/-! ### The entries that go (R60) -/

theorem plbsWithout_shootPlb_of {s : State} {id : BitVec 20} (h : PlbsWithout s id) (j : BitVec 20) : PlbsWithout (shootPlb j s) id := by
  obtain ⟨h1, h2⟩ := h
  obtain ⟨hcore, hothers⟩ := @dropPlb_entries (fun e => e.region == j) s
  refine ⟨fun e he => h1 e (hcore e he).1, fun x hx e he => ?_⟩
  obtain ⟨-, y, hy, hey⟩ := hothers x hx e he
  exact h2 y hy e hey

theorem foldl_shootPlb (ids : List (BitVec 20)) (s : State) :
    (ids.foldl (fun s id => shootPlb id s) s).mem = s.mem ∧ ∀ id, id ∈ ids ∨ PlbsWithout s id → PlbsWithout (ids.foldl (fun s id => shootPlb id s) s) id := by
  induction ids generalizing s with
  | nil => exact ⟨rfl, fun id h => h.resolve_left List.not_mem_nil⟩
  | cons j ids ih =>
    obtain ⟨hmem, hplb⟩ := ih (shootPlb j s)
    refine ⟨hmem, fun id h => hplb id ?_⟩
    rw [List.mem_cons, or_assoc] at h
    obtain rfl | h | h := h
    · exact .inr (plbsWithout_shootPlb id s)
    · exact .inl h
    · exact .inr (plbsWithout_shootPlb_of h j)

theorem removeEntries_mem (o : BitVec 12) (lo hi : Nat) (es : List RangeEntry) (s : State) : (removeEntries o lo hi es s).mem = (setRangeTable s o es).mem := (foldl_shootPlb _ _).1

/-- An entry that meets a range has a piece inside it. -/
theorem clipEntry_of_meets {e : RangeEntry} {lo hi : Nat} (h1 : lo < hi) (h2 : e.base < hi) (h3 : lo < e.base + e.len) (h4 : e.len ≠ 0) : ∃ x, clipEntry e lo hi = some x := by
  rw [clipEntry]
  exact ⟨_, if_pos (by omega)⟩

theorem removeEntries_plbs {s : State} {o : BitVec 12} {lo hi : Nat} (hr : lo < hi) (es : List RangeEntry) {e : RangeEntry} (he : e ∈ rangeTable s o) (h1 : e.base < hi) (h2 : lo < e.base + e.len)
    (h3 : e.len ≠ 0) : PlbsWithout (removeEntries o lo hi es s) e.region := by
  obtain ⟨x, hx⟩ := clipEntry_of_meets hr h1 h2 h3
  refine (foldl_shootPlb _ _).2 e.region (.inl (List.mem_dedup.mpr (List.mem_map.mpr ⟨x, mem_insideEntries.mpr ⟨e, he, hx⟩, ?_⟩)))
  exact congrArg Prod.fst (clipEntry_some hx).1

/-! ### The descriptor in the scratchpad (R296, R333) -/

section
variable {s : State} {ea : Word} (hown : OwnBytes s ea 16 false none)
include hown

theorem afterOwn_acquiring (hacq : acquirePending s = true) (k : State → Machine.Out) : afterOwn false ea 16 s k = .next (hold false s) := by
  obtain ⟨hmode, hplace, -⟩ := hown
  rw [afterOwn, hplace]
  dsimp only
  rw [steward, hmode, Bool.false_and, if_neg Bool.false_ne_true, afterAcquire, behindLdaq, if_pos hacq]

theorem afterOwn_lands (hacq : acquirePending s = false) (k : State → Machine.Out) : afterOwn false ea 16 s k = k (landStrl s) := by
  obtain ⟨hmode, hplace, -, hwaits, -⟩ := hown
  rw [afterOwn, hplace]
  dsimp only
  rw [steward, hmode, Bool.false_and, if_neg Bool.false_ne_true, afterAcquire_none hacq, afterAlias, hwaits, if_neg Bool.false_ne_true]

theorem badDescriptor_own (halign : ea.toNat % 16 = 0) : badDescriptor ea 16 16 s = false := by
  obtain ⟨-, -, hsize, -⟩ := hown
  simp [badDescriptor, halign, hsize]

theorem readDescriptor_own (halign : ea.toNat % 16 = 0) :
    readDescriptor ea 16 16 (landStrl s) = .ok (getLe (ownRead s ea 16).mem (poolKey s.cur ea.toNat) 16, ownRead s ea 16) := by
  have hbad := badDescriptor_own hown halign
  obtain ⟨hmode, -, -, -, hraces⟩ := hown
  obtain ⟨-, hcur, hcore, -⟩ := landStrl_resultsStand s
  obtain ⟨hmode', -⟩ := (landStrl_resultsStand s).context
  obtain ⟨-, hrf, hacc⟩ : _ ∧ (landStrl s).core.rf = s.core.rf ∧ (landStrl s).core.acc = s.core.acc := by simpa using hcore
  have hbad : badDescriptor ea 16 16 (landStrl s) = false := by rw [badDescriptor, scratchSize, hcur, hrf, hacc]; exact hbad
  have hread : readGranules (poolKey s.cur ea.toNat) 1 (landStrl s) = some (ownRead s ea 16) := by
    rw [readGranules, show recordAccess (myAccess (landStrl s) (poolKey s.cur ea.toNat) false true none) (landStrl s) = _ from recordAccess_unraced (hraces 0 (by decide))]
    rfl
  rw [readDescriptor, hbad, if_neg Bool.false_ne_true]
  dsimp only
  rw [steward, hmode', hmode, Bool.false_and, if_neg Bool.false_ne_true, hcur, privGranules, hread]
  rfl

theorem withDescriptor_own (hacq : acquirePending s = false) (halign : ea.toNat % 16 = 0) (k : Nat → State → Machine.Out) :
    withDescriptor ea 16 16 s k = k (getLe (ownRead s ea 16).mem (poolKey s.cur ea.toNat) 16) (ownRead s ea 16) := by
  rw [withDescriptor, badDescriptor_own hown halign, if_neg Bool.false_ne_true, afterOwn_lands hown hacq, readDescriptor_own hown halign]

end

theorem ownRead_resultsStand (s : State) (ea : Word) : ResultsStand s (ownRead s ea 16) := by
  obtain ⟨r, hr⟩ := addAccess_form (myAccess (landStrl s) (poolKey s.cur ea.toNat + 32 * 0) false true none) (landStrl s)
  have hform : ownRead s ea 16 = { landStrl s with races := r } := hr
  have hland := landStrl_resultsStand s
  rw [hform]
  exact hland.trans ⟨rfl, rfl, rfl, rfl⟩

/-! ### GRANT (R350 to R352) -/

section
variable {s : State} {sc : BitVec 2} {a d : Reg} (hu : underWait s [.g a] none = none)
include hu

theorem grant_misaligned (huser : User s) (h : (rdG s a).toNat % 16 ≠ 0) : Traps (.grant sc a d) s 2#8 (rdG s a) (codeVa s s.core.ctx.pc) := by
  refine trapAs_traps (c := (2#8, rdG s a)) huser ?_
  have hbad : badDescriptor (rdG s a) 16 16 s = true := by simp [badDescriptor, h]
  show execGrant sc a d s = _
  rw [execGrant, checked_none hu, withDescriptor, if_pos hbad, trap]

theorem grant_holds (hown : OwnBytes s (rdG s a) 16 false none) (halign : (rdG s a).toNat % 16 = 0) (hacq : acquirePending s = true) : Holds (.grant sc a d) s := by
  refine ⟨false, ?_⟩
  show execGrant sc a d s = _
  rw [execGrant, checked_none hu, withDescriptor, badDescriptor_own hown halign, if_neg Bool.false_ne_true, afterOwn_acquiring hown hacq]

variable (hown : OwnBytes s (rdG s a) 16 false none) (halign : (rdG s a).toNat % 16 = 0) (hacq : acquirePending s = false) (hd : underWait s [] (some (.g d, 1)) = none)
  {x : Nat} (hx : x = getLe (ownRead s (rdG s a) 16).mem (poolKey s.cur (rdG s a).toNat) 16) {st : Nat}
include hown halign hacq hd hx

/-- A GRANT that changes no table gives its status. -/
theorem grant_gives (h : grantDecide (ownRead s (rdG s a) 16) (acting s) x = (st, none)) :
    CompletesAs (.grant sc a d) s 4 sc.toNat (putG d (BitVec.ofNat 64 st) (ownRead s (rdG s a) 16)) := by
  have hstand := ownRead_resultsStand s (rdG s a)
  refine completesAs_retire ?_
  show execGrant sc a d s = _
  rw [execGrant, checked_none hu, withDescriptor_own hown hacq halign, ← hx, hstand.acting, h]
  exact checked_none ((hstand.underWait_write _).trans hd) _

/-- A GRANT that makes a new table puts it in and gives its status. -/
theorem grant_changes {new : List RangeEntry} (h : grantDecide (ownRead s (rdG s a) 16) (acting s) x = (st, some new)) :
    CompletesAs (.grant sc a d) s 4 sc.toNat (putG d (BitVec.ofNat 64 st) (removeEntries (grTarget x) (grBase x) (grBase x + grLen x) new (ownRead s (rdG s a) 16))) := by
  have hstand := ownRead_resultsStand s (rdG s a)
  refine completesAs_retire ?_
  show execGrant sc a d s = _
  rw [execGrant, checked_none hu, withDescriptor_own hown hacq halign, ← hx, hstand.acting, h]
  exact checked_none ((hstand.underWait_write _).trans hd) _

end

/-! ### Results at latency 1 (R127) -/

theorem writesG_of_regs {d : Reg} {x : Word} {s t u : State} (h : WritesG d x s t) (hg : u.core.ctx.regs.g = t.core.ctx.regs.g) : WritesG d x s u := by
  have hr (r : Reg) : rdG u r = rdG t r := by rw [rdG, rdG, ctxG, ctxG, hg]
  obtain ⟨hothers, hd⟩ := h
  exact ⟨fun r hne => (hr r).trans (hothers r hne), (hr d).trans hd⟩

theorem givesG_of_movesOn {i : Instr} {s t : State} {size extra : Nat} {d : Reg} {x : Word} (h : exec i s = .next t) (hm : MovesOn size extra (putG d x s) t) : GivesG i s size extra d x := by
  have hwrites := writesG_putG d x s
  obtain ⟨g, hform⟩ := putG_form d x s
  obtain ⟨hrest, hissue, hcontrol, hflow, hfiles, hg, hpend⟩ := hm
  have hwrites := writesG_of_regs hwrites hg
  rw [hform] at hrest hissue hcontrol hflow hfiles hpend
  exact ⟨t, h, hrest, hissue, hcontrol, hflow, hfiles, hwrites, hpend⟩

theorem givesG_retire {i : Instr} {s : State} {sc : BitVec 2} {d : Reg} {x : Word} (h : exec i s = .next (retire sc (putG d x s))) : GivesG i s 4 sc.toNat d x :=
  givesG_of_movesOn h (retire_movesOn sc _)

/-! ### RTEST (R354) -/

theorem rtestWord_eq (s : State) (e : RangeEntry) :
    rtestWord s e = BitVec.ofNat 64 ((if (region s e.region).gen = e.gen then 2 ^ 63 else 2 ^ 62) + e.rights.toNat * 2 ^ 56 + e.region.toNat * 2 ^ 32 + e.gen.toNat * 2 ^ 16) := by
  rw [rtestWord]
  by_cases h : (region s e.region).gen = e.gen
  · simp [h, boolNat]
  · simp [h, boolNat]

section
variable {s : State} {sc : BitVec 2} {a d : Reg} (hu : underWait s [.g a] none = none)
include hu

theorem rtest_tagged (huser : User s) (h : (rdG s a).extractLsb' 56 8 ≠ 0#8) : Traps (.rtest sc a d) s 2#8 (rdG s a) (codeVa s s.core.ctx.pc) := by
  refine trapAs_traps (c := (2#8, rdG s a)) huser ?_
  show execRtest sc a d s = _
  rw [execRtest, checked_none hu]
  dsimp only
  rw [if_pos h, trap]

variable (htag : (rdG s a).extractLsb' 56 8 = 0#8) (hd : underWait s [] (some (.g d, 1)) = none)
include htag hd

theorem rtest_priv {off : Nat} (hp : place (onCompute s) (rdG s a).toNat = .priv off) : GivesG (.rtest sc a d) s 4 sc.toNat d (BitVec.ofNat 64 (2 ^ 63 + 2 ^ 61 + 7 * 2 ^ 56)) := by
  refine givesG_retire ?_
  show execRtest sc a d s = _
  rw [execRtest, checked_none hu]
  dsimp only
  rw [if_neg (not_not.mpr htag), checked_none hd, hp]

theorem rtest_bad (hp : place (onCompute s) (rdG s a).toNat = .bad) : GivesG (.rtest sc a d) s 4 sc.toNat d 0#64 := by
  refine givesG_retire ?_
  show execRtest sc a d s = _
  rw [execRtest, checked_none hu]
  dsimp only
  rw [if_neg (not_not.mpr htag), checked_none hd, hp]

theorem rtest_none (hp : place (onCompute s) (rdG s a).toNat = .heap) (hl : plbLookup s s.core (acting s) (rdG s a).toNat = none) : GivesG (.rtest sc a d) s 4 sc.toNat d 0#64 := by
  refine givesG_retire ?_
  show execRtest sc a d s = _
  rw [execRtest, checked_none hu]
  dsimp only
  rw [if_neg (not_not.mpr htag), checked_none hd, hp]
  dsimp only
  rw [hl]

theorem rtest_found (hp : place (onCompute s) (rdG s a).toNat = .heap) {e : RangeEntry} {c : Core} (hl : plbLookup s s.core (acting s) (rdG s a).toNat = some (e, c)) :
    CompletesAs (.rtest sc a d) s 4 sc.toNat (putG d (rtestWord s e) { s with core := c }) := by
  refine completesAs_retire ?_
  show execRtest sc a d s = _
  rw [execRtest, checked_none hu]
  dsimp only
  rw [if_neg (not_not.mpr htag), checked_none hd, hp]
  dsimp only
  rw [hl]

end

/-- The decision of GRANT by its conditions, and the parts of R352 that an accepted one has. -/
theorem grantAndTest : GrantAndTest := by
  intro s sc a d x hu s1 lo n rights tgt o gives
  refine ⟨fun halign hown hacq => grant_holds hu hown halign hacq, fun hacq halign hown hd hx _ => ?_, fun huser h => grant_misaligned hu huser h, fun huser h => rtest_tagged hu huser h,
    fun htag hd => ⟨fun off hp => ?_, fun hp => ?_, fun hp => ⟨fun hl => ?_, fun e c hl => ?_⟩⟩⟩
  · have answers {st : Nat} (h : grantDecide s1 o x = (st, none)) : gives st s1 := grant_gives hu hown halign hacq hd hx h
    refine ⟨fun hout => answers (grantDecide_badrange s1 o x hout), fun id hin => ?_⟩
    have hdec := grantDecide_eq s1 o x hin
    have hn : n ≠ 0 := hin.1
    refine ⟨fun hv => answers (hdec.trans (if_pos hv)), fun hv hst => ?_, fun hv hst => ?_⟩
    · exact answers (hdec.trans ((if_neg (Bool.not_eq_false _ ▸ hv)).trans (if_pos hst)))
    · have hlive := hdec.trans ((if_neg (Bool.not_eq_false _ ▸ hv)).trans (if_neg (not_not.mpr hst)))
      refine ⟨fun hmay => ?_, fun hcov => ?_⟩
      · obtain ⟨y, hlo, hhi, hno⟩ := hmay
        have hcov : coversWith s1 (rights ||| 8#5) lo (lo + n) (rangeTable s1 o) = false := Bool.eq_false_iff.mpr fun hc => hno (mayGrant_of_coversWith hc hlo hhi)
        exact answers (hlive.trans (if_pos hcov))
      · have hgrants := hlive.trans (if_neg (Bool.not_eq_false _ ▸ hcov))
        refine ⟨fun hself => answers (hgrants.trans (if_pos hself)), fun hself => ?_⟩
        have hchanges := hgrants.trans (if_neg hself)
        refine ⟨_, granted_grantTable s1 (rangeTable s1 tgt) id rights hn, fun hcap => answers (hchanges.trans (if_pos hcap)), fun hcap => ⟨?_, removeEntries_mem .., ?_⟩⟩
        · exact grant_changes hu hown halign hacq hd hx (hchanges.trans (if_neg (Nat.not_lt.mpr hcap)))
        · exact fun e he h1 h2 h3 => removeEntries_plbs (by omega) _ he h1 h2 h3
  · exact rtest_priv hu htag hd hp
  · exact rtest_bad hu htag hd hp
  · exact rtest_none hu htag hd hp hl
  · rw [← rtestWord_eq]
    exact rtest_found hu htag hd hp hl

end Sys2Proof.Proofs
end

section
/-! REVOKE, RDROP and the completed shootdown: what an issue and an answer leave, what a broadcast leaves, and the table that RDROP cuts (R60, R63, R64, R353, R355). -/

namespace Sys2Proof.Proofs
open Sys2Proof Sys2Proof.Machine Sys2Proof.Claim

/-! ### Scoreboard checks of several reads (R136) -/

theorem underWait_first {s : State} {x : Dest} {xs : List Dest} (h : underWait s (x :: xs) none = none) : underWait s [x] none = none := by
  rw [underWait] at h ⊢
  split at h
  · exact if_pos ‹_›
  · rename_i hen
    rw [if_neg hen]
    rw [List.findSome?_cons] at h ⊢
    cases hx : readTrap s.gtc s.core.ctx x with
    | none => rfl
    | some v => rw [hx] at h; cases h

/-! ### Tables read and written in states with one memory and one hub -/

section
variable {s t : State} (hm : t.mem = s.mem) (hh : t.hub = s.hub)
include hm hh

theorem region_congr (id : BitVec 20) : region t id = region s id := by
  simp only [region, regionAddr, hm, hh]

theorem setRegion_mem_congr (id : BitVec 20) (r : Region) : (setRegion t id r).mem = (setRegion s id r).mem := by
  simp only [setRegion, regionAddr, hm, hh]

theorem rangeTable_congr (o : BitVec 12) : rangeTable t o = rangeTable s o := by
  simp only [rangeTable, ownerDesc, ownerAddr, hm, hh]

theorem setRangeTable_mem_congr (o : BitVec 12) (es : List RangeEntry) : (setRangeTable t o es).mem = (setRangeTable s o es).mem := by
  simp only [setRangeTable, setOwnerDesc, ownerDesc, ownerAddr, hm, hh]

end

theorem setRegion_hub (s : State) (id : BitVec 20) (r : Region) : (setRegion s id r).hub = s.hub := rfl

theorem regionStateOf_regionCode (st : RegionState) : regionStateOf (regionCode st) = st := by cases st <;> rfl

/-- A region's entry reads back as it was written (R57). -/
theorem region_setRegion {s : State} (hm : Memory.wf s.mem = true) (id : BitVec 20) {r : Region} (hbase : r.base < 2 ^ 44) (hlen : r.len < 2 ^ 40) : region (setRegion s id r) id = r := by
  obtain ⟨st, creator, gen, len, base⟩ := r
  have hst := regionCode_lt st
  have hcr := creator.isLt
  have hgen := gen.isLt
  dsimp only at hbase hlen
  have hfits : base + len * 2 ^ 44 + gen.toNat * 2 ^ 96 + creator.toNat * 2 ^ 112 + regionCode st * 2 ^ 126 < 256 ^ 16 := by omega
  simp only [region, setRegion, regionAddr]
  rw [getLe_setLe hm, Nat.mod_eq_of_lt hfits]
  simp only [bits, Region.mk.injEq]
  refine ⟨?_, ?_, ?_, ?_, ?_⟩
  · rw [← regionStateOf_regionCode st]
    congr 1
    rw [regionStateOf_regionCode]
    omega
  · apply BitVec.eq_of_toNat_eq
    rw [BitVec.toNat_ofNat]
    omega
  · apply BitVec.eq_of_toNat_eq
    rw [BitVec.toNat_ofNat]
    omega
  · omega
  · omega

theorem region_bounds (s : State) (id : BitVec 20) : (region s id).base < 2 ^ 44 ∧ (region s id).len < 2 ^ 40 :=
  ⟨Nat.mod_lt _ (by decide), Nat.mod_lt _ (by decide)⟩

/-! ### The issue of a REVOKE and its answer (R131, R353) -/

theorem follows_of_flow {size : Nat} {s t u : State} (h : Follows size s t) (hpc : u.core.ctx.pc = t.core.ctx.pc) (hlc : u.core.ctx.regs.lc = t.core.ctx.regs.lc)
    (hloops : u.core.ctx.regs.loops = t.core.ctx.regs.loops) : Follows size s u := by
  simp only [Follows, LevelStands, LevelEnded, hpc, hlc, hloops] at h ⊢
  exact h

/-- A REVOKE has issued its token and its destination is uncovered. -/
def revokeIssued (sc : BitVec 2) (t : TokenName) (d : Reg) (s : State) : State := retire sc (syncPoint (addUncovered (.g d) t none (issueToken t s)))

theorem revokeIssued_leaves (sc : BitVec 2) (t : TokenName) (d : Reg) (s : State) :
    let w := revokeIssued sc t d s
    NoG s w ∧ Follows 4 s w ∧ ctxToken w.core.ctx t = { ctxToken s.core.ctx t with issued := (ctxToken s.core.ctx t).issued + 1#16 } ∧
      w.mem = s.mem ∧ w.hub = s.hub ∧ ∀ c, Issues s c → Issues w c := by
  have hissued := ctxToken_set_same s.core.ctx t { ctxToken s.core.ctx t with issued := (ctxToken s.core.ctx t).issued + 1#16 }
  obtain ⟨k, hk, hframe⟩ := ctxSetToken_frame s.core.ctx t { ctxToken s.core.ctx t with issued := (ctxToken s.core.ctx t).issued + 1#16 }
  rw [hframe] at hissued
  obtain ⟨l, hunc, -⟩ := addUncovered_form (.g d) t none (issueToken t s)
  have hform : ∃ r q, syncPoint (addUncovered (.g d) t none (issueToken t s)) =
      { setCtx s { s.core.ctx with regs := { s.core.ctx.regs with k := k, hk := hk }, uncov := l, syncSeq := q } with races := r } := by
    rw [hunc, issueToken]
    dsimp only
    rw [hframe]
    exact ⟨_, _, rfl⟩
  obtain ⟨r, q, hform⟩ := hform
  obtain ⟨e, b, n, pc, lc, loops, hretire, hflow⟩ := retireBy_eq 4 0 sc.toNat (syncPoint (addUncovered (.g d) t none (issueToken t s)))
  have hw : revokeIssued sc t d s = _ := hretire
  rw [hform] at hw hflow
  rw [hw]
  exact ⟨fun _ => rfl, hflow, hissued, rfl, rfl, fun c h => h⟩

theorem ctxPutG_form (c : Ctx) (d : Reg) (x : Word) : ∃ g, ctxPutG c d x = { c with regs := { c.regs with g := g } } := by
  rw [ctxPutG]
  split
  · exact ⟨c.regs.g, rfl⟩
  · exact ⟨_, rfl⟩

/-- The answer to a REVOKE whose context issues: the status in g[d] and the post. -/
theorem answerRevoke_leaves {s : State} {c : BitVec 56} (h : Issues s c) (d : Reg) (t : TokenName) (st : Word) :
    let u := answerRevoke c d t st s
    WritesG d st s u ∧ ctxToken u.core.ctx t = { ctxToken s.core.ctx t with count := (ctxToken s.core.ctx t).count + 1#16 } ∧
      u.mem = s.mem ∧ u.hub = s.hub ∧ ∀ size w, Follows size w s → Follows size w u := by
  dsimp only
  rw [answerRevoke, touchCtx_issuing h]
  have hwrites (u : State) (hu : u.core.ctx.regs.g = (ctxPutG s.core.ctx d st).regs.g) :=
    writesG_of_regs (writesG_ctxPutG (c := s.core.ctx) rfl d st) hu
  obtain ⟨g, hg⟩ := ctxPutG_form s.core.ctx d st
  rw [hg] at hwrites ⊢
  generalize hdone : ctxUncovDone { s.core.ctx with regs := { s.core.ctx.regs with g := g } } t (.g d) = x
  have hcount := ctxToken_set_same x t { ctxToken x t with count := (ctxToken x t).count + 1#16 }
  obtain ⟨k, hk, hframe⟩ := ctxSetToken_frame x t { ctxToken x t with count := (ctxToken x t).count + 1#16 }
  obtain ⟨why, b, i, w, state, pre, hpost⟩ := ctxPost_form x t
  rw [hframe] at hpost hcount
  rw [hpost]
  subst hdone
  exact ⟨hwrites _ rfl, hcount, rfl, rfl, fun size w hf => follows_of_flow hf rfl rfl rfl⟩

/-! ### Broadcasts (R63) -/

theorem startShoot_ctx (id : BitVec 20) (freed : Bool) (w : ShootFor) (s : State) : (startShoot id freed w s).core.ctx = s.core.ctx := rfl

theorem revokeRegion_ctx (id : BitVec 20) (freed : Bool) (s : State) : (revokeRegion id freed s).core.ctx = s.core.ctx := by cases freed <;> rfl

theorem revokeRegion_hub (id : BitVec 20) (freed : Bool) (s : State) : (revokeRegion id freed s).hub = s.hub := by cases freed <;> rfl

/-- A withdraw raises GEN in the region's entry and in the creator's own entries of it (R63). -/
theorem revokeRegion_withdraw_mem (id : BitVec 20) (s : State) :
    let r := region s id
    let s1 := setRegion s id { r with gen := r.gen + 1#16 }
    (revokeRegion id false s).mem = (setRangeTable s1 r.creator ((rangeTable s1 r.creator).map fun (e : RangeEntry) =>
      if e.region = id ∧ e.gen = r.gen then { e with gen := r.gen + 1#16 } else e)).mem := rfl

/-! ### REVOKE (R353) -/

theorem revokeDecide_region {s : State} {va : Nat} {id : BitVec 20} (h : regionAt s va = some id) (o : BitVec 12) (free : Bool) :
    revokeDecide s o va free =
      if id = 0#20 then .error 4
      else if o ≠ (region s id).creator ∧ o ≠ 0#12 then .error 7
      else if (region s id).st ≠ .live then .error 2
      else if free = false ∧ (region s id).gen = 0xFFFE#16 then .error 6
      else .ok id := by
  rw [revokeDecide, h]

section
variable {s : State} {sc : BitVec 2} {k : BitVec 4} {f : BitVec 1} {a d : Reg} {t : TokenName} (hu : underWait s [.g a] none = none)
include hu

theorem revoke_tagged (htok : tokenOf s k = some t) (huser : User s) (h : (rdG s a).extractLsb' 56 8 ≠ 0#8) : Traps (.revoke sc k f a d) s 2#8 (rdG s a) (codeVa s s.core.ctx.pc) := by
  refine trapAs_traps (c := (2#8, rdG s a)) huser ?_
  show execRevoke sc k f a d s = _
  rw [execRevoke, withToken_some htok, checked_none hu]
  dsimp only
  rw [if_pos h, trap]

variable (htag : (rdG s a).extractLsb' 56 8 = 0#8) (hroom : TokenRoom s k t) (hi : Issues s s.core.ctx.rcd.chrys)
include htag hroom

theorem exec_revoke_error {st : Nat} (h : revokeDecide s (acting s) (rdG s a).toNat (f == 1#1) = .error st) :
    exec (.revoke sc k f a d) s = .next (answerRevoke s.core.ctx.rcd.chrys d t (BitVec.ofNat 64 st) (revokeIssued sc t d s)) := by
  obtain ⟨htok, hroom⟩ := hroom
  show execRevoke sc k f a d s = _
  rw [execRevoke, withToken_some htok, checked_none hu]
  dsimp only
  rw [if_neg (not_not.mpr htag), guardToken_room hroom, h]
  rfl

theorem exec_revoke_ok {id : BitVec 20} (h : revokeDecide s (acting s) (rdG s a).toNat (f == 1#1) = .ok id) :
    exec (.revoke sc k f a d) s = .next (startShoot id (f == 1#1) (.revoke s.cur s.core.ctx.rcd.chrys d t) (revokeRegion id (f == 1#1) (revokeIssued sc t d s))) := by
  obtain ⟨htok, hroom⟩ := hroom
  show execRevoke sc k f a d s = _
  rw [execRevoke, withToken_some htok, checked_none hu]
  dsimp only
  rw [if_neg (not_not.mpr htag), guardToken_room hroom, h]
  rfl

include hi

/-- A refused REVOKE gives its status and posts at once. -/
theorem revoke_refused {st : Nat} (h : revokeDecide s (acting s) (rdG s a).toNat (f == 1#1) = .error st) :
    ∃ u, exec (.revoke sc k f a d) s = .next u ∧ WritesG d (BitVec.ofNat 64 st) s u ∧ Follows 4 s u ∧
      ctxToken u.core.ctx t = { issued := (ctxToken s.core.ctx t).issued + 1#16, count := (ctxToken s.core.ctx t).count + 1#16 } ∧ ∀ y, getByte u.mem y = getByte s.mem y := by
  obtain ⟨hg, hflow, htoken, hmem, -, hissues⟩ := revokeIssued_leaves sc t d s
  obtain ⟨⟨hothers, hd⟩, hcount, hmem', -, hkeeps⟩ := answerRevoke_leaves (hissues _ hi) d t (BitVec.ofNat 64 st)
  refine ⟨_, exec_revoke_error hu htag hroom h, ⟨fun r hr => (hothers r hr).trans (hg r), hd⟩, hkeeps _ _ hflow, ?_, fun y => by rw [hmem', hmem]⟩
  rw [hcount, htoken]

omit hi in
/-- An accepted REVOKE issues its token, raises the region's generation and broadcasts a shootdown. -/
theorem revoke_accepted {id : BitVec 20} (h : revokeDecide s (acting s) (rdG s a).toNat (f == 1#1) = .ok id) (hst : (region s id).st = .live) :
    ∃ u, exec (.revoke sc k f a d) s = .next u ∧ NoG s u ∧ Follows 4 s u ∧ ctxToken u.core.ctx t = { ctxToken s.core.ctx t with issued := (ctxToken s.core.ctx t).issued + 1#16 } ∧
      u.hub.shoots = s.hub.shoots ++ [{ region := id, freed := f == 1#1, for_ := .revoke s.cur s.core.ctx.rcd.chrys d t }] ∧ PlbsWithout u id ∧
      let r := region s id
      let s1 := setRegion s id { r with gen := r.gen + 1#16, st := if f = 1#1 then .revoking else .live }
      u.mem = if f = 1#1 then s1.mem else (setRangeTable s1 r.creator ((rangeTable s1 r.creator).map fun (e : RangeEntry) =>
        if e.region = id ∧ e.gen = r.gen then { e with gen := r.gen + 1#16 } else e)).mem := by
  obtain ⟨hg, hflow, htoken, hmem, hhub, -⟩ := revokeIssued_leaves sc t d s
  refine ⟨_, exec_revoke_ok hu htag hroom h, ?_⟩
  generalize revokeIssued sc t d s = w at *
  have hctx : (startShoot id (f == 1#1) (.revoke s.cur s.core.ctx.rcd.chrys d t) (revokeRegion id (f == 1#1) w)).core.ctx = w.core.ctx :=
    (startShoot_ctx ..).trans (revokeRegion_ctx ..)
  refine ⟨fun r => ?_, ?_, ?_, ?_, plbsWithout_startShoot .., ?_⟩
  · rw [← hg r, rdG, rdG, hctx]
  · exact follows_of_flow hflow (by rw [hctx]) (by rw [hctx]) (by rw [hctx])
  · rw [hctx, htoken]
  · rw [startShoot_shoots, revokeRegion_hub, hhub]
  · have hregion := region_congr hmem hhub id
    dsimp only
    rw [startShoot_mem]
    by_cases hf : f = 1#1
    · rw [if_pos hf, if_pos hf, hf]
      refine (revokeRegion_free_mem id w).trans ?_
      rw [hregion]
      exact setRegion_mem_congr hmem hhub id _
    · have hfalse : (f == 1#1) = false := beq_eq_false_iff_ne.mpr hf
      rw [if_neg hf, if_neg hf, hfalse]
      refine (revokeRegion_withdraw_mem id w).trans ?_
      rw [hregion, ← hst]
      have hmem1 := setRegion_mem_congr hmem hhub id { region s id with gen := (region s id).gen + 1#16 }
      have hhub1 : (setRegion w id { region s id with gen := (region s id).gen + 1#16 }).hub = (setRegion s id { region s id with gen := (region s id).gen + 1#16 }).hub := by
        rw [setRegion_hub, setRegion_hub, hhub]
      rw [rangeTable_congr hmem1 hhub1]
      exact setRangeTable_mem_congr hmem1 hhub1 _ _

end

end Sys2Proof.Proofs
end

section
/-! The table that RDROP leaves: a range cut out of disjoint entries, where a full table makes no entry for the upper part of a split (R70, R355). -/

namespace Sys2Proof.Proofs
open Sys2Proof Sys2Proof.Machine Sys2Proof.Claim

/-! ### How many entries a cut leaves -/

theorem length_clipEntry (e : RangeEntry) (lo hi : Nat) : (clipEntry e lo hi).toList.length = if max e.base lo < min (e.base + e.len) hi then 1 else 0 := by
  rw [clipEntry]
  split <;> rfl

theorem length_cutPieces (lo hi : Nat) (e : RangeEntry) : (cutPieces lo hi e).length =
    (if max e.base 0 < min (e.base + e.len) lo then 1 else 0) + if max e.base hi < min (e.base + e.len) (2 ^ 44) then 1 else 0 := by
  rw [cutPieces, List.length_append, length_clipEntry, length_clipEntry]

theorem length_flatMap_one {α β : Type} {f : α → List β} {l : List α} (h : ∀ a ∈ l, (f a).length = 1) : (l.flatMap f).length = l.length := by
  rw [List.length_flatMap, List.map_congr_left h, List.map_const', List.sum_replicate, smul_eq_mul, mul_one]

section
variable {lo hi : Nat} (hr : lo < hi) {es : List RangeEntry} (hpair : es.Pairwise fun p q => p.base + p.len ≤ q.base)
include hr hpair

/-- An entry that lies on both sides of the range leaves two, every other one of them leaves one. -/
theorem length_cutEntries_split (hlen : ∀ e ∈ es, e.len ≠ 0) (hbase : ∀ e ∈ es, e.base < 2 ^ 44) {e : RangeEntry} (he : e ∈ es) (h1 : e.base < lo) (h2 : hi < e.base + e.len) (h3 : hi < 2 ^ 44) :
    (cutEntries lo hi es).length = es.length + 1 := by
  obtain ⟨pre, post, rfl⟩ := List.append_of_mem he
  obtain ⟨-, hpost, hcross⟩ := List.pairwise_append.mp hpair
  obtain ⟨hpost, -⟩ := List.pairwise_cons.mp hpost
  have hpre1 : ∀ p ∈ pre, (cutPieces lo hi p).length = 1 := by
    intro p hp
    have := hcross p hp e List.mem_cons_self
    have := hlen p (by simp [hp])
    rw [length_cutPieces, if_pos (by omega), if_neg (by omega)]
  have hpost1 : ∀ q ∈ post, (cutPieces lo hi q).length = 1 := by
    intro q hq
    have := hpost q hq
    have := hlen q (by simp [hq])
    have := hbase q (by simp [hq])
    rw [length_cutPieces, if_neg (by omega), if_pos (by omega)]
  have he2 : (cutPieces lo hi e).length = 2 := by rw [length_cutPieces, if_pos (by omega), if_pos (by omega)]
  rw [cutEntries_eq, List.flatMap_append, List.flatMap_cons, List.length_append, List.length_append, length_flatMap_one hpre1, length_flatMap_one hpost1, he2, List.length_append, List.length_cons]
  omega

omit hr hpair in
theorem length_cutEntries_le (h : ∀ e ∈ es, ¬(e.base < lo ∧ hi < e.base + e.len ∧ hi < 2 ^ 44)) : (cutEntries lo hi es).length ≤ es.length := by
  rw [cutEntries_eq]
  induction es with
  | nil => exact le_rfl
  | cons e es ih =>
    have := h e List.mem_cons_self
    have := ih fun x hx => h x (List.mem_cons_of_mem _ hx)
    have : (cutPieces lo hi e).length ≤ 1 := by
      rw [length_cutPieces]
      split <;> split <;> omega
    rw [List.flatMap_cons, List.length_append, List.length_cons]
    omega

omit hr in
/-- Entries of a table that do not overlap: what covers one granule is one entry. -/
theorem entry_unique {p q : RangeEntry} (hp : p ∈ es) (hq : q ∈ es) {y : Nat} (h1 : p.base ≤ y ∧ y < p.base + p.len) (h2 : q.base ≤ y ∧ y < q.base + q.len) : p = q := by
  have hone : es.Pairwise fun p q => (p.base ≤ y ∧ y < p.base + p.len) → (q.base ≤ y ∧ y < q.base + q.len) → p = q := hpair.imp fun h h1 h2 => by omega
  have hflip : es.Pairwise (flip fun p q => (p.base ≤ y ∧ y < p.base + p.len) → (q.base ≤ y ∧ y < q.base + q.len) → p = q) := hone.imp fun h h1 h2 => (h h2 h1).symm
  exact List.Pairwise.forall_of_forall_of_flip (fun _ _ _ _ => rfl) hone hflip hp hq h1 h2

end

/-! ### The table of R355 -/

theorem mem_fitEntries {cap hi : Nat} {es : List RangeEntry} {x : RangeEntry} (h : x ∈ fitEntries cap hi es) : x ∈ es := by
  rw [fitEntries] at h
  split at h
  · exact List.mem_of_mem_filter h
  · exact h

theorem grantAt_eq_none {es : List RangeEntry} {y : Nat} (h : ∀ x ∈ es, coversAt y x = false) : grantAt es y = none := by
  rw [grantAt_eq, List.find?_eq_none.mpr fun x hx => Bool.eq_false_iff.mp (h x hx)]
  rfl

/-- Taking out entries that do not cover `y` leaves the grant at `y`. -/
theorem grantAt_filter {es : List RangeEntry} {y : Nat} {p : RangeEntry → Bool} (h : ∀ x ∈ es, coversAt y x = true → p x = true) : grantAt (es.filter p) y = grantAt es y := by
  rw [grantAt_eq, grantAt_eq, List.find?_filter]
  congr 1
  induction es with
  | nil => rfl
  | cons x es ih =>
    rw [List.find?_cons, List.find?_cons, ih fun z hz => h z (List.mem_cons_of_mem _ hz)]
    have hx := h x List.mem_cons_self
    cases hc : coversAt y x with
    | false => simp
    | true => simp [hx hc]

/-- No entry is made for the granules of an owner's entry above the range (R355). -/
def Unsplit (es : List RangeEntry) (cap lo hi y : Nat) : Prop := es.length = cap ∧ ∃ e ∈ es, e.base < lo ∧ hi ≤ y ∧ y < e.base + e.len

theorem grantAt_fit_inside {lo hi y : Nat} (hin : lo ≤ y ∧ y < hi) (cap : Nat) (es : List RangeEntry) : grantAt (fitEntries cap hi (cutEntries lo hi es)) y = none :=
  grantAt_eq_none fun _ hx => Bool.eq_false_iff.mpr fun hc => cutEntries_outside (mem_fitEntries hx) hc hin

section
variable {lo hi : Nat} (hr : lo < hi) {es : List RangeEntry} (hpair : es.Pairwise fun p q => p.base + p.len ≤ q.base) (hlen : ∀ e ∈ es, e.len ≠ 0) (hbase : ∀ e ∈ es, e.base < 2 ^ 44)
  {cap : Nat} {y : Nat} (hy : y < 2 ^ 44)
include hr hpair hlen hbase hy

theorem grantAt_fit_unsplit (hun : Unsplit es cap lo hi y) : grantAt (fitEntries cap hi (cutEntries lo hi es)) y = none := by
  obtain ⟨hcap, e, he, h1, h2, h3⟩ := hun
  have hlength := length_cutEntries_split hr hpair hlen hbase he h1 (by omega) (by omega)
  rw [fitEntries, if_pos (by omega)]
  refine grantAt_eq_none fun x hx => Bool.eq_false_iff.mpr fun hc => ?_
  obtain ⟨hx, hne⟩ := List.mem_filter.mp hx
  have hne : x.base ≠ hi := by simpa using hne
  obtain ⟨q, hq, h | h⟩ := mem_cutEntries.mp hx
  · have := ((clipEntry_covers h y).mp hc).1
    omega
  · obtain ⟨-, hqy⟩ := (clipEntry_covers h y).mp hc
    obtain ⟨-, hxb, -, -⟩ := clipEntry_some h
    obtain rfl := entry_unique hpair he hq ⟨by omega, h3⟩ (coversAt_iff.mp hqy)
    omega

theorem grantAt_fit_outside (hcap : es.length ≤ cap) (hout : ¬(lo ≤ y ∧ y < hi)) (hun : ¬Unsplit es cap lo hi y) :
    grantAt (fitEntries cap hi (cutEntries lo hi es)) y = grantAt es y := by
  rw [fitEntries]
  split
  · rename_i hover
    rw [grantAt_filter, grantAt_cutEntries_outside hy hout]
    intro x hx hc
    rw [bne_iff_ne]
    intro hxb
    obtain ⟨e, he, h1, h2, h3⟩ : ∃ e ∈ es, e.base < lo ∧ hi < e.base + e.len ∧ hi < 2 ^ 44 := by
      by_contra hno
      have := length_cutEntries_le (lo := lo) (hi := hi) (es := es) fun e he h => hno ⟨e, he, h⟩
      omega
    have hlength := length_cutEntries_split hr hpair hlen hbase he h1 h2 h3
    obtain ⟨q, hq, h | h⟩ := mem_cutEntries.mp hx
    · have := ((clipEntry_covers h y).mp hc).1
      have := (coversAt_iff.mp hc).1
      omega
    · obtain ⟨hrange, hqy⟩ := (clipEntry_covers h y).mp hc
      obtain ⟨-, hqb, -, -⟩ := clipEntry_some h
      have hqy := coversAt_iff.mp hqy
      obtain rfl := entry_unique hpair he hq ⟨by omega, h2⟩ ⟨by omega, by omega⟩
      exact hun ⟨by omega, e, he, h1, hrange.1, hqy.2⟩
  · exact grantAt_cutEntries_outside hy hout es

end

end Sys2Proof.Proofs
end

section
/-! RDROP and SHOOTDOWN_COMPLETE: the broadcasts of a drop, its waits, and what the last acknowledgement does for whoever waits for it (R63, R304, R355). -/

namespace Sys2Proof.Proofs
open Sys2Proof Sys2Proof.Machine Sys2Proof.Claim

/-! ### RDROP (R355) -/

/-- The regions whose entries have a piece in the range. -/
def droppedRegions (lo hi : Nat) (es : List RangeEntry) : List (BitVec 20) := ((insideEntries lo hi es).map (·.region)).dedup

theorem mem_droppedRegions {lo hi : Nat} {es : List RangeEntry} {id : BitVec 20} :
    id ∈ droppedRegions lo hi es ↔ ∃ e ∈ es, e.region = id ∧ ∃ y, e.base ≤ y ∧ y < e.base + e.len ∧ lo ≤ y ∧ y < hi := by
  rw [droppedRegions, List.mem_dedup, List.mem_map]
  constructor
  · rintro ⟨x, hx, rfl⟩
    obtain ⟨e, he, hclip⟩ := mem_insideEntries.mp hx
    obtain ⟨hgrant, hbase, hend, hlen⟩ := clipEntry_some hclip
    exact ⟨e, he, (congrArg Prod.fst hgrant).symm, x.base, by omega, by omega, by omega, by omega⟩
  · rintro ⟨e, he, rfl, y, h1, h2, h3, h4⟩
    obtain ⟨x, hx⟩ := clipEntry_of_meets (e := e) (show lo < hi by omega) (by omega) (by omega) (by omega)
    obtain ⟨hgrant, -⟩ := clipEntry_some hx
    exact ⟨x, mem_insideEntries.mpr ⟨e, he, hx⟩, congrArg Prod.fst hgrant⟩

/-- The shootdowns that an RDROP starts, one of each region. -/
def dropShoots (s : State) (ids : List (BitVec 20)) : State := ids.foldl (fun s id => startShoot id false (.rdrop s.cur (me s)) s) s

theorem dropShoots_leaves (ids : List (BitVec 20)) (s : State) :
    (dropShoots s ids).mem = s.mem ∧ (dropShoots s ids).core.ctx = s.core.ctx ∧ (dropShoots s ids).gtc = s.gtc ∧
      (dropShoots s ids).hub.shoots = s.hub.shoots ++ ids.map fun id => ({ region := id, freed := false, for_ := .rdrop s.cur (me s) } : Shoot) := by
  induction ids generalizing s with
  | nil => exact ⟨rfl, rfl, rfl, (List.append_nil _).symm⟩
  | cons id ids ih =>
    obtain ⟨hmem, hctx, hgtc, hshoots⟩ := ih (startShoot id false (.rdrop s.cur (me s)) s)
    refine ⟨hmem, hctx, hgtc, hshoots.trans ?_⟩
    rw [startShoot_shoots, List.append_assoc]
    rfl

theorem setRangeTable_form (s : State) (o : BitVec 12) (es : List RangeEntry) : ∃ m, setRangeTable s o es = { s with mem := m } := by
  rw [setRangeTable, setOwnerDesc]
  exact ⟨_, rfl⟩

theorem dropRights_eq (lo hi : Nat) (s : State) :
    dropRights lo hi s = dropShoots (setRangeTable s (acting s) (fitEntries (ownerDesc s (acting s)).cap hi (cutEntries lo hi (rangeTable s (acting s))))) (droppedRegions lo hi (rangeTable s (acting s))) := rfl

theorem dropRights_leaves (lo hi : Nat) (s : State) :
    let u := dropRights lo hi s
    u.mem = (setRangeTable s (acting s) (fitEntries (ownerDesc s (acting s)).cap hi (cutEntries lo hi (rangeTable s (acting s))))).mem ∧ u.core.ctx = s.core.ctx ∧ u.gtc = s.gtc ∧
      u.hub.shoots = s.hub.shoots ++ (droppedRegions lo hi (rangeTable s (acting s))).map fun id => ({ region := id, freed := false, for_ := .rdrop s.cur s.core.ctx.rcd.chrys } : Shoot) := by
  dsimp only
  rw [dropRights_eq]
  obtain ⟨m, hform⟩ := setRangeTable_form s (acting s) (fitEntries (ownerDesc s (acting s)).cap hi (cutEntries lo hi (rangeTable s (acting s))))
  rw [hform]
  exact dropShoots_leaves _ _

theorem dropPending_iff (s : State) (c : BitVec 56) : dropPending s c = true ↔ ∃ x ∈ s.hub.shoots, ∃ w, x.for_ = .rdrop w c := by
  rw [dropPending, List.any_eq_true]
  refine exists_congr fun x => and_congr_right fun _ => ?_
  cases x.for_ <;> simp

section
variable {s : State} {sc : BitVec 2} {a b d : Reg}

theorem rdrop_holds (hacc : s.core.accepted = true) (h : dropPending s s.core.ctx.rcd.chrys = true) : Holds (.rdrop sc b a d) s := by
  refine ⟨true, ?_⟩
  show execRdrop sc b a d s = _
  rw [execRdrop, if_pos hacc, me, if_pos h]

theorem rdrop_ends (hacc : s.core.accepted = true) (h : dropPending s s.core.ctx.rcd.chrys = false) : GivesG (.rdrop sc b a d) s 4 sc.toNat d 0#64 := by
  refine givesG_retire ?_
  show execRdrop sc b a d s = _
  rw [execRdrop, if_pos hacc, me, if_neg (Bool.eq_false_iff.mp h)]

variable (hu : underWait s [.g a, .g b] none = none) (hacc : s.core.accepted = false)
include hu hacc

theorem rdrop_badrange (hd : underWait s [] (some (.g d, 1)) = none) (h : (rdG s a).toNat % 4096 ≠ 0 ∨ (rdG s b).toNat % 4096 ≠ 0 ∨ rdG s b = 0#64) : GivesG (.rdrop sc b a d) s 4 sc.toNat d 4#64 := by
  have h : (rdG s a).toNat % 4096 ≠ 0 ∨ (rdG s b).toNat % 4096 ≠ 0 ∨ (rdG s b).toNat = 0 := h.imp_right fun h => h.imp_right fun h0 => by rw [h0]; rfl
  refine givesG_retire ?_
  show execRdrop sc b a d s = _
  rw [execRdrop, if_neg (Bool.eq_false_iff.mp hacc), checked_none hu]
  dsimp only
  rw [if_pos h, checked_none hd]

variable (ha : (rdG s a).toNat % 4096 = 0) (hb : (rdG s b).toNat % 4096 = 0) (h0 : rdG s b ≠ 0#64)
include ha hb h0

/-- Where no entry is affected there is nothing to wait for. -/
theorem exec_rdrop_ends (hd : underWait s [] (some (.g d, 1)) = none) {u : State} (hdrop : dropRights ((rdG s a).toNat / 4096) (((rdG s a).toNat + (rdG s b).toNat) / 4096) s = u)
    (hp : dropPending u s.core.ctx.rcd.chrys = false) : exec (.rdrop sc b a d) s = .next (retire sc (putG d 0#64 u)) := by
  have hn : ¬((rdG s a).toNat % 4096 ≠ 0 ∨ (rdG s b).toNat % 4096 ≠ 0 ∨ (rdG s b).toNat = 0) := by
    rintro (h | h | h)
    · exact h ha
    · exact h hb
    · exact h0 (BitVec.eq_of_toNat_eq h)
  show execRdrop sc b a d s = _
  rw [execRdrop, if_neg (Bool.eq_false_iff.mp hacc), checked_none hu]
  dsimp only
  rw [if_neg hn, hdrop, me, hp, if_neg Bool.false_ne_true, checked_none hd]

/-- An RDROP whose shootdowns are on their way is accepted and holds issue. -/
theorem exec_rdrop_waits {u : State} (hdrop : dropRights ((rdG s a).toNat / 4096) (((rdG s a).toNat + (rdG s b).toNat) / 4096) s = u)
    (hp : dropPending u s.core.ctx.rcd.chrys = true) : exec (.rdrop sc b a d) s = .next (hold true { u with core := { u.core with accepted := true } }) := by
  have hn : ¬((rdG s a).toNat % 4096 ≠ 0 ∨ (rdG s b).toNat % 4096 ≠ 0 ∨ (rdG s b).toNat = 0) := by
    rintro (h | h | h)
    · exact h ha
    · exact h hb
    · exact h0 (BitVec.eq_of_toNat_eq h)
  show execRdrop sc b a d s = _
  rw [execRdrop, if_neg (Bool.eq_false_iff.mp hacc), checked_none hu]
  dsimp only
  rw [if_neg hn, hdrop, me, if_pos hp]

end

/-! ### SHOOTDOWN_COMPLETE (R63, R304) -/

theorem Touched.shoots {s t : State} (h : Touched s t) : t.hub.shoots = s.hub.shoots := by
  obtain ⟨m, l, rfl⟩ := h
  rfl

theorem putAbsent_shoots (s : State) (h : BitVec 56) (c : Ctx) : (putAbsent s h c).hub.shoots = s.hub.shoots := by
  have himage : (putCtxImage s h c).hub.shoots = s.hub.shoots := by
    rw [putCtxImage]
    dsimp only
    split
    · rfl
    · exact (touchPage_touched true _ _).shoots
  rw [putAbsent, putFields]
  split
  · exact himage
  · exact (devPut_touched _ _ _ _).shoots.trans himage

theorem modCtx_shoots (s : State) (h : BitVec 56) (f : Ctx → Ctx) : (modCtx s h f).hub.shoots = s.hub.shoots := by
  rw [modCtx]
  split
  · rfl
  · split
    · rfl
    · split
      · exact putAbsent_shoots s h _
      · rfl

theorem writeEventTo_shoots (p : Option (BitVec 3)) (e : BitVec 128) (s : State) : (writeEventTo p e s).hub.shoots = s.hub.shoots := by
  cases p with
  | none => rfl
  | some q =>
    show (writeEvent q e s).hub.shoots = _
    rw [writeEvent]
    dsimp only
    split <;> rfl

theorem touchCtx_shoots (s : State) (h : BitVec 56) (f : Ctx → Ctx) : (touchCtx s h f).hub.shoots = s.hub.shoots := by
  rw [touchCtx]
  split
  · exact modCtx_shoots s h f
  · split
    · rfl
    · dsimp only
      split
      · exact (writeEventTo_shoots _ _ _).trans (putAbsent_shoots s h _)
      · exact putAbsent_shoots s h _

theorem endShoot_shoots (x : Shoot) (s : State) : (endShoot x s).hub.shoots = s.hub.shoots := by
  rw [endShoot]
  split
  · exact touchCtx_shoots ..
  · rfl
  · rfl

/-- A shootdown has been acknowledged: it is over, and a region that it frees is TOMBSTONE. -/
def acknowledged (x : Shoot) (s : State) : State :=
  let s1 := setHub s { s.hub with shoots := s.hub.shoots.erase x }
  if x.freed then setRegion s1 x.region { region s1 x.region with st := .tombstone } else s1

theorem acknowledged_shoots (x : Shoot) (s : State) : (acknowledged x s).hub.shoots = s.hub.shoots.erase x := by
  rw [acknowledged]
  dsimp only
  split
  · rw [setRegion_hub]; rfl
  · rfl

theorem setRegion_core (s : State) (id : BitVec 20) (r : Region) : (setRegion s id r).core = s.core := rfl

theorem acknowledged_core (x : Shoot) (s : State) : (acknowledged x s).core = s.core := by
  rw [acknowledged]
  dsimp only
  split
  · rw [setRegion_core]; rfl
  · rfl

/-- A freed region's entry after its shootdown. -/
theorem acknowledged_region {x : Shoot} {s : State} (hfreed : x.freed = true) (hm : Memory.wf s.mem = true) : region (acknowledged x s) x.region = { region s x.region with st := .tombstone } := by
  obtain ⟨hbase, hlen⟩ := region_bounds s x.region
  rw [acknowledged]
  dsimp only
  rw [if_pos hfreed]
  exact region_setRegion (s := setHub s { s.hub with shoots := s.hub.shoots.erase x }) hm x.region hbase hlen

theorem exec_shootdownComplete {s : State} {x : Shoot} (hx : (s.hub.shoots.find? fun y => y.region.toNat == x.region.toNat) = some x)
    (hp : pressHolds s x.region = false ∨ ∃ w c, x.for_ = .rdrop w c) : exec (.shootdownComplete x.region.toNat) s = .next (endShoot x (acknowledged x s)) := by
  have hgo : ¬(isRevocation x && pressHolds s x.region) = true := by
    obtain h | ⟨w, c, h⟩ := hp
    · simp [h]
    · simp [isRevocation, h]
  show execShootdownComplete x.region.toNat s = _
  rw [execShootdownComplete, hx]
  dsimp only
  rw [if_neg hgo]
  rfl

/-- What waits for a freed region's shootdown in the core in focus, or in the steward's registers, sees the region TOMBSTONE. -/
theorem endShoot_region {x : Shoot} {s : State} (h : x.for_ = .rfree ∨ ∃ w e k, x.for_ = .revoke w s.core.ctx.rcd.chrys e k ∧ Issues s s.core.ctx.rcd.chrys) (id : BitVec 20) :
    region (endShoot x s) id = region s id := by
  obtain h | ⟨w, e, k, h, hi⟩ := h
  · rw [endShoot, h]
    rfl
  · rw [endShoot, h]
    obtain ⟨-, -, hmem, hhub, -⟩ := answerRevoke_leaves hi e k 0#64
    exact region_congr hmem hhub id

theorem shootdown_held {s : State} {id : BitVec 20} (hp : pressHolds s id = true) (hno : ∀ x ∈ s.hub.shoots, ∀ w c, x.for_ ≠ .rdrop w c) :
    exec (.shootdownComplete id.toNat) s = .next s := by
  show execShootdownComplete id.toNat s = _
  rw [execShootdownComplete]
  cases hf : s.hub.shoots.find? fun x => x.region.toNat == id.toNat with
  | none => rfl
  | some x =>
    have hid : x.region = id := BitVec.eq_of_toNat_eq (by simpa using List.find?_some hf)
    have hrev : isRevocation x = true := by
      have := hno x (List.mem_of_find?_eq_some hf)
      rw [isRevocation]
      split
      · rename_i w c h
        exact absurd h (this w c)
      · rfl
    dsimp only
    rw [hrev, hid, hp, if_pos (by decide)]

/-! ### The clauses of R353, R355 and R63 -/

theorem readRange_base (m : List Host.Cell) (a : Nat) : (readRange m a).base < 2 ^ 44 := Nat.mod_lt _ (by decide)

theorem mem_readRanges_base {m : List Host.Cell} {a n : Nat} {e : RangeEntry} (h : e ∈ readRanges m a n) : e.base < 2 ^ 44 := by
  induction n generalizing a with
  | zero => cases h
  | succ n ih =>
    obtain rfl | h := List.mem_cons.mp h
    · exact readRange_base m a
    · exact ih h

theorem follows_of_source {size : Nat} {s s' t : State} (h : Follows size s' t) (hpc : s'.core.ctx.pc = s.core.ctx.pc) (hlc : s'.core.ctx.regs.lc = s.core.ctx.regs.lc)
    (hloops : s'.core.ctx.regs.loops = s.core.ctx.regs.loops) : Follows size s t := by
  simp only [Follows, EndsAt, LevelStands, LevelEnded, hpc, hlc, hloops] at h ⊢
  exact h

theorem not_foreign_of_creator {o c : BitVec 12} (h : o = c ∨ o = 0#12) : ¬(o ≠ c ∧ o ≠ 0#12) := fun ⟨h1, h2⟩ => h.elim h1 h2

section
variable {s : State} {sc : BitVec 2} {a b d : Reg} (hu : underWait s [.g a, .g b] none = none) (hacc : s.core.accepted = false)
  (ha : (rdG s a).toNat % 4096 = 0) (hb : (rdG s b).toNat % 4096 = 0) (h0 : rdG s b ≠ 0#64)
include hu hacc ha hb h0

/-- Where no entry of the owner meets the range, RDROP gives 0. -/
theorem rdrop_unaffected (hd : underWait s [] (some (.g d, 1)) = none) (hp : dropPending s s.core.ctx.rcd.chrys = false)
    (hnone : ∀ e ∈ rangeTable s (acting s), ∀ y, e.base ≤ y → y < e.base + e.len → ¬((rdG s a).toNat / 4096 ≤ y ∧ y < ((rdG s a).toNat + (rdG s b).toNat) / 4096)) :
    ∃ u, exec (.rdrop sc b a d) s = .next u ∧ WritesG d 0#64 s u ∧ Follows 4 s u := by
  obtain ⟨-, hctx, -, hshoots⟩ := dropRights_leaves ((rdG s a).toNat / 4096) (((rdG s a).toNat + (rdG s b).toNat) / 4096) s
  have hnil : droppedRegions ((rdG s a).toNat / 4096) (((rdG s a).toNat + (rdG s b).toNat) / 4096) (rangeTable s (acting s)) = [] := by
    rw [List.eq_nil_iff_forall_not_mem]
    intro id hid
    obtain ⟨e, he, -, y, h1, h2, h3⟩ := mem_droppedRegions.mp hid
    exact hnone e he y h1 h2 h3
  rw [hnil, List.map_nil, List.append_nil] at hshoots
  generalize hw : dropRights ((rdG s a).toNat / 4096) (((rdG s a).toNat + (rdG s b).toNat) / 4096) s = w at hctx hshoots
  have hquiet : dropPending w s.core.ctx.rcd.chrys = false := by rw [dropPending, hshoots]; exact hp
  obtain ⟨-, -, -, hflow, -, hg, -⟩ := retire_movesOn sc (putG d 0#64 w)
  obtain ⟨hothers, hresult⟩ := writesG_of_regs (writesG_putG d 0#64 w) hg
  have hread (r : Reg) : rdG w r = rdG s r := by rw [rdG, rdG, hctx]
  obtain ⟨g, hform⟩ := putG_form d 0#64 w
  refine ⟨_, exec_rdrop_ends hu hacc ha hb h0 hd hw hquiet, ⟨fun r hr => (hothers r hr).trans (hread r), hresult⟩, ?_⟩
  refine follows_of_source hflow ?_ ?_ ?_ <;> rw [hform, hctx]

/-- Where entries of the owner meet the range, they are cut, their regions are shot down, and RDROP holds issue. -/
theorem rdrop_affects (hpair : (rangeTable s (acting s)).Pairwise fun p q => p.base + p.len ≤ q.base) (hlen : ∀ e ∈ rangeTable s (acting s), e.len ≠ 0)
    (hcap : (rangeTable s (acting s)).length ≤ (ownerDesc s (acting s)).cap) :
    let es := rangeTable s (acting s)
    let lo := (rdG s a).toNat / 4096
    let hi := ((rdG s a).toNat + (rdG s b).toNat) / 4096
    let unsplit := Unsplit es (ownerDesc s (acting s)).cap lo hi
    (∃ e ∈ es, ∃ y, e.base ≤ y ∧ y < e.base + e.len ∧ lo ≤ y ∧ y < hi) →
    ∃ u new, exec (.rdrop sc b a d) s = .next u ∧ u.core.accepted = true ∧ u.core.ctx = s.core.ctx ∧ u.core.nextIssue = s.gtc + 1 ∧ u.mem = (setRangeTable s (acting s) new).mem ∧
      (∀ y, y < 2 ^ 44 → ((lo ≤ y ∧ y < hi) ∨ unsplit y → grantAt new y = none) ∧ (¬(lo ≤ y ∧ y < hi) → ¬unsplit y → grantAt new y = grantAt es y)) ∧
      ∃ ids : List (BitVec 20), ids.Nodup ∧ (∀ id, id ∈ ids ↔ ∃ e ∈ es, e.region = id ∧ ∃ y, e.base ≤ y ∧ y < e.base + e.len ∧ lo ≤ y ∧ y < hi) ∧
        u.hub.shoots = s.hub.shoots ++ ids.map fun id => ({ region := id, freed := false, for_ := .rdrop s.cur s.core.ctx.rcd.chrys } : Shoot) := by
  intro es lo hi unsplit hsome
  have hr : lo < hi := by
    have : (rdG s b).toNat ≠ 0 := fun h => h0 (BitVec.eq_of_toNat_eq h)
    simp only [lo, hi]
    omega
  have hbase : ∀ e ∈ es, e.base < 2 ^ 44 := fun e he => mem_readRanges_base he
  obtain ⟨hmem, hctx, hgtc, hshoots⟩ := dropRights_leaves lo hi s
  have hpending : dropPending (dropRights lo hi s) s.core.ctx.rcd.chrys = true := by
    obtain ⟨e, he, hy⟩ := hsome
    rw [dropPending_iff, hshoots]
    exact ⟨_, List.mem_append_right _ (List.mem_map_of_mem (mem_droppedRegions.mpr ⟨e, he, rfl, hy⟩)), _, rfl⟩
  refine ⟨_, _, exec_rdrop_waits hu hacc ha hb h0 rfl hpending, rfl, hctx, congrArg (· + 1) hgtc, hmem, fun y hy => ⟨?_, fun hout hun => grantAt_fit_outside hr hpair hlen hbase hy hcap hout hun⟩,
    droppedRegions lo hi es, List.nodup_dedup _, fun id => mem_droppedRegions, hshoots⟩
  rintro (hin | hun)
  · exact grantAt_fit_inside hin _ _
  · exact grantAt_fit_unsplit hr hpair hlen hbase hy hun

end

theorem shootdown_answers {s : State} {x : Shoot} {unit : Nat} {d : Reg} {t : TokenName} (h : x.for_ = .revoke unit s.core.ctx.rcd.chrys d t) (hi : Issues s s.core.ctx.rcd.chrys) :
    WritesG d 0#64 s (endShoot x (acknowledged x s)) ∧
      ctxToken (endShoot x (acknowledged x s)).core.ctx t = { ctxToken s.core.ctx t with count := (ctxToken s.core.ctx t).count + 1#16 } := by
  have hcore := acknowledged_core x s
  have hissues : Issues (acknowledged x s) s.core.ctx.rcd.chrys := by rw [Issues, hcore]; exact hi
  rw [endShoot, h]
  generalize acknowledged x s = w at *
  obtain ⟨⟨hothers, hresult⟩, hcount, -⟩ := answerRevoke_leaves hissues d t 0#64
  have hread (r : Reg) : rdG w r = rdG s r := by rw [rdG, rdG, hcore]
  exact ⟨⟨fun r hr => (hothers r hr).trans (hread r), hresult⟩, by rw [hcount, hcore]⟩

/-- REVOKE, RDROP and the completed shootdown, each by the lemmas about what it decides and leaves. -/
theorem revokeAndDrop : RevokeAndDrop := by
  intro s sc k f a b d t hu o va refused
  have hua := underWait_first hu
  refine ⟨fun huser htok htag => revoke_tagged hua htok huser htag, fun htag hroom hi => ⟨fun hr => ?_, fun hr => ?_, fun id hr h0 => ⟨fun h1 h2 => ?_, fun ho => ⟨fun hst => ?_, fun hst hf hg => ?_, fun hst hfg => ?_⟩⟩⟩,
    fun hacc => ⟨fun hbad hd => rdrop_badrange hu hacc hd hbad, fun ha hb hz hpair hlen hcap => ⟨fun hnone hp hd => ?_, fun hsome => ?_⟩⟩,
    fun hacc => ⟨fun hp => rdrop_holds hacc hp, fun hp => rdrop_ends hacc hp⟩, fun x hx hp => ?_, fun id hp hno => shootdown_held hp hno⟩
  · exact revoke_refused hua htag hroom hi (by rw [revokeDecide, hr])
  · exact revoke_refused hua htag hroom hi ((revokeDecide_region hr _ _).trans (if_pos rfl))
  · exact revoke_refused hua htag hroom hi ((revokeDecide_region hr _ _).trans ((if_neg h0).trans (if_pos ⟨h1, h2⟩)))
  · exact revoke_refused hua htag hroom hi ((revokeDecide_region hr _ _).trans ((if_neg h0).trans ((if_neg (not_foreign_of_creator ho)).trans (if_pos hst))))
  · have hfree : (f == 1#1) = false := by rw [hf]; rfl
    exact revoke_refused hua htag hroom hi
      ((revokeDecide_region hr _ _).trans ((if_neg h0).trans ((if_neg (not_foreign_of_creator ho)).trans ((if_neg (not_not.mpr hst)).trans (if_pos ⟨hfree, hg⟩)))))
  · have hmay : ¬((f == 1#1) = false ∧ (region s id).gen = 0xFFFE#16) := by
      rintro ⟨hf, hg⟩
      exact hfg.elim (fun h => beq_eq_false_iff_ne.mp hf h) fun h => h hg
    exact revoke_accepted hua htag hroom ((revokeDecide_region hr _ _).trans ((if_neg h0).trans ((if_neg (not_foreign_of_creator ho)).trans ((if_neg (not_not.mpr hst)).trans (if_neg hmay))))) hst
  · exact rdrop_unaffected hu hacc ha hb hz hd hp fun e he y h1 h2 h3 => hnone e he y h1 h2 h3
  · exact rdrop_affects hu hacc ha hb hz hpair hlen hcap hsome
  · refine ⟨_, exec_shootdownComplete hx hp, (endShoot_shoots _ _).trans (acknowledged_shoots x s), fun hfreed hm hfor => ?_, fun unit hfor hi => ?_⟩
    · rw [endShoot_region _, acknowledged_region hfreed hm]
      rw [Issues, acknowledged_core]
      exact hfor
    · exact shootdown_answers hfor hi

/-- Settles O34: the statuses by the model's own decisions, and the tables, tokens and shootdowns by what each step of an instruction leaves. -/
theorem rightsInstructions : Obligations.RightsInstructions := ⟨grantAndTest, revokeAndDrop⟩

end Sys2Proof.Proofs
end

section
/-! A bind record whose START carries no PRIO of its own, where XLT_ROOT is not 4 KiB aligned (R49, R52, R69, R97): the accessed flag that reading the continuation record sets
lies in the root entry that leads to it, so that the record cannot be read a second time. -/

namespace Sys2Proof.Proofs
open Sys2Proof Sys2Proof.Machine Sys2Proof.Claim

/-- The word of a bind record: START of the continuation record at 0x100000 into slot 0 of core 0, without PRIOV. -/
def crossedStart : Nat := 2 ^ 43 + 0x100000 / 64 * 2 ^ 72

/-- Core 0 in partition 0, its slots EMPTY, and `crossedStart` at the head of the partition's bind ring. The root entry at XLT_ROOT = 0x2000004 leads by the table at 0x1000000 to the leaf at
0x2000000, which maps the record, of PRIO 1, at 0x100100000. The leaf's flags byte 0x2000008 is byte 4 of the root entry: once the leaf is marked accessed the walk goes to a table that is not there.
R69 asks for an XLT_ROOT that is 4 KiB aligned; the register takes any value, and the statement is about every state. -/
def crossedRoot : State where
  core := { released := true }
  mem := [(0x10006, 0x20), (0x1000F, 0x40), (0x1000000, 0x01), (0x1000003, 0x02), (0x2000000, 0x03), (0x2000004, 0x01), (0x2000007, 0x01), (0x100100007, 0x10),
    (0x1000001080005, 0x08), (0x100000108000A, 0x40)]
  hub := { rights := { xltRoot := 0x2000004#50, rgnTbl := 0x10000#50, rgnCap := 1 }, parts := (Vector.replicate 8 {}).set 0 { map := 1#32, evtLog := 6#4, bindTail := 1#32 } }

/-- Memory is canonical, the continuation record's PRIO is 1, and it passes R97's checks. -/
theorem crossedRoot_record : Memory.wf crossedRoot.mem = true ∧ (recOf (devGet crossedRoot (contOfRecord crossedStart).toNat 64)).prio = 1#2 ∧ badRecord crossedRoot false crossedRoot.cur (contOfRecord crossedStart) = false := by
  decide +kernel

/-- The record at the head of the bind ring names core 0 and slot 0, and nothing keeps dispatch from taking it. -/
theorem crossedRoot_heads : Record crossedRoot 0 false crossedStart 0 := by
  have hslots : ∀ j : Fin 8, crossedRoot.core.slots[j].sst ≠ .evicting := by decide +kernel
  have hword : crossedStart = getLe crossedRoot.mem 0x1000001080000 16 := by decide +kernel
  exact ⟨by decide +kernel, by decide +kernel, hslots, hword, by decide +kernel, by decide +kernel⟩

/-- PRIO of slot `i` after a step. -/
def slotPrioAfter (o : Machine.Out) (i : Fin 8) : Option (BitVec 2) := match o with | .next t => some t.core.slots[i].prio | _ => none

/-- The slot takes PRIO 0: the record is read for it again once its page has been marked accessed. -/
theorem crossedRoot_starts : slotPrioAfter (exec (.bindStart 0 false) crossedRoot) 0 = some 0#2 := by decide +kernel

/-- Refutes O45, in its part on bind records: at a START without PRIOV the slot's PRIO is not the record's where the accessed flag of the record's page lies in the root entry that leads to it (`crossedRoot`). -/
theorem not_bindsAndPartitions : ¬ Obligations.BindsAndPartitions := by
  rintro ⟨hbinds, -⟩
  obtain ⟨-, hprio, hgood⟩ := crossedRoot_record
  obtain ⟨-, hstart, -⟩ := hbinds crossedRoot 0 false crossedStart 0 crossedRoot_heads
  obtain ⟨-, -, -, -, hpass⟩ := hstart (by decide +kernel) (by decide +kernel) (by decide +kernel)
  obtain ⟨-, htakes⟩ := hpass (by decide +kernel) rfl (by decide +kernel) hgood
  obtain ⟨⟨u, hexec, -, hslots, -⟩, -⟩ := htakes (by decide +kernel)
  have hslot : u.core.slots[(0 : Fin 8)].prio = 1#2 := by
    rw [hslots]
    exact hprio
  have hzero : slotPrioAfter (.next u) 0 = some 0#2 := hexec ▸ crossedRoot_starts
  exact absurd (hslot.symm.trans (Option.some.inj hzero)) (by decide)

end Sys2Proof.Proofs
end

section
/-! Commands of hosts that R76 stops, and commands and responses as bytes (R72, R74 to R76, R80). -/

namespace Sys2Proof.Proofs
open Sys2Proof Sys2Proof.Machine Sys2Proof.Claim

/-! ### What a command is (R76) -/

/-- A command of a host: an OP of R76's table, whose meaning `k` follows the common checks, and those of R80 where it is one on a queue that exists. -/
structure CommandForm (ep : Nat) (c : HostCmd) (x : Instr × BitVec 8 × Bool × List QueueState) (k : State → Machine.Out) : Prop where
  listed : 1 ≤ x.2.1.toNat ∧ x.2.1.toNat ≤ 15
  exec : ∀ s, exec x.1 s = command x.2.1 x.2.2.1 ep c s k
  queued : x.2.2.2 ≠ [] → x.2.1 ≠ 1#8 ∧ ∃ f : State → Nat → Queue → Machine.Out, k = fun s => onQueue ep c x.2.2.2 s (f s)

theorem commandForm {ep : Nat} {c : HostCmd} {i : Instr} {op : BitVec 8} {lock : Bool} {k : State → Machine.Out} (hop : 1 ≤ op.toNat ∧ op.toNat ≤ 15)
    (h : ∀ s, exec i s = command op lock ep c s k) : ∃ k, CommandForm ep c (i, op, lock, []) k := ⟨k, hop, h, fun hn => absurd rfl hn⟩

theorem commandForm_queue {ep : Nat} {c : HostCmd} {i : Instr} {op : BitVec 8} {lock : Bool} {sts : List QueueState} {f : State → Nat → Queue → Machine.Out}
    (hop : 1 < op.toNat ∧ op.toNat ≤ 15) (h : ∀ s, exec i s = command op lock ep c s fun s => onQueue ep c sts s (f s)) : ∃ k, CommandForm ep c (i, op, lock, sts) k :=
  ⟨_, ⟨Nat.le_of_lt hop.1, hop.2⟩, h, fun _ => ⟨fun he : op = 1#8 => absurd hop.1 (by rw [he]; decide), f, rfl⟩⟩

theorem hostCommand_form {ep : Nat} {c : HostCmd} {x : Instr × BitVec 8 × Bool × List QueueState} (h : HostCommand ep c x) : ∃ k, CommandForm ep c x k := by
  simp only [HostCommand, List.mem_cons, List.not_mem_nil, or_false] at h
  obtain rfl | rfl | rfl | rfl | rfl | rfl | rfl | rfl | rfl | rfl | rfl | rfl | rfl | rfl | rfl := h
  -- OPEN to QCREATE; then the six on a queue that exists; then KEYLOAD to VDESTROY
  iterate 5 exact commandForm (by decide) fun _ => rfl
  iterate 6 exact commandForm_queue (by decide) fun _ => rfl
  iterate 4 exact commandForm (by decide) fun _ => rfl

/-! ### The checks of R76 in their order -/

theorem sessionOf_isSome_iff (s : State) (ep : Nat) (c : HostCmd) : (sessionOf (endp s ep) c.session).isSome = true ↔ InSession s ep c := by
  rw [sessionOf, List.find?_isSome]
  simp only [InSession, beq_iff_eq]

theorem holdsLock_iff (s : State) (ep : Nat) (c : HostCmd) : holdsLock s (endp s ep) c.session = true ↔ Locked s ep c := by
  refine ⟨fun h => ?_, holdsLock_of_locked⟩
  rw [holdsLock] at h
  split at h
  · rename_i id e hlock
    rw [Bool.and_eq_true, beq_iff_eq, decide_eq_true_eq] at h
    obtain ⟨rfl, he⟩ := h
    exact ⟨e, hlock, he⟩
  · cases h

theorem accepts_iff {ep : Nat} {op : BitVec 8} (hop : op.toNat ≤ 15) : accepts ep op = true ↔ Accepted ep op := by
  refine ⟨fun h => ?_, accepts_of_accepted⟩
  rw [accepts] at h
  rw [Accepted]
  split at h
  · rename_i hep
    rw [if_pos hep]
    simpa [or_assoc] using h
  · rename_i hep
    rw [if_neg hep]
    rw [Bool.and_eq_true, bne_iff_ne, bne_iff_ne, ← BitVec.toNat_inj.ne, ← BitVec.toNat_inj.ne] at h
    obtain ⟨h14, h15⟩ := h
    change op.toNat ≠ 14 at h14
    change op.toNat ≠ 15 at h15
    omega

section
variable {s : State} {ep : Nat} {c : HostCmd} {op : BitVec 8} {lock : Bool}

/-- A packet that does not arrive does nothing. -/
theorem command_away (h : ¬Arrives s ep c) (k : State → Machine.Out) : command op lock ep c s k = .next s := by
  have hstop : (!(endp s ep).live || c.op != op || !fitsSend c) = true := by
    rw [Arrives, not_and_or] at h
    obtain h | h := h
    · simp [h]
    · simp [fitsSend, h]
  exact if_pos hstop

variable (harr : Arrives s ep c) (hc : c.op = op)
include harr hc

/-- Past the first check the rest is decided by VER, the session, the endpoint and the lock, in this order. -/
theorem command_arrives (k : State → Machine.Out) : command op lock ep c s k =
    if c.ver ≠ 1#8 then answer ep c 2#8 s
    else if op = 1#8 then k s
    else if (sessionOf (endp s ep) c.session).isNone then answer ep c 3#8 s
    else if !accepts ep op then answer ep c 8#8 (heardOf s ep c)
    else if lock && !holdsLock s (endp s ep) c.session then answer ep c 4#8 (heardOf s ep c)
    else k (heardOf s ep c) := by
  obtain ⟨hlive, hlen⟩ := harr
  have hgo : ¬(!(endp s ep).live || c.op != op || !fitsSend c) = true := by simp [hlive, hc, fitsSend, hlen]
  exact if_neg hgo

theorem command_badop (hver : c.ver ≠ 1#8) (k : State → Machine.Out) : command op lock ep c s k = answer ep c 2#8 s := by
  rw [command_arrives harr hc, if_pos hver]

theorem command_badsession (hver : c.ver = 1#8) (hop : op ≠ 1#8) (hses : ¬InSession s ep c) (k : State → Machine.Out) : command op lock ep c s k = answer ep c 3#8 s := by
  have hnone : (sessionOf (endp s ep) c.session).isNone = true := by
    rw [← Option.not_isSome, Bool.not_eq_true', ← Bool.not_eq_true, sessionOf_isSome_iff]
    exact hses
  rw [command_arrives harr hc, if_neg (not_not.mpr hver), if_neg hop, if_pos hnone]

variable (hver : c.ver = 1#8) (hop : op ≠ 1#8) (hses : InSession s ep c)
include hver hop hses

theorem command_inSession (k : State → Machine.Out) : command op lock ep c s k =
    if !accepts ep op then answer ep c 8#8 (heardOf s ep c)
    else if lock && !holdsLock s (endp s ep) c.session then answer ep c 4#8 (heardOf s ep c)
    else k (heardOf s ep c) := by
  have hsome : ¬(sessionOf (endp s ep) c.session).isNone = true := by
    rw [Option.isNone_eq_false_iff.mpr (sessionOf_isSome hses)]
    decide
  rw [command_arrives harr hc, if_neg (not_not.mpr hver), if_neg hop, if_neg hsome]

theorem command_noperm (h15 : op.toNat ≤ 15) (hacc : ¬Accepted ep op) (k : State → Machine.Out) : command op lock ep c s k = answer ep c 8#8 (heardOf s ep c) := by
  rw [command_inSession harr hc hver hop hses, if_pos]
  rw [Bool.not_eq_true', ← Bool.not_eq_true, accepts_iff h15]
  exact hacc

theorem command_nolock (hacc : Accepted ep op) (hlock : lock = true) (hfree : ¬Locked s ep c) (k : State → Machine.Out) :
    command op lock ep c s k = answer ep c 4#8 (heardOf s ep c) := by
  rw [command_inSession harr hc hver hop hses, if_neg (by simp [accepts_of_accepted hacc]), if_pos]
  rw [hlock, Bool.true_and, Bool.not_eq_true', ← Bool.not_eq_true, holdsLock_iff]
  exact hfree

end

/-! ### Their answers (R75 to R77) -/

/-- The command is answered with a status alone; of the state only its session's time may have changed besides. -/
def Refuses (s : State) (ep : Nat) (c : HostCmd) (i : Instr) (st : BitVec 8) (heardOf : Bool) : Prop :=
  ∃ t, exec i s = .next t ∧ OnlyEndpoint s t ep ∧ Responds s t ep c st 0#64 0#64 ∧
    endp t ep = { endp s ep with sessions := if heardOf then heard s ep c else (endp s ep).sessions }

theorem endp_heardOf {s : State} {ep : Nat} {c : HostCmd} (hlive : (endp s ep).live = true) : endp (heardOf s ep c) ep = { endp s ep with sessions := heard s ep c } := by
  refine tabGet_tabSet_ne fun h => ?_
  have hdead : (endp s ep).live = false := congrArg Endpoint.live h
  rw [hlive] at hdead
  cases hdead

theorem refuses_unheard {s : State} {ep : Nat} {c : HostCmd} {i : Instr} {st : BitVec 8} (h : exec i s = answer ep c st s) : Refuses s ep c i st false :=
  ⟨_, h, ⟨rfl, fun _ _ => rfl⟩, rfl, rfl⟩

theorem refuses_heard {s : State} {ep : Nat} {c : HostCmd} {i : Instr} {st : BitVec 8} (hlive : (endp s ep).live = true) (h : exec i s = answer ep c st (heardOf s ep c)) :
    Refuses s ep c i st true := by
  obtain ⟨honly, hout⟩ := answer_heardOf hlive st 0#64 0#64 []
  exact ⟨_, h, honly, hout, endp_heardOf hlive⟩

theorem onQueue_none {s : State} {ep : Nat} {c : HostCmd} {sts : List QueueState} (h : (cmdQueue s ep c).st = .none) (k : Nat → Queue → Machine.Out) :
    onQueue ep c sts (heardOf s ep c) k = answer ep c 5#8 (heardOf s ep c) := if_pos h

theorem onQueue_badstate {s : State} {ep : Nat} {c : HostCmd} {sts : List QueueState} (h : (cmdQueue s ep c).st ≠ .none) (hst : (cmdQueue s ep c).st ∉ sts) (k : Nat → Queue → Machine.Out) :
    onQueue ep c sts (heardOf s ep c) k = answer ep c 6#8 (heardOf s ep c) := by
  have hno : (!sts.contains (cmdQueue s ep c).st) = true := by simpa using hst
  exact (if_neg h).trans (if_pos hno)

/-- What BADOP_COMMAND answers: a command that arrives and that the table of R76 does not list. -/
theorem badop_iff (s : State) (ep : Nat) (c : HostCmd) :
    ((endpointOf s ep).live && fitsSend c && (c.ver != 1#8 || c.op == 0#8 || decide (15 < c.op.toNat))) = true ↔
      Arrives s ep c ∧ (c.ver ≠ 1#8 ∨ c.op = 0#8 ∨ 15 < c.op.toNat) := by
  simp [Arrives, fitsSend, endp, endpointOf, or_assoc]

/-! ### Commands and responses as bytes (R75) -/

theorem header_bytes (session seqNo : BitVec 32) (arg1 arg0 : Word) (queue status op ver : BitVec 8) {payload : List Byte} (hlen : payload.length < 2 ^ 16) :
    Header (leBytes 32 (headerNat session seqNo arg1 arg0 payload.length queue status op ver) ++ payload) session seqNo arg1 arg0 payload.length queue status op ver payload := by
  have hlength := leBytes_length 32 (headerNat session seqNo arg1 arg0 payload.length queue status op ver)
  have htake : (leBytes 32 (headerNat session seqNo arg1 arg0 payload.length queue status op ver) ++ payload).take 32 = _ := List.take_left' hlength
  have hses := session.isLt
  have hseq := seqNo.isLt
  have harg1 := arg1.isLt
  have harg0 := arg0.isLt
  have hqueue := queue.isLt
  have hst := status.isLt
  have hop := op.isLt
  have hver := ver.isLt
  refine ⟨by rw [List.length_append, hlength], List.drop_left' hlength, ?_⟩
  rw [htake, leNat_leBytes]
  unfold field headerNat
  refine ⟨?_, ?_, ?_, ?_, ?_, ?_, ?_, ?_, ?_, ?_⟩ <;> omega

theorem ofNat_of_toNat {w n : Nat} {x : BitVec w} (h : n = x.toNat) : BitVec.ofNat w n = x := by rw [h, BitVec.ofNat_toNat, BitVec.setWidth_eq]

theorem commandOf_commandBytes {c : HostCmd} (hlen : c.payload.length ≤ 4064) : commandOf (commandBytes c) = some c := by
  obtain ⟨hlength, hdrop, hses, hseq, harg1, harg0, hn, hqueue, -, -, hop, hver⟩ :=
    header_bytes c.session c.seqNo c.arg1 c.arg0 c.queue 0#8 c.op c.ver (payload := c.payload) (by omega)
  change (commandBytes c).length = _ at hlength
  change (commandBytes c).drop 32 = _ at hdrop
  change bits (leNat ((commandBytes c).take 32)) 48 16 = _ at hn
  rw [commandOf, hlength, hdrop, hn, if_neg (by omega)]
  obtain ⟨session, seqNo, arg1, arg0, queue, op, ver, payload⟩ := c
  exact congrArg some (by rw [HostCmd.mk.injEq]; exact ⟨ofNat_of_toNat hses, ofNat_of_toNat hseq, ofNat_of_toNat harg1, ofNat_of_toNat harg0, ofNat_of_toNat hqueue, ofNat_of_toNat hop, ofNat_of_toNat hver, rfl⟩)

theorem commandOf_short_or_long {x : List Byte} (h : x.length < 32 ∨ 4096 < x.length) : commandOf x = none := if_pos (by omega)

/-! ### The statement about refusals -/

theorem hostRefusals : HostRefusals := by
  intro s ep c
  refine ⟨fun x hx hop => ?_, fun harr h => ?_, fun h => ?_, fun hlen => ?_, fun st a0 a1 pl hpl => ?_, fun x hx => commandOf_short_or_long hx⟩
  · obtain ⟨k, ⟨-, h15⟩, hexec, hqueue⟩ := hostCommand_form hx
    refine ⟨fun h => ?_, fun harr hver => ?_, fun harr hver hne hses => ?_, fun harr hver hne hses hacc => ?_, fun harr hver hne hses hacc hlock hfree => ?_, fun hpass hne => ?_⟩
    · exact (hexec s).trans (command_away h k)
    · exact refuses_unheard ((hexec s).trans (command_badop harr hop hver k))
    · exact refuses_unheard ((hexec s).trans (command_badsession harr hop hver hne hses k))
    · exact refuses_heard harr.1 ((hexec s).trans (command_noperm harr hop hver hne hses h15 hacc k))
    · exact refuses_heard harr.1 ((hexec s).trans (command_nolock harr hop hver hne hses hacc hlock hfree k))
    · obtain ⟨hop1, f, rfl⟩ := hqueue hne
      have hgo := (hexec s).trans (command_passes hpass hop1 _)
      exact ⟨fun h => refuses_heard hpass.1.1 (hgo.trans (onQueue_none h _)), fun h hst => refuses_heard hpass.1.1 (hgo.trans (onQueue_badstate h hst _))⟩
  · exact if_pos ((badop_iff s ep c).mpr ⟨harr, h⟩)
  · refine if_neg fun hbad => ?_
    obtain ⟨harr, hbad⟩ := (badop_iff s ep c).mp hbad
    obtain h | ⟨hver, h1, h15⟩ := h
    · exact h harr
    · obtain hbad | hbad | hbad := hbad
      · exact hbad hver
      · rw [hbad] at h1; exact absurd h1 (by decide)
      · omega
  · exact ⟨commandOf_commandBytes hlen, header_bytes (payload := c.payload) _ _ _ _ _ _ _ _ (by omega)⟩
  · exact ⟨_, rfl, header_bytes c.session c.seqNo a1 a0 c.queue st c.op 1#8 hpl⟩

end Sys2Proof.Proofs
end

section
/-! Sessions and the interface lock: what OPEN, CLOSE, LOCK, UNLOCK and the two timers leave of an endpoint (R74, R76, R78, R435). -/

namespace Sys2Proof.Proofs
open Sys2Proof Sys2Proof.Machine Sys2Proof.Claim

/-! ### Endpoints replaced -/

theorem endpoint_ne_default {x : Endpoint} (h : x.live = true) : x ≠ {} := fun he => by
  have hdead : x.live = false := congrArg Endpoint.live he
  rw [h] at hdead
  cases hdead

section
variable {s : State} {ep : Nat} {y : Endpoint}

theorem endp_setEndpoint (hy : y.live = true) (w : State) : endp (setEndpoint ep y w) ep = y := tabGet_tabSet_ne (endpoint_ne_default hy)

/-- An endpoint replaced, without an answer. -/
theorem setEndpoint_only (hy : y.live = true) : OnlyEndpoint s (setEndpoint ep y s) ep ∧ (setEndpoint ep y s).hub.out = s.hub.out ∧ endp (setEndpoint ep y s) ep = y :=
  ⟨⟨rfl, fun _ he => tabGet_tabSet_other_ne (endpoint_ne_default hy) he⟩, rfl, endp_setEndpoint hy s⟩

/-- A command that passes, replaces its endpoint and is answered. -/
theorem answer_setEndpoint {c : HostCmd} (hlive : (endp s ep).live = true) (hy : y.live = true) (st : BitVec 8) (a0 a1 : Word) :
    let t := respond ep c st a0 a1 [] (setEndpoint ep y (heardOf s ep c))
    OnlyEndpoint s t ep ∧ Responds s t ep c st a0 a1 ∧ endp t ep = y :=
  ⟨⟨rfl, fun _ he => (tabGet_tabSet_other_ne (endpoint_ne_default hy) he).trans (endp_heardOf_other hlive he)⟩, rfl, endp_setEndpoint hy _⟩

end

/-- The lock of an endpoint whose session `id` is closed: free where that session holds it (R78). -/
def lockWithout (x : Endpoint) (id : BitVec 32) : Option (BitVec 32 × Nat) := if x.lock.map (·.1) = some id then none else x.lock

theorem dropSession_eq (x : Endpoint) (id : BitVec 32) :
    dropSession x id = { x with sessions := x.sessions.filter fun y => y.id != id, lock := lockWithout x id } := by
  rw [dropSession, lockWithout]
  cases x.lock with
  | none => rfl
  | some l => simp

/-- The session heard of is the one that leaves. -/
theorem filter_heard (s : State) (ep : Nat) (c : HostCmd) :
    (heard s ep c).filter (fun y => y.id != c.session) = (endp s ep).sessions.filter fun y => y.id != c.session := by
  rw [heard]
  induction (endp s ep).sessions with
  | nil => rfl
  | cons y ys ih =>
    rw [List.map_cons, List.filter_cons, List.filter_cons, ih]
    by_cases hy : y.id = c.session
    · simp [hy]
    · simp [hy]

/-! ### OPEN (R76, R435) -/

theorem sized_length (n : Nat) (x : List Byte) : (sized n x).length = n := by
  rw [sized, List.length_take, List.length_append, List.length_replicate]
  omega

/-- The ids 0 to 65, among which OPEN looks for a free one. -/
def smallIds : List (BitVec 32) := (List.range 66).map (BitVec.ofNat 32)

theorem smallIds_nodup : smallIds.Nodup := by decide +kernel

/-- Of 66 ids one is neither 0 nor that of one of at most 64 sessions. -/
theorem exists_freeId {x : Endpoint} (h : x.sessions.length ≤ 64) : ∃ i ∈ smallIds, i ≠ 0#32 ∧ ∀ z ∈ x.sessions, z.id ≠ i := by
  by_contra hno
  have htaken : smallIds ⊆ 0#32 :: x.sessions.map (·.id) := fun i hi => by
    by_contra hfree
    rw [List.mem_cons, not_or] at hfree
    exact hno ⟨i, hi, hfree.1, fun z hz he => hfree.2 (List.mem_map.mpr ⟨z, hz, he⟩)⟩
  have hle := (smallIds_nodup.subperm htaken).length_le
  rw [smallIds, List.length_map, List.length_range, List.length_cons, List.length_map] at hle
  omega

/-- The id of a new session is nonzero and free (R74). -/
theorem freeSession_free {x : Endpoint} (h : x.sessions.length ≤ 64) (p : BitVec 32) : freeSession x p ≠ 0#32 ∧ ∀ z ∈ x.sessions, z.id ≠ freeSession x p := by
  have hok (i : BitVec 32) : (i != 0#32 && (sessionOf x i).isNone) = true ↔ i ≠ 0#32 ∧ ∀ z ∈ x.sessions, z.id ≠ i := by
    simp [sessionOf]
  rw [← hok]
  obtain ⟨i, hi, hfree⟩ := exists_freeId h
  have hsome : (smallIds.find? fun i => i != 0#32 && (sessionOf x i).isNone).isSome = true := List.find?_isSome.mpr ⟨i, hi, (hok i).mpr hfree⟩
  obtain ⟨j, hj⟩ := Option.isSome_iff_exists.mp hsome
  have hgive : freeSession x p = if (p != 0#32 && (sessionOf x p).isNone) = true then p else j := by
    rw [freeSession]
    change (if _ then p else (smallIds.find? _).getD 1#32) = _
    rw [hj]
    rfl
  rw [hgive]
  split
  · assumption
  · exact List.find?_some (p := fun i => i != 0#32 && (sessionOf x i).isNone) hj

/-- What an OPEN leaves alone as H1 grants its bundle: the context that issues, endpoints, and what the device has sent. -/
def Granted (s t : State) : Prop := t.core.ctx = s.core.ctx ∧ t.hub.eps = s.hub.eps ∧ t.hub.out = s.hub.out

theorem Granted.trans {s t u : State} (h : Granted s t) (g : Granted t u) : Granted s u := ⟨g.1.trans h.1, g.2.1.trans h.2.1, g.2.2.trans h.2.2⟩

theorem Touched.granted {s t : State} (h : Touched s t) : Granted s t := by
  obtain ⟨m, l, rfl⟩ := h
  exact ⟨rfl, rfl, rfl⟩

theorem devPutBytes_touched (bs : List Byte) (s : State) (va : Nat) : Touched s (devPutBytes s va bs) := by
  induction bs generalizing s va with
  | nil => exact .refl s
  | cons b bs ih => exact (devPut_touched s va 1 b.toNat).trans (ih _ _)

theorem removeEntries_granted (o : BitVec 12) (lo hi : Nat) (es : List RangeEntry) (s : State) : Granted s (removeEntries o lo hi es s) := by
  obtain ⟨m, hm⟩ := setRangeTable_form s o es
  rw [removeEntries, hm]
  exact List.foldlRecOn (motive := Granted s) _ _ ⟨rfl, rfl, rfl⟩ fun _ h _ _ => h

theorem grantBundle_granted (o : BitVec 12) (s : State) : Granted s (grantBundle o s) := by
  -- The kernel must not evaluate the decision, at a descriptor of 2^92 and more.
  obtain ⟨decision, hd⟩ : ∃ d, d = grantDecide := ⟨_, rfl⟩
  have hput := (devPutBytes_touched (bundle s) s Config.certBundle.toNat).granted
  unfold grantBundle
  rw [← hd]
  dsimp only
  split
  · exact hput
  · split
    · exact hput.trans (removeEntries_granted ..)
    · exact hput

/-- The session that an OPEN makes. -/
def newSession (s : State) (ep : Nat) (c : HostCmd) : Session :=
  let id := freeSession (endp s ep) (Config.sessionId s.freeCtr)
  { id := id, key := shake ((Config.mlkemEncaps (c.payload.take 1568) s.freeCtr).2 ++ (c.payload.drop 1568).take 32 ++ leBytes 4 id.toNat) 32, last := s.gtc }

/-- Its reply: the ciphertext and its signature. -/
def openReply (s : State) (c : HostCmd) : List Byte :=
  let ct := sized 1568 (Config.mlkemEncaps (c.payload.take 1568) s.freeCtr).1
  ct ++ sign s.hub.boot.aliasSeed (c.payload ++ ct)

theorem sign_length (seed msg : List Byte) : (sign seed msg).length = 1280 := by rw [sign, sized_length]

theorem length_signed {x : List Byte} {n : Nat} (h : x.length = n) (seed msg : List Byte) : (x ++ sign seed msg).length = n + 1280 := by
  rw [List.length_append, sign_length, h]

theorem openReply_length (s : State) (c : HostCmd) : (openReply s c).length = 2848 := length_signed (sized_length 1568 _) _ _

theorem openSession_eq (s : State) (ep : Nat) (c : HostCmd) :
    openSession ep c s = respond ep c 0#8 ((newSession s ep c).id.setWidth 64) (BitVec.ofNat 64 s.gtc) (openReply s c)
      (grantBundle (endpointOwner s ep) (nextFree (setEndpoint ep { endp s ep with sessions := (endp s ep).sessions ++ [newSession s ep c] } s))) := rfl

theorem openSession_opens {s : State} {ep : Nat} {c : HostCmd} (hlive : (endp s ep).live = true) :
    let t := openSession ep c s
    endp t ep = { endp s ep with sessions := (endp s ep).sessions ++ [newSession s ep c] } ∧ (∀ e, e ≠ ep → endp t e = endp s e) ∧ t.core.ctx = s.core.ctx ∧
      t.hub.out = s.hub.out ++ [response ep c 0#8 ((newSession s ep c).id.setWidth 64) (BitVec.ofNat 64 s.gtc) (openReply s c)] := by
  have hne := endpoint_ne_default (x := { endp s ep with sessions := (endp s ep).sessions ++ [newSession s ep c] }) hlive
  rw [openSession_eq]
  obtain ⟨hctx, heps, hout⟩ := grantBundle_granted (endpointOwner s ep) (nextFree (setEndpoint ep { endp s ep with sessions := (endp s ep).sessions ++ [newSession s ep c] } s))
  refine ⟨?_, fun e he => ?_, hctx, congrArg (· ++ _) hout⟩
  · exact (congrArg (tabGet {} · ep) heps).trans (tabGet_tabSet_ne hne)
  · exact (congrArg (tabGet {} · e) heps).trans (tabGet_tabSet_other_ne hne he)

/-- An OPEN that the holder of its key has signed (R435). -/
def authenticOpen (s : State) (ep : Nat) (c : HostCmd) : Bool :=
  c.payload.length == 2880 && Config.falconVerify (openKey s ep) (c.payload.take 1600) (c.payload.drop 1600)

theorem authenticOpen_iff (s : State) (ep : Nat) (c : HostCmd) :
    authenticOpen s ep c = true ↔ c.payload.length = 2880 ∧ Config.falconVerify (openKey s ep) (c.payload.take 1600) (c.payload.drop 1600) = true := by
  rw [authenticOpen, Bool.and_eq_true, beq_iff_eq]

theorem exec_hostOpen {s : State} {ep : Nat} {c : HostCmd} (harr : Arrives s ep c) (hop : c.op = 1#8) (hver : c.ver = 1#8) : exec (.hostOpen ep c) s =
    if !authenticOpen s ep c then answer ep c 3#8 s else if 64 ≤ (endp s ep).sessions.length then answer ep c 9#8 s else .next (openSession ep c s) := by
  show execHostOpen ep c s = _
  rw [execHostOpen, command_arrives harr hop, if_neg (not_not.mpr hver), if_pos rfl]
  rfl

theorem hostOpen_clauses {s : State} {ep : Nat} {c : HostCmd} (harr : Arrives s ep c) (hop : c.op = 1#8) (hver : c.ver = 1#8) :
    (authenticOpen s ep c = true → (endp s ep).sessions.length < 64 → ∃ t id pl y, exec (.hostOpen ep c) s = .next t ∧ id ≠ 0#32 ∧ (∀ z ∈ (endp s ep).sessions, z.id ≠ id) ∧ y.id = id ∧
      y.last = s.gtc ∧ y.key.length = 32 ∧ endp t ep = { endp s ep with sessions := (endp s ep).sessions ++ [y] } ∧ (∀ e, e ≠ ep → endp t e = endp s e) ∧ t.core.ctx = s.core.ctx ∧
      t.hub.out = s.hub.out ++ [response ep c 0#8 (id.setWidth 64) (BitVec.ofNat 64 s.gtc) pl] ∧ pl.length = 2848) ∧
    (¬authenticOpen s ep c = true → ∃ t, exec (.hostOpen ep c) s = .next t ∧ OnlyEndpoint s t ep ∧ endp t ep = endp s ep ∧ Responds s t ep c 3#8 0#64 0#64) ∧
    (authenticOpen s ep c = true → 64 ≤ (endp s ep).sessions.length →
      ∃ t, exec (.hostOpen ep c) s = .next t ∧ OnlyEndpoint s t ep ∧ endp t ep = endp s ep ∧ Responds s t ep c 9#8 0#64 0#64) := by
  rw [exec_hostOpen harr hop hver]
  refine ⟨fun hauth hlen => ?_, fun hforged => ?_, fun hauth hlen => ?_⟩
  · obtain ⟨hsame, hother, hctx, hout⟩ := openSession_opens (c := c) harr.1
    obtain ⟨hnz, hfree⟩ := freeSession_free (Nat.le_of_lt hlen) (Config.sessionId s.freeCtr)
    rw [hauth, if_neg (Nat.not_le.mpr hlen)]
    exact ⟨_, (newSession s ep c).id, openReply s c, newSession s ep c, rfl, hnz, hfree, rfl, rfl, sized_length .., hsame, hother, hctx, hout, openReply_length s c⟩
  · rw [Bool.not_eq_true] at hforged
    rw [hforged]
    exact ⟨_, rfl, ⟨rfl, fun _ _ => rfl⟩, rfl, rfl⟩
  · rw [hauth, if_pos hlen]
    exact ⟨_, rfl, ⟨rfl, fun _ _ => rfl⟩, rfl, rfl⟩

/-! ### CLOSE, LOCK, UNLOCK (R76, R78) -/

theorem dropSession_heard (s : State) (ep : Nat) (c : HostCmd) :
    dropSession { endp s ep with sessions := heard s ep c } c.session = dropSession (endp s ep) c.session := by
  rw [dropSession_eq, dropSession_eq, filter_heard]
  rfl

section
variable {s : State} {ep : Nat} {c : HostCmd}

theorem exec_hostClose (h : Passes s ep c 2#8 false) :
    exec (.hostClose ep c) s = answer ep c 0#8 (setEndpoint ep (dropSession (endp s ep) c.session) (heardOf s ep c)) := by
  have hend : endpointOf (heardOf s ep c) ep = { endp s ep with sessions := heard s ep c } := endp_heardOf h.1.1
  show execHostClose ep c s = _
  rw [execHostClose, command_passes h (by decide), hend, dropSession_heard]

theorem exec_hostUnlock (h : Passes s ep c 4#8 true) :
    exec (.hostUnlock ep c) s = answer ep c 0#8 (setEndpoint ep { endp s ep with sessions := heard s ep c, lock := none } (heardOf s ep c)) := by
  have hend : endpointOf (heardOf s ep c) ep = { endp s ep with sessions := heard s ep c } := endp_heardOf h.1.1
  show execHostUnlock ep c s = _
  rw [execHostUnlock, command_passes h (by decide), hend]

/-- The lock may be taken by the command's session: it is free, its own, or its lease is over (R78). -/
def MayLock (s : State) (ep : Nat) (c : HostCmd) : Prop := (endp s ep).lock = none ∨ ∃ h e, (endp s ep).lock = some (h, e) ∧ (h = c.session ∨ e ≤ s.gtc)

/-- The endpoint whose lock the command's session takes for ARG0 ms (R78). -/
def lockTaken (s : State) (ep : Nat) (c : HostCmd) : Endpoint := { endp s ep with sessions := heard s ep c, lock := some (c.session, s.gtc + c.arg0.toNat * 1200000) }

/-- What a LOCK that passes comes to. -/
def lockAnswer (s : State) (ep : Nat) (c : HostCmd) : Machine.Out :=
  if c.arg0.toNat = 0 ∨ 60000 < c.arg0.toNat then answer ep c 2#8 (heardOf s ep c)
  else match (endp s ep).lock with
    | none => answer ep c 0#8 (setEndpoint ep (lockTaken s ep c) (heardOf s ep c))
    | some (id, e) => if id = c.session ∨ e ≤ s.gtc then answer ep c 0#8 (setEndpoint ep (lockTaken s ep c) (heardOf s ep c))
      else .next (respond ep c 1#8 (id.setWidth 64) (BitVec.ofNat 64 e) [] (heardOf s ep c))

theorem exec_hostLock (h : Passes s ep c 3#8 false) : exec (.hostLock ep c) s = lockAnswer s ep c := by
  have hend : endpointOf (heardOf s ep c) ep = { endp s ep with sessions := heard s ep c } := endp_heardOf h.1.1
  show execHostLock ep c s = _
  rw [execHostLock, command_passes h (by decide), hend]
  rfl

theorem exec_hostLock_badlease (h : Passes s ep c 3#8 false) (hbad : c.arg0.toNat = 0 ∨ 60000 < c.arg0.toNat) : exec (.hostLock ep c) s = answer ep c 2#8 (heardOf s ep c) := by
  rw [exec_hostLock h, lockAnswer, if_pos hbad]

theorem exec_hostLock_takes (h : Passes s ep c 3#8 false) (hlease : ¬(c.arg0.toNat = 0 ∨ 60000 < c.arg0.toNat)) (hmay : MayLock s ep c) :
    exec (.hostLock ep c) s = answer ep c 0#8 (setEndpoint ep (lockTaken s ep c) (heardOf s ep c)) := by
  rw [exec_hostLock h, lockAnswer, if_neg hlease]
  obtain hnone | ⟨id, e, hlock, hfree⟩ := hmay
  · rw [hnone]
  · rw [hlock]
    exact if_pos hfree

theorem exec_hostLock_busy (h : Passes s ep c 3#8 false) (hlease : ¬(c.arg0.toNat = 0 ∨ 60000 < c.arg0.toNat)) {id : BitVec 32} {e : Nat}
    (hlock : (endp s ep).lock = some (id, e)) (hheld : ¬(id = c.session ∨ e ≤ s.gtc)) :
    exec (.hostLock ep c) s = .next (respond ep c 1#8 (id.setWidth 64) (BitVec.ofNat 64 e) [] (heardOf s ep c)) := by
  rw [exec_hostLock h, lockAnswer, if_neg hlease, hlock]
  exact if_neg hheld

end

/-! ### The timers (R74, R78) -/

theorem exec_sessionTimeout {s : State} {ep sid : Nat} {y : Session} (hy : (endp s ep).sessions.find? (fun z => z.id.toNat == sid) = some y) :
    exec (.sessionTimeout ep sid) s = if y.last + 36000000000 ≤ s.gtc then .next (setEndpoint ep (dropSession (endp s ep) y.id) s) else .next s := by
  show execSessionTimeout ep sid s = _
  have hend : endpointOf s ep = endp s ep := rfl
  rw [execSessionTimeout, hend, hy]

theorem exec_sessionTimeout_early {s : State} {ep sid : Nat} (h : ∀ y ∈ (endp s ep).sessions, y.id.toNat = sid → s.gtc < y.last + 36000000000) :
    exec (.sessionTimeout ep sid) s = .next s := by
  cases hy : (endp s ep).sessions.find? fun z => z.id.toNat == sid with
  | none =>
    show execSessionTimeout ep sid s = _
    have hend : endpointOf s ep = endp s ep := rfl
    rw [execSessionTimeout, hend, hy]
  | some y =>
    have hlate := h y (List.mem_of_find?_eq_some hy) (beq_iff_eq.mp (List.find?_some (p := fun z : Session => z.id.toNat == sid) hy))
    rw [exec_sessionTimeout hy, if_neg (by omega)]

theorem exec_lockLeaseExpiry {s : State} {ep : Nat} {id : BitVec 32} {e : Nat} (h : (endp s ep).lock = some (id, e)) :
    exec (.lockLeaseExpiry ep) s = if e ≤ s.gtc then .next (setEndpoint ep { endp s ep with lock := none } s) else .next s := by
  show execLockLeaseExpiry ep s = _
  have hend : endpointOf s ep = endp s ep := rfl
  rw [execLockLeaseExpiry, hend, h]

theorem exec_lockLeaseExpiry_early {s : State} {ep : Nat} (h : ∀ id e, (endp s ep).lock = some (id, e) → s.gtc < e) : exec (.lockLeaseExpiry ep) s = .next s := by
  cases hl : (endp s ep).lock with
  | none =>
    show execLockLeaseExpiry ep s = _
    have hend : endpointOf s ep = endp s ep := rfl
    rw [execLockLeaseExpiry, hend, hl]
  | some l => rw [exec_lockLeaseExpiry hl, if_neg (Nat.not_le.mpr (h _ _ hl))]

/-! ### The statement about sessions -/

theorem hostLock_clauses {s : State} {ep : Nat} {c : HostCmd} (h : Passes s ep c 3#8 false) : ∃ t, exec (.hostLock ep c) s = .next t ∧ OnlyEndpoint s t ep ∧
    (endp t ep).sessions = heard s ep c ∧ (endp t ep).live = true ∧
    (c.arg0.toNat = 0 ∨ 60000 < c.arg0.toNat → Responds s t ep c 2#8 0#64 0#64 ∧ (endp t ep).lock = (endp s ep).lock) ∧
    (1 ≤ c.arg0.toNat → c.arg0.toNat ≤ 60000 →
      (MayLock s ep c → Responds s t ep c 0#8 0#64 0#64 ∧ (endp t ep).lock = some (c.session, s.gtc + c.arg0.toNat * 1200000)) ∧
      (∀ id e, (endp s ep).lock = some (id, e) → id ≠ c.session → s.gtc < e →
        Responds s t ep c 1#8 (id.setWidth 64) (BitVec.ofNat 64 e) ∧ (endp t ep).lock = (endp s ep).lock)) := by
  have hlive := h.1.1
  have hheard := endp_heardOf (c := c) hlive
  by_cases hlease : c.arg0.toNat = 0 ∨ 60000 < c.arg0.toNat
  · obtain ⟨honly, hout⟩ := answer_heardOf (c := c) hlive 2#8 0#64 0#64 []
    exact ⟨_, exec_hostLock_badlease h hlease, honly, congrArg Endpoint.sessions hheard, (congrArg Endpoint.live hheard).trans hlive,
      fun _ => ⟨hout, (congrArg Endpoint.lock hheard :)⟩, fun h1 h2 => absurd hlease (by omega)⟩
  · by_cases hmay : MayLock s ep c
    · obtain ⟨honly, hresp, hend⟩ := answer_setEndpoint (y := lockTaken s ep c) (c := c) hlive hlive 0#8 0#64 0#64
      refine ⟨_, exec_hostLock_takes h hlease hmay, honly, congrArg Endpoint.sessions hend, (congrArg Endpoint.live hend).trans hlive, fun hbad => absurd hbad hlease,
        fun _ _ => ⟨fun _ => ⟨hresp, congrArg Endpoint.lock hend⟩, fun id e hlock hid he => ?_⟩⟩
      obtain hnone | ⟨id', e', hlock', hfree⟩ := hmay
      · rw [hnone] at hlock; cases hlock
      · rw [hlock'] at hlock
        cases hlock
        exact absurd he (Nat.not_lt.mpr (hfree.resolve_left hid))
    · obtain ⟨id, e, hlock⟩ : ∃ id e, (endp s ep).lock = some (id, e) := by
        cases hl : (endp s ep).lock with
        | none => exact absurd (.inl hl) hmay
        | some l => exact ⟨l.1, l.2, rfl⟩
      have hheld : ¬(id = c.session ∨ e ≤ s.gtc) := fun hf => hmay (.inr ⟨id, e, hlock, hf⟩)
      obtain ⟨honly, hout⟩ := answer_heardOf (c := c) hlive 1#8 (id.setWidth 64) (BitVec.ofNat 64 e) []
      refine ⟨_, exec_hostLock_busy h hlease hlock hheld, honly, congrArg Endpoint.sessions hheard, (congrArg Endpoint.live hheard).trans hlive, fun hbad => absurd hbad hlease,
        fun _ _ => ⟨fun hm => absurd hm hmay, fun id' e' hlock' _ _ => ?_⟩⟩
      rw [hlock] at hlock'
      cases hlock'
      exact ⟨hout, (congrArg Endpoint.lock hheard :)⟩

theorem sessions : Sessions := by
  intro s ep sid c
  refine ⟨fun harr hop hver => ?_, fun hpass => ?_, hostLock_clauses, fun hpass => ?_, fun y hlive hy hlast => ?_, exec_sessionTimeout_early, fun id e hlive hlock he => ?_,
    exec_lockLeaseExpiry_early⟩
  · obtain ⟨hopens, hforged, hfull⟩ := hostOpen_clauses harr hop hver
    have hauth := authenticOpen_iff s ep c
    exact ⟨fun h hlen => hopens (hauth.mpr h) hlen, fun h => hforged (mt hauth.mp h), fun h hlen => hfull (hauth.mpr h) hlen⟩
  · obtain ⟨honly, hresp, hend⟩ := answer_setEndpoint (y := dropSession (endp s ep) c.session) (c := c) hpass.1.1 hpass.1.1 0#8 0#64 0#64
    exact ⟨_, exec_hostClose hpass, honly, hresp, hend.trans (dropSession_eq ..)⟩
  · obtain ⟨honly, hresp, hend⟩ := answer_setEndpoint (y := { endp s ep with sessions := heard s ep c, lock := none }) (c := c) hpass.1.1 hpass.1.1 0#8 0#64 0#64
    exact ⟨_, exec_hostUnlock hpass, honly, hresp, hend⟩
  · obtain ⟨honly, hout, hend⟩ := setEndpoint_only (s := s) (ep := ep) (y := dropSession (endp s ep) y.id) hlive
    exact ⟨_, (exec_sessionTimeout hy).trans (if_pos hlast), honly, hout, hend.trans (dropSession_eq ..)⟩
  · obtain ⟨honly, hout, hend⟩ := setEndpoint_only (s := s) (ep := ep) (y := { endp s ep with lock := none }) hlive
    exact ⟨_, (exec_lockLeaseExpiry hlock).trans (if_pos he), honly, hout, hend⟩

/-- Settles O48: the checks of R76 in their order by `command_arrives`, and sessions and the lock by what each command leaves of its endpoint. -/
theorem endpointsAndSessions : Obligations.EndpointsAndSessions := ⟨hostRefusals, sessions⟩

end Sys2Proof.Proofs
end

section
/-! KEYLOAD and EVIDENCE: the key that a session wraps, and the evidence record by its bytes (R86, R436, R437). -/

namespace Sys2Proof.Proofs
open Sys2Proof Sys2Proof.Machine Sys2Proof.Claim

/-- A command that passes and is refused by what it asks for. -/
theorem refused_heard {s : State} {ep : Nat} {c : HostCmd} {i : Instr} {st : BitVec 8} (hlive : (endp s ep).live = true) (h : exec i s = answer ep c st (heardOf s ep c)) :
    ∃ t, exec i s = .next t ∧ OnlyEndpoint s t ep ∧ Responds s t ep c st 0#64 0#64 := by
  obtain ⟨t, hexec, honly, hresp, -⟩ := refuses_heard hlive h
  exact ⟨t, hexec, honly, hresp⟩

/-! ### KEYLOAD (R86, R436) -/

/-- A session heard of keeps its key. -/
theorem sessionKey_heardOf {s : State} {ep : Nat} {c : HostCmd} (hlive : (endp s ep).live = true) {y : Session} (hy : (endp s ep).sessions.find? (fun z => z.id == c.session) = some y) :
    ((sessionOf (endpointOf (heardOf s ep c) ep) c.session).map (·.key)).getD [] = y.key := by
  have hend : endpointOf (heardOf s ep c) ep = { endp s ep with sessions := heard s ep c } := endp_heardOf hlive
  have hid : ((fun z : Session => z.id == c.session) ∘ fun z : Session => if z.id = c.session then { z with last := s.gtc } else z) = fun z => z.id == c.session := by
    funext z
    rw [Function.comp_apply]
    split <;> rfl
  rw [hend, sessionOf, heard, List.find?_map, hid, hy]
  show (if y.id = c.session then { y with last := s.gtc } else y : Session).key = y.key
  split <;> rfl

theorem slotInUse_iff (s : State) (k : Nat) : slotInUse s k = true ↔ ∃ e ∈ s.hub.queues, e.2.kslot.toNat = k ∧ (e.2.st = .open_ ∨ e.2.st = .draining) := by
  simp [slotInUse]

/-- Key slot `n` takes the key `k` for the virtual device of endpoint `ep`; nothing has been sealed under it (R86). -/
def keyInstalled (ep n : Nat) (k : BitVec 256) (s : State) : State :=
  setHub s { s.hub with keys := tabSet none s.hub.keys n (some (k, ep - 1)), keysSent := tabSet 0 s.hub.keysSent n 0 }

/-- What a KEYLOAD that passes comes to, of a session whose key is `key`. -/
def keyloadAnswer (s : State) (ep : Nat) (c : HostCmd) (key : List Byte) : Machine.Out :=
  if 254 < c.arg0.toNat then answer ep c 2#8 (heardOf s ep c)
  else match if c.payload.length = 40 then Config.aesUnwrap key c.payload else none with
    | none => answer ep c 2#8 (heardOf s ep c)
    | some k => if slotInUse s c.arg0.toNat then answer ep c 6#8 (heardOf s ep c) else answer ep c 0#8 (keyInstalled ep c.arg0.toNat k (heardOf s ep c))

section
variable {s : State} {ep : Nat} {c : HostCmd} (h : Passes s ep c 12#8 true) {y : Session} (hy : (endp s ep).sessions.find? (fun z => z.id == c.session) = some y)
include h hy

theorem exec_hostKeyload : exec (.hostKeyload ep c) s = keyloadAnswer s ep c y.key := by
  show execHostKeyload ep c s = _
  rw [execHostKeyload, command_passes h (by decide)]
  dsimp only
  rw [sessionKey_heardOf h.1.1 hy]
  rfl

theorem exec_hostKeyload_badarg (hbad : 254 < c.arg0.toNat ∨ c.payload.length ≠ 40 ∨ Config.aesUnwrap y.key c.payload = none) :
    exec (.hostKeyload ep c) s = answer ep c 2#8 (heardOf s ep c) := by
  rw [exec_hostKeyload h hy, keyloadAnswer]
  split
  · rfl
  · have hnone : (if c.payload.length = 40 then Config.aesUnwrap y.key c.payload else none) = none := by
      split
      · rename_i hslot hlen
        exact (hbad.resolve_left hslot).resolve_left (not_not.mpr hlen)
      · rfl
    rw [hnone]

theorem exec_hostKeyload_unwrapped (hslot : c.arg0.toNat ≤ 254) (hlen : c.payload.length = 40) {k : BitVec 256} (hk : Config.aesUnwrap y.key c.payload = some k) :
    exec (.hostKeyload ep c) s =
      if slotInUse s c.arg0.toNat then answer ep c 6#8 (heardOf s ep c) else answer ep c 0#8 (keyInstalled ep c.arg0.toNat k (heardOf s ep c)) := by
  rw [exec_hostKeyload h hy, keyloadAnswer, if_neg (Nat.not_lt.mpr hslot), if_pos hlen, hk]

end

/-! ### Fields of bytes that follow others -/

theorem leNat_append (a b : List Byte) : leNat (a ++ b) = leNat a + 256 ^ a.length * leNat b := by
  induction a with
  | nil => simp [leNat]
  | cons x xs ih =>
    rw [List.cons_append, leNat, leNat, ih, List.length_cons, Nat.pow_succ]
    ring

theorem leNat_lt (a : List Byte) : leNat a < 256 ^ a.length := by
  induction a with
  | nil => decide
  | cons x xs ih =>
    have hx := x.isLt
    rw [leNat, List.length_cons, Nat.pow_succ]
    omega

/-- A field behind `n` bytes. -/
theorem field_append {a b : List Byte} {n : Nat} (h : a.length = n) (lo k : Nat) : field (leNat (a ++ b)) (8 * n + lo) k = field (leNat b) lo k := by
  have hlt := leNat_lt a
  rw [field, field, leNat_append, Nat.pow_add, ← Nat.div_div_eq_div_mul]
  rw [h] at hlt ⊢
  rw [show (256 : Nat) = 2 ^ 8 from rfl, ← Nat.pow_mul] at hlt ⊢
  rw [Nat.add_mul_div_left _ _ (Nat.two_pow_pos _), Nat.div_eq_of_lt hlt, Nat.zero_add]

theorem leNat_leBytes_append (n x : Nat) (b : List Byte) : leNat (leBytes n x ++ b) = x % 256 ^ n + 256 ^ n * leNat b := by
  rw [leNat_append, leNat_leBytes, leBytes_length]

/-! ### EVIDENCE (R437) -/

/-- An evidence record from byte 256 on: VERSION, the length of the nonce, three bytes of the virtual device, the times and the launches. -/
def evidenceTail (n r0 r1 r2 : Byte) (gtc vt launches : Nat) (rest : List Byte) : List Byte :=
  1#8 :: n :: r0 :: r1 :: r2 :: 0#8 :: 0#8 :: 0#8 :: (leBytes 8 gtc ++ (leBytes 8 vt ++ (leBytes 8 launches ++ rest)))

theorem evidenceTail_fields (n r0 r1 r2 : Byte) (gtc vt launches : Nat) (rest : List Byte) :
    let x := leNat (evidenceTail n r0 r1 r2 gtc vt launches rest)
    field x 0 8 = 1 ∧ field x 8 8 = n.toNat ∧ field x 16 8 = r0.toNat ∧ field x 24 8 = r1.toNat ∧ field x 32 8 = r2.toNat ∧ field x 16 24 = r0.toNat + 2 ^ 8 * r1.toNat + 2 ^ 16 * r2.toNat ∧
      field x 64 64 = gtc % 2 ^ 64 ∧ field x 128 64 = vt % 2 ^ 64 ∧ field x 192 64 = launches % 2 ^ 64 ∧ field x 128 128 = vt % 2 ^ 64 + 2 ^ 64 * (launches % 2 ^ 64) := by
  have hn := n.isLt
  have h0 := r0.isLt
  have h1 := r1.isLt
  have h2 := r2.isLt
  have hone : (1#8).toNat = 1 := rfl
  have hzero : (0#8).toNat = 0 := rfl
  simp only [evidenceTail, leNat, leNat_leBytes_append, hone, hzero]
  unfold field
  refine ⟨?_, ?_, ?_, ?_, ?_, ?_, ?_, ?_, ?_, ?_⟩ <;> omega

/-- The first 256 bytes of an evidence record: the nonce and three digests. -/
def evidenceHead (s : State) (ep : Nat) (nonce : List Byte) : List Byte :=
  sized 64 nonce ++ shake s.hub.boot.mlog.flatten 64 ++ shake (publicKey s.hub.boot.aliasSeed) 64 ++ sized 64 (if ep = 0 then [] else (vdevOf s (ep - 1)).vmeas)

theorem evidenceHead_length (s : State) (ep : Nat) (nonce : List Byte) : (evidenceHead s ep nonce).length = 256 := by
  rw [evidenceHead, shake, shake, List.length_append, List.length_append, List.length_append, sized_length, sized_length, sized_length, sized_length]

/-- The bytes behind them: on the operator endpoint no virtual device's (R437). -/
def evidenceRest (s : State) (ep : Nat) (nonce rest : List Byte) : List Byte :=
  let x := vdevOf s (ep - 1)
  evidenceTail (BitVec.ofNat 8 nonce.length) (if ep = 0 then 0xFF#8 else BitVec.ofNat 8 (resCode x)) (if ep = 0 then 0xFF#8 else x.part.setWidth 8)
    (if ep = 0 then 0xFF#8 else BitVec.ofNat 8 (ep - 1)) s.gtc (if ep = 0 then 0 else (evidenceTime s x).toNat) (if ep = 0 then 0 else x.launches) rest

theorem evidenceBody_append (s : State) (ep : Nat) (nonce sig : List Byte) :
    evidenceBody s ep nonce ++ sig = evidenceHead s ep nonce ++ evidenceRest s ep nonce (List.replicate 32 0#8 ++ sig) := by
  rw [evidenceBody, evidenceHead, evidenceRest]
  by_cases hep : ep = 0
  · simp only [hep, if_true, evidenceTail, List.append_assoc, List.cons_append, List.nil_append]
  · simp only [hep, if_false, evidenceTail, List.append_assoc, List.cons_append, List.nil_append]

theorem evidenceBody_length (s : State) (ep : Nat) (nonce : List Byte) : (evidenceBody s ep nonce).length = 320 := by
  have hrest : (evidenceRest s ep nonce (List.replicate 32 0#8)).length = 64 := by
    simp [evidenceRest, evidenceTail, leBytes_length]
  have h := evidenceBody_append s ep nonce []
  rw [List.append_nil, List.append_nil] at h
  rw [h, List.length_append, evidenceHead_length, hrest]

theorem sized_append {n : Nat} {x : List Byte} (h : x.length ≤ n) : ∃ z, sized n x = x ++ z := by
  rw [sized, List.take_append, List.take_of_length_le h]
  exact ⟨_, rfl⟩

/-- The record and its signature. -/
def evidenceOf (s : State) (ep : Nat) (nonce : List Byte) : List Byte := evidenceBody s ep nonce ++ sign s.hub.boot.aliasSeed (evidenceBody s ep nonce)

theorem evidenceOf_length (s : State) (ep : Nat) (nonce : List Byte) : (evidenceOf s ep nonce).length = 320 + 1280 := length_signed (evidenceBody_length ..) _ _

theorem evidenceOf_nonce (s : State) (ep : Nat) {nonce : List Byte} (h : nonce.length ≤ 64) : (evidenceOf s ep nonce).take nonce.length = nonce := by
  obtain ⟨z, hz⟩ := sized_append h
  rw [evidenceOf, evidenceBody_append, evidenceHead, hz]
  simp only [List.append_assoc]
  exact List.take_left' rfl

/-- A field of the record behind its first 256 bytes. -/
theorem evidenceOf_field (s : State) (ep : Nat) (nonce : List Byte) (lo k : Nat) : field (leNat (evidenceOf s ep nonce)) (8 * 256 + lo) k =
    field (leNat (evidenceRest s ep nonce (List.replicate 32 0#8 ++ sign s.hub.boot.aliasSeed (evidenceBody s ep nonce)))) lo k := by
  rw [evidenceOf, evidenceBody_append, field_append (evidenceHead_length ..)]

theorem resCode_lt (x : Vdev) : resCode x < 256 := by
  rw [resCode]
  split
  · decide
  · split <;> decide

theorem exec_hostEvidence {s : State} {ep : Nat} {c : HostCmd} (h : Passes s ep c 13#8 false) : exec (.hostEvidence ep c) s =
    if c.payload.length < 16 ∨ 64 < c.payload.length then answer ep c 2#8 (heardOf s ep c)
    else .next (respond ep c 0#8 (Config.certBundle.setWidth 64) 0#64 (evidenceOf s ep c.payload) (heardOf s ep c)) := by
  show execHostEvidence ep c s = _
  rw [execHostEvidence, command_passes h (by decide)]
  rfl

/-- The fields of an evidence record behind its digests (R437). -/
theorem evidenceOf_fields (s : State) (ep : Nat) {nonce : List Byte} (h : nonce.length ≤ 64) :
    let y := leNat (evidenceOf s ep nonce)
    let x := vdevOf s (ep - 1)
    field y 2048 8 = 1 ∧ field y 2056 8 = nonce.length ∧ (s.gtc < 2 ^ 64 → field y 2112 64 = s.gtc) ∧ (ep = 0 → field y 2064 24 = 0xFFFFFF ∧ field y 2176 128 = 0) ∧
      (ep ≠ 0 → ep ≤ 64 → field y 2064 8 = resCode x ∧ field y 2072 8 = x.part.toNat ∧ field y 2080 8 = ep - 1 ∧ (x.resident = false → field y 2176 64 = x.vStop.toNat) ∧
        (x.launches < 2 ^ 64 → field y 2240 64 = x.launches)) := by
  have hf := evidenceOf_field s ep nonce
  rw [evidenceRest] at hf
  obtain ⟨hver, hlen, h0, h1, h2, h012, hgtc, hvt, hla, hboth⟩ := evidenceTail_fields (BitVec.ofNat 8 nonce.length)
    (if ep = 0 then 0xFF#8 else BitVec.ofNat 8 (resCode (vdevOf s (ep - 1)))) (if ep = 0 then 0xFF#8 else (vdevOf s (ep - 1)).part.setWidth 8)
    (if ep = 0 then 0xFF#8 else BitVec.ofNat 8 (ep - 1)) s.gtc (if ep = 0 then 0 else (evidenceTime s (vdevOf s (ep - 1))).toNat) (if ep = 0 then 0 else (vdevOf s (ep - 1)).launches)
    (List.replicate 32 0#8 ++ sign s.hub.boot.aliasSeed (evidenceBody s ep nonce))
  refine ⟨(hf 0 8).trans hver, (hf 8 8).trans (hlen.trans ?_), fun hlt => (hf 64 64).trans (hgtc.trans (Nat.mod_eq_of_lt hlt)), fun hep => ⟨?_, ?_⟩, fun hep hle => ?_⟩
  · rw [BitVec.toNat_ofNat, Nat.mod_eq_of_lt (by omega)]
  · refine (hf 16 24).trans (h012.trans ?_)
    rw [if_pos hep, if_pos hep, if_pos hep]
    rfl
  · refine (hf 128 128).trans (hboth.trans ?_)
    rw [if_pos hep, if_pos hep, Nat.zero_mod, Nat.mul_zero]
  · simp only [hep, if_false] at hf h0 h1 h2 hvt hla
    have hpart := (vdevOf s (ep - 1)).part.isLt
    refine ⟨(hf 16 8).trans (h0.trans ?_), (hf 24 8).trans (h1.trans ?_), (hf 32 8).trans (h2.trans ?_), fun hres => (hf 128 64).trans (hvt.trans ?_), fun hlt => (hf 192 64).trans (hla.trans (Nat.mod_eq_of_lt hlt))⟩
    · rw [BitVec.toNat_ofNat, Nat.mod_eq_of_lt (resCode_lt _)]
    · rw [BitVec.toNat_setWidth, Nat.mod_eq_of_lt (by omega)]
    · rw [BitVec.toNat_ofNat, Nat.mod_eq_of_lt (by omega)]
    · rw [evidenceTime, hres]
      exact Nat.mod_eq_of_lt (vdevOf s (ep - 1)).vStop.isLt

theorem keysAndEvidence : KeysAndEvidence := by
  intro s ep c
  refine ⟨fun hpass y hy => ⟨fun hbad => ?_, fun k hslot hlen hk => ?_⟩, fun hpass => ⟨fun hbad => ?_, fun h16 h64 => ?_⟩⟩
  · exact refused_heard hpass.1.1 (exec_hostKeyload_badarg hpass hy hbad)
  · have hexec := exec_hostKeyload_unwrapped hpass hy hslot hlen hk
    refine ⟨fun huse => ?_, fun hfree => ?_⟩
    · exact refused_heard hpass.1.1 (hexec.trans (if_pos ((slotInUse_iff s _).mpr huse)))
    · exact ⟨_, hexec.trans (if_neg (mt (slotInUse_iff s _).mp hfree)), rfl, rfl, fun hwf => tabGet_tabSet_same hwf, rfl, rfl⟩
  · exact refused_heard hpass.1.1 ((exec_hostEvidence hpass).trans (if_pos hbad))
  · obtain ⟨honly, hout⟩ := answer_heardOf (c := c) hpass.1.1 0#8 (Config.certBundle.setWidth 64) 0#64 (evidenceOf s ep c.payload)
    exact ⟨_, evidenceOf s ep c.payload, (exec_hostEvidence hpass).trans (if_neg (by omega)), honly, hout, evidenceOf_length .., evidenceOf_nonce s ep h64, evidenceOf_fields s ep h64⟩

end Sys2Proof.Proofs
end

section
/-! VCREATE and VDESTROY: what a payload describes, the refusals in order, and the removal of a virtual device from its beginning to its end (R91, R92). -/

namespace Sys2Proof.Proofs
open Sys2Proof Sys2Proof.Machine Sys2Proof.Claim

/-! ### Storage cleared -/

/-- In a canonical table every key of the rest lies above the first. -/
theorem tabGet_filter {α : Type} [DecidableEq α] {d : α} {p : Nat × α → Bool} {k : Nat} {t : Tab α} {lo : Nat} (h : tabWfFrom d lo t = true) (hp : ∀ x, p (k, x) = false) :
    tabGet d (t.filter p) k = d := by
  induction t generalizing lo with
  | nil => rfl
  | cons e t ih =>
    obtain ⟨j, y⟩ := e
    simp only [tabWfFrom, Bool.and_eq_true, decide_eq_true_eq] at h
    obtain ⟨-, ht⟩ := h
    rw [List.filter_cons]
    split
    · rename_i hy
      have hne : k ≠ j := fun he => by rw [← he, hp] at hy; cases hy
      rw [tabGet, if_neg hne]
      split
      · rfl
      · exact ih ht
    · exact ih ht

/-- A byte of a span that has been cleared. -/
theorem getByte_clearSpan {m : List Host.Cell} (h : Memory.wf m = true) {a n k : Nat} (h1 : a ≤ k) (h2 : k < a + n) : getByte (clearSpan m a n) k = 0#8 :=
  tabGet_filter h fun _ => by simp [h1, h2]

/-! ### What a VCREATE asks for (R91) -/

/-- The number of the virtual device that a payload names, and its description. -/
def wantedVdev (c : HostCmd) : Nat := field (leNat (c.payload.take 64)) 0 8
def wantedDesc (c : HostCmd) : Vdev := vdevOfPayload (leNat (c.payload.take 64)) (c.payload.drop 64)

/-- A payload that describes no virtual device. -/
def MalformedVdev (c : HostCmd) : Prop :=
  let x := leNat (c.payload.take 64)
  c.payload.length ≠ 1857 ∨ field x 61 451 ≠ 0 ∨ field x 41 7 ≠ 0 ∨ field x 28 4 ≠ 0 ∨ field x 11 5 ≠ 0 ∨ 63 < field x 0 8 ∨ field x 38 2 = 3 ∨ Config.falconKeyOk (c.payload.drop 64) = false ∨
    field x 56 5 = 0 ∨ 16 < field x 56 5 ∨ 24 < field x 48 5 ∨ 32 < field x 56 5 + field x 48 5 + 1

/-- Its colour is another virtual device's, or its partition has no quads. -/
def TakenVdev (s : State) (c : HostCmd) : Prop :=
  let x := leNat (c.payload.take 64)
  (∃ e ∈ s.hub.vdevs, e.1 ≠ wantedVdev c ∧ e.2.live = true ∧ e.2.colour.toNat = field x 32 6) ∨ (getPart s (BitVec.ofNat 3 (field x 8 3))).map = 0#32

/-- The upper bits of a record of 64 bytes. -/
theorem field_61 (x : List Byte) : field (leNat (x.take 64)) 61 451 = leNat (x.take 64) / 2 ^ 61 := by
  have hlt := leNat_lt (x.take 64)
  have hlen : (x.take 64).length ≤ 64 := List.length_take_le 64 x
  have hpow : 256 ^ (x.take 64).length ≤ 256 ^ 64 := Nat.pow_le_pow_right (by decide) hlen
  rw [field]
  generalize leNat (x.take 64) = y at hlt ⊢
  omega

theorem malformedVdev_iff (c : HostCmd) :
    let x := leNat (c.payload.take 64)
    (c.payload.length ≠ 1857 ∨ x / 2 ^ 61 ≠ 0 ∨ bits x 41 7 ≠ 0 ∨ bits x 28 4 ≠ 0 ∨ bits x 11 5 ≠ 0 ∨ 63 < wantedVdev c ∨ (wantedDesc c).rclass = 3#2 ∨
      Config.falconKeyOk (wantedDesc c).key = false ∨ bits x 56 5 = 0 ∨ 16 < bits x 56 5 ∨ 24 < bits x 48 5 ∨ 32 < bits x 56 5 + bits x 48 5 + 1) ↔ MalformedVdev c := by
  have hrclass := ofNat_bits_eq_iff (leNat (c.payload.take 64)) 38 2 3 (by decide)
  have hrc : (wantedDesc c).rclass = 3#2 ↔ bits (leNat (c.payload.take 64)) 38 2 = 3 := hrclass
  dsimp only
  rw [hrc, ← field_61]
  rfl

theorem takenVdev_iff (s : State) (c : HostCmd) :
    ((s.hub.vdevs.any fun e => e.1 ≠ wantedVdev c && e.2.live && e.2.colour == (wantedDesc c).colour) || (getPart s (wantedDesc c).part).map == 0#32) = true ↔ TakenVdev s c := by
  have hcol (x : BitVec 6) : x = (wantedDesc c).colour ↔ x.toNat = field (leNat (c.payload.take 64)) 32 6 := by
    rw [← BitVec.toNat_inj]
    show _ = (BitVec.ofNat 6 (bits _ 32 6)).toNat ↔ _
    rw [toNat_ofNat_bits]
    rfl
  simp only [Bool.or_eq_true, List.any_eq_true, Bool.and_eq_true, decide_eq_true_eq, beq_iff_eq, hcol, and_assoc]
  rfl

/-- The first refusal that VCREATE meets, in order (R91). -/
theorem vcreateError_cases (s : State) (c : HostCmd) :
    let e := vcreateError s c (leNat (c.payload.take 64)) (wantedVdev c) (wantedDesc c)
    let live : Prop := (vdevOf s (wantedVdev c)).live = true
    let invalid : Prop := (ownerDesc s (wantedDesc c).owner).valid = false
    (MalformedVdev c → e = 2#8) ∧ (¬MalformedVdev c → live → e = 6#8) ∧ (¬MalformedVdev c → ¬live → invalid → e = 8#8) ∧ (¬MalformedVdev c → ¬live → ¬invalid → TakenVdev s c → e = 9#8) ∧
      (¬MalformedVdev c → ¬live → ¬invalid → ¬TakenVdev s c → e = 0#8) := by
  have hmal := malformedVdev_iff c
  have hinv : (!(ownerDesc s (wantedDesc c).owner).valid) = true ↔ (ownerDesc s (wantedDesc c).owner).valid = false := by rw [Bool.not_eq_true']
  have htaken := takenVdev_iff s c
  dsimp only [vcreateError]
  refine ⟨fun h => if_pos (hmal.mpr h), fun h hl => ?_, fun h hl ho => ?_, fun h hl ho ht => ?_, fun h hl ho ht => ?_⟩
  · rw [if_neg (mt hmal.mp h), if_pos hl]
  · rw [if_neg (mt hmal.mp h), if_neg hl, if_pos (hinv.mpr ho)]
  · rw [if_neg (mt hmal.mp h), if_neg hl, if_neg (mt hinv.mp ho), if_pos (htaken.mpr ht)]
  · rw [if_neg (mt hmal.mp h), if_neg hl, if_neg (mt hinv.mp ho), if_neg (mt htaken.mp ht)]

theorem exec_hostVcreate {s : State} {c : HostCmd} (h : Passes s 0 c 14#8 true) : exec (.hostVcreate 0 c) s =
    if vcreateError s c (leNat (c.payload.take 64)) (wantedVdev c) (wantedDesc c) ≠ 0#8
    then answer 0 c (vcreateError s c (leNat (c.payload.take 64)) (wantedVdev c) (wantedDesc c)) (heardOf s 0 c)
    else answer 0 c 0#8 (createVdev (wantedVdev c) (wantedDesc c) (heardOf s 0 c)) := by
  show execHostVcreate 0 c s = _
  rw [execHostVcreate, command_passes h (by decide)]
  rfl

theorem vcreate_refused {s : State} {c : HostCmd} (h : Passes s 0 c 14#8 true) {e : BitVec 8} (he : vcreateError s c (leNat (c.payload.take 64)) (wantedVdev c) (wantedDesc c) = e) (hne : e ≠ 0#8) :
    ∃ t, exec (.hostVcreate 0 c) s = .next t ∧ OnlyEndpoint s t 0 ∧ Responds s t 0 c e 0#64 0#64 :=
  refused_heard h.1.1 (by rw [exec_hostVcreate h, he, if_pos hne])

/-- The virtual device that a payload describes, by the fields of R91. -/
theorem wantedDesc_eq (c : HostCmd) :
    let x := leNat (c.payload.take 64)
    wantedDesc c =
      { live := true, pword := BitVec.ofNat 13 (field x 48 13), wall := decide (field x 40 1 = 1), rclass := BitVec.ofNat 2 (field x 38 2), colour := BitVec.ofNat 6 (field x 32 6)
        owner := BitVec.ofNat 12 (field x 16 12), part := BitVec.ofNat 3 (field x 8 3), key := c.payload.drop 64, owners := [BitVec.ofNat 12 (field x 16 12)], vmeas := List.replicate 64 0#8 } := by
  dsimp only
  have hwall : bitAt (leNat (c.payload.take 64)) 40 = decide (field (leNat (c.payload.take 64)) 40 1 = 1) := by
    rw [Bool.eq_iff_iff, decide_eq_true_iff, bitAt_eq_true_iff]
    rfl
  rw [← hwall]
  rfl

theorem vdev_ne_default {d : Vdev} (h : d.live = true) : d ≠ {} := fun he => by
  have hdead : d.live = false := congrArg Vdev.live he
  rw [h] at hdead
  cases hdead

/-- The memory in which the queue table of virtual device `v` is empty (R79). -/
def tableCleared (v : Nat) (m : List Host.Cell) : List Host.Cell := clearSpan m ((Config.queueTable v).toNat * 2 ^ 14) (2 ^ 14)

theorem createVdev_eq (v : Nat) (d : Vdev) (s : State) : createVdev v d s = { setEndpoint (v + 1) { live := true } (setVdev v d s) with mem := tableCleared v s.mem } := by
  rw [createVdev, tableCleared]
  rfl

/-- A virtual device created: itself, its endpoint, and an empty queue table (R79, R91). -/
theorem createVdev_creates (s : State) (c : HostCmd) (v : Nat) {d : Vdev} (hd : d.live = true) :
    let t := respond 0 c 0#8 0#64 0#64 [] (createVdev v d (heardOf s 0 c))
    Responds s t 0 c 0#8 0#64 0#64 ∧ t.core = s.core ∧ endp t (v + 1) = { live := true } ∧ tabGet ({} : Vdev) t.hub.vdevs v = d ∧ t.mem = tableCleared v s.mem := by
  rw [createVdev_eq]
  exact ⟨rfl, rfl, endp_setEndpoint rfl _, tabGet_tabSet_ne (vdev_ne_default hd), rfl⟩

theorem getByte_tableCleared {m : List Host.Cell} (h : Memory.wf m = true) (v : Nat) {i : Nat} (hi : i < 2 ^ 14) :
    getByte (tableCleared v m) ((Config.queueTable v).toNat * 2 ^ 14 + i) = 0#8 :=
  getByte_clearSpan h (Nat.le_add_right _ _) (Nat.add_lt_add_left hi _)

/-! ### A VDESTROY (R92) -/

/-- A VDESTROY names no virtual device, or one with a queue. -/
def UndestroyableVdev (s : State) (c : HostCmd) : Prop :=
  63 < c.arg0.toNat ∨ (vdevOf s c.arg0.toNat).live = false ∨ ∃ q : BitVec 8, (queueOf s c.arg0.toNat q).st ≠ .none

theorem undestroyableVdev_iff (s : State) (c : HostCmd) :
    (63 < c.arg0.toNat ∨ (vdevOf s c.arg0.toNat).live = false ∨ ((List.range 256).any fun q => (queueOf s c.arg0.toNat (BitVec.ofNat 8 q)).st != .none) = true) ↔ UndestroyableVdev s c := by
  refine or_congr_right (or_congr_right ?_)
  rw [List.any_eq_true]
  constructor
  · rintro ⟨q, -, hq⟩
    exact ⟨_, bne_iff_ne.mp hq⟩
  · rintro ⟨q, hq⟩
    exact ⟨q.toNat, List.mem_range.mpr q.isLt, by rw [BitVec.ofNat_toNat, BitVec.setWidth_eq]; exact bne_iff_ne.mpr hq⟩

/-- The tasks of firmware with the removal of virtual device `v`, which answers the command at its end (R92). -/
def jobsRetiring (s : State) (v : Nat) (c : HostCmd) : List Job := if retiring s v then s.hub.jobs.map (alsoAnswers v 0 c) else s.hub.jobs ++ [.retire v [(0, c)] .writes]

theorem exec_hostVdestroy {s : State} {c : HostCmd} (h : Passes s 0 c 15#8 true) : exec (.hostVdestroy 0 c) s =
    if 63 < c.arg0.toNat ∨ (vdevOf s c.arg0.toNat).live = false ∨ ((List.range 256).any fun q => (queueOf s c.arg0.toNat (BitVec.ofNat 8 q)).st != .none) = true
    then answer 0 c 6#8 (heardOf s 0 c)
    else .next (setHub (setEndpoint (c.arg0.toNat + 1) {} (heardOf s 0 c)) { (setEndpoint (c.arg0.toNat + 1) {} (heardOf s 0 c)).hub with jobs := jobsRetiring s c.arg0.toNat c }) := by
  show execHostVdestroy 0 c s = _
  rw [execHostVdestroy, command_passes h (by decide)]
  rfl

theorem retiring_iff (s : State) (v : Nat) : retiring s v = true ↔ ∃ cs st, Job.retire v cs st ∈ s.hub.jobs := by
  rw [retiring, List.any_eq_true]
  constructor
  · rintro ⟨j, hj, hv⟩
    cases j with
    | retire w cs st =>
      obtain rfl := beq_iff_eq.mp hv
      exact ⟨cs, st, hj⟩
    | reset => cases hv
    | enrol => cases hv
  · rintro ⟨cs, st, hj⟩
    exact ⟨_, hj, beq_self_eq_true v⟩

/-- Closing the endpoint of virtual device `w` leaves every other but the operator endpoint, whose session has been heard of (R74, R92). -/
theorem endp_endpointClosed {s : State} {c : HostCmd} (hlive : (endp s 0).live = true) (hwf : tabWf {} s.hub.eps = true) (w : Nat) :
    let t := setEndpoint (w + 1) {} (heardOf s 0 c)
    endp t (w + 1) = {} ∧ ∀ e, e ≠ 0 → e ≠ w + 1 → endp t e = endp s e :=
  ⟨tabGet_tabSet_same (tabSet_wf hwf), fun _ he hw => (tabGet_tabSet_other (tabSet_wf hwf) hw).trans (endp_heardOf_other hlive he)⟩

/-- The last step of a removal: key slots, the virtual device, and the responses (R92 step 4). -/
theorem finishDestroy_removes {s : State} (w : Nat) (cs : List (Nat × HostCmd)) (hwf : tabWf {} s.hub.vdevs = true) :
    let t := finishDestroy w cs s
    t.hub.out = s.hub.out ++ cs.map (fun x => response x.1 x.2 0#8 0#64 0#64 []) ∧ tabGet ({} : Vdev) t.hub.vdevs w = {} ∧ (∀ e ∈ t.hub.keys, ∀ k, e.2 ≠ some (k, w)) ∧
      (∀ u, u ≠ w → tabGet ({} : Vdev) t.hub.vdevs u = tabGet {} s.hub.vdevs u) := by
  rw [finishDestroy, foldl_respond]
  refine ⟨rfl, tabGet_tabSet_same hwf, fun e he k hk => ?_, fun u hu => tabGet_tabSet_other hwf hu⟩
  have hkept := (List.mem_filter.mp he).2
  rw [hk] at hkept
  exact absurd hkept (by simp)

/-! ### The statement about virtual devices -/

theorem virtualDevices : VirtualDevices := by
  intro s c
  refine ⟨fun hpass => ?_, fun hpass => ⟨fun hbad => ?_, fun hgood hwf => ?_⟩, fun w cs _ hwf => ⟨_, rfl, finishDestroy_removes w cs hwf⟩⟩
  · obtain ⟨hmal, hlive, howner, htaken, hok⟩ := vcreateError_cases s c
    refine ⟨fun h => vcreate_refused hpass (hmal h) (by decide), fun h hl => vcreate_refused hpass (hlive h hl) (by decide), fun h hl ho => ?_, fun h hl ho ht => ?_, fun h hl ho ht => ?_⟩
    · exact vcreate_refused hpass (howner h hl ho) (by decide)
    · exact vcreate_refused hpass (htaken h hl ho ht) (by decide)
    · have hexec : exec (.hostVcreate 0 c) s = answer 0 c 0#8 (createVdev (wantedVdev c) (wantedDesc c) (heardOf s 0 c)) := by
        rw [exec_hostVcreate hpass, hok h hl ho ht, if_neg (by decide)]
      obtain ⟨hresp, hcore, hend, hvdev, hmem⟩ := createVdev_creates s c (wantedVdev c) (d := wantedDesc c) rfl
      exact ⟨_, hexec, hresp, hcore, hend, hvdev.trans (wantedDesc_eq c), fun hm i hi => (congrArg (getByte · _) hmem).trans (getByte_tableCleared hm _ hi)⟩
  · exact refused_heard hpass.1.1 ((exec_hostVdestroy hpass).trans (if_pos ((undestroyableVdev_iff s c).mpr hbad)))
  · obtain ⟨hclosed, hothers⟩ := endp_endpointClosed (c := c) hpass.1.1 hwf c.arg0.toNat
    refine ⟨_, (exec_hostVdestroy hpass).trans (if_neg (mt (undestroyableVdev_iff s c).mp hgood)), hclosed, hothers, rfl, fun hno => ?_, fun hyes => ?_⟩
    · exact if_neg (mt (retiring_iff s _).mp (by rintro ⟨cs, st, hj⟩; exact hno cs st hj))
    · refine (if_pos ((retiring_iff s _).mpr hyes)).trans (List.map_congr_left fun j _ => ?_)
      cases j with
      | retire v cs st =>
        show (if v = _ then _ else _) = if v = _ then _ else _
        rfl
      | reset => rfl
      | enrol => rfl

end Sys2Proof.Proofs
end

section
/-! RMA and packets of other kinds: one byte through the rights, the tables and the host, and what is answered (R72, R73). -/

namespace Sys2Proof.Proofs
open Sys2Proof Sys2Proof.Machine Sys2Proof.Claim

/-! ### Where a byte of an RMA lies (R58, R73, R273) -/

/-- The right that a byte of an RMA needs. -/
def rmaRight (write : Bool) : Right := if write then .W else .I

section
variable {s : State} {o : BitVec 12} {a : Nat} {write : Bool}

theorem rmaByte_outside (hheap : place true a ≠ .heap) (hbad : place true a ≠ .bad) : rmaByte o a write s = .error .protection := by
  rw [rmaByte]
  split
  · contradiction
  · contradiction
  · rfl

variable (hheap : place true a = .heap)
include hheap

theorem rmaByte_refused {r : Refuse} (h : agentCheck s o true a (rmaRight write) = .error r) : rmaByte o a write s = .error r := by
  rw [rmaRight] at h
  rw [rmaByte, hheap]
  dsimp only
  rw [h]

theorem reach_heap : reach s 0 a = if hostRefuses s a then .error .translation else locate s 0 a := by
  have hplace : place (isCompute 0) a = .heap := hheap
  rw [reach, hplace]

theorem locate_unmapped (h : walk s a = none) : locate s 0 a = .error .translation := by
  have hplace : place (isCompute 0) a = .heap := hheap
  rw [locate, hplace, h]

/-- The host refuses the page, or the tables do not map it: either is a translation fault. -/
theorem rmaByte_untranslated {g : Stamp} (hg : agentCheck s o true a (rmaRight write) = .ok g) (h : hostRefuses s a = true ∨ walk s a = none) :
    rmaByte o a write s = .error .translation := by
  have hreach : reach s 0 a = .error .translation := by
    rw [reach_heap hheap]
    obtain h | h := h
    · rw [if_pos h]
    · rw [locate_unmapped hheap h, ite_self]
  rw [rmaRight] at hg
  rw [rmaByte, hheap]
  dsimp only
  rw [hg, hreach]

/-- The access of an RMA to the storage key `k`: its read is an acquire at .sys (R314). -/
def rmaAccess (k : Nat) (write : Bool) : OpenAccess := { engineAccess rmaAgent hostUnit k write with sync := if write then none else some 6#3 }

/-- Where the detector knows no access, the byte is reached. -/
theorem rmaByte_reached {g : Stamp} {k : Nat} (hraces : s.races = []) (hg : agentCheck s o true a (rmaRight write) = .ok g) (hhost : hostRefuses s a = false) (hk : locate s 0 a = .ok k) :
    rmaByte o a write s = .ok (k, touchPage write a { s with races := [rmaAccess k write] }) := by
  have hreach : reach s 0 a = .ok k := by rw [reach_heap hheap, hhost, hk]; rfl
  have hrecord : recordAccess (rmaAccess k write) s = some { s with races := [rmaAccess k write] } := by
    rw [recordAccess, addAccess, hraces]
    rfl
  rw [rmaRight] at hg
  rw [rmaByte, hheap]
  dsimp only
  rw [hg, hreach]
  dsimp only
  rw [rmaAccess] at hrecord
  rw [hrecord]
  rfl

end

/-! ### What an RMA answers (R72, R73) -/

section
variable {s : State} {ep : Nat} {n : Nat} {k : BitVec 12 → State → State}

theorem rma_away (h : (endp s ep).live = false) : rma ep n s k = .next s := if_pos (by rw [endpointOf]; simpa [endp] using h)

theorem rma_unsupported (h : (endp s ep).live = true) (hn : ep = 0 ∨ 64 * 2 ^ 20 < n) : rma ep n s k = .next (emit (.rmaError ep 0#8) s) := by
  have hgo : ¬(!(endpointOf s ep).live) = true := by rw [endpointOf]; simpa [endp] using h
  rw [rma, if_neg hgo, if_pos hn]

theorem rma_goes (h : (endp s ep).live = true) (hep : ep ≠ 0) (hn : n ≤ 64 * 2 ^ 20) : rma ep n s k = .next (endRegion rmaAgent (k (endpointOwner s ep) s)) := by
  have hgo : ¬(!(endpointOf s ep).live) = true := by rw [endpointOf]; simpa [endp] using h
  rw [rma, if_neg hgo, if_neg (not_or.mpr ⟨hep, Nat.not_lt.mpr hn⟩)]

end

/-- The detector knows no access after the region of an agent's only access has ended. -/
theorem endRegion_only {s : State} {a : OpenAccess} (hearly : a.early = false) (h : s.races = [a]) : (endRegion a.agent s).races = [] := by
  show keptFrom (overtook s) (s.races.map _) = []
  rw [h, List.map_singleton, if_pos rfl, keptFrom, overtook]
  simp [hearly, keptFrom]

/-- Where a byte of an RMA has been reached: of the state only memory, the lock of the table registers and the detector's accesses have changed. -/
def reachedAt (a k : Nat) (write : Bool) (s : State) : State := touchPage write a { s with races := [rmaAccess k write] }

theorem reachedAt_form (a k : Nat) (write : Bool) (s : State) :
    ∃ m l, reachedAt a k write s = { s with mem := m, races := [rmaAccess k write], hub := { s.hub with rights := { s.hub.rights with locked := l } } } :=
  touchPage_touched write a { s with races := [rmaAccess k write] }

theorem reachedAt_wf {s : State} (h : Memory.wf s.mem = true) (a k : Nat) (write : Bool) : Memory.wf (reachedAt a k write s).mem = true :=
  touchPage_wf (s := { s with races := [rmaAccess k write] }) h write a

theorem exec_rmaWrite (ep : Nat) (va : BitVec 64) (bs : List Byte) (s : State) : exec (.rmaWrite ep va bs) s = execRmaWrite ep va bs s := rfl
theorem exec_rmaRead (ep : Nat) (va : BitVec 64) (n : Nat) (s : State) : exec (.rmaRead ep va n) s = execRmaRead ep va n s := rfl

/-- A refusal answered: no byte of memory has changed. -/
theorem refusal_leaves (s : State) (a : Nat) (o : HostOut) :
    (endRegion rmaAgent (emit o (lockHeap a s))).hub.out = s.hub.out ++ [o] ∧ (endRegion rmaAgent (emit o (lockHeap a s))).mem = s.mem := by
  refine ⟨?_, lockHeap_mem a s⟩
  obtain ⟨-, -, hout⟩ := (lockHeap_touched a s).granted
  exact congrArg (· ++ [o]) hout

section
variable {s : State} {ep : Nat} (hlive : (endp s ep).live = true) (hep : ep ≠ 0) {va : BitVec 64}
include hlive hep

theorem exec_rmaWrite_refused {b : Byte} {r : Refuse} (h : rmaByte (endpointOwner s ep) va.toNat true s = .error r) :
    exec (.rmaWrite ep va [b]) s = .next (endRegion rmaAgent (emit (.rmaError ep (causeOf r)) (lockHeap va.toNat s))) := by
  rw [exec_rmaWrite, execRmaWrite, rma_goes hlive hep (by rw [List.length_singleton]; decide), rmaPut, h]

theorem exec_rmaRead_refused {r : Refuse} (h : rmaByte (endpointOwner s ep) va.toNat false s = .error r) :
    exec (.rmaRead ep va 1) s = .next (endRegion rmaAgent (emit (.rmaError ep (causeOf r)) (lockHeap va.toNat s))) := by
  rw [exec_rmaRead, execRmaRead, rma_goes hlive hep (by decide), rmaGet, h]

theorem exec_rmaWrite_done {b : Byte} {k : Nat} {u : State} (h : rmaByte (endpointOwner s ep) va.toNat true s = .ok (k, u)) :
    exec (.rmaWrite ep va [b]) s = .next (endRegion rmaAgent (emit (.rmaDone ep []) { u with mem := setByte u.mem k b })) := by
  rw [exec_rmaWrite, execRmaWrite, rma_goes hlive hep (by rw [List.length_singleton]; decide), rmaPut, h]
  rfl

theorem exec_rmaRead_done {k : Nat} {u : State} (h : rmaByte (endpointOwner s ep) va.toNat false s = .ok (k, u)) :
    exec (.rmaRead ep va 1) s = .next (endRegion rmaAgent (emit (.rmaDone ep [getByte s.mem k]) u)) := by
  rw [exec_rmaRead, execRmaRead, rma_goes hlive hep (by decide), rmaGet, h]
  rfl

theorem rmaWrite_refused {b : Byte} {r : Refuse} (h : rmaByte (endpointOwner s ep) va.toNat true s = .error r) :
    ∃ t, exec (.rmaWrite ep va [b]) s = .next t ∧ t.hub.out = s.hub.out ++ [.rmaError ep (causeOf r)] ∧ t.mem = s.mem :=
  ⟨_, exec_rmaWrite_refused hlive hep h, refusal_leaves ..⟩

theorem rmaRead_refused {r : Refuse} (h : rmaByte (endpointOwner s ep) va.toNat false s = .error r) :
    ∃ t, exec (.rmaRead ep va 1) s = .next t ∧ t.hub.out = s.hub.out ++ [.rmaError ep (causeOf r)] ∧ t.mem = s.mem :=
  ⟨_, exec_rmaRead_refused hlive hep h, refusal_leaves ..⟩

theorem rmaWrite_done {b : Byte} {k : Nat} (hm : Memory.wf s.mem = true) (h : rmaByte (endpointOwner s ep) va.toNat true s = .ok (k, reachedAt va.toNat k true s)) :
    ∃ t, exec (.rmaWrite ep va [b]) s = .next t ∧ t.hub.out = s.hub.out ++ [.rmaDone ep []] ∧ getByte t.mem k = b ∧ t.core = s.core ∧ t.races = [] := by
  have hwf := reachedAt_wf hm va.toNat k true
  have hexec := exec_rmaWrite_done hlive hep (b := b) h
  obtain ⟨m, l, hform⟩ := reachedAt_form va.toNat k true s
  rw [hform] at hexec hwf
  exact ⟨_, hexec, rfl, getByte_setByte_same hwf, rfl, endRegion_only (a := rmaAccess k true) rfl rfl⟩

theorem rmaRead_done {k : Nat} (h : rmaByte (endpointOwner s ep) va.toNat false s = .ok (k, reachedAt va.toNat k false s)) :
    ∃ t, exec (.rmaRead ep va 1) s = .next t ∧ t.hub.out = s.hub.out ++ [.rmaDone ep [getByte s.mem k]] ∧ t.core = s.core ∧ t.races = [] := by
  have hexec := exec_rmaRead_done hlive hep h
  obtain ⟨m, l, hform⟩ := reachedAt_form va.toNat k false s
  rw [hform] at hexec
  exact ⟨_, hexec, rfl, rfl, endRegion_only (a := rmaAccess k false) rfl rfl⟩

end

/-! ### The statement about remote memory -/

theorem remoteMemory : RemoteMemory := by
  intro s ep va b bs n
  refine ⟨fun hdead => ⟨?_, ?_⟩, fun hlive => ⟨fun hn => ?_, fun hn => ?_, fun hep => ?_⟩, rfl, rfl, rfl, rfl⟩
  · rw [exec_rmaWrite, execRmaWrite, rma_away hdead]
  · rw [exec_rmaRead, execRmaRead, rma_away hdead]
  · exact (exec_rmaWrite ep va bs s).trans (rma_unsupported hlive hn)
  · exact (exec_rmaRead ep va n s).trans (rma_unsupported hlive hn)
  refine ⟨fun hheap hbad => ?_, fun r hheap hr => ?_, fun r hheap hr => ?_, fun g hheap hmap => ⟨fun hg => ?_, fun hg => ?_⟩, fun g k hm hraces hheap hg hhost hk => ?_,
    fun g k _ hraces hheap hg hhost hk => ?_⟩
  · obtain ⟨t, hwrite, htout, htmem⟩ := rmaWrite_refused hlive hep (b := b) (rmaByte_outside hheap hbad)
    obtain ⟨u, hread, huout, humem⟩ := rmaRead_refused hlive hep (rmaByte_outside hheap hbad)
    exact ⟨t, u, hwrite, htout, htmem, hread, huout, humem⟩
  · exact rmaWrite_refused hlive hep (rmaByte_refused hheap hr)
  · exact rmaRead_refused hlive hep (rmaByte_refused hheap hr)
  · exact rmaWrite_refused hlive hep (rmaByte_untranslated hheap hg hmap)
  · exact rmaRead_refused hlive hep (rmaByte_untranslated hheap hg hmap)
  · exact rmaWrite_done hlive hep hm (rmaByte_reached hheap hraces hg hhost hk)
  · exact rmaRead_done hlive hep (rmaByte_reached hheap hraces hg hhost hk)

/-- Settles O50: keys and evidence by the bytes of the record, virtual devices by the refusals in order and what each command leaves, remote memory by where one byte is found to lie. -/
theorem hostServices : Obligations.HostServices := ⟨keysAndEvidence, virtualDevices, remoteMemory⟩

end Sys2Proof.Proofs
end
